-- ==== Sys2Proof/Word.lean ====
section
/-! DEFINITION. The word types of the YT1280 and the plain containers every file uses. -/

namespace Sys2Proof

/-- A byte (R10: multi-byte values are little-endian strings of these). -/
abbrev Byte := BitVec 8
/-- A 32-bit word: sequencer registers, instruction words, descriptor words, fp32 bit patterns. -/
abbrev Word := BitVec 32
/-- A 64-bit word: counters, doorbells, stamps. -/
abbrev DWord := BitVec 64
/-- A string of bytes in ascending address. -/
abbrev Bytes := List Byte
/-- A path word (R22): die 15:14, cluster 13:10, tile 9:4, 3:0 zero. -/
abbrev Path := BitVec 16
/-- The number of a sequencer register, vector register or mask (R47). -/
abbrev Reg := BitVec 5
/-- A port code (R229): axis 3:2, sign 1, index 0. -/
abbrev PortCode := BitVec 4
/-- An address in the 1 MiB unit window space (R32). -/
abbrev WinAddr := BitVec 20
/-- A session number (R435): 1 to 32, or 0 for an anonymous writer. -/
abbrev Ses := BitVec 16
/-- A map with natural-number keys: strictly rising keys, no entry equal to the map's default value. -/
abbrev SMap (α : Type) := List (Nat × α)

end Sys2Proof
end

