-- ==== Sys2Proof/Syntax.lean ====
section
/-! DEFINITION. The commands and events of the YT1280: one constructor per row of the opcode table, in its order. -/

namespace Sys2Proof

/-- Where an AOA frame comes from (R437, R444): the management port, with the sender's MAC address, or the PCIe mirror. -/
inductive Source where
  | port (mac : BitVec 48)
  | mirror
  deriving DecidableEq, Repr

/-- A request to one 512-byte line of tier memory (R176, R177): a read of some bytes, or a whole or partial write. -/
inductive LineRequest where
  | read (len : Nat)
  | write (data : Bytes)
  deriving DecidableEq, Repr

/-- The protected datapath or store in which a parity or ECC error shows (R354 and the event tables of the chapters). -/
inductive ParitySite where
  | localStore (t : Path) (addr : BitVec 32)
  | array (t : Path)
  | vector (t : Path)
  | codec (t : Path)
  /-- The expander's next block comes out wrong at its first decode (R200): the bits of its first byte that are inverted. -/
  | expander (t : Path) (flip : Byte)
  | tierMemory (pa : BitVec 44)
  | packageNet (src dst : BitVec 3)
  | link (p : PortCode)
  | shuttle (die : BitVec 2)
  | shuttleResidue (die : BitVec 2) (gid seq : BitVec 16) (opk : BitVec 8)
  | engineResidue (die : BitVec 2) (top : BitVec 8) (opk : BitVec 8)
  /-- Binding state, headers, receipts or the outing datapath of a die's engine, at work on an outing of a group. -/
  | outing (die : BitVec 2) (gid : BitVec 16) (outno : BitVec 32)
  | training (die : BitVec 2)
  | hamper
  | counter
  | followerLag (die : BitVec 2)
  | checker (k : BitVec 6)
  | cipher
  deriving DecidableEq, Repr

/-- How a cluster's start-up test ends (R464, R465): passed, or failed at a stage on a tile. -/
inductive SelfTest where
  | pass
  | fail (tile : BitVec 6) (stage : BitVec 8)
  deriving DecidableEq, Repr

/-- A part of a sequencer's state beside its registers (R43, R44, R18). -/
inductive SeqPart where
  | pc | mode | evbase | stkLo | stkHi | fireBase
  | lcount (n : BitVec 2)
  | loop (n : BitVec 2)
  | ticket (n : BitVec 4)
  /-- Commands in the command, load and store queue, read only. -/
  | queued
  deriving DecidableEq, Repr

/-- An access that arrives on J3 (R429). -/
inductive DebugOp where
  | idcode
  | bypass
  | samplePreload
  | extest
  | internalScan
  | readReg (t : Path) (r : Reg)
  | writeReg (t : Path) (r : Reg) (value : Word)
  | readStore (t : Path) (addr : BitVec 21) (len : Nat)
  | writeStore (t : Path) (addr : BitVec 21) (data : Bytes)
  | readWindow (t : Path)
  | readSeq (t : Path) (part : SeqPart)
  | writeSeq (t : Path) (part : SeqPart) (value : Word)
  | readMemory (pa : BitVec 44) (len : Nat)
  | writeMemory (pa : BitVec 44) (data : Bytes)
  | readObject (idx : BitVec 16) (sub : BitVec 8)
  | writeObject (idx : BitVec 16) (sub : BitVec 8) (value : Bytes)
  deriving DecidableEq, Repr

/-- The commands. Each docstring is the opcode table's line and its rule. -/
inductive Instr where
  /-- DOORBELL_NOP (R19). A NOP doorbell only advances DB_SEQ of the window written. -/
  | doorbellNop (win : WinAddr) (ctx : BitVec 12) (rsv : BitVec 4) (arg : BitVec 40)
  /-- START (R19). A START doorbell begins execution of every member tile at the given entry point in decoupled mode. -/
  | start (win : WinAddr) (ctx : BitVec 12) (rsv : BitVec 4) (arg : BitVec 40)
  /-- STOP (R19). A STOP doorbell stops member tiles at the next instruction boundary while queued operations complete. -/
  | stop (win : WinAddr) (ctx : BitVec 12) (rsv : BitVec 4) (arg : BitVec 40)
  /-- RESUME (R19). A RESUME doorbell returns stopped tiles to the state they held when stopped. -/
  | resume (win : WinAddr) (ctx : BitVec 12) (rsv : BitVec 4) (arg : BitVec 40)
  /-- CLEAR_FAULT (R19). A CLEAR_FAULT doorbell clears partition-fault state and fault fields, turning STATE 4 tiles into STATE 2. -/
  | clearFault (win : WinAddr) (ctx : BitVec 12) (rsv : BitVec 4) (arg : BitVec 40)
  /-- RESET_TICKETS (R19). A RESET_TICKETS doorbell sets the selected ticket counters of the members to 0. -/
  | resetTickets (win : WinAddr) (ctx : BitVec 12) (rsv : BitVec 4) (arg : BitVec 40)
  /-- SET_FIRING (R74). A SET_FIRING doorbell enters or leaves dataflow firing mode at the next instruction boundary. -/
  | setFiring (win : WinAddr) (ctx : BitVec 12) (rsv : BitVec 4) (arg : BitVec 40)
  /-- ADD (R48). ALU.R ADD writes ra plus rb modulo 2^32 to rd. -/
  | add (t : Path) (v : Bool) (rd ra rb : Reg)
  /-- SUB (R48). ALU.R SUB writes ra minus rb modulo 2^32 to rd. -/
  | sub (t : Path) (v : Bool) (rd ra rb : Reg)
  /-- AND (R48). ALU.R AND writes the bitwise and of ra and rb. -/
  | and (t : Path) (v : Bool) (rd ra rb : Reg)
  /-- OR (R48). ALU.R OR writes the bitwise or of ra and rb. -/
  | or (t : Path) (v : Bool) (rd ra rb : Reg)
  /-- XOR (R48). ALU.R XOR writes the bitwise exclusive or of ra and rb. -/
  | xor (t : Path) (v : Bool) (rd ra rb : Reg)
  /-- SLL (R48). ALU.R SLL shifts ra left by rb bits 4:0. -/
  | sll (t : Path) (v : Bool) (rd ra rb : Reg)
  /-- SRL (R48). ALU.R SRL shifts ra right logically by rb bits 4:0. -/
  | srl (t : Path) (v : Bool) (rd ra rb : Reg)
  /-- SRA (R48). ALU.R SRA shifts ra right arithmetically by rb bits 4:0. -/
  | sra (t : Path) (v : Bool) (rd ra rb : Reg)
  /-- SLT (R48). ALU.R SLT writes 1 when ra is less than rb as signed numbers. -/
  | slt (t : Path) (v : Bool) (rd ra rb : Reg)
  /-- SLTU (R48). ALU.R SLTU writes 1 when ra is less than rb as unsigned numbers. -/
  | sltu (t : Path) (v : Bool) (rd ra rb : Reg)
  /-- MUL (R48). ALU.R MUL writes the low 32 bits of the product. -/
  | mul (t : Path) (v : Bool) (rd ra rb : Reg)
  /-- MULHU (R48). ALU.R MULHU writes the high 32 bits of the unsigned product. -/
  | mulhu (t : Path) (v : Bool) (rd ra rb : Reg)
  /-- MIN (R48). ALU.R MIN writes the signed minimum of ra and rb. -/
  | min (t : Path) (v : Bool) (rd ra rb : Reg)
  /-- MAX (R48). ALU.R MAX writes the signed maximum of ra and rb. -/
  | max (t : Path) (v : Bool) (rd ra rb : Reg)
  /-- MINU (R48). ALU.R MINU writes the unsigned minimum of ra and rb. -/
  | minu (t : Path) (v : Bool) (rd ra rb : Reg)
  /-- MAXU (R48). ALU.R MAXU writes the unsigned maximum of ra and rb. -/
  | maxu (t : Path) (v : Bool) (rd ra rb : Reg)
  /-- ADDI (R48). ALU.I ADDI adds the sign-extended IMM14 to ra. -/
  | addi (t : Path) (v : Bool) (rd ra : Reg) (imm : BitVec 14)
  /-- ANDI (R48). ALU.I ANDI ands ra with the zero-extended IMM14. -/
  | andi (t : Path) (v : Bool) (rd ra : Reg) (imm : BitVec 14)
  /-- ORI (R48). ALU.I ORI ors ra with the zero-extended IMM14. -/
  | ori (t : Path) (v : Bool) (rd ra : Reg) (imm : BitVec 14)
  /-- SLTI (R48). ALU.I SLTI compares ra with the sign-extended IMM14. -/
  | slti (t : Path) (v : Bool) (rd ra : Reg) (imm : BitVec 14)
  /-- SLLI (R48). ALU.I SLLI shifts ra left by IMM14 bits 4:0. -/
  | slli (t : Path) (v : Bool) (rd ra : Reg) (sh : BitVec 5)
  /-- SRLI (R48). ALU.I SRLI shifts ra right logically by IMM14 bits 4:0. -/
  | srli (t : Path) (v : Bool) (rd ra : Reg) (sh : BitVec 5)
  /-- SRAI (R48). ALU.I SRAI shifts ra right arithmetically by IMM14 bits 4:0. -/
  | srai (t : Path) (v : Bool) (rd ra : Reg) (sh : BitVec 5)
  /-- LUI (R48). LUI writes IMM18 shifted left by 14 to rd. -/
  | lui (t : Path) (v : Bool) (rd : Reg) (imm : BitVec 18)
  /-- LW (R49). LW loads an aligned 32-bit word from local store. -/
  | lw (t : Path) (v : Bool) (rt base : Reg) (off : BitVec 15)
  /-- SW (R49). SW stores an aligned 32-bit word to local store. -/
  | sw (t : Path) (v : Bool) (rt base : Reg) (off : BitVec 15)
  /-- LHU (R49). LHU loads an aligned halfword zero-extended. -/
  | lhu (t : Path) (v : Bool) (rt base : Reg) (off : BitVec 15)
  /-- SH (R49). SH stores an aligned halfword. -/
  | sh (t : Path) (v : Bool) (rt base : Reg) (off : BitVec 15)
  /-- BR_EQ (R54). Branch if equal, with one delay slot. -/
  | brEq (t : Path) (v : Bool) (ra rb : Reg) (off : BitVec 14)
  /-- BR_NE (R54). Branch if not equal, with one delay slot. -/
  | brNe (t : Path) (v : Bool) (ra rb : Reg) (off : BitVec 14)
  /-- BR_LT (R54). Branch if signed less than, with one delay slot. -/
  | brLt (t : Path) (v : Bool) (ra rb : Reg) (off : BitVec 14)
  /-- BR_GE (R54). Branch if signed greater or equal, with one delay slot. -/
  | brGe (t : Path) (v : Bool) (ra rb : Reg) (off : BitVec 14)
  /-- BR_LTU (R54). Branch if unsigned less than, with one delay slot. -/
  | brLtu (t : Path) (v : Bool) (ra rb : Reg) (off : BitVec 14)
  /-- BR_GEU (R54). Branch if unsigned greater or equal, with one delay slot. -/
  | brGeu (t : Path) (v : Bool) (ra rb : Reg) (off : BitVec 14)
  /-- J (R50). J jumps to a PC-relative target after its delay slot. -/
  | j (t : Path) (v : Bool) (off : BitVec 25)
  /-- JAL (R50). JAL jumps PC-relative and writes the return address to s31. -/
  | jal (t : Path) (v : Bool) (off : BitVec 25)
  /-- JR (R50). JR jumps to the address in ra. -/
  | jr (t : Path) (v : Bool) (ra : Reg)
  /-- JALR (R50). JALR jumps to ra and writes the return address to s31. -/
  | jalr (t : Path) (v : Bool) (ra : Reg)
  /-- LOOP (R60). LOOP starts a hardware loop level with an immediate or register count. -/
  | loop (t : Path) (v : Bool) (level : BitVec 2) (i : Bool) (len count : BitVec 12)
  /-- ISSUE (R69). ISSUE checks a descriptor header and places the command in its queue or raises DESC_REFUSED. -/
  | issue (t : Path) (v : Bool) (rdesc : Reg)
  /-- TWAIT (R51). TWAIT stalls until a ticket reaches the value in a register. -/
  | twait (t : Path) (v : Bool) (tk : BitVec 4) (rx : Reg) (imm : BitVec 15)
  /-- TWAITI (R51). TWAITI stalls until a ticket reaches IMM15. -/
  | twaiti (t : Path) (v : Bool) (tk : BitVec 4) (rx : Reg) (imm : BitVec 15)
  /-- TADV (R51). TADV adds IMM15 to a ticket when it retires. -/
  | tadv (t : Path) (v : Bool) (tk : BitVec 4) (rx : Reg) (imm : BitVec 15)
  /-- TREAD (R51). TREAD writes a ticket value to a register and must carry the V mark. -/
  | tread (t : Path) (v : Bool) (tk : BitVec 4) (rx : Reg) (imm : BitVec 15)
  /-- MFC (R43). MFC reads a control register into a sequencer register. -/
  | mfc (t : Path) (v : Bool) (rx : Reg) (cr : BitVec 6)
  /-- MTC (R59). MTC writes a control register, opening a mode shadow when it writes MODE. -/
  | mtc (t : Path) (v : Bool) (rx : Reg) (cr : BitVec 6)
  /-- NOP (R52). The system NOP does nothing. -/
  | nop (t : Path) (v : Bool) (imm : BitVec 16)
  /-- TRAP (R52). TRAP raises the TRAP exception with IMM16 in DETAIL. -/
  | trap (t : Path) (v : Bool) (imm : BitVec 16)
  /-- ERET (R82). ERET restores state from the frame at s30 and continues at EPC, or raises ERET_BAD. -/
  | eret (t : Path) (v : Bool) (imm : BitVec 16)
  /-- HALT (R52). HALT waits until every issued command completes and then sets the tile idle. -/
  | halt (t : Path) (v : Bool) (imm : BitVec 16)
  /-- FENCE (R52). FENCE stalls until every earlier command of the tile has completed. -/
  | fence (t : Path) (v : Bool) (imm : BitVec 16)
  /-- FAULT (R52). FAULT raises partition fault 0x82F0 plus IMM16 bits 3:0 and stops the tile. -/
  | faultInsn (t : Path) (v : Bool) (imm : BitVec 16)
  /-- EXCEPTION_ENTRY (R79). After older instructions retire, the sequencer pushes a frame and continues at EVBASE. -/
  | exceptionEntry (t : Path)
  /-- COMMAND_COMPLETE (R70). A command completes and adds 1 to its SIGT ticket when SIG is set. -/
  | commandComplete (t : Path) (k : Nat)
  /-- FIRE_ITEM (R75). In firing mode the lowest-indexed ready item fires, issuing its descriptor. -/
  | fireItem (t : Path)
  /-- VADD_F (R141). Vector fp32 add on active lanes. -/
  | vaddF (t : Path) (v : Bool) (vd va vb : Reg) (m : BitVec 3)
  /-- VSUB_F (R141). Vector fp32 subtract on active lanes. -/
  | vsubF (t : Path) (v : Bool) (vd va vb : Reg) (m : BitVec 3)
  /-- VMUL_F (R141). Vector fp32 multiply on active lanes. -/
  | vmulF (t : Path) (v : Bool) (vd va vb : Reg) (m : BitVec 3)
  /-- VFMA_F (R141). Vector fp32 fused multiply-add on active lanes. -/
  | vfmaF (t : Path) (v : Bool) (vd va vb : Reg) (m : BitVec 3)
  /-- VMIN_F (R141). Vector fp32 minimum on active lanes. -/
  | vminF (t : Path) (v : Bool) (vd va vb : Reg) (m : BitVec 3)
  /-- VMAX_F (R141). Vector fp32 maximum on active lanes. -/
  | vmaxF (t : Path) (v : Bool) (vd va vb : Reg) (m : BitVec 3)
  /-- VCLT_F (R141). Vector fp32 less-than comparison into a mask. -/
  | vcltF (t : Path) (v : Bool) (vd va vb : Reg) (m : BitVec 3)
  /-- VCLE_F (R141). Vector fp32 less-or-equal comparison into a mask. -/
  | vcleF (t : Path) (v : Bool) (vd va vb : Reg) (m : BitVec 3)
  /-- VCEQ_F (R141). Vector fp32 equality comparison into a mask. -/
  | vceqF (t : Path) (v : Bool) (vd va vb : Reg) (m : BitVec 3)
  /-- VCLASS_F (R141). Vector classification of fp32 values into a mask. -/
  | vclassF (t : Path) (v : Bool) (vd va vb : Reg) (m : BitVec 3)
  /-- VADD_H (R141). Vector bf16-pair add. -/
  | vaddH (t : Path) (v : Bool) (vd va vb : Reg) (m : BitVec 3)
  /-- VSUB_H (R141). Vector bf16-pair subtract. -/
  | vsubH (t : Path) (v : Bool) (vd va vb : Reg) (m : BitVec 3)
  /-- VMUL_H (R141). Vector bf16-pair multiply. -/
  | vmulH (t : Path) (v : Bool) (vd va vb : Reg) (m : BitVec 3)
  /-- VFMA_H (R141). Vector bf16-pair fused multiply-add. -/
  | vfmaH (t : Path) (v : Bool) (vd va vb : Reg) (m : BitVec 3)
  /-- VMIN_H (R141). Vector bf16-pair minimum. -/
  | vminH (t : Path) (v : Bool) (vd va vb : Reg) (m : BitVec 3)
  /-- VMAX_H (R141). Vector bf16-pair maximum. -/
  | vmaxH (t : Path) (v : Bool) (vd va vb : Reg) (m : BitVec 3)
  /-- VADD_I (R139). Vector integer add, wrapping or saturating by MODE.SAT. -/
  | vaddI (t : Path) (v : Bool) (vd va vb : Reg) (m : BitVec 3)
  /-- VSUB_I (R139). Vector integer subtract, wrapping or saturating by MODE.SAT. -/
  | vsubI (t : Path) (v : Bool) (vd va vb : Reg) (m : BitVec 3)
  /-- VMUL_I (R139). Vector integer multiply, wrapping or saturating by MODE.SAT. -/
  | vmulI (t : Path) (v : Bool) (vd va vb : Reg) (m : BitVec 3)
  /-- VMIN_I (R141). Vector signed integer minimum. -/
  | vminI (t : Path) (v : Bool) (vd va vb : Reg) (m : BitVec 3)
  /-- VMAX_I (R141). Vector signed integer maximum. -/
  | vmaxI (t : Path) (v : Bool) (vd va vb : Reg) (m : BitVec 3)
  /-- VCLT_I (R141). Vector signed integer less-than into a mask. -/
  | vcltI (t : Path) (v : Bool) (vd va vb : Reg) (m : BitVec 3)
  /-- VCEQ_I (R141). Vector integer equality into a mask. -/
  | vceqI (t : Path) (v : Bool) (vd va vb : Reg) (m : BitVec 3)
  /-- VAND (R141). Vector bitwise and. -/
  | vand (t : Path) (v : Bool) (vd va vb : Reg) (m : BitVec 3)
  /-- VOR (R141). Vector bitwise or. -/
  | vor (t : Path) (v : Bool) (vd va vb : Reg) (m : BitVec 3)
  /-- VXOR (R141). Vector bitwise exclusive or. -/
  | vxor (t : Path) (v : Bool) (vd va vb : Reg) (m : BitVec 3)
  /-- VSLL (R141). Vector logical shift left. -/
  | vsll (t : Path) (v : Bool) (vd va vb : Reg) (m : BitVec 3)
  /-- VSRL (R141). Vector logical shift right. -/
  | vsrl (t : Path) (v : Bool) (vd va vb : Reg) (m : BitVec 3)
  /-- VSRA (R141). Vector arithmetic shift right. -/
  | vsra (t : Path) (v : Bool) (vd va vb : Reg) (m : BitVec 3)
  /-- VSEL (R141). Vector select between va and vb under a mask. -/
  | vsel (t : Path) (v : Bool) (vd va vb : Reg) (m : BitVec 3)
  /-- VSPLAT (R141). Vector broadcast of a sequencer register to all active lanes. -/
  | vsplat (t : Path) (v : Bool) (vd va vb : Reg) (m : BitVec 3)
  /-- VLANE (R141). Vector write of each lane's number. -/
  | vlane (t : Path) (v : Bool) (vd va vb : Reg) (m : BitVec 3)
  /-- VMAND (R141). Mask and. -/
  | vmand (t : Path) (v : Bool) (vd va vb : Reg) (m : BitVec 3)
  /-- VMOR (R141). Mask or. -/
  | vmor (t : Path) (v : Bool) (vd va vb : Reg) (m : BitVec 3)
  /-- VMXOR (R141). Mask exclusive or. -/
  | vmxor (t : Path) (v : Bool) (vd va vb : Reg) (m : BitVec 3)
  /-- VMNOT (R141). Mask complement. -/
  | vmnot (t : Path) (v : Bool) (vd va vb : Reg) (m : BitVec 3)
  /-- VSETSR (R141). VSETSR sets the stochastic stream index base VSRB from two registers. -/
  | vsetsr (t : Path) (v : Bool) (vd va vb : Reg) (m : BitVec 3)
  /-- VSIG (R146). VSIG advances a ticket once every earlier vector operation has completed and is visible. -/
  | vsig (t : Path) (v : Bool) (vd va vb : Reg) (m : BitVec 3)
  /-- VCVT_FI (R141). Vector conversion of fp32 to saturating integer. -/
  | vcvtFi (t : Path) (v : Bool) (vd va vb : Reg) (m : BitVec 3)
  /-- VCVT_IF (R141). Vector conversion of integer to fp32. -/
  | vcvtIf (t : Path) (v : Bool) (vd va vb : Reg) (m : BitVec 3)
  /-- VCVT_FH (R144). Vector narrowing of fp32 pairs to bf16, stochastic when MODE.SR is set. -/
  | vcvtFh (t : Path) (v : Bool) (vd va vb : Reg) (m : BitVec 3)
  /-- VCVT_HF (R141). Vector exact widening of a bf16 half to fp32. -/
  | vcvtHf (t : Path) (v : Bool) (vd va vb : Reg) (m : BitVec 3)
  /-- VCVT_FN (R144). Vector narrowing of fp32 to the FP8 format of MODE.NARROW. -/
  | vcvtFn (t : Path) (v : Bool) (vd va vb : Reg) (m : BitVec 3)
  /-- VCVT_NF (R141). Vector widening of FP8 values to fp32. -/
  | vcvtNf (t : Path) (v : Bool) (vd va vb : Reg) (m : BitVec 3)
  /-- VLD (R145). Vector load of 128 bytes from local store. -/
  | vld (t : Path) (v : Bool) (vd va vb : Reg) (m : BitVec 3)
  /-- VST (R145). Vector store of 128 bytes to local store. -/
  | vst (t : Path) (v : Bool) (vd va vb : Reg) (m : BitVec 3)
  /-- VLDX (R145). Vector gather of words at per-lane offsets. -/
  | vldx (t : Path) (v : Bool) (vd va vb : Reg) (m : BitVec 3)
  /-- VSTX (R145). Vector scatter of words at per-lane offsets. -/
  | vstx (t : Path) (v : Bool) (vd va vb : Reg) (m : BitVec 3)
  /-- VRSUM_F (R153). Reduction-unit sum of the active lanes. -/
  | vrsumF (t : Path) (v : Bool) (vd va vb : Reg) (m : BitVec 3)
  /-- VRMAX_F (R153). Reduction-unit maximum of the active lanes. -/
  | vrmaxF (t : Path) (v : Bool) (vd va vb : Reg) (m : BitVec 3)
  /-- VRMIN_F (R153). Reduction-unit minimum of the active lanes. -/
  | vrminF (t : Path) (v : Bool) (vd va vb : Reg) (m : BitVec 3)
  /-- VRAMX_F (R154). Reduction-unit maximum with the lowest lane holding it. -/
  | vramxF (t : Path) (v : Bool) (vd va vb : Reg) (m : BitVec 3)
  /-- MMA (R91). Array matrix multiply-accumulate command over local-store operands. -/
  | mma (t : Path)
  /-- L1 (R102). Array L1 distance command. -/
  | l1 (t : Path)
  /-- MINPLUS (R102). Array tropical min-plus product command. -/
  | minplus (t : Path)
  /-- MAXPLUS (R102). Array tropical max-plus product command. -/
  | maxplus (t : Path)
  /-- TOPK (R103). Array command writing the k largest scores of each row with their indices. -/
  | topk (t : Path)
  /-- FP32X3 (R104). Array fp32-equivalent product by three bf16 passes. -/
  | fp32x3 (t : Path)
  /-- CPLX3 (R105). Array complex product by three real passes. -/
  | cplx3 (t : Path)
  /-- UNDERLAY (R112). UNDERLAY command raises the array level and holds it at 8 for its duration. -/
  | underlay (t : Path)
  /-- UNDERLAY_STEP_DOWN (R111). Each 2.5 µs of gap beyond the hold time lowers the array level by one. -/
  | underlayStepDown (t : Path)
  /-- UNDERLAY_STEP_UP (R111). Every 2.5 µs under the rising rule the array level rises by one until 8. -/
  | underlayStepUp (t : Path)
  /-- PANEL_LAYOUT_WRITE (R107). A write to 0x2120:02 forms or dissolves panels of a cluster. -/
  | panelLayoutWrite (ses : Ses) (layout : BitVec 16)
  /-- ROUTE (R126). Reduction-unit ROUTE assigns TOPK entries capacity-limited slots and writes route list, counts and send lists. -/
  | route (t : Path)
  /-- RED_SUM (R153). Reduction descriptor summing each row. -/
  | redSum (t : Path)
  /-- RED_SSQ (R153). Reduction descriptor summing squares of each row. -/
  | redSsq (t : Path)
  /-- RED_MAX (R153). Reduction descriptor taking each row's maximum. -/
  | redMax (t : Path)
  /-- RED_MIN (R153). Reduction descriptor taking each row's minimum. -/
  | redMin (t : Path)
  /-- RED_AMAX (R153). Reduction descriptor taking each row's largest magnitude. -/
  | redAmax (t : Path)
  /-- OCC (R149). Vector block operation writing an activation occupancy mask. -/
  | occ (t : Path)
  /-- QY4 (R150). Vector block operation quantising rows to y4. -/
  | qy4 (t : Path)
  /-- COPY_LOAD (R174). Access-engine COPY load of tier rows into local store. -/
  | copyLoad (t : Path)
  /-- EXPAND (R199). Access-engine EXPAND decodes a YBF segment into local store. -/
  | expand (t : Path)
  /-- TRANSPOSE (R174). Access-engine transposing load. -/
  | transpose (t : Path)
  /-- GATHER (R174). Access-engine gather of indexed tier rows. -/
  | gather (t : Path)
  /-- PREFETCH (R181). Access-engine PREFETCH fills read-ahead entries. -/
  | prefetch (t : Path)
  /-- PROGLOAD (R179). Access-engine program load of an image into a tile or panel. -/
  | progload (t : Path)
  /-- COPY_STORE (R176). Access-engine COPY store of local-store rows to tier memory. -/
  | copyStore (t : Path)
  /-- COMPRESS (R197). Access-engine COMPRESS writes a YBF segment. -/
  | compress (t : Path)
  /-- MEMORY_REQUEST (R177). A channel controller applies a line request in arrival order. -/
  | memoryRequest (ctx : BitVec 12) (pa : BitVec 44) (req : LineRequest) (errs : List (BitVec 4 × BitVec 8))
  /-- READAHEAD_EXPIRE (R181). A read-ahead entry is dropped 20 µs after its fill without a hit. -/
  | readaheadExpire (tier2 : Bool) (ch : BitVec 9)
  /-- PATROL_SCRUB (R184). Patrol scrub reads lines once per scrub period and counts corrections. -/
  | patrolScrub (pa : BitVec 44) (errs : List (BitVec 4 × BitVec 8))
  /-- RETIRE_PAGE (R184). A write to 0x2250:05 retires a 2 MiB page. -/
  | retirePage (ses : Ses) (page : BitVec 64)
  /-- SLAB_OWNER_WRITE (R166). A write to 0x2230:02 assigns a slab, draws a new key and scrubs it. -/
  | slabOwnerWrite (ses : Ses) (owner : BitVec 8)
  /-- REKEY (R166). A write of 1 to 0x2230:04 draws a new key and scrubs the slab. -/
  | rekey (ses : Ses)
  /-- SLAB_SCRUB_DONE (R166). A slab scrub ends and the slab returns to state 0. -/
  | slabScrubDone (slab : BitVec 10)
  /-- IMBALANCE_WINDOW (R167). Each 100 µs window closes and its channel balance ratio is judged. -/
  | imbalanceWindow
  /-- CONTEXT_BIND (R168). A write to 0x2201:02 binds a context to a partition slot. -/
  | contextBind (ses : Ses) (part : BitVec 8)
  /-- CONTEXT_UNBIND (R168). Writing 0xFF to 0x2201:02 unbinds a context and removes its mappings. -/
  | contextUnbind (ses : Ses)
  /-- MAP (R171). A MAP request makes pages valid one at a time in ascending order. -/
  | map (ses : Ses) (rec : BitVec 256)
  /-- UNMAP (R172). An UNMAP request removes mappings. -/
  | unmap (ses : Ses) (rec : BitVec 256)
  /-- PROTECT (R172). A PROTECT request changes page permissions. -/
  | protect (ses : Ses) (rec : BitVec 256)
  /-- MAPPING_COMPLETE (R172). Once no stale translation and no old request remains, Result of the mapping request becomes 0. -/
  | mappingComplete (part : BitVec 8)
  /-- PROGRAM_LOAD_REQUEST (R179). A host write to 0x2220:01 loads a program image into a tile or panel. -/
  | programLoadRequest (ses : Ses) (rec : BitVec 128)
  /-- STAGE (R217). Training-state STAGE computes and quantises new moments and writes a norm slot. -/
  | stage (t : Path)
  /-- NORMSUM (R219). NORMSUM folds the 1,024 norm slots into a 4 KiB block. -/
  | normsum (t : Path)
  /-- VERDICT (R220). VERDICT judges the global sum of squares, advances the step and clears the norm slots. -/
  | verdict (t : Path)
  /-- COMMIT (R222). COMMIT writes updated weights and moments, or nothing on a skipped step. -/
  | commit (t : Path)
  /-- BARRIER (R264). Shuttle BARRIER passes TOKEN messages up and down the tree. -/
  | barrier (t : Path)
  /-- BROADCAST (R265). Shuttle BROADCAST sends the root's data to every member. -/
  | broadcast (t : Path)
  /-- ALLREDUCE (R263). Shuttle ALLREDUCE reduces in fp32 and delivers the result to every member. -/
  | allreduce (t : Path)
  /-- REDUCE_SCATTER (R263). Shuttle REDUCE_SCATTER reduces block r into rank r. -/
  | reduceScatter (t : Path)
  /-- ALLGATHER (R265). Shuttle ALLGATHER collects every rank's block at every member. -/
  | allgather (t : Path)
  /-- ALLTOALL (R265). Shuttle ALLTOALL sends block p to rank p. -/
  | alltoall (t : Path)
  /-- ALLTOALLV (R277). Shuttle unequal all-to-all exchanging counts and then rows. -/
  | alltoallv (t : Path)
  /-- ALLTOALLV_REV (R278). Shuttle reverse exchange returning rows to their send positions. -/
  | alltoallvRev (t : Path)
  /-- SHUTTLE_SLOT_OPEN (R271). A waiting collective descriptor takes the lowest free slot when one frees. -/
  | shuttleSlotOpen (t : Path)
  /-- COLLECTIVE_DEADLINE (R285). A slot's deadline expires and the collective ends with ABORT sent to peers. -/
  | collectiveDeadline (ctx : BitVec 12) (slot : BitVec 4)
  /-- CTS (R272). A received CTS is delivered to its slot or kept in the early table. -/
  | msgCts (p : PortCode)
  /-- DATA (R270). A received DATA message is reduced or written at its offset in its slot. -/
  | msgData (p : PortCode)
  /-- COUNTS (R277). A received COUNTS message supplies a peer's send counts. -/
  | msgCounts (p : PortCode)
  /-- DONE (R274). A received DONE confirms a peer has written everything sent. -/
  | msgDone (p : PortCode)
  /-- TOKEN (R264). A received barrier TOKEN advances the barrier. -/
  | msgToken (p : PortCode)
  /-- ABORT (R272). A received ABORT raises the collective partition fault in the group's partition. -/
  | msgAbort (p : PortCode)
  /-- OUT_PACK (R296). OUT_PACK forms, quantises and packs a span's difference into this module's contribution slot. -/
  | outPack (t : Path)
  /-- OUT_EXCHANGE (R301). OUT_EXCHANGE sends the contribution and receipts and waits for a bitmap. -/
  | outExchange (t : Path)
  /-- OUT_APPLY (R308). OUT_APPLY applies the accepted bitmap's aggregate with outer momentum. -/
  | outApply (t : Path)
  /-- OUT_SNAPFETCH (R310). OUT_SNAPFETCH requests a span's anchor and momentum from a peer. -/
  | outSnapfetch (t : Path)
  /-- SNAPFETCH_RETRY (R310). After BUSY the fetch is retried every 1 ms. -/
  | snapfetchRetry (gid : BitVec 16)
  /-- SNAPFETCH_TIMEOUT (R311). A fetch without data or with persistent BUSY for TAKEOVER completes with a failure SNAPRES. -/
  | snapfetchTimeout (gid : BitVec 16)
  /-- CONTRIB (R300). A received CONTRIB message is written to the sender's outing slot. -/
  | msgContrib (p : PortCode)
  /-- RECEIPT (R300). A received RECEIPT replaces the sender's previous one; a coordinator may publish early. -/
  | msgReceipt (p : PortCode)
  /-- BITMAP (R305). A received bitmap record is accepted, relayed, or refused. -/
  | msgBitmap (p : PortCode)
  /-- SNAPREQ (R310). A received SNAPREQ is answered with SNAPDATA, BUSY or MISMATCH. -/
  | msgSnapreq (p : PortCode)
  /-- SNAPDATA (R310). Received SNAPDATA writes the anchor and momentum and sets the span identity. -/
  | msgSnapdata (p : PortCode)
  /-- OUT_DEADLINE (R303). At its deadline a candidate publishes a bitmap from what it holds. -/
  | outDeadline (gid : BitVec 16)
  /-- OUT_STATUS_LIMIT (R306). A status limit expires and the exchange ends with status 2. -/
  | outStatusLimit (gid : BitVec 16)
  /-- OUT_INCOMPLETE (R305). A WAITALL exchange without a bitmap by its limit raises OUT_INCOMPLETE. -/
  | outIncomplete (gid : BitVec 16)
  /-- REGISTER (R256). A REGISTER request registers a group and computes this module's rank. -/
  | register (ses : Ses) (rec : BitVec 256)
  /-- RELEASE (R256). A RELEASE request releases a group and discards its early entries. -/
  | release (ses : Ses) (rec : BitVec 256)
  /-- BIND (R292). A BIND request binds a D group for outings. -/
  | bind (ses : Ses) (rec : BitVec 256)
  /-- UNBIND (R292). An UNBIND request releases an outing binding. -/
  | unbind (ses : Ses) (rec : BitVec 256)
  /-- ADMIT (R327). An ADMIT request checks a plan against free memory and quotas. -/
  | planAdmit (ses : Ses) (rec : BitVec 256)
  /-- WITHDRAW (R327). A WITHDRAW request releases the admitted plan. -/
  | withdraw (ses : Ses) (rec : BitVec 256)
  /-- DATA_FRAME (R236). A received VXL data frame is delivered, discarded or forwarded. -/
  | dataFrame (p : PortCode) (frame : Bytes)
  /-- HELLO (R244). A received HELLO checks the peer and brings the port UP or closes it. -/
  | hello (p : PortCode) (frame : Bytes)
  /-- CREDIT (R236). A received CREDIT returns credits, acknowledges frames and may clear AWAIT. -/
  | credit (p : PortCode) (frame : Bytes)
  /-- TS (R248). A received TS frame yields an offset and delay for the counter discipline. -/
  | ts (p : PortCode) (frame : Bytes) (frac : BitVec 4)
  /-- DATA_FRAME_SEND (R239). A data frame is sent when its VC allowance or the shared pool has room. -/
  | dataFrameSend (p : PortCode)
  /-- CREDIT_SEND (R240). A CREDIT frame is sent at least every 500 ns. -/
  | creditSend (p : PortCode)
  /-- TS_SEND (R240). A TS frame is sent every 10 µs. -/
  | tsSend (p : PortCode) (frac : BitVec 4)
  /-- RESPONSE_DEADLINE (R241). A frame without ACK or a port without accepted control frames for the deadline fails the port. -/
  | responseDeadline (p : PortCode)
  /-- LANE_LOCK_LOSS (R241). A lane losing clock recovery or FEC lock fails the port. -/
  | laneLockLoss (p : PortCode) (lane : BitVec 4)
  /-- OPTICS_MONITOR_FAULT (R241). An optical engine monitor fault raises OPTICS_FAULT. -/
  | opticsMonitorFault (p : PortCode)
  /-- PORT_ENABLE (R244). Setting 0x2400:02 starts training of the port. -/
  | portEnable (ses : Ses)
  /-- PORT_DISABLE (R243). Clearing 0x2400:02 stops new data and begins an orderly close. -/
  | portDisable (ses : Ses)
  /-- PORT_CLOSE_DRAINED (R243). When every frame is acknowledged or the deadline passes the port sends CLOSE, turns off its lasers and enters OFF. -/
  | portCloseDrained (p : PortCode)
  /-- PORT_TRAIN (R244). An enabled port in OFF or DOWN begins a training attempt, repeated every 100 ms. -/
  | portTrain (p : PortCode)
  /-- TRAINING_TIMEOUT (R244). A training attempt not UP within 500 ms enters DOWN with reason 10. -/
  | trainingTimeout (p : PortCode)
  /-- ROOT_CLAIM (R340). A site root hearing no better root for 1 s claims the campus root role. -/
  | rootClaim
  /-- COUNTER_LOCK (R341). An estimate within 2 ns for 1 ms moves the counter to LOCKED. -/
  | counterLock
  /-- PARENT_LOSS (R341). A parent silent for 100 µs is lost and the counter may enter HOLDOVER. -/
  | parentLoss
  /-- ARM (R347). An ARM request arms a launch at a count. -/
  | arm (ses : Ses) (rec : BitVec 256)
  /-- CANCEL (R347). A CANCEL request cancels an armed launch. -/
  | cancel (ses : Ses) (rec : BitVec 256)
  /-- LAUNCH_FIRE (R348). When the count passes the launch count the device writes the armed doorbell. -/
  | launchFire (part : BitVec 8)
  /-- CHECKER_COMPARE (R358). A checker re-executes a capture and compares results bit for bit. -/
  | checkerCompare (k : BitVec 6)
  /-- CHECKER_RESEED (R356). Each checker's selection generator is reseeded every second. -/
  | checkerReseed (k : BitVec 6)
  /-- CHECKER_FENCE (R359). Writing 1 to 0x3001:02 sets a fence on the partition's checkers. -/
  | checkerFence (ses : Ses)
  /-- INJECTION_ARM (R372). Writing 1 to 0x3020:03 arms one error injection. -/
  | injectionArm (ses : Ses)
  /-- INJECTION_CANCEL (R372). Writing 0 to 0x3020:03 cancels an armed injection. -/
  | injectionCancel (ses : Ses)
  /-- PARITY_ERROR (R354). A hardware parity or ECC error in a protected datapath raises its device-fatal event. -/
  | parityError (site : ParitySite)
  /-- FAULT_RING_HEARTBEAT (R366). A failed ring CRC or four missed heartbeats raise FAULT_PATH. -/
  | faultRingHeartbeat (collector : BitVec 3) (crcBad : Bool) (missed : Nat)
  /-- NOTIFY (R445). A queued notification is sent at the next transmit opportunity. -/
  | notify
  /-- FATAL_ACKNOWLEDGE (R369). Writing 1 to 0x3010:07 clears the fatal slot. -/
  | fatalAcknowledge (ses : Ses)
  /-- WRITE (R378). A hamper WRITE captures control items and writes a checkpoint to the host window. -/
  | write (ses : Ses) (rec : BitVec 512)
  /-- RESTORE (R389). A hamper RESTORE writes a checkpoint back into the partition. -/
  | restore (ses : Ses) (rec : BitVec 512)
  /-- VERIFY (R392). A hamper VERIFY checks manifests and images without writing. -/
  | verify (ses : Ses) (rec : BitVec 512)
  /-- NOISE_HEALTH_WINDOW (R397). A noise health-test window ends and is kept or discarded. -/
  | noiseHealthWindow (startup : Bool) (samples : List Bool)
  /-- DRBG_INSTANTIATE (R398). The DRBG is instantiated from healthy samples and reports ready. -/
  | drbgInstantiate
  /-- DRBG_RESEED (R398). The DRBG reseeds after 2^20 requests or 100 ms; healthy: no test has failed in the window that is open. -/
  | drbgReseed (healthy : Bool)
  /-- MASK_RESEED (R401). Each masking refresh generator is reseeded from the DRBG every 1 µs. -/
  | maskReseed (engine : BitVec 3)
  /-- KEY_INSTALL (R404). An INSTALL key request unwraps and stores a key. -/
  | keyInstall (ses : Ses) (rec : BitVec 640)
  /-- KEY_ERASE (R404). An ERASE key request removes a key. -/
  | keyErase (ses : Ses) (rec : BitVec 640)
  /-- ZEROISE (R406). Writing 1 to 0x3130:01 erases every key except the DTK. -/
  | zeroise (ses : Ses)
  /-- CBC (R407). Cipher job in CBC mode. -/
  | cbc (ses : Ses) (rec : BitVec 512)
  /-- CTR (R407). Cipher job in CTR mode. -/
  | ctr (ses : Ses) (rec : BitVec 512)
  /-- CFB (R407). Cipher job in CFB-128 mode. -/
  | cfb (ses : Ses) (rec : BitVec 512)
  /-- GCM (R407). Cipher job in GCM mode. -/
  | gcm (ses : Ses) (rec : BitVec 512)
  /-- CCM (R407). Cipher job in CCM mode. -/
  | ccm (ses : Ses) (rec : BitVec 512)
  /-- CMAC (R407). Cipher job generating or verifying a CMAC tag. -/
  | cmac (ses : Ses) (rec : BitVec 512)
  /-- SHA_256 (R407). Cipher job computing a SHA-256 digest. -/
  | sha256 (ses : Ses) (rec : BitVec 512)
  /-- FORM (R412). FORM creates a partition over its clusters and resets its state. -/
  | form (ses : Ses)
  /-- DISSOLVE (R413). DISSOLVE frees a partition and zeroes its local stores. -/
  | dissolve (ses : Ses)
  /-- LC_CHALLENGE_READ (R430). Each read of 0x1010:01 draws a new life-cycle challenge. -/
  | lcChallengeRead (ses : Ses)
  /-- LC_TO_PROVISIONED (R427). Transition from Manufacture to Provisioned by maker token. -/
  | lcToProvisioned (ses : Ses) (token : BitVec 128)
  /-- LC_TO_FIELD (R427). Transition to Field from Provisioned or Field-Debug by the operator. -/
  | lcToField (ses : Ses) (token : BitVec 128)
  /-- LC_TO_FIELD_DEBUG (R427). Transition from Field to Field-Debug by the operator. -/
  | lcToFieldDebug (ses : Ses) (token : BitVec 128)
  /-- LC_TO_RETURN (R428). Transition to Return with full erasure and reset. -/
  | lcToReturn (ses : Ses) (token : BitVec 128)
  /-- LC_TO_MANUFACTURE (R427). Transition from Return to Manufacture while returns remain. -/
  | lcToManufacture (ses : Ses) (token : BitVec 128)
  /-- LC_TO_RETIRED (R428). Permanent transition to Retired with full erasure. -/
  | lcToRetired (ses : Ses) (token : BitVec 128)
  /-- GET (R438). An AOA GET reads an object. -/
  | get (src : Source) (frame : Bytes)
  /-- SET (R438). An AOA SET writes an object. -/
  | set (src : Source) (frame : Bytes)
  /-- OPEN (R439). An AOA OPEN verifies a proof and opens a session. -/
  | aoaOpen (src : Source) (frame : Bytes)
  /-- CLOSE (R440). An AOA CLOSE closes a session. -/
  | aoaClose (src : Source) (frame : Bytes)
  /-- SESSION_CHALLENGE_READ (R439). Each read of 0x3140:01 returns a new session challenge bound to the reader. -/
  | sessionChallengeRead (src : Source)
  /-- SESSION_TIMEOUT (R440). A session closes 60 s after its last accepted request. -/
  | sessionTimeout (ses : Ses)
  /-- CREDENTIAL_INSTALL (R441). A credential request installs a wrapped role credential. -/
  | credentialInstall (ses : Ses) (rec : BitVec 384)
  /-- CREDENTIAL_ERASE (R441). A credential request erases a role credential. -/
  | credentialErase (ses : Ses) (rec : BitVec 384)
  /-- MBX_DOOR (R444). A write to MBX_DOOR posts the mailbox frame to the controller. -/
  | mbxDoor (frame : Bytes) (len : BitVec 11)
  /-- BEACON_TIMEOUT (R434). A PLCA follower seeing no BEACON for 100 ms drops the link state and raises MGMT_LINK_DOWN. -/
  | beaconTimeout
  /-- JABBER (R434). A PHY jabber report drops the management link state. -/
  | jabber
  /-- WEDGE_PROBE (R448). Every 10 ms the controller probes the device and judges it wedged after three misses. -/
  | wedgeProbe (answered : Bool)
  /-- DEVICE_RESET (R450). Writing 1 to 0x1140:02 closes ports and resets every domain outside the island. -/
  | deviceReset (ses : Ses)
  /-- POWER_ON (R451). Writing 1 to 0x1140:03 turns the converters on and starts bring-up. -/
  | powerOn (ses : Ses)
  /-- POWER_OFF (R451). Writing 0 to 0x1140:03 turns the converters off, orderly or immediately. -/
  | powerOff (ses : Ses)
  /-- TRACE_FREEZE (R482). Writing 1 to 0x1140:05 stops trace capture and writes FREEZE. -/
  | traceFreeze (ses : Ses)
  /-- TRACE_UNFREEZE (R482). Writing 0 to 0x1140:05 resumes trace capture and writes START. -/
  | traceUnfreeze (ses : Ses)
  /-- CAPTURE_ACKNOWLEDGE (R452). Writing 1 to 0x3030:04 clears the fatal capture. -/
  | captureAcknowledge (ses : Ses)
  /-- INVENTORY (R453). ISO 15693 INVENTORY command to the tag. -/
  | inventory (flags maskLen : BitVec 8) (mask : BitVec 64)
  /-- STAY_QUIET (R453). ISO 15693 STAY QUIET command to the tag. -/
  | stayQuiet (flags : BitVec 8) (uid : BitVec 64)
  /-- SELECT (R453). ISO 15693 SELECT command to the tag. -/
  | tagSelect (flags : BitVec 8) (uid : BitVec 64)
  /-- RESET_TO_READY (R453). ISO 15693 RESET TO READY command to the tag. -/
  | resetToReady (flags : BitVec 8) (uid : BitVec 64)
  /-- GET_SYSTEM_INFORMATION (R453). ISO 15693 GET SYSTEM INFORMATION command. -/
  | getSystemInformation (flags : BitVec 8) (uid : BitVec 64)
  /-- EXTENDED_GET_SYSTEM_INFORMATION (R453). ISO 15693 EXTENDED GET SYSTEM INFORMATION command. -/
  | extendedGetSystemInformation (flags : BitVec 8) (uid : BitVec 64) (params : BitVec 8)
  /-- READ_SINGLE_BLOCK (R455). Tag read of one 4-byte block from the published bank. -/
  | readSingleBlock (flags : BitVec 8) (uid : BitVec 64) (blk : BitVec 8)
  /-- READ_MULTIPLE_BLOCKS (R455). Tag read of several blocks from the published bank. -/
  | readMultipleBlocks (flags : BitVec 8) (uid : BitVec 64) (blk count : BitVec 8)
  /-- WRITE_SINGLE_BLOCK (R457). Tag RF write of one user-area block, refused while the wired lock is held. -/
  | writeSingleBlock (flags : BitVec 8) (uid : BitVec 64) (blk : BitVec 8) (data : BitVec 32)
  /-- EXTENDED_READ_SINGLE_BLOCK (R455). Extended tag read of one block with a 16-bit block number. -/
  | extendedReadSingleBlock (flags : BitVec 8) (uid : BitVec 64) (blk : BitVec 16)
  /-- EXTENDED_READ_MULTIPLE_BLOCKS (R455). Extended tag read of several blocks. -/
  | extendedReadMultipleBlocks (flags : BitVec 8) (uid : BitVec 64) (blk count : BitVec 16)
  /-- EXTENDED_WRITE_SINGLE_BLOCK (R457). Extended tag RF write of one block. -/
  | extendedWriteSingleBlock (flags : BitVec 8) (uid : BitVec 64) (blk : BitVec 16) (data : BitVec 32)
  /-- TAG_UNSUPPORTED_COMMAND (R453). Any other RF command is answered with error code 0x01. -/
  | tagUnsupportedCommand (flags : BitVec 8) (uid : BitVec 64) (code : BitVec 8)
  /-- TAG_LOCK_TAKE (R456). Writing 1 to 0x3300:03 takes the wired tag lock. -/
  | tagLockTake (ses : Ses)
  /-- TAG_LOCK_RELEASE (R456). Writing 0 to 0x3300:03 releases the lock and starts a publication. -/
  | tagLockRelease (ses : Ses)
  /-- TAG_DATA_WRITE (R456). A write to 0x3300:02 updates the tag working copy under the lock. -/
  | tagDataWrite (ses : Ses) (data : BitVec 512)
  /-- TAG_LOCK_TIMEOUT (R456). The lock is released 1 s after the holder's last data write. -/
  | tagLockTimeout
  /-- TAG_PUBLISH_DONE (R455). A publication completes and the bank pointer flips. -/
  | tagPublishDone
  /-- TAG_STATUS_UPDATE (R456). The controller updates the identity and status pages once a second or after a fatal event. -/
  | tagStatusUpdate
  /-- AUX_RAIL_RISE (R460). The auxiliary rail rising releases the island reset and starts the controller. -/
  | auxRailRise
  /-- AUX_RAIL_FALL (R476). The auxiliary rail falling turns the converters off and loses volatile island state. -/
  | auxRailFall
  /-- BRIDGE_RAILS_GOOD (R460). Bridge rails good lock the bridge clocks, start the counter and the package network. -/
  | bridgeRailsGood (pcieRef : Bool)
  /-- DIE_RAILS_GOOD (R460). A die's rails good lock its clocks and start its Shuttle slice and optical engines. -/
  | dieRailsGood (die : BitVec 2)
  /-- CLUSTER_SELF_TEST (R464). A cluster runs its staged start-up test in firing mode once TCLK locks or on leaving Sleep. -/
  | clusterSelfTest (k : BitVec 6) (result : SelfTest)
  /-- PCIE_LINK_TRAINING (R460). With HCLK locked and reset deasserted the PCIe link trains to DL_Active. -/
  | pcieLinkTraining
  /-- TIER_TRAINING_DONE (R460). Tier-1 and tier-2 interfaces finish training and slabs are rekeyed and scrubbed. -/
  | tierTrainingDone
  /-- PCIE_CONVENTIONAL_RESET (R462). Assertion of PERST_N causes a device reset. -/
  | pcieConventionalReset
  /-- PCIE_HOT_RESET (R463). A PCIe hot reset resets only the endpoint and the mirror. -/
  | pcieHotReset
  /-- FUNCTION_LEVEL_RESET (R463). A function-level reset resets only the endpoint and the mirror. -/
  | functionLevelReset
  /-- INPUT_OUT_OF_RANGE (R476). A 48 V input outside range for 100 µs raises POWER_FAULT and turns the converters off. -/
  | inputOutOfRange
  /-- CONVERTER_FAULT (R476). A converter's own fault raises POWER_FAULT and turns the converters off. -/
  | converterFault
  /-- THERMAL_CROSSING (R475). A sensor crossing warn or throttle upward raises THERMAL_WARN and starts a throttle. -/
  | thermalCrossing (sensor : BitVec 5) (milliC : BitVec 32)
  /-- THROTTLE_END (R475). A throttle ends after 100 ms at 2 °C below its value. -/
  | throttleEnd (sensor : BitVec 5)
  /-- THERMAL_TRIP (R475). A sensor reaching trip makes the device fatal. -/
  | thermalTrip (sensor : BitVec 5) (milliC : BitVec 32)
  /-- TRIP_SHUTDOWN (R475). 10 ms after a trip the converters turn off. -/
  | tripShutdown
  /-- CLOCK_STEP (R469). TCLK of a die steps by 25 MHz under its limit, the power cap or recovery. -/
  | clockStep (die : BitVec 2)
  /-- TCLK_LIMIT_WRITE (R469). A write to 0x1100:02 sets a die's TCLK limit and starts stepping toward it. -/
  | tclkLimitWrite (ses : Ses) (mhz : BitVec 16)
  /-- IDLE_CLOCKED_ENTER (R470). A cluster idle for 1 µs enters Idle-clocked. -/
  | idleClockedEnter (k : BitVec 6)
  /-- POWER_REQUEST_ACTIVE (R472). A request for Active restores supply and TCLK and writes RESYNC. -/
  | powerRequestActive (ses : Ses)
  /-- POWER_REQUEST_RETENTION (R472). A request for Retention sets Current to entering. -/
  | powerRequestRetention (ses : Ses)
  /-- POWER_REQUEST_SLEEP (R472). A request for Sleep sets Current to entering. -/
  | powerRequestSleep (ses : Ses)
  /-- POWER_STATE_SETTLE (R472). After arrays reach level 0 and the backlog drains, MARKER is written, TCLK stops and the cluster takes its state. -/
  | powerStateSettle (k : BitVec 6)
  /-- ENGINE_POWER_WRITE (R471). A write to 0x1110:05 powers optical engines up or down. -/
  | enginePowerWrite (ses : Ses) (bits : BitVec 8)
  /-- REPLAY_CAPTURE (R484). A CAPTURE request writes a replay record to an island slot and the host window. -/
  | replayCapture (ses : Ses) (rec : BitVec 384)
  /-- REPLAY_CLEAR (R485). A CLEAR request clears a replay record slot. -/
  | replayClear (ses : Ses) (rec : BitVec 384)
  /-- OBJECT_WRITE (R443). A write to an object with no row of its own, under that object's rule. -/
  | objectWrite (ses : Ses) (idx : BitVec 16) (sub : BitVec 8) (value : Bytes)
  /-- ILLEGAL_INSN (R46). The sequencer fetches a word of reserved class, reserved function code, non-zero reserved field or unlisted VOP and raises ILLEGAL_INSN without executing anything. -/
  | illegalInsn (t : Path) (word : BitVec 32)
  /-- LS_RANGE_FETCH (R50). Execution falls sequentially or from a loop end to an address beyond the span of R41 and the fetch raises LS_RANGE with that address as EPC. -/
  | lsRangeFetch (t : Path)
  /-- LANE_LOCK (R244). During training every lane achieves clock recovery, FEC lock and deskew, letting the port proceed to the HELLO exchange. -/
  | laneLock (p : PortCode) (lanes : BitVec 16)
  /-- HELLO_SEND (R244). While training, the port sends a HELLO frame every 10 µs with its SEEN bit. -/
  | helloSend (p : PortCode)
  /-- PLCA_BEACON (R434). A PLCA BEACON or carrier is seen again on the management segment and Link state leaves 0. -/
  | plcaBeacon
  /-- RF_FIELD (R35). An RF field appears at or leaves the tag, starting or stopping KCLK and changing 0x3300:08. -/
  | rfField (present : Bool)
  /-- MAIN_INPUT_IN_RANGE (R460). The 48 V input enters 40 to 60 V, MAIN becomes 1, the hot-swap switch charges the bulk capacitance and, with Power 1, the converters turn on. -/
  | mainInputInRange
  /-- PCIE_LINK_DOWN (R444). The PCIe link leaves DL_Active or its reference clock stops, clearing readiness bit 2 and stopping the mirror. -/
  | pcieLinkDown
  /-- RESYNC (R481). When a cluster's TCLK runs again after Retention or Sleep the trace unit writes RESYNC and Current returns to 0. -/
  | resync (k : BitVec 6)
  /-- DEBUG_ACCESS (R429). An IEEE 1149.1 instruction or debug access arrives on J3 and is served or decoded as BYPASS according to the life-cycle state. -/
  | debugAccess (op : DebugOp)
  deriving DecidableEq, Repr

end Sys2Proof
end

