-- ==== Sys2Proof/Config.lean ====
section
/-! DEFINITION. What one module fixes at Manufacture and the free values the spec leaves open: constants without a
body, of which nothing can be proved but that they are values. -/

namespace Sys2Proof.Config

/-- The 16 ASCII bytes of the serial number 0x1000:02, set at Manufacture (R3). -/
opaque serial : BitVec 128
/-- Bits 47:0 of 0x1020:01, set at Manufacture (R434). -/
opaque macAddress : BitVec 48
/-- The ISO/IEC 15693 UID of the tag, 0x3300:07, set at Manufacture (R458). -/
opaque tagUid : BitVec 64
/-- The device transport key, fused at Manufacture (R403). -/
opaque dtk : BitVec 256
/-- The maker key, fused at Manufacture (R430, R439). -/
opaque makerKey : BitVec 256
/-- The key derived from the DTK under which session challenges are formed (R439 gives no derivation). -/
opaque challengeKey : BitVec 256
/-- Hardware revision 0x1000:03, fixed per stepping (R3). -/
opaque revision : BitVec 16
/-- The nonce and personalization string with which the CTR_DRBG is instantiated (R398 states none). -/
opaque drbgNonce : List (BitVec 8)
/-- Whether the draw-th candidate is selected for the checkers, given the exponent E of 0x3000:01 (R356). -/
opaque selected : Nat → Nat → Bool
/-- Whether a unit's last capture is still in flight when its next candidate is selected, by the candidate's number (R357). -/
opaque captureInFlight : Nat → Bool
/-- A value the spec leaves open; the argument is the use's number. -/
opaque freeWord : Nat → BitVec 32
/-- Scale and codes of a block of second moments one of which lies below zero, which R210 does not state: the arguments are the block's
values, its random bits, and which of the scale and the codes (R225). -/
opaque negativeMoment : List Nat → List Nat → Nat → BitVec 32
/-- Whether the PCIe completion of a request to a host window reports an error (R379); the argument is the request's number. -/
opaque windowError : Nat → Bool
/-- The IEEE 1149.1 device identification code (R429 names the instruction and gives no value). -/
opaque idcode : BitVec 32

end Sys2Proof.Config
end

