-- ==== Sys2Proof/Machine/State.lean ====
section
/-! DEFINITION. The state of one YT1280 module as plain data: every register, queue, buffer, counter, mode and pin the
spec names, grouped by the part that holds it. A map (SMap) lists only the entries that differ from the default value its
accessor names. Field defaults are the values of State.reset: the state just after the auxiliary rail has risen, before
the 48 V input is in range (R460 step 1 done). -/

namespace Sys2Proof.Machine

/-- An exact value (R95, R138): NaN, an infinity, or (-1)^neg × m × 2^e; m = 0 is a zero with a sign. -/
inductive Num where
  | nan
  | inf (neg : Bool)
  | fin (neg : Bool) (m : Nat) (e : Int)
  deriving DecidableEq, Repr

/-! ### The tile: sequencer, queues, vector engine, array, local store -/

/-- What a tile itself is doing (R20). Fatal (5) and powered down (6) are read from the device and the cluster. -/
inductive Run where
  | idle | running | stopped | firing | faulted
  deriving DecidableEq, Repr

/-- The fault fields of a tile window (R21), with the whole stamp beside its low 32 bits (R23 compares stamps). -/
structure FaultRegs where
  code : BitVec 16 := 0
  path : Path := 0
  stamp : DWord := 0
  count : BitVec 16 := 0
  part : Bool := false
  deriving DecidableEq, Repr

/-- A branch or jump that has retired and whose delay slot has not (R54): its address, and the target if it is taken. -/
structure DelaySlot where
  branch : Word
  target : Option Word
  deriving DecidableEq, Repr

/-- An exception raised and not yet entered (R78, R80, R81). -/
structure Exc where
  cause : BitVec 8
  epc : Word
  detail : Word
  insn : Word
  ds : Bool
  sh : Bool
  le : Bool
  lev : BitVec 2
  deriving DecidableEq, Repr

/-- What waits for a tile's next instruction boundary (R19, R56, R74): a stop, with the state it leads to, or a doorbell's
START, RESUME or SET_FIRING. -/
inductive Later where
  | stop (target : Run)
  | start (entry : Word)
  | resume
  | firing (on : Bool)
  deriving DecidableEq, Repr

/-- What a queued command is: a descriptor's body words (R68), or a VEC instruction with the sequencer registers it
reads, taken at issue (R142), its own address (R155) and the partition step at issue (R205). -/
inductive Work where
  | desc (body : List Word)
  | vec (word sa sb pc step : Word)
  deriving DecidableEq, Repr

/-- A command in a queue of R66, or dispatched and not complete. id names it within its tile; item is the firing item
that issued it (R75); checked marks a collective that has passed R261 and waits for a slot (R271). -/
structure Command where
  id : Nat
  unit : BitVec 4
  w0 : Word
  waitV : Word
  mode : Word
  stag : Word
  work : Work
  item : Option Nat := none
  checked : Bool := false
  deriving DecidableEq, Repr

/-- A dispatched command and whether its work is finished, so that it may complete (R70). -/
structure Flight where
  cmd : Command
  finished : Bool
  deriving DecidableEq, Repr

/-- The activity of one matrix array (R111): level, level at the start of the gap, the stamp of the last real operation
or last change of level, whether real operations run, and the end of a running UNDERLAY (R112). -/
structure ArrayLevel where
  level : Nat := 0
  gapLevel : Nat := 0
  since : Nat := 0
  rising : Bool := false
  holdUntil : Option Nat := none
  deriving DecidableEq, Repr

/-- A page mapping (R169, R170): context, first virtual and physical address, size, permissions. -/
structure PageMap where
  ctx : BitVec 12
  va : Nat
  pa : Nat
  big : Bool
  r : Bool
  w : Bool
  deriving DecidableEq, Repr

/-- One tile, active or checker. -/
structure Tile where
  /-- s1 to s31 (R40). -/
  regs : SMap Word := []
  /-- Address of the next instruction. -/
  pc : Word := 0
  delay : Option DelaySlot := none
  /-- Issue slots left in the shadow of an MTC to MODE (R59). -/
  shadow : Nat := 0
  mode : Word := 0
  evbase : Word := 0
  stkLo : Word := 0
  stkHi : Word := 0
  fireBase : Word := 0
  /-- LCOUNT0 to 2 (R43). -/
  lcount : SMap Word := []
  /-- LOOP0 to 2 (R44). -/
  loops : SMap Word := []
  /-- Bits 63:32 latched by MFC of TIME (R336). -/
  timeHi : Option Word := none
  exc : Option Exc := none
  /-- TICKET0 to 15 (R18). -/
  tickets : SMap Word := []
  run : Run := .idle
  /-- The state a stopped tile returns to on RESUME (R19). -/
  held : Run := .idle
  /-- The program was ended by an unhandled exception, a double fault or FAULT (R19, R363). -/
  ended : Bool := false
  /-- What waits for the next instruction boundary, in the order it arrived (R27, R56). -/
  waiting : List Later := []
  fault : FaultRegs := {}
  cmdQ : List Command := []
  loadQ : List Command := []
  storeQ : List Command := []
  flights : List Flight := []
  nextId : Nat := 0
  /-- Number of items of the firing table taken on entry (R74). -/
  fireN : Nat := 0
  /-- The crash frame (R84): sixteen words. -/
  crash : SMap Word := []
  /-- Local store (R158): bytes by address; an unlisted byte reads 0. -/
  ls : List Host.Cell := []
  /-- Bits in error of a 64-bit word of local store, by word number (R159, R372). -/
  lsErr : SMap DWord := []
  /-- Lane i of vr at key 32 r + i (R135). -/
  vregs : SMap Word := []
  /-- m1 to m7 (R135). -/
  masks : SMap Word := []
  vsrb : BitVec 48 := 0
  /-- Bits a hardware error inverts in the first byte the expander's next block decodes to (R200). -/
  expSlip : Byte := 0
  /-- A vector fault has stopped the vector engine (R155). -/
  vecStopped : Bool := false
  arr : ArrayLevel := {}
  /-- The translation buffer (R169), newest first, at most 128 entries. -/
  tlb : List PageMap := []
  deriving DecidableEq, Repr

/-- What a unit window keeps of its own (R23): DB_RESULT and DB_SEQ. -/
structure WinRegs where
  result : BitVec 4 := 0
  seq : BitVec 8 := 0
  deriving DecidableEq, Repr

/-! ### Clusters, checkers, dies -/

/-- A captured sample (R355): the sampled unit, where the sample lies, the values it started from and produced, and the
operand values and settings needed to re-execute it. -/
structure Capture where
  id : Nat := 0
  path : Path := 0
  part : BitVec 8 := 0xFF
  stag : Word := 0
  /-- 0 array, 1 OCC, 2 QY4, 3 reduction (R368). -/
  kind : Nat
  pass : Nat := 0
  row : Nat
  col : Nat := 0
  span : Nat := 0
  /-- Operation code of the sampled command, integer accumulation, group length. -/
  op : Nat
  int : Bool := false
  glen : Nat := 64
  mode : Word := 0
  seed : DWord := 0
  step : Word := 0
  /-- Stream index of the first element written, its advance per row, elements per row. -/
  base : Nat := 0
  pitch : Nat := 0
  cols : Nat := 0
  /-- Output format code and power-of-two scale. -/
  fmt : Nat := 5
  shift : Int := 0
  /-- The sample holds written elements. -/
  last : Bool := false
  /-- Each accumulator at the start, its terms, and at the end. -/
  start : List Word := []
  terms : List (List Num) := []
  /-- WMETA nibbles or presence bits, and AMASK bits, of the sample. -/
  wmeta : List Nat := []
  amask : List Bool := []
  ends : List Word := []
  written : List Nat := []
  scales : List Nat := []
  bytes : Nat
  deriving DecidableEq, Repr

/-- The checker of a cluster (R356 to R359). -/
structure Checker where
  backlog : List Capture := []
  used : Nat := 0
  /-- The seed of the selection generator; 0 until the DRBG is ready (R356). -/
  seed : DWord := 0
  seededAt : Nat := 0
  /-- Start of the 1 s window, candidates selected and skipped in it, and the stamp of the last CHECK_SKIP_RATE (R357). -/
  winStart : Nat := 0
  winSel : Nat := 0
  winSkip : Nat := 0
  lastRate : Option Nat := none
  deriving DecidableEq, Repr

/-- One cluster (R106, R470, R471). -/
structure Cluster where
  layout : BitVec 16 := 0
  requested : BitVec 8 := 0
  current : BitVec 8 := 0
  /-- While Current is 4 or 5: the state being entered. -/
  target : BitVec 8 := 0
  transitions : Word := 0
  /-- Bit of 0x1200:02. -/
  ready : Bool := false
  /-- The start-up test runs, or a start-up test is due (R460 step 7, R464). -/
  testing : Bool := false
  /-- Packets of the cluster since its last RESYNC (R479). -/
  packets : BitVec 16 := 0
  /-- Between MARKER and RESYNC (R481). -/
  marked : Bool := false
  chk : Checker := {}
  deriving DecidableEq, Repr

/-- One compute die (R460, R468). -/
structure Die where
  railsGood : Bool := false
  tclkLimit : BitVec 16 := 1650
  tclk : BitVec 16 := 0
  mclk : BitVec 16 := 0
  cause : BitVec 8 := 0
  lastStep : Option Nat := none
  deriving DecidableEq, Repr

/-! ### Partitions -/

/-- A role (R439). -/
inductive Role where
  | anonymous | operator | owner (p : BitVec 8) | maker
  deriving DecidableEq, Repr

/-- A manifest a hamper request holds (R389): where it stands in the window, BIAS, and its plain bytes. -/
structure Manifest where
  off : Nat
  bias : Nat
  raw : Bytes
  deriving DecidableEq, Repr

/-- An image a hamper request moves: SIDX, CLASS, virtual address, bytes still to be moved at most, host offset; for a WRITE its manifest
entry but for the digest, else the manifest it stands in and the digest it must have. -/
structure Image where
  sidx : Nat
  cls : Nat := 5
  va : Nat := 0
  len : Nat
  off : Nat
  entry : Bytes := []
  src : Option Manifest := none
  digest : Bytes := []
  deriving DecidableEq, Repr

/-- An open hamper request (R377, R378, R389, R392): its 64 bytes, its writer's role, whether it uses encryption, what was captured as
it was ordered, and how far it has come. -/
structure HamJob where
  req : Bytes
  role : Role
  enc : Bool
  /-- COORD, RINGS, STEP and TIME of the manifest, and every control item that may be captured with its VALUE (R378, R381, R383). -/
  coord : Word
  rings : Word
  step : Word
  time : DWord
  held : List (Bytes × Bytes)
  /-- Tables and manifests have been read and checked. -/
  begun : Bool := false
  control : Bytes := []
  mans : List Manifest := []
  /-- The images still to be moved; of the first, the next chunk and the plain bytes moved so far, its digest's input. -/
  todo : List Image := []
  chunk : Nat := 0
  moved : Bytes := []
  /-- The entries of the manifest written so far. -/
  entries : Bytes := []
  deriving DecidableEq, Repr

/-- A trace packet (R478). -/
structure Packet where
  kind : Byte
  part : Byte
  path : Path
  data : Word
  stamp : DWord
  deriving DecidableEq, Repr

/-- A trace region (R477, R480). -/
structure Region where
  enable : BitVec 16 := 0x1BF2
  /-- Packets held, oldest first. -/
  packets : List Packet := []
  written : DWord := 0
  lost : DWord := 0
  /-- Input queue (at most 64), and packets dropped since the last LOST. -/
  queue : List Packet := []
  dropped : Word := 0
  lastLost : Option Nat := none
  /-- 0x3200:03, a byte offset for reading; no select subindex of R443. -/
  readOff : Word := 0
  deriving DecidableEq, Repr

/-- One partition number (R411), with every setting, request slot and counter that is kept per partition. -/
structure Part where
  clusters : DWord := 0
  sealedMode : Bool := false
  state : BitVec 8 := 0
  result : BitVec 16 := 0
  gidBase : BitVec 16 := 0
  gidCount : BitVec 16 := 0
  groupQuota : BitVec 16 := 0
  bindQuota : BitVec 8 := 0
  /-- 64-bit counters of 0x2140, 0x2150, 0x2300, 0x2520, 0x2600, 0x2270, 0x3120, by index * 256 + subindex. -/
  ctr : SMap DWord := []
  /-- Admission (R324). -/
  admResult : BitVec 16 := 0
  short1 : DWord := 0
  short2 : DWord := 0
  plan : BitVec 16 := 0xFFFF
  /-- The plan that an accepted request leaves when its slot's outcome is written. -/
  planHeld : Option (BitVec 16) := none
  memWeight : BitVec 8 := 16
  /-- Training registers (R226) and norm slots (R218). -/
  seed : DWord := 0
  step : Word := 0
  applied : Word := 0
  consec : BitVec 16 := 0
  skipLimit : BitVec 8 := 8
  lastVerdict : BitVec 8 := 0
  verdictStep : Word := 0
  lastSum : Word := 0
  skips : DWord := 0
  normSlots : SMap Word := []
  normMarks : SMap Bool := []
  /-- Shuttle settings (R284). -/
  deadline : Word := 500000
  /-- What is left over of the count of slot waits (R287), in 1/1000 of a cycle. -/
  slotRest : Nat := 0
  weight : BitVec 8 := 16
  vc : BitVec 8 := 0xFF
  /-- Outing settings (R313). -/
  window : Word := 5000
  takeover : Word := 100
  alpha : Word := 0x3F000000
  period : BitVec 16 := 256
  /-- Launch (R346). -/
  launchResult : BitVec 16 := 0
  launchStatus : BitVec 8 := 0
  launchCount : DWord := 0
  firedCount : DWord := 0
  launchWin : Word := 0
  launchBell : DWord := 0
  repro : Bool := false
  /-- Fence (R359): status, and the captures it still waits for. -/
  fence : BitVec 8 := 0
  fenceWait : List Nat := []
  /-- Hamper (R374). -/
  hamResult : BitVec 16 := 0
  progress : DWord := 0
  lastCkid : Word := 0
  winBase : DWord := 0
  winLen : DWord := 0
  ham : Option HamJob := none
  /-- Request slots (R423): 0x2210, 0x2220, 0x2510, 0x2610. -/
  mapResult : BitVec 16 := 0
  mapCount : Word := 0
  mapBusy : Bool := false
  /-- Request objects whose slot is busy with an accepted request, by index (R506), and a load request whose memory does not answer
  yet, with its writer's session. -/
  busy : SMap Bool := []
  loadHeld : Option (Ses × BitVec 128) := none
  loadResult : BitVec 16 := 0
  grpResult : BitVec 16 := 0
  rank : Word := 0
  bindResult : BitVec 16 := 0
  /-- Cipher jobs (R409): Result, and the record of the open job. -/
  cipherResult : BitVec 16 := 0
  job : Option (BitVec 512) := none
  /-- Replay captures (R483): result, and records by slot as 128-byte numbers. -/
  replayResult : BitVec 16 := 0
  replay : SMap (BitVec 1024) := []
  deriving DecidableEq, Repr

/-! ### Memory -/

/-- The bookkeeping of a 4 KiB block (R361): its check value and writer tag, and the tags of its eight lines. -/
structure Block where
  check : Option Word := none
  tag : BitVec 24 := 0
  lineTags : SMap (BitVec 24) := []
  /-- The check value was written inverted by an injection (R372). -/
  injected : Bool := false
  deriving DecidableEq, Repr

/-- One slab (R165). -/
structure Slab where
  owner : BitVec 8 := 0xFF
  state : BitVec 8 := 0
  key : DWord := 0
  scrubs : Word := 0
  deriving DecidableEq, Repr

/-- The binding of a context (R168). -/
structure CtxBind where
  part : BitVec 8
  slot : BitVec 4
  deriving DecidableEq, Repr

/-- A read-ahead entry (R181): channel (tier-2 channels from 384), line, filler, kind (none common, some cluster), the
mapping it was filled through, stamp of the fill, and whether a read has been served from it. -/
structure ReadAhead where
  chan : Nat
  line : Nat
  part : BitVec 8
  home : Option Nat
  via : PageMap
  filled : Nat
  hit : Bool := false
  deriving DecidableEq, Repr

/-- Tier memory and its controllers. -/
structure MemSys where
  /-- Bytes by physical address (R160); an unlisted byte reads 0. -/
  tier : List Host.Cell := []
  blocks : SMap Block := []
  /-- Writes with a check value so far, by number of the writing engine (R362). -/
  tagCounts : SMap (BitVec 13) := []
  slabs : SMap Slab := [(639, { owner := 0xFE })]
  ctxs : SMap (Option CtxBind) := []
  maps : List PageMap := []
  /-- Partitions whose mapping request or unbinding awaits MAPPING_COMPLETE, with the removed mappings (R172). -/
  stale : List (BitVec 8 × PageMap) := []
  /-- Translation buffers of the four Shuttle slices, newest first, at most 512 entries (R169). -/
  sliceTlb : SMap (List PageMap) := []
  readAhead : List ReadAhead := []
  raHits : DWord := 0
  raDiscarded : DWord := 0
  raExpired : DWord := 0
  lsCorr : DWord := 0
  t1Corr : DWord := 0
  t2Corr : DWord := 0
  scrubPeriod : BitVec 16 := 24
  retired : List Nat := []
  /-- Stamps of corrected errors by 2 MiB page number, newest first (R184). -/
  pageErrs : SMap (List Nat) := []
  imbThreshold : BitVec 16 := 384
  imbPersist : BitVec 16 := 1000
  imbRatio : BitVec 16 := 0
  imbBusiest : BitVec 16 := 0
  imbEvents : Word := 0
  /-- Requests of the open window by tier-1 channel, and by channel * 256 + partition (R167). -/
  winChan : SMap Nat := []
  winPart : SMap Nat := []
  imbRun : Nat := 0
  imbLast : Option Nat := none
  /-- The bytes the last MEMORY_REQUEST read returned. -/
  lastRead : Bytes := []
  deriving DecidableEq, Repr

/-! ### Ports and the Shuttle -/

/-- A Shuttle message (R269, R299): its header fields and payload. -/
structure Msg where
  gid : BitVec 16
  seq : BitVec 16
  mt : BitVec 4
  slot : BitVec 4
  srank : BitVec 17
  offset : Word
  dest : BitVec 17
  gtag : BitVec 15
  payload : Bytes
  deriving DecidableEq, Repr

/-- A message waiting at a port's transmitter, with its virtual channel and the partition that sends it (none when it is
forwarded, R280). -/
structure OutMsg where
  vc : BitVec 3
  part : Option (BitVec 8)
  ctx : BitVec 12
  msg : Msg
  deriving DecidableEq, Repr

/-- A data frame in the replay buffer (R238): its bytes as first sent, FSEQ, VC, flits, end of its last transmission. -/
structure SentFrame where
  fseq : BitVec 24
  vc : BitVec 3
  ks : Bool
  flits : Nat
  bytes : Bytes
  sentAt : Nat
  deriving DecidableEq, Repr

/-- State of a port (R250). -/
inductive PortState where
  | off | training | up | down | failed
  deriving DecidableEq, Repr

/-- One optical port (R228 to R251). -/
structure Port where
  enable : Bool := true
  state : PortState := .off
  reason : BitVec 8 := 0
  peerSerial : BitVec 128 := 0
  peerPort : BitVec 8 := 0xFF
  /-- The last 64 delay samples of R248, newest first, and how many the present attempt to train has taken. -/
  delays : List Nat := []
  sampled : Nat := 0
  asym : Word := 0
  tolerance : Option Word := none
  ctr : SMap DWord := []
  lasers : Bool := false
  /-- Training (R244): start of the attempt, lanes locked, a HELLO of the peer passed, HELLO with SEEN received and sent. -/
  trainAt : Nat := 0
  lanes : BitVec 16 := 0
  seen : Bool := false
  seenRx : Bool := false
  seenTx : Bool := false
  triedAt : Option Nat := none
  /-- LINK_MISWIRE or LINK_REACH has been raised for the present condition (R244). -/
  miswired : Bool := false
  reachBad : Bool := false
  /-- An orderly close is under way (R243): it began at this stamp. -/
  closing : Option Nat := none
  /-- Transmitter (R238, R239). -/
  fseq : BitVec 24 := 0
  txs : BitVec 24 := 0xFFFFFF
  rpn : BitVec 4 := 0
  lastNakn : BitVec 4 := 0
  replays : Nat := 0
  replayTimes : List Nat := []
  lastRate : Option Nat := none
  buffer : List SentFrame := []
  /-- Frames of a replay still to be sent again. -/
  again : List SentFrame := []
  /-- Flits sent against each VC's allowance (keys 0 to 7) and the pool (key 8), and returned, modulo 2^24. -/
  debit : SMap (BitVec 24) := []
  credit : SMap (BitVec 24) := []
  txKs : Bool := false
  /-- FCNT of transmit slots (keys 0, 1) and last FCNT delivered under receive slots (keys 2, 3) (R245, R246). -/
  fcnt : SMap DWord := []
  txCseq : DWord := 0
  rxCseq : DWord := 0
  txQ : List OutMsg := []
  /-- Frames sent in this round by each partition in virtual channels 0 and 1; 40 stands for forwarded frames (R283). -/
  served : SMap Nat := []
  /-- The key of the slot whose message each partition sent last (R283). -/
  turns : SMap Nat := []
  /-- The last time slot of R282 that carried a data frame. -/
  slotAt : Option Nat := none
  lastCredit : Option Nat := none
  lastTs : Option Nat := none
  lastHello : Option Nat := none
  tseq : BitVec 16 := 0
  /-- Transmit stamps of the last 16 TS frames (TSEQ, stamp), newest first (R248). -/
  txStamps : List (BitVec 16 × Nat) := []
  /-- TSEQ and receive stamp of the last two TS frames received, newest first. -/
  rxStamps : List (BitVec 16 × Nat) := []
  /-- The last frame put on the fibre. -/
  lastTx : Bytes := []
  /-- Receiver (R236). -/
  ack : BitVec 24 := 0xFFFFFF
  nakn : BitVec 4 := 0
  nrsn : BitVec 2 := 0
  await : Bool := false
  tagFails : Nat := 0
  lastCtl : Nat := 0
  /-- Flits returned by this receiver per VC (keys 0 to 7) and to the pool (key 8). -/
  returned : SMap (BitVec 24) := []
  /-- Frames delivered and not yet taken by the Shuttle slice: message, VC, SH, flits. -/
  rxQ : List (Msg × BitVec 3 × Bool × Nat) := []
  /-- Frames that wait for the cipher engine's masking seed, oldest first, with a TS frame's receive stamp (R401). -/
  stalled : List (Bytes × Nat) := []
  /-- DISC of the last TS frame (W6, ROOTSER, W11) and its stamp (R339, R340). -/
  disc : Option (Word × BitVec 128 × Word × Nat) := none
  deriving DecidableEq, Repr

/-- A registered group (R255). -/
structure Group where
  gid : BitVec 16
  gtag : BitVec 15
  axes : BitVec 4
  ctx : BitVec 12
  base : BitVec 17
  extent : Word
  part : BitVec 8
  deriving DecidableEq, Repr

/-- A CTS (R270): the sender's rank and slot, KIND, W1 to W4, the grant. -/
structure CtsRec where
  srank : Nat
  slot : BitVec 4
  kind : Word
  w1 : Word
  w2 : Word
  w3 : Word
  w4 : Word
  first : Nat
  count : Nat
  deriving DecidableEq, Repr

/-- A grant or a piece of a transfer: the number of the transfer in the slot's list of transfers, first unit, units. -/
structure Piece where
  transfer : Nat
  first : Nat
  count : Nat
  deriving DecidableEq, Repr

/-- An open collective slot (R271): the descriptor's body, who issued it, and how far it has come. -/
structure Slot where
  body : List Word
  tile : Path
  cmd : Nat
  stag : Word
  opened : DWord
  /-- The deadline of R284, fixed at the opening. -/
  deadline : DWord := 0
  part : Nat
  gid : BitVec 16
  seq : BitVec 16
  rank : Nat
  size : Nat
  /-- Data transfers are laid out: from the opening on, but for ALLTOALLV only once every count is held (R277). -/
  laid : Bool := false
  /-- Grants taken from peers, with the peer's slot (R273), and ranks whose CTS(counts) or CTS(token) is held, likewise. -/
  grantsIn : List (Piece × BitVec 4) := []
  ready : List (Nat × BitVec 4) := []
  /-- Grants given to peers. -/
  grantsOut : List Piece := []
  /-- Pieces received, in the order of arrival, and pieces sent. -/
  got : List Piece := []
  sent : List Piece := []
  /-- Units whose final value stands at the destination: first unit, units. -/
  final : List (Nat × Nat) := []
  /-- Bytes received and final values, by transfer, unit and byte. -/
  work : SMap Byte := []
  /-- Receive counts by q * NSUB + k, the ranks whose counts are held, and the ranks COUNTS went to (R277). -/
  counts : SMap Word := []
  countsFrom : List Nat := []
  countsTo : List Nat := []
  /-- Ranks a TOKEN came from and went to (R264). -/
  tokens : List Nat := []
  tokensTo : List Nat := []
  /-- Ranks whose DONE covers all that was sent to them, and ranks DONE went to (R274). -/
  doneFrom : List Nat := []
  doneTo : List Nat := []
  /-- Ranks that messages without DONE went to, and the port each left by (R286). -/
  via : List (Nat × Nat) := []
  deriving DecidableEq, Repr

/-- The Shuttle's module-wide state (R254 to R272). -/
structure Shuttle where
  coords : Word := 0
  rings : Word := 0x00020211
  pathMode : BitVec 8 := 0
  groups : List Group := []
  /-- Open slots by context * 16 + slot. -/
  slots : SMap (Option Slot) := []
  /-- Early table entries: context, GID, SEQ, CTS. -/
  early : List (BitVec 12 × BitVec 16 × BitVec 16 × CtsRec) := []
  stray : SMap Nat := []
  deriving DecidableEq, Repr

/-! ### Outings -/

/-- The identity of a span or a binding (R289): outing, B, L, ALPHA. -/
structure Identity where
  outno : Word := 0xFFFFFFFF
  b : Byte := 0
  l : Byte := 0
  alpha : Word := 0
  deriving DecidableEq, Repr

/-- A bitmap record (R304). -/
structure Bitmap where
  outno : Word
  alpha : Word
  b : Byte
  l : Byte
  pub : Byte
  s : Byte
  app : Identity
  deadline : DWord
  pubAt : DWord
  deriving DecidableEq, Repr

/-- What is known of a rank's contribution to an outing (R300): units written, the APP fields its messages carried
(none once two differed), the stamp of the last byte. -/
structure Contribution where
  outno : Word
  rank : Nat
  units : List (Nat × Nat)
  app : Option Identity
  mixed : Bool
  step : Word
  /-- When the last byte was written; none while bytes are missing. -/
  stamp : Option DWord
  deriving DecidableEq, Repr

/-- A receipt (R299, R300) with the stamp of its acceptance. -/
structure Receipt where
  outno : Word
  rank : Nat
  cur : Byte
  late : Byte
  stamp : DWord
  deriving DecidableEq, Repr

/-- An open OUT_EXCHANGE (R301). -/
structure Exchange where
  outno : Word
  tile : Path
  cmd : Nat
  stag : Word
  waitAll : Bool
  /-- The status once it is fixed; the command then waits only for its last CONTRIB to be sent (R301). -/
  status : Option Nat := none
  /-- CUR and LATE of the last RECEIPT sent. -/
  sentRcpt : Option (Byte × Byte) := none
  deriving DecidableEq, Repr

/-- An open OUT_SNAPFETCH (R310). -/
structure Fetch where
  tile : Path
  cmd : Nat
  stag : Word
  outno : Word
  span : Nat
  sidx : BitVec 16
  peer : Nat
  began : DWord
  busyAt : Option DWord := none
  asked : DWord
  app : Option Identity := none
  units : List (Nat × Nat) := []
  deriving DecidableEq, Repr

/-- An outing binding (R291, R292). -/
structure Binding where
  gid : BitVec 16
  part : BitVec 8
  ctx : BitVec 12
  clen : Nat
  xva : Nat
  stva : Nat
  nspan : Nat
  accepted : Identity := {}
  /-- The last two accepted bitmaps, newest first, with the stamp of acceptance. -/
  bitmaps : List (Bitmap × DWord) := []
  contribs : List Contribution := []
  /-- Receipts for the next outing, newest first. -/
  receipts : List Receipt := []
  /-- OWNLATE records (outing, value), newest first, at most two (R308). -/
  ownLate : List (Word × Bool) := []
  /-- Outings whose exchange has fixed a status (R307). -/
  statuses : List (Word × Nat) := []
  /-- The last outing whose late contributions an OUT_APPLY has folded in and counted (R313). -/
  folded : Option Word := none
  /-- OPEN stamps by outing (R301). -/
  openAt : List (Word × DWord) := []
  exch : Option Exchange := none
  fetch : Option Fetch := none
  lastStray : Option Nat := none
  /-- The result block's first 76 bytes as last written (R306, R311). -/
  result : Bytes := []
  deriving DecidableEq, Repr

/-! ### Counter, integrity, security, management, tag, power, trace -/

/-- The counter discipline (R337 to R343). -/
structure TimeSys where
  dstate : BitVec 8 := 0
  role : BitVec 8 := 0
  priority : BitVec 8 := 255
  parent : BitVec 8 := 0xFF
  offset : Word := 0
  unc : Nat := 0
  sunc : Nat := 0
  prio : BitVec 8 := 255
  rootSerial : BitVec 128 := 0
  rate : Word := 0
  dhops : BitVec 8 := 0xFF
  shops : BitVec 8 := 0xFF
  everLocked : Bool := false
  stepped : Bool := false
  /-- The last estimates of the parent's port, newest first, in 1/4 ps. -/
  thetas : List Int := []
  /-- Since when the estimate has stayed within 2 ns. -/
  withinSince : Option Nat := none
  /-- The roots heard on D ports within the last second, each with the stamp at which it was last heard. -/
  heard : List (Nat × Nat) := []
  listenFrom : Nat := 0
  uncHigh : Bool := false
  suncHigh : Bool := false
  holdSince : Option Nat := none
  deriving DecidableEq, Repr

/-- An event record (R367); detail is the 40 DETAIL bytes as a little-endian number. -/
structure EventRec where
  code : BitVec 16
  path : Path
  seqno : Word
  time : DWord
  part : Byte
  flags : Byte
  ctx : BitVec 16
  stag : Word
  detail : BitVec 320
  deriving DecidableEq, Repr

/-- Integrity objects (R359, R369, R372). -/
structure Integ where
  sampleExp : BitVec 8 := 8
  ctr : SMap DWord := []
  highMark : Word := 0
  nextCap : Nat := 0
  log : List EventRec := []
  nextSeq : Word := 0
  fatalRec : Option EventRec := none
  notifyMask : Byte := 0x0C
  injTarget : BitVec 16 := 0
  injKind : BitVec 8 := 0
  armed : Bool := false
  /-- Kind and target of the armed injection, as held when it was armed (R372). -/
  armKind : BitVec 8 := 0
  armTarget : BitVec 16 := 0
  ringMissed : SMap Nat := []
  deriving DecidableEq, Repr

/-- A key of the key store (R403 to R405). -/
structure Key where
  val : BitVec 256
  salt : Word
  ckid : Word
  deriving DecidableEq, Repr

/-- Noise source, DRBG, masking, key store, life cycle (R397 to R430), and the turns of the hamper and the cipher engine. -/
structure Security where
  noise : BitVec 8 := 0
  drbg : BitVec 8 := 0
  failures : Word := 0
  reseeds : DWord := 0
  startFails : Nat := 0
  failTimes : List Nat := []
  /-- Samples that have passed their tests since the last seed, at most the 2,048 newest, and the run of equal samples that goes on
  (R397, R398). -/
  samples : List Bool := []
  runBit : Bool := false
  runLen : Nat := 0
  /-- Key and V of the CTR_DRBG (R398). -/
  drbgKey : BitVec 256 := 0
  drbgV : BitVec 128 := 0
  sinceReseed : Nat := 0
  reseedAt : Nat := 0
  /-- Stamp of the last masking reseed: engine 0 the cipher engine, 1 to 4 the D-port engines (R401). -/
  maskAt : SMap Nat := []
  /-- The seeds of the refresh generators, by engine. -/
  maskSeed : SMap (BitVec 256) := []
  keys : SMap (Option Key) := []
  /-- The state in the fuses and the Field-Debug flag (R426). -/
  lc : BitVec 8 := 1
  fieldDebug : Bool := false
  challenge : Option (BitVec 128) := none
  lcResult : BitVec 16 := 0
  returns : BitVec 8 := 4
  /-- The partition number at which the next turn of the hamper and of the cipher engine begins (R394, R410). -/
  hamTurn : Nat := 0
  jobTurn : Nat := 0
  deriving DecidableEq, Repr

/-- An open session (R437 to R440). -/
structure Session where
  role : Role
  key : BitVec 256
  mirror : Bool
  lastSeq : Option Word := none
  lastReq : Bytes := []
  lastRsp : Bytes := []
  lastAt : Nat := 0
  deriving DecidableEq, Repr

/-- The management controller (R432 to R452). -/
structure Mgmt where
  plca : Bool := false
  nodeId : BitVec 8 := 0xFF
  nodeCount : BitVec 8 := 8
  notifyDst : DWord := 0x0000FFFFFFFFFFFF
  framesRx : DWord := 0
  framesDisc : DWord := 0
  link : BitVec 8 := 0
  beaconAt : Nat := 0
  sessions : SMap (Option Session) := []
  /-- Select subindices by session * 2^24 + index * 2^8 + subindex (R443). -/
  selects : SMap Word := []
  /-- Challenges bound to a source (R439): source key, bytes, stamp. -/
  challenges : List (Nat × BitVec 128 × Nat) := []
  challengeCtr : DWord := 0
  operatorCred : Option (BitVec 256) := none
  ownerCreds : SMap (Option (BitVec 256)) := []
  credResult : BitVec 16 := 0
  /-- Frames that wait, oldest first, at most 32, and whether the controller has taken one in this nanosecond (R437). -/
  frameQ : List (Source × Bytes) := []
  handling : Bool := false
  /-- Mirror (R444): the posted frame, BUSY, RSP_READY, the response. -/
  mbxReq : Bytes := []
  mbxBusy : Bool := false
  mbxReady : Bool := false
  mbxRsp : Bytes := []
  ntfHead : Word := 0
  ntfTail : Word := 0
  ntfRing : SMap (BitVec 256) := []
  notifyQ : List EventRec := []
  notifyLost : Bool := false
  /-- The last frame sent on the port. -/
  portTx : Bytes := []
  /-- MSI-X signals of vectors 0 and 1 since reset. -/
  msix0 : Nat := 0
  msix1 : Nat := 0
  wedged : Bool := false
  misses : Nat := 0
  powerSetting : BitVec 8 := 1
  shutMode : BitVec 8 := 0
  actions : Word := 0
  /-- Fatal capture (R452): state, and the 32 segments of 1 KiB. -/
  capState : BitVec 8 := 0
  capture : List Bytes := []
  /-- Uncorrectable Internal Error messages sent under PCIe AER (R364). -/
  aerSent : Nat := 0
  /-- The last answer of the debug connector (R429). -/
  debugOut : Bytes := []
  deriving DecidableEq, Repr

/-- Who holds the tag lock (R456). -/
inductive TagHolder where
  | session (n : Ses)
  | controller
  | publishing
  deriving DecidableEq, Repr

/-- State of the tag under ISO/IEC 15693: ready, quiet or selected (R453). -/
inductive TagMode where
  | ready | quiet | selected
  deriving DecidableEq, Repr

/-- The vicinity tag (R453 to R458). -/
structure Tag where
  bank0 : List Host.Cell := []
  bank1 : List Host.Cell := []
  pointer : Bool := false
  working : List Host.Cell := []
  holder : Option TagHolder := none
  waiting : Option Ses := none
  lastWrite : Nat := 0
  rfWrites : Word := 0
  rfRefused : Word := 0
  rfField : Bool := false
  publishRecords : Bool := true
  mode : TagMode := .ready
  rsp : Bytes := []
  writeAt : Option Nat := none
  refuseAt : Option Nat := none
  sinceWrite : Nat := 0
  sinceRefuse : Nat := 0
  statusAt : Option Nat := none
  deriving DecidableEq, Repr

/-- A temperature sensor (R474). -/
structure Sensor where
  temp : Word := 0
  warn : Option Word := none
  throttle : Option Word := none
  highest : Word := 0
  throttled : Bool := false
  belowSince : Option Nat := none
  deriving DecidableEq, Repr

/-- Rails, converters, clocks, readiness, thermal state (R460 to R476). -/
structure Power where
  aux : Bool := true
  main : Bool := false
  converters : Bool := false
  bridge : Bool := false
  pcieRef : Bool := false
  perst : Bool := false
  pcieUp : Bool := false
  tiersTrained : Bool := false
  lclk : BitVec 16 := 0
  functions : Word := 1
  testFailures : Word := 0
  powerCap : BitVec 16 := 2400
  enginePower : BitVec 8 := 0xFF
  draw : SMap Word := []
  sensors : SMap Sensor := []
  tripAt : Option Nat := none
  holdTime : BitVec 16 := 2000
  underlayCycles : DWord := 0
  rampCycles : DWord := 0
  /-- What is left over of the two counts, in 1/8000 of a cycle. -/
  underlayRest : Nat := 0
  rampRest : Nat := 0
  crashCount : Word := 0
  deriving DecidableEq, Repr

/-- The trace unit (R477 to R482). -/
structure Trace where
  frozen : Bool := false
  regions : SMap Region := []
  deriving DecidableEq, Repr

/-- The module, and the commands that wait, first in, first out. -/
structure State where
  pending : List Instr := []
  /-- The global counter (R335): the master, which every follower equals in this model. -/
  now : DWord := 0
  /-- The island's own count of ns since the auxiliary rail rose; every time-out is measured on it. -/
  island : Nat := 0
  /-- The number of the next free value; the model's own field, not the spec's. -/
  free : Nat := 0
  /-- A class-0xC event is in effect (R365). -/
  fatal : Bool := false
  tiles : SMap Tile := []
  wins : SMap WinRegs := []
  clusters : SMap Cluster := []
  dies : SMap Die := []
  parts : SMap Part := []
  mem : MemSys := {}
  ports : SMap Port := []
  sh : Shuttle := {}
  bindings : List Binding := []
  time : TimeSys := {}
  integ : Integ := {}
  sec : Security := {}
  mgmt : Mgmt := {}
  tag : Tag := {}
  pwr : Power := {}
  trace : Trace := {}
  /-- Host memory by PCIe bus address, as the hamper reads and writes it (R374). -/
  host : List Host.Cell := []
  deriving DecidableEq, Repr

/-- Why a step stops. Raised by every meaning whose command names a unit the spec gives the device none of; safe: the
command cannot arrive at a real module. -/
inductive Fault where
  /-- A path word, cluster, partition, sensor or other unit number outside R8, R411 or R474, or a stage number that no start-up
  test has (R464). Safe. -/
  | noSuchUnit
  deriving DecidableEq, Repr

/-- Why a command has no meaning. -/
inductive Refusal where
  /-- The command has no meaning in this model yet; raised by the dispatcher's arm alone. Safe. -/
  | notModelled (mnemonic : String)
  deriving DecidableEq, Repr

/-- The outcome of a meaning. -/
abbrev Out := Host.Outcome State Fault Refusal

/-- The module right after reset: the auxiliary rail is up, the island runs, everything else is off (R460). -/
def State.reset : State := {}

end Sys2Proof.Machine
end

