-- ==== Sys2Proof/Machine/Ops.lean ====
section
/-! DEFINITION. The named operations over the state that every family uses: maps, bytes and bit fields; tiles, panels,
clusters and partitions; the trace unit. -/

namespace Sys2Proof.Machine

/-! ### Maps with natural-number keys -/

/-- The value of a map at a key; `d` where the key is not listed. -/
def mapGet {α : Type} (d : α) : SMap α → Nat → α
  | [], _ => d
  | (j, w) :: m, k => if j = k then w else mapGet d m k

/-- A map without a key. -/
def mapErase {α : Type} : SMap α → Nat → SMap α
  | [], _ => []
  | (j, w) :: m, k => if j = k then mapErase m k else (j, w) :: mapErase m k

/-- A map with one more entry, before the first larger key. -/
def mapInsert {α : Type} : SMap α → Nat → α → SMap α
  | [], k, v => [(k, v)]
  | (j, w) :: m, k, v => if k < j then (k, v) :: (j, w) :: m else (j, w) :: mapInsert m k v

/-- A map with the value at one key replaced; the default value is not listed. -/
def mapSet {α : Type} [DecidableEq α] (d : α) (m : SMap α) (k : Nat) (v : α) : SMap α :=
  if v = d then mapErase m k else mapInsert (mapErase m k) k v

/-- Every value of a map changed by a function that keeps the default. -/
def mapEach {α : Type} [DecidableEq α] (d : α) (m : SMap α) (f : α → α) : SMap α :=
  (m.map (·.1)).foldl (fun a k => mapSet d a k (f (mapGet d m k))) m

/-- The canonical form of a map: keys strictly rising, the default value not listed. -/
def mapWf {α : Type} [DecidableEq α] (d : α) : SMap α → Bool
  | [] => true
  | [(_, w)] => decide (w ≠ d)
  | (j, w) :: (k, x) :: m => decide (w ≠ d) && decide (j < k) && mapWf d ((k, x) :: m)

/-! ### Bytes and bit fields -/

/-- Bits lo + len - 1 down to lo of a word, as a number. -/
def bits {n : Nat} (w : BitVec n) (lo len : Nat) : Nat := w.toNat / 2 ^ lo % 2 ^ len

/-- Bit i of a word. -/
def bit {n : Nat} (w : BitVec n) (i : Nat) : Bool := w.getLsbD i

/-- A number modulo 2^32. -/
def word (n : Nat) : Word := BitVec.ofNat 32 n

/-- The number a little-endian byte string spells (R10). -/
def leNat : Bytes → Nat
  | [] => 0
  | b :: bs => b.toNat + 256 * leNat bs

/-- A number as a little-endian string of `len` bytes (R10). -/
def toLE (n : Nat) : Nat → Bytes
  | 0 => []
  | len + 1 => BitVec.ofNat 8 n :: toLE (n / 256) len

/-- A number as a big-endian string of `len` bytes. -/
def toBE (n len : Nat) : Bytes := (toLE n len).reverse

/-- The number a big-endian byte string spells. -/
def beNat (bs : Bytes) : Nat := leNat bs.reverse

/-- `len` bytes of zero. -/
def zeros (len : Nat) : Bytes := List.replicate len 0

/-- A byte string cut or filled with zeros to a length. -/
def fit (bs : Bytes) (len : Nat) : Bytes := bs.take len ++ zeros (len - bs.length)

/-- `len` bytes from offset `off` of a string; zeros past its end. -/
def slice (bs : Bytes) (off len : Nat) : Bytes := fit (bs.drop off) len

/-- The little-endian number in `len` bytes at an offset. -/
def fieldAt (bs : Bytes) (off len : Nat) : Nat := leNat (slice bs off len)

/-- The exclusive or of two strings, of the length of the shorter. -/
def xorBytes (a b : Bytes) : Bytes := List.zipWith (· ^^^ ·) a b

/-- A string with one byte replaced. -/
def setByte (bs : Bytes) (i : Nat) (b : Byte) : Bytes := bs.set i b

/-- A number as a two's-complement value of n bits. -/
def signed (n w : Nat) : Int := if w % 2 ^ n < 2 ^ (n - 1) then (w % 2 ^ n : Nat) else ((w % 2 ^ n : Nat) : Int) - 2 ^ n

/-- A byte-addressed store read: `len` bytes from an address; an unlisted byte reads 0. -/
def readCells (m : List Host.Cell) (a : Nat) : Nat → Bytes
  | 0 => []
  | len + 1 => mapGet 0 m a :: readCells m (a + 1) len

/-- A byte-addressed store written with a string from an address on. -/
def writeCells (m : List Host.Cell) (a : Nat) : Bytes → List Host.Cell
  | [] => m
  | b :: bs => writeCells (mapSet 0 m a b) (a + 1) bs

/-- The canonical form of a byte-addressed store: rising addresses, no listed zero. -/
def Memory.wf (m : List Host.Cell) : Bool := mapWf 0 m

/-! ### Units: tiles, panels, clusters, dies (R8, R22, R42, R106) -/

/-- Bits 15:14 of a path word: the die. -/
def dieOf (t : Path) : Nat := bits t 14 2

/-- The cluster number 0 to 39 of a path word: ten per die. -/
def clusterOf (t : Path) : Nat := dieOf t * 10 + bits t 10 4

/-- The tile number within its cluster. -/
def tileNo (t : Path) : Nat := bits t 4 6

/-- The path word of tile n of cluster k. -/
def pathOf (k n : Nat) : Path := BitVec.ofNat 16 (k / 10 * 16384 + k % 10 * 1024 + n * 16)

/-- A path word names a tile, active or checker (R22). -/
def validPath (t : Path) : Bool := bits t 0 4 = 0 && bits t 10 4 ≤ 9 && tileNo t ≤ 32

/-- A path word names an active tile (R8). -/
def activePath (t : Path) : Bool := bits t 0 4 = 0 && bits t 10 4 ≤ 9 && tileNo t ≤ 31

/-- A tile's state. -/
def State.tile (s : State) (t : Path) : Tile := mapGet {} s.tiles t.toNat

/-- A tile's state replaced. -/
def State.setTile (s : State) (t : Path) (x : Tile) : State := { s with tiles := mapSet {} s.tiles t.toNat x }

/-- A tile's state changed by a function. -/
def State.modTile (s : State) (t : Path) (f : Tile → Tile) : State := s.setTile t (f (s.tile t))

/-- A cluster's state. -/
def State.cluster (s : State) (k : Nat) : Cluster := mapGet {} s.clusters k

/-- A cluster's state changed by a function. -/
def State.modCluster (s : State) (k : Nat) (f : Cluster → Cluster) : State :=
  { s with clusters := mapSet {} s.clusters k (f (s.cluster k)) }

/-- A die's state. -/
def State.die (s : State) (d : Nat) : Die := mapGet {} s.dies d

/-- A die's state changed by a function. -/
def State.modDie (s : State) (d : Nat) (f : Die → Die) : State :=
  { s with dies := mapSet {} s.dies d (f (s.die d)) }

/-- A partition's state. -/
def State.part (s : State) (p : Nat) : Part := mapGet {} s.parts p

/-- A partition's state changed by a function. -/
def State.modPart (s : State) (p : Nat) (f : Part → Part) : State :=
  { s with parts := mapSet {} s.parts p (f (s.part p)) }

/-- A port's state. -/
def State.port (s : State) (p : Nat) : Port := mapGet {} s.ports p

/-- A port's state changed by a function. -/
def State.modPort (s : State) (p : Nat) (f : Port → Port) : State :=
  { s with ports := mapSet {} s.ports p (f (s.port p)) }

/-- The width of the panel a tile belongs to: 1, 2 or 4 (R106). A checker tile forms no panel. -/
def State.panelWidth (s : State) (t : Path) : Nat :=
  if tileNo t ≤ 31 then
    match bits (s.cluster (clusterOf t)).layout (2 * (tileNo t / 4)) 2 with
    | 1 => 2
    | 2 => 4
    | _ => 1
  else 1

/-- The lowest member of the panel a tile belongs to, which acts for the panel (R42). -/
def State.lead (s : State) (t : Path) : Path :=
  pathOf (clusterOf t) (tileNo t / s.panelWidth t * s.panelWidth t)

/-- The members of the panel a tile belongs to, lowest first. -/
def State.members (s : State) (t : Path) : List Path :=
  (List.range (s.panelWidth t)).map fun i => pathOf (clusterOf t) (tileNo t / s.panelWidth t * s.panelWidth t + i)

/-- The active tiles of a cluster. -/
def clusterTiles (k : Nat) : List Path := (List.range 32).map (pathOf k)

/-- The numbers below n for which a test holds. -/
def numbers (n : Nat) (f : Nat → Bool) : List Nat := (List.range n).filter f

/-! ### Partitions (R411, R504) -/

/-- A partition number is formed: 0x2000:04 reads 1 or 2. -/
def State.formed (s : State) (p : Nat) : Bool := p < 40 && (s.part p).state ≠ 0

/-- The clusters of a partition. -/
def State.partClusters (s : State) (p : Nat) : List Nat := numbers 40 fun k => bit (s.part p).clusters k

/-- The active tiles of a partition, lowest first. -/
def State.partTiles (s : State) (p : Nat) : List Path := (s.partClusters p).flatMap clusterTiles

/-- The partition that owns a cluster. -/
def State.ownerOf (s : State) (k : Nat) : Option Nat :=
  (List.range 40).find? fun p => s.formed p && bit (s.part p).clusters k

/-- The partition that owns a tile. -/
def State.partOf (s : State) (t : Path) : Option Nat := s.ownerOf (clusterOf t)

/-- The binding of a context (R168). -/
def State.ctxBind (s : State) (c : Nat) : Option CtxBind := mapGet none s.mem.ctxs c

/-- The context in slot n of a partition (R168). -/
def State.slotCtx (s : State) (p n : Nat) : Option (BitVec 12) :=
  (s.mem.ctxs.find? fun e => e.2 = some ⟨BitVec.ofNat 8 p, BitVec.ofNat 4 n⟩).map fun e => BitVec.ofNat 12 e.1

/-- The context that doorbells and windows of a tile's partition carry: slot 0 (R504). -/
def State.ownCtx (s : State) (t : Path) : Option (BitVec 12) := (s.partOf t).bind fun p => s.slotCtx p 0

/-- A partition runs reproducibly (R349). -/
def State.repro (s : State) (t : Path) : Bool :=
  match s.partOf t with
  | some p => (s.part p).repro
  | none => false

/-- A cluster can take commands: readiness reported and Current at 0 or 1 (R466, R470). -/
def State.clusterUp (s : State) (k : Nat) : Bool :=
  (s.cluster k).ready && (s.cluster k).current.toNat ≤ 1

/-- A 64-bit counter of a partition, by index and subindex. -/
def Part.counter (x : Part) (idx sub : Nat) : DWord := mapGet 0 x.ctr (idx * 256 + sub)

/-- A counter of a partition raised, saturating at 2^64 - 1. -/
def Part.count (x : Part) (idx sub n : Nat) : Part :=
  let v := BitVec.ofNat 64 (min ((x.counter idx sub).toNat + n) (2 ^ 64 - 1))
  { x with ctr := mapSet 0 x.ctr (idx * 256 + sub) v }

/-- A 64-bit number raised, saturating at 2^64 - 1. -/
def satAdd64 (x : DWord) (n : Nat) : DWord := BitVec.ofNat 64 (min (x.toNat + n) (2 ^ 64 - 1))

/-- A counter of a partition raised in the state, where the partition exists. -/
def State.countPart (s : State) (p : Option Nat) (idx sub n : Nat) : State :=
  match p with
  | some q => if n = 0 then s else s.modPart q fun x => x.count idx sub n
  | none => s

/-- A fold over a list that carries the state. -/
def State.each {α : Type} (s : State) (xs : List α) (f : State → α → State) : State := xs.foldl f s

/-- A value the spec leaves open. -/
def State.freeWord (s : State) : Word × State :=
  (Config.freeWord s.free, { s with free := s.free + 1 })

/-- The outcome of a command that names a unit: the fault where the unit does not exist. -/
def guardUnit (ok : Bool) (out : State) : Out := if ok then .next out else .fault .noSuchUnit

/-! ### The trace unit (R477 to R482) -/

/-- A trace region: 0 to 39, or 254 for the device. -/
def State.region (s : State) (r : Nat) : Region := mapGet {} s.trace.regions r

/-- A trace region changed by a function. -/
def State.modRegion (s : State) (r : Nat) (f : Region → Region) : State :=
  { s with trace := { s.trace with regions := mapSet {} s.trace.regions r (f (s.region r)) } }

/-- The kinds that the mask of 0x3200:02 governs (R479, R480). -/
def kindEnabled (mask : BitVec 16) (kind : Nat) : Bool :=
  if kind = 1 ∨ kind = 2 ∨ kind = 3 ∨ kind = 10 then bit mask kind else true

/-- The unit captures a kind for a partition's region: not frozen, powered, the kind enabled. -/
def State.capturing (s : State) (part kind : Nat) : Bool :=
  !s.trace.frozen && s.pwr.converters && kindEnabled (s.region (if part < 40 then part else 254)).enable kind

/-- A packet handed to its region's input queue; the second value says that it was dropped there (R477). A packet of a
tile or cluster between MARKER and RESYNC is not written (R481); a frozen unit discards what arrives (R482); without the
48 V converters the unit has no power. -/
def State.pushPacket (s : State) (part : Byte) (path : Path) (kind : Byte) (data : Word) : State × Bool :=
  let r := if part.toNat < 40 then part.toNat else 254
  let reg := s.region r
  if !s.capturing part.toNat kind.toNat then (s, false)
  else if reg.queue.length < 64 then
    let pkt : Packet := { kind, part := if part.toNat < 40 then part else 0xFE, path, data, stamp := s.now }
    (s.modRegion r fun x => { x with queue := x.queue ++ [pkt] }, false)
  else
    let drop (x : Region) : Word := BitVec.ofNat 32 (min (x.dropped.toNat + 1) (2 ^ 32 - 1))
    (s.modRegion r fun x => { x with dropped := drop x, lost := satAdd64 x.lost 1 }, true)

end Sys2Proof.Machine
end

