-- ==== Sys2Proof/Machine/Crypto.lean ====
section
/-! DEFINITION. The check and cipher functions the spec names by their standards: CRC-32C (R231), AES of FIPS 197, the
modes of NIST SP 800-38A to 800-38F (R404, R407), SHA-256 of FIPS 180-4. -/

namespace Sys2Proof.Machine

/-! ### CRC-32C -/

/-- Eight shift steps of the reflected Castagnoli polynomial. -/
def crcShift : Nat → Word → Word
  | 0, c => c
  | n + 1, c => crcShift n ((c >>> 1) ^^^ (if bit c 0 then 0x82F63B78 else 0))

/-- One byte into the running CRC. -/
def crcByte (c : Word) (b : Byte) : Word := crcShift 8 (c ^^^ b.setWidth 32)

/-- The CRC-32C of a string: initial value and final exclusive or 0xFFFFFFFF. -/
def crc32c (bs : Bytes) : Word := bs.foldl crcByte 0xFFFFFFFF ^^^ 0xFFFFFFFF

/-! ### AES -/

/-- Multiplication by x in the field of AES. -/
def xtime (b : Byte) : Byte := (b <<< 1) ^^^ (if bit b 7 then 0x1B else 0)

/-- The product in the field of AES over the low n bits of the second factor. -/
def gmulBits : Nat → Byte → Byte → Byte
  | 0, _, _ => 0
  | n + 1, a, b => (if bit b 0 then a else 0) ^^^ gmulBits n (xtime a) (b >>> 1)

/-- The product in the field of AES. -/
def gmul (a b : Byte) : Byte := gmulBits 8 a b

/-- n successive squares multiplied together: a^2 a^4 … a^(2^n). -/
def gsquares : Nat → Byte → Byte
  | 0, _ => 1
  | n + 1, a => gmul (gmul a a) (gsquares n (gmul a a))

/-- The inverse in the field of AES, a^254; 0 for 0. -/
def ginv (a : Byte) : Byte := gsquares 7 a

/-- The S-box of FIPS 197. -/
def sbox (b : Byte) : Byte :=
  let x := ginv b
  x ^^^ x.rotateLeft 1 ^^^ x.rotateLeft 2 ^^^ x.rotateLeft 3 ^^^ x.rotateLeft 4 ^^^ 0x63

/-- The inverse S-box. -/
def invSbox (b : Byte) : Byte := ginv (b.rotateLeft 1 ^^^ b.rotateLeft 3 ^^^ b.rotateLeft 6 ^^^ 0x05)

/-- x^n in the field of AES: the round constants. -/
def rcon : Nat → Byte
  | 0 => 1
  | n + 1 => xtime (rcon n)

/-- The next word of the key schedule from word i - 1 and word i - nk. -/
def nextKeyWord (nk i : Nat) (prev back : Bytes) : Bytes :=
  let t :=
    if i % nk = 0 then xorBytes ((prev.drop 1 ++ prev.take 1).map sbox) [rcon (i / nk - 1), 0, 0, 0]
    else if 6 < nk ∧ i % nk = 4 then prev.map sbox
    else prev
  xorBytes back t

/-- A string cut into pieces of n bytes; `fuel` bounds the number of pieces. -/
def chunksFuel (n : Nat) : Nat → Bytes → List Bytes
  | 0, _ => []
  | fuel + 1, bs => if bs.isEmpty then [] else bs.take n :: chunksFuel n fuel (bs.drop n)

/-- A string cut into pieces of n bytes. -/
def chunks (n : Nat) (bs : Bytes) : List Bytes := chunksFuel n bs.length bs

/-- The key schedule, newest word first: `n` more words. -/
def expandKey (nk : Nat) : Nat → Nat → List Bytes → List Bytes
  | 0, _, ws => ws
  | n + 1, i, ws => expandKey nk n (i + 1) (nextKeyWord nk i (ws.getD 0 []) (ws.getD (nk - 1) []) :: ws)

/-- The round keys of a key of 16 or 32 bytes. -/
def roundKeys (key : Bytes) : List Bytes :=
  let nk := key.length / 4
  let ws := (expandKey nk (4 * (nk + 7) - nk) nk (chunks 4 key).reverse).reverse
  chunks 16 ws.flatten

/-- Rows shifted left: byte r + 4c comes from column c + r. -/
def shiftRows (b : Bytes) : Bytes := (List.range 16).map fun i => b.getD (i % 4 + 4 * ((i / 4 + i % 4) % 4)) 0

/-- Rows shifted right. -/
def invShiftRows (b : Bytes) : Bytes := (List.range 16).map fun i => b.getD (i % 4 + 4 * ((i / 4 + 4 - i % 4) % 4)) 0

/-- One column multiplied by the circulant matrix with first row `m`. -/
def mixColumn (m col : Bytes) : Bytes :=
  (List.range 4).map fun r =>
    (List.range 4).foldl (fun acc c => acc ^^^ gmul (m.getD ((c + 4 - r) % 4) 0) (col.getD c 0)) 0

/-- Every column multiplied. -/
def mixColumns (m b : Bytes) : Bytes := ((chunks 4 b).map (mixColumn m)).flatten

/-- The middle rounds and the last round of the cipher. -/
def aesRounds : List Bytes → Bytes → Bytes
  | [], b => b
  | [k], b => xorBytes (shiftRows (b.map sbox)) k
  | k :: ks, b => aesRounds ks (xorBytes (mixColumns [2, 3, 1, 1] (shiftRows (b.map sbox))) k)

/-- One block enciphered under round keys. -/
def aesBlock (rk : List Bytes) (b : Bytes) : Bytes := aesRounds (rk.drop 1) (xorBytes b (rk.getD 0 []))

/-- The middle rounds and the last round of the inverse cipher. -/
def aesInvRounds : List Bytes → Bytes → Bytes
  | [], b => b
  | [k], b => xorBytes ((invShiftRows b).map invSbox) k
  | k :: ks, b => aesInvRounds ks (mixColumns [14, 11, 13, 9] (xorBytes ((invShiftRows b).map invSbox) k))

/-- One block deciphered under round keys. -/
def aesInvBlock (rk : List Bytes) (b : Bytes) : Bytes :=
  aesInvRounds (rk.reverse.drop 1) (xorBytes b (rk.reverse.getD 0 []))

/-! ### Modes -/

/-- CBC over whole blocks. -/
def cbcEnc (rk : List Bytes) : Bytes → List Bytes → List Bytes
  | _, [] => []
  | iv, b :: bs => let c := aesBlock rk (xorBytes b iv); c :: cbcEnc rk c bs

/-- CBC decryption of whole blocks. -/
def cbcDec (rk : List Bytes) : Bytes → List Bytes → List Bytes
  | _, [] => []
  | iv, c :: cs => xorBytes (aesInvBlock rk c) iv :: cbcDec rk c cs

/-- The counter block after one: bits 31:0 of the block increment modulo 2^32. -/
def incBlock (b : Bytes) : Bytes := b.take 12 ++ toBE ((beNat (b.drop 12) + 1) % 2 ^ 32) 4

/-- CTR over pieces of at most 16 bytes. -/
def ctrPieces (rk : List Bytes) : Bytes → List Bytes → List Bytes
  | _, [] => []
  | ctr, p :: ps => xorBytes p (aesBlock rk ctr) :: ctrPieces rk (incBlock ctr) ps

/-- CTR over a string. -/
def ctrMode (rk : List Bytes) (ctr msg : Bytes) : Bytes := (ctrPieces rk ctr (chunks 16 msg)).flatten

/-- CFB-128 encryption over pieces; the last is cut. -/
def cfbEnc (rk : List Bytes) : Bytes → List Bytes → List Bytes
  | _, [] => []
  | iv, p :: ps => let c := xorBytes p (aesBlock rk iv); c :: cfbEnc rk c ps

/-- CFB-128 decryption over pieces. -/
def cfbDec (rk : List Bytes) : Bytes → List Bytes → List Bytes
  | _, [] => []
  | iv, c :: cs => xorBytes c (aesBlock rk iv) :: cfbDec rk c cs

/-- The product in the field of GHASH, over the top n bits of the first factor. -/
def ghashMulBits : Nat → BitVec 128 → BitVec 128 → BitVec 128
  | 0, _, _ => 0
  | n + 1, x, v =>
    (if x.getLsbD 127 then v else 0) ^^^
      ghashMulBits n (x <<< 1) ((v >>> 1) ^^^ (if v.getLsbD 0 then 0xE1000000000000000000000000000000 else 0))

/-- GHASH over whole blocks. -/
def ghash (h : BitVec 128) (blocks : List Bytes) : BitVec 128 :=
  blocks.foldl (fun y b => ghashMulBits 128 (y ^^^ BitVec.ofNat 128 (beNat b)) h) 0

/-- A string filled with zeros to a multiple of 16 bytes. -/
def pad16 (bs : Bytes) : Bytes := bs ++ zeros ((16 - bs.length % 16) % 16)

/-- The GCM tag of additional data and ciphertext under a 96-bit IV. -/
def gcmTag (rk : List Bytes) (iv aad ct : Bytes) : Bytes :=
  let h := BitVec.ofNat 128 (beNat (aesBlock rk (zeros 16)))
  let s := ghash h (chunks 16 (pad16 aad ++ pad16 ct ++ toBE (8 * aad.length) 8 ++ toBE (8 * ct.length) 8))
  xorBytes (toBE s.toNat 16) (aesBlock rk (iv ++ [0, 0, 0, 1]))

/-- GCM encryption, and decryption: the counter starts at 2. -/
def gcmCrypt (rk : List Bytes) (iv msg : Bytes) : Bytes := ctrMode rk (iv ++ [0, 0, 0, 2]) msg

/-- Doubling in the field of CMAC. -/
def cmacDouble (x : BitVec 128) : BitVec 128 := (x <<< 1) ^^^ (if x.getLsbD 127 then 0x87 else 0)

/-- The blocks a CMAC is taken over: the last one is exclusive-ored with a subkey, after padding 10…0 if it is not full. -/
def cmacBlocks (k1 k2 : Bytes) : List Bytes → List Bytes
  | [] => [xorBytes (0x80 :: zeros 15) k2]
  | [b] => if b.length = 16 then [xorBytes b k1] else [xorBytes (fit (b ++ [0x80]) 16) k2]
  | b :: bs => b :: cmacBlocks k1 k2 bs

/-- The AES-CMAC of a message. -/
def cmac (key msg : Bytes) : Bytes :=
  let rk := roundKeys key
  let l := BitVec.ofNat 128 (beNat (aesBlock rk (zeros 16)))
  let k1 := toBE (cmacDouble l).toNat 16
  let k2 := toBE (cmacDouble (cmacDouble l)).toNat 16
  (cmacBlocks k1 k2 (chunks 16 msg)).foldl (fun x b => aesBlock rk (xorBytes x b)) (zeros 16)

/-- The blocks CCM authenticates (SP 800-38C Appendix A): B0, the additional data with its length, the message. -/
def ccmBlocks (nonce aad msg : Bytes) (tlen : Nat) : List Bytes :=
  let q := 15 - nonce.length
  let flags := (if aad.isEmpty then 0 else 64) + 8 * ((tlen - 2) / 2) + (q - 1)
  let b0 := BitVec.ofNat 8 flags :: nonce ++ toBE msg.length q
  let a :=
    if aad.isEmpty then []
    else if aad.length < 0xFF00 then toBE aad.length 2 ++ aad
    else [0xFF, 0xFE] ++ toBE aad.length 4 ++ aad
  chunks 16 (b0 ++ pad16 a ++ pad16 msg)

/-- Counter block i of CCM. -/
def ccmCtr (nonce : Bytes) (i : Nat) : Bytes :=
  BitVec.ofNat 8 (14 - nonce.length) :: nonce ++ toBE i (15 - nonce.length)

/-- The key stream of CCM over pieces of the message. -/
def ccmPieces (rk : List Bytes) (nonce : Bytes) : Nat → List Bytes → List Bytes
  | _, [] => []
  | i, p :: ps => xorBytes p (aesBlock rk (ccmCtr nonce i)) :: ccmPieces rk nonce (i + 1) ps

/-- CCM encryption, and decryption, of a message. -/
def ccmCrypt (rk : List Bytes) (nonce msg : Bytes) : Bytes := (ccmPieces rk nonce 1 (chunks 16 msg)).flatten

/-- The CCM tag of a message. -/
def ccmTag (rk : List Bytes) (nonce aad msg : Bytes) (tlen : Nat) : Bytes :=
  let t := (ccmBlocks nonce aad msg tlen).foldl (fun x b => aesBlock rk (xorBytes x b)) (zeros 16)
  (xorBytes t (aesBlock rk (ccmCtr nonce 0))).take tlen

/-- One step of AES-KW unwrapping: counter t, register A, and the list of half-blocks in the order they are taken. -/
def kwUnwrapStep (rk : List Bytes) (n : Nat) : Nat → Bytes → List Bytes → Bytes × List Bytes
  | 0, a, r => (a, r)
  | t + 1, a, r =>
    let i := t % n
    let b := aesInvBlock rk (xorBytes a (toBE (t + 1) 8) ++ r.getD i [])
    kwUnwrapStep rk n t (b.take 8) (r.set i (b.drop 8))

/-- AES-KW unwrapping (SP 800-38F): none where the integrity check fails. -/
def kwUnwrap (kek wrapped : Bytes) : Option Bytes :=
  let r := chunks 8 (wrapped.drop 8)
  let (a, r') := kwUnwrapStep (roundKeys kek) r.length (6 * r.length) (wrapped.take 8) r
  if a = List.replicate 8 0xA6 then some r'.flatten else none

/-- One step of AES-KW wrapping: `m` steps from counter t on. -/
def kwWrapStep (rk : List Bytes) (n : Nat) : Nat → Nat → Bytes → List Bytes → Bytes × List Bytes
  | 0, _, a, r => (a, r)
  | m + 1, t, a, r =>
    let i := t % n
    let b := aesBlock rk (a ++ r.getD i [])
    kwWrapStep rk n m (t + 1) (xorBytes (b.take 8) (toBE (t + 1) 8)) (r.set i (b.drop 8))

/-- AES-KW wrapping (SP 800-38F). -/
def kwWrap (kek plain : Bytes) : Bytes :=
  let r := chunks 8 plain
  let (a, r') := kwWrapStep (roundKeys kek) r.length (6 * r.length) 0 (List.replicate 8 0xA6) r
  a ++ r'.flatten

/-! ### CTR_DRBG with AES-256 (R398, SP 800-90A) -/

/-- So many blocks of output; V rises by one before each. -/
def drbgBlocks (rk : List Bytes) : Nat → BitVec 128 → Bytes × BitVec 128
  | 0, v => ([], v)
  | n + 1, v =>
    let more := drbgBlocks rk n (v + 1)
    (aesBlock rk (toBE (v + 1).toNat 16) ++ more.1, more.2)

/-- Key and V after the update with 48 bytes. -/
def drbgUpdate (key : BitVec 256) (v : BitVec 128) (data : Bytes) : BitVec 256 × BitVec 128 :=
  let t := xorBytes (drbgBlocks (roundKeys (toBE key.toNat 32)) 3 v).1 data
  (BitVec.ofNat 256 (beNat (t.take 32)), BitVec.ofNat 128 (beNat (t.drop 32)))

/-- The derivation function over an input, for 48 bytes: a CBC-MAC under a fixed key gives a key and a block, which is then
enciphered again and again. -/
def drbgDerive (input : Bytes) : Bytes :=
  let body := toBE input.length 4 ++ toBE 48 4 ++ input ++ [0x80]
  let whole := body ++ zeros ((16 - body.length % 16) % 16)
  let fixed := roundKeys ((List.range 32).map fun i => BitVec.ofNat 8 i)
  let mac (i : Nat) : Bytes := (chunks 16 (toBE i 4 ++ zeros 12 ++ whole)).foldl (fun x b => aesBlock fixed (xorBytes x b)) (zeros 16)
  let t := mac 0 ++ mac 1 ++ mac 2
  let rk := roundKeys (t.take 32)
  let a := aesBlock rk (t.drop 32)
  let b := aesBlock rk a
  a ++ b ++ aesBlock rk b

/-- A generate request for so many bytes (R398). -/
def State.generate (s : State) (n : Nat) : Bytes × State :=
  let out := drbgBlocks (roundKeys (toBE s.sec.drbgKey.toNat 32)) ((n + 15) / 16) s.sec.drbgV
  let next := drbgUpdate s.sec.drbgKey out.2 (zeros 48)
  (out.1.take n, { s with sec := { s.sec with drbgKey := next.1, drbgV := next.2, sinceReseed := s.sec.sinceReseed + 1 } })

/-! ### SHA-256 -/

/-- The largest r with r^e ≤ n that differs from `r` in its low bits only, bit by bit. -/
def rootFrom (e n : Nat) : Nat → Nat → Nat
  | 0, r => r
  | k + 1, r => rootFrom e n k (if (r + 2 ^ k) ^ e ≤ n then r + 2 ^ k else r)

/-- The first 32 bits of the fraction of the e-th root of a number below 2^(3 e). -/
def rootFraction (e p : Nat) : Word := word (rootFrom e (p * 2 ^ (32 * e)) 35 0)

/-- The first 64 primes: every number from 2 to 311 that no smaller one divides. -/
def primes64 : List Nat := (numbers 312 fun n => 2 ≤ n && (List.range 18).all fun d => d < 2 || n ≤ d || n % d ≠ 0)

/-- The exclusive or of a word rotated right by each of some amounts. -/
def spin (amounts : List Nat) (w : Word) : Word := amounts.foldl (fun acc r => acc ^^^ w.rotateRight r) 0

/-- The sixteen words of a block, newest first, with n more of the schedule before them. -/
def hashSchedule (block : List Word) : Nat → List Word
  | 0 => block
  | n + 1 =>
    let older := hashSchedule block n
    let back (i : Nat) : Word := older.getD (i - 1) 0
    (back 16 + back 7 + (spin [7, 18] (back 15) ^^^ back 15 >>> 3) + (spin [17, 19] (back 2) ^^^ back 2 >>> 10)) :: older

/-- The working variables as two histories of four, newest first: what FIPS 180-4 calls a to d, and e to h. -/
structure HashVars where
  as : List Word
  es : List Word
  deriving DecidableEq, Repr

/-- One round: each history takes one new word and loses its oldest. -/
def HashVars.round (v : HashVars) (kw : Word) : HashVars :=
  match v with
  | ⟨[a, b, c, d], [e, f, g, h]⟩ =>
    let choice := (e &&& f) ||| (~~~e &&& g)
    let majority := (a &&& (b ||| c)) ||| (b &&& c)
    let fresh := kw + h + choice + spin [6, 11, 25] e
    ⟨[fresh + majority + spin [2, 13, 22] a, a, b, c], [d + fresh, e, f, g]⟩
  | w => w

/-- One block of 64 bytes into the hash. -/
def hashBlock (h : List Word) (b : Bytes) : List Word :=
  let w := (hashSchedule ((chunks 4 b).map fun c => word (beNat c)).reverse 48).reverse
  let keyed := w.zip primes64 |>.map fun e => e.1 + rootFraction 3 e.2
  let out := keyed.foldl HashVars.round ⟨h.take 4, h.drop 4⟩
  (out.as ++ out.es).zip h |>.map fun e => e.1 + e.2

/-- SHA-256 of a message. -/
def sha256 (msg : Bytes) : Bytes :=
  let padded := msg ++ [0x80] ++ zeros ((119 - msg.length % 64) % 64) ++ toBE (8 * msg.length) 8
  ((chunks 64 padded).foldl hashBlock ((primes64.take 8).map (rootFraction 2))).flatMap fun w => toBE w.toNat 4

end Sys2Proof.Machine
end

