-- ==== Sys2Proof/Machine/Flags.lean ====
section
/-! DEFINITION. Unit windows (R18 to R34): which unit an address names, and every field a window derives from its member
tiles. A window keeps nothing of its own but DB_RESULT and DB_SEQ. -/

namespace Sys2Proof.Machine

/-- A unit that has a window (R32). -/
inductive Unit' where
  | tile (t : Path)
  | panel (t : Path)
  | cluster (k : Nat)
  | die (d : Nat)
  | device
  | partition (p : Nat)
  deriving DecidableEq, Repr

/-- The unit whose window stands at an address; none at every address that is no window of a unit that exists (R32). -/
def State.unitAt (s : State) (a : WinAddr) : Option Unit' :=
  let n := a.toNat
  if n % 128 ≠ 0 then none
  else if n = 0x80000 then some .device
  else if 0x80080 ≤ n then
    let p := (n - 0x80080) / 128
    if s.formed p then some (.partition p) else none
  else
    let d := n / 131072
    let c := n / 8192 % 16
    let slot := n / 128 % 64
    if c = 15 then (if slot = 0 then some (.die d) else none)
    else if 9 < c then none
    else if slot ≤ 32 then some (.tile (pathOf (d * 10 + c) slot))
    else if slot = 33 then some (.cluster (d * 10 + c))
    else
      let t := pathOf (d * 10 + c) ((slot - 34) * 2)
      if slot ≤ 49 ∧ 2 ≤ s.panelWidth t ∧ s.lead t = t then some (.panel t) else none

/-- The active tiles a unit covers, lowest first; a checker tile covers itself (R20, R31). -/
def State.covers (s : State) : Unit' → List Path
  | .tile t => [t]
  | .panel t => s.members t
  | .cluster k => clusterTiles k
  | .die d => (List.range 10).flatMap fun c => clusterTiles (d * 10 + c)
  | .device => (List.range 40).flatMap clusterTiles
  | .partition p => s.partTiles p

/-- The members a doorbell to a unit acts on: a tile of a panel stands for the whole panel (R42). -/
def State.actsOn (s : State) : Unit' → List Path
  | .tile t => s.members t
  | u => s.covers u

/-- LEVEL of STATUS (R20). -/
def Unit'.level : Unit' → Nat
  | .tile _ => 0
  | .panel _ => 1
  | .cluster _ => 2
  | .die _ => 3
  | .device => 4
  | .partition _ => 5

/-- TILES of STATUS (R20): checker tiles are never counted. -/
def State.tilesOf (s : State) : Unit' → Nat
  | .tile t => if activePath t then 1 else 0
  | u => (s.covers u).length

/-- A cluster has no power, or is in, entering or leaving Retention or Sleep (R470). -/
def State.poweredDown (s : State) (k : Nat) : Bool :=
  !(s.die (k / 10)).railsGood || 2 ≤ (s.cluster k).current.toNat

/-- The number of a tile's own state (R20). -/
def Run.code : Run → Nat
  | .idle => 0
  | .running => 1
  | .stopped => 2
  | .firing => 3
  | .faulted => 4

/-- STATE of one tile (R20, R26, R42, R470). -/
def State.tileState (s : State) (t : Path) : Nat :=
  if s.fatal then 5
  else if s.poweredDown (clusterOf t) then 6
  else (s.tile (s.lead t)).run.code

/-- STATE of a group from its members' states (R23). -/
def groupState (xs : List Nat) : Nat :=
  if xs.contains 5 then 5
  else if xs.contains 4 then 4
  else match xs with
    | [] => 0
    | x :: rest => if rest.all (· = x) then x else 7

/-- STATE of a unit. -/
def State.unitState (s : State) (u : Unit') : Nat := groupState ((s.covers u).map s.tileState)

/-- FAULTED of a unit: covered tiles that are faulted or fatal (R20, R23). -/
def State.faulted (s : State) (u : Unit') : Nat :=
  ((s.covers u).filter fun t => s.tileState t = 4 || s.tileState t = 5).length

/-- The better of two faults for FAULT_FIRST: the lower stamp, then the lower path word (R23). -/
def firstFault (a b : FaultRegs) : FaultRegs :=
  if b.code = 0 then a
  else if a.code = 0 then b
  else if b.stamp < a.stamp then b
  else if b.stamp = a.stamp ∧ b.path < a.path then b
  else a

/-- FAULT_FIRST of a unit as its fault (R21, R23). -/
def State.faultFirst (s : State) (u : Unit') : FaultRegs :=
  ((s.covers u).map fun t => (s.tile t).fault).foldl firstFault {}

/-- The 64 bits of FAULT_FIRST (R21). -/
def FaultRegs.first (f : FaultRegs) : Nat :=
  if f.code = 0 then 0 else f.code.toNat * 2 ^ 48 + f.path.toNat * 2 ^ 32 + f.stamp.toNat % 2 ^ 32

/-- The 64 bits of FAULT_CLASS (R21, R23, R26). -/
def State.faultClass (s : State) (u : Unit') : Nat :=
  let fs := (s.covers u).map fun t => (s.tile t).fault
  min ((fs.map fun f => f.count.toNat).sum) 0xFFFF * 2 ^ 48 + (if s.fatal then 2 else 0)
    + (if fs.any (·.part) then 1 else 0)

/-- The less advanced of two ticket values: the sign of a - b as a signed 32-bit number (R23). -/
def lessAdvanced (a b : Word) : Word := if (a - b).msb then a else b

/-- TICKETk of a tile; a panel's members follow the lowest; a checker tile's read 0 (R31, R42). -/
def State.ticket (s : State) (t : Path) (k : Nat) : Word :=
  if activePath t then mapGet 0 (s.tile (s.lead t)).tickets k else 0

/-- TICKETk of a unit: its least advanced member (R23). -/
def State.unitTicket (s : State) (u : Unit') (k : Nat) : Word :=
  match (s.covers u).map fun t => s.ticket t k with
  | [] => 0
  | x :: xs => xs.foldl lessAdvanced x

/-- The partition that owns every member of a unit (R23, R504). -/
def State.unitOwner (s : State) (u : Unit') : Option Nat :=
  match (s.covers u).map s.partOf with
  | [] => none
  | x :: xs => if xs.all (· = x) then x else none

/-- The context that owns a unit: slot 0 of the partition that owns every member (R504). DESIGN CHOICE (log 107): with slot 0 bound
to no context the unit has none, and STATUS.CTX reads 0xFFF. -/
def State.unitCtx (s : State) (u : Unit') : Option (BitVec 12) := (s.unitOwner u).bind fun p => s.slotCtx p 0

/-- The registers a window keeps of its own. -/
def State.win (s : State) (a : WinAddr) : WinRegs := mapGet {} s.wins a.toNat

/-- The 64 bits of STATUS (R20). -/
def State.status (s : State) (a : WinAddr) (u : Unit') : Nat :=
  s.unitState u * 2 ^ 60 + (s.win a).result.toNat * 2 ^ 56 + (s.win a).seq.toNat * 2 ^ 48
    + (match s.unitCtx u with | some c => c.toNat | none => 0xFFF) * 2 ^ 36
    + u.level * 2 ^ 32 + s.tilesOf u * 2 ^ 16 + s.faulted u

/-- The 128 bytes of a window (R18); DOORBELL reads 0. -/
def State.windowBytes (s : State) (a : WinAddr) : Bytes :=
  match s.unitAt a with
  | none => zeros 128
  | some u =>
    zeros 8 ++ toLE (s.status a u) 8 ++ toLE (s.faultFirst u).first 8 ++ toLE (s.faultClass u) 8
      ++ (List.range 16).flatMap (fun k => toLE (s.unitTicket u k).toNat 4) ++ zeros 32

/-- Who reads a window: a context, on PCIe BAR0 or from a tile's control space; the owner role of a partition on PCIe; or the
management controller, which reads every window in full (R33, R447). -/
inductive WinReader where
  | ctx (c : BitVec 12)
  | owner (p : Nat)
  | controller
  deriving DecidableEq, Repr

/-- A reader owns a unit: the context in slot 0 of the partition that owns every member, or that partition's owner through it; no
context owns the device window (R33, R504). DESIGN CHOICE (log 108): an owner reads the device window only where its partition
spans the device. -/
def State.readsUnit (s : State) (u : Unit') : WinReader → Bool
  | .ctx c => u ≠ .device && s.unitCtx u = some c
  | .owner p => s.unitOwner u = some p && (s.slotCtx p 0).isSome
  | .controller => true

/-- A read of a window: 128 bytes of 0 for a reader that does not own the unit (R33, R504). -/
def State.windowRead (s : State) (r : WinReader) (a : WinAddr) : Bytes :=
  match s.unitAt a with
  | some u => if s.readsUnit u r then s.windowBytes a else zeros 128
  | none => zeros 128

/-- The window address of a tile (R32). -/
def tileWin (t : Path) : WinAddr :=
  BitVec.ofNat 20 (dieOf t * 131072 + bits t 10 4 * 8192 + tileNo t * 128)

end Sys2Proof.Machine
end

