-- ==== Sys2Proof/Machine/Fabric.lean ====
section
/-! DEFINITION. The torus: coordinates, groups and ranks (R254 to R257), the way a message takes (R279), virtual channels
(R281), messages handed to a port's transmitter, and the frames of the link (R231 to R235). -/

namespace Sys2Proof.Machine

/-! ### Coordinates, groups, ranks -/

/-- The coordinate on axis x (0 A to 3 D) of a coordinate word. -/
def coord (w x : Nat) : Nat :=
  match x with
  | 0 => w % 8
  | 1 => w / 8 % 16
  | 2 => w / 128 % 128
  | _ => w / 16384 % 8

/-- The length on axis x in the layout of 0x2500:02. -/
def extent (w x : Nat) : Nat :=
  match x with
  | 0 => w % 16
  | 1 => w / 16 % 32
  | 2 => w / 512 % 256
  | _ => w / 131072 % 16

/-- A coordinate word from its four coordinates. -/
def coordWord (a b c d : Nat) : Nat := a + 8 * b + 128 * c + 16384 * d

/-- The offset of a coordinate from a base on a ring. -/
def ringOffset (own base len : Nat) : Nat := (own + len - base % len) % len

/-- The module's offset from a group's base on axis x (R257). -/
def State.groupOffset (s : State) (base x : Nat) : Nat :=
  ringOffset (coord s.sh.coords.toNat x) (coord base x) (extent s.sh.rings.toNat x)

/-- P of a group (R257). -/
def groupSize (ext : Nat) : Nat := extent ext 0 * extent ext 1 * extent ext 2 * extent ext 3

/-- The module lies in the group of a base and extents (R257). -/
def State.inGroup (s : State) (base ext : Nat) : Bool :=
  (List.range 4).all fun x => s.groupOffset base x < extent ext x

/-- The module's rank in a group (R257). -/
def State.rankIn (s : State) (base ext : Nat) : Nat :=
  s.groupOffset base 0 + extent ext 0 * (s.groupOffset base 1
    + extent ext 1 * (s.groupOffset base 2 + extent ext 2 * s.groupOffset base 3))

/-- The coordinate word of a rank of a group. -/
def State.rankCoord (s : State) (base ext r : Nat) : Nat :=
  let at' (x q : Nat) := (coord base x + q % extent ext x) % extent s.sh.rings.toNat x
  let ea := extent ext 0
  let eb := extent ext 1
  let ec := extent ext 2
  coordWord (at' 0 r) (at' 1 (r / ea)) (at' 2 (r / (ea * eb))) (at' 3 (r / (ea * eb * ec)))

/-- A registered group by GID. -/
def State.group (s : State) (gid : BitVec 16) : Option Group := s.sh.groups.find? fun g => g.gid = gid

/-! ### The way of a message -/

/-- Flits of a data frame (R231). -/
def frameFlits (payload : Nat) : Nat := (payload + 63) / 64 + 1

/-- Flits queued at a port's transmitter. -/
def Port.queued (p : Port) : Nat :=
  (p.txQ.map fun m => frameFlits m.msg.payload.length).sum + (p.again.map (·.flits)).sum

/-- A port is UP. -/
def State.portUp (s : State) (c : Nat) : Bool := (s.port c).state = .up

/-- The port taken on an axis in one direction: the chosen index, else the other (R279). -/
def State.pickPort (s : State) (axis sign : Nat) (fixed : Option Nat) : Option Nat :=
  let c := axis * 4 + sign * 2
  let i := match fixed with
    | some f => f % 2
    | none => if (s.port (c + 1)).queued < (s.port c).queued then 1 else 0
  if s.portUp (c + i) then some (c + i)
  else if s.portUp (c + (1 - i)) then some (c + (1 - i))
  else none

/-- The port by which a message to a destination leaves: the first axis on which it differs, the shorter way round, the
positive way on a tie, else the other way (R279). None where no port of the axis is UP, or where it is this module's. -/
def State.hop (s : State) (dest : Nat) (fixed : Option Nat) : Option Nat :=
  match (List.range 4).find? fun x => coord s.sh.coords.toNat x ≠ coord dest x with
  | none => none
  | some x =>
    let len := extent s.sh.rings.toNat x
    let up := ringOffset (coord dest x) (coord s.sh.coords.toNat x) len
    let sign := if up ≤ len - up then 0 else 1
    match s.pickPort x sign fixed with
    | some c => some c
    | none => s.pickPort x (1 - sign) fixed

/-- The index rule of R279: fixed by GID, SEQ and SRANK under path mode 1 and for a reproducible partition. -/
def State.fixedIndex (s : State) (part : Option Nat) (m : Msg) : Option Nat :=
  let repro := match part with
    | some p => (s.part p).repro
    | none => false
  if s.sh.pathMode = 1 || repro then some ((m.gid.toNat + m.seq.toNat + m.srank.toNat) % 2) else none

/-- The virtual channel of a partition's message (R281, R300): DATA, CONTRIB and SNAPDATA are data. -/
def State.vcFor (s : State) (p : Nat) (mt : BitVec 4) : BitVec 3 :=
  if (s.part p).sealedMode then BitVec.ofNat 3 (s.part p).vc.toNat
  else if mt = 0 ∨ mt = 8 ∨ mt = 12 then 1 else 0

/-- A message of a partition handed to the transmitter of the port it leaves by; none where there is no path. -/
def State.post (s : State) (p : Nat) (ctx : BitVec 12) (m : Msg) : Option (Nat × State) :=
  match s.hop m.dest.toNat (s.fixedIndex (some p) m) with
  | none => none
  | some c =>
    let out : OutMsg := { vc := s.vcFor p m.mt, part := some (BitVec.ofNat 8 p), ctx := ctx, msg := m }
    some (c, s.modPort c fun x => { x with txQ := x.txQ ++ [out] })

/-! ### Frames -/

/-- The sixteen bytes of the Shuttle header (R269). -/
def Msg.header (m : Msg) : Bytes :=
  toLE (m.gid.toNat * 65536 + m.seq.toNat) 4
    ++ toLE (m.mt.toNat * 2 ^ 28 + m.slot.toNat * 2 ^ 24 + m.srank.toNat) 4
    ++ toLE m.offset.toNat 4
    ++ toLE (m.dest.toNat * 32768 + m.gtag.toNat) 4

/-- The message a header and payload spell. -/
def parseMsg (h payload : Bytes) : Msg :=
  let w (i : Nat) : Word := word (fieldAt h (4 * i) 4)
  { gid := BitVec.ofNat 16 (bits (w 0) 16 16), seq := BitVec.ofNat 16 (bits (w 0) 0 16),
    mt := BitVec.ofNat 4 (bits (w 1) 28 4), slot := BitVec.ofNat 4 (bits (w 1) 24 4),
    srank := BitVec.ofNat 17 (bits (w 1) 0 17), offset := w 2,
    dest := BitVec.ofNat 17 (bits (w 3) 15 17), gtag := BitVec.ofNat 15 (bits (w 3) 0 15), payload := payload }

/-- A port runs in site mode: axis D (R229). -/
def siteMode (c : Nat) : Bool := c / 4 = 3

/-- Sixteen words with their CRC as W15 (R232). -/
def controlFrame (words : List Nat) : Bytes :=
  let b := fit ((words.flatMap fun w => toLE w 4)) 60
  b ++ toLE (crc32c b).toNat 4

/-- A D port's cipher engine has a masking seed no older than 4 µs; without one it stalls (R401). -/
def State.maskFresh (s : State) (c : Nat) : Bool := !siteMode c || s.island ≤ mapGet 0 s.sec.maskAt (c % 4 + 1) + 4000

/-- The KEYID of a link key slot (R403): port code bits 1:0, direction (0 transmit, 1 receive), slot. -/
def linkKeyId (c dir slot : Nat) : Nat := 0x01FF0000 + (c % 4) * 4 + dir * 2 + slot

/-- A key of the key store. -/
def State.key (s : State) (id : Nat) : Option Key := mapGet none s.sec.keys id

/-- A key's bytes. -/
def Key.bytes (k : Key) : Bytes := toBE k.val.toNat 32

/-- SALT followed by a 64-bit count: the IV of R245. -/
def linkIv (salt : Word) (count : Nat) : Bytes := toLE salt.toNat 4 ++ toLE count 8

/-- A control frame of a port: W0 to W11 given; in site mode CSEQ and CTAG are added (R232, R245). -/
def State.control (s : State) (c : Nat) (words : List Nat) : Bytes :=
  if siteMode c then
    let x := s.port c
    let body := fit (words.flatMap fun w => toLE w 4) 48 ++ toLE x.txCseq.toNat 4
    let tag := match s.key (linkKeyId c 0 (if x.txKs then 1 else 0)) with
      | some k => (gcmTag (roundKeys k.bytes) (linkIv k.salt (2 ^ 63 + x.txCseq.toNat)) body []).take 8
      | none => zeros 8
    let b := body ++ tag
    b ++ toLE (crc32c b).toNat 4
  else controlFrame (words ++ List.replicate (12 - words.length) 0)

/-- A time slot of R282 in hundredths of a ns: 258 flit times of 0.16 ns. -/
def slotTime : Nat := 4128

/-- The last flit time of a time slot begins within the present ns (R282). -/
def lastFlit (now : Nat) : Bool := slotTime - 16 < now * 100 % slotTime + 100

/-- A VC is assigned to a sealed partition (R239, R281). -/
def State.vcSealed (s : State) (v : Nat) : Bool :=
  (List.range 40).any fun p => s.formed p && (s.part p).sealedMode && (s.part p).vc.toNat = v

/-- The transmitter of a port may send a control frame now: any time, but where it carries a sealed VC only in the last flit time of a
time slot (R282); a D port's engine needs its masking seed (R401). -/
def State.controlOpen (s : State) (c : Nat) : Bool :=
  s.maskFresh c && (!s.portUp c || !(List.range 8).any s.vcSealed || lastFlit s.island)

/-- W0 to W5 of a HELLO (R233). -/
def helloWords (c : Nat) (seen close : Bool) (crsn : Nat) : List Nat :=
  (0x8 * 2 ^ 28 + (if seen then 2 ^ 27 else 0) + (if close then 2 ^ 26 else 0) + crsn * 2 ^ 24
      + (if siteMode c then 16 else 0) + c)
    :: 1 :: ((List.range 4).map fun i => fieldAt (toBE Config.serial.toNat 16) (4 * i) 4)

/-- A control frame put on the fibre: it becomes the last frame sent and takes a CSEQ in site mode. -/
def State.sendControl (s : State) (c : Nat) (words : List Nat) : State :=
  let f := s.control c words
  s.modPort c fun x => { x with lastTx := f, txCseq := if siteMode c then x.txCseq + 1 else x.txCseq }

/-- The fields of a port that leave with UP, with the reason it left (R242, R243, R250): the frames of the replay and receive
buffers that have not been delivered are discarded. -/
def Port.leave (x : Port) (st : PortState) (reason : Nat) : Port :=
  { x with state := st, reason := BitVec.ofNat 8 reason, peerSerial := 0, peerPort := 0xFF, buffer := [], again := [],
           txQ := [], replays := 0, seen := false, seenRx := false, seenTx := false, lanes := 0, closing := none,
           sampled := 0, served := [], turns := [], stalled := [],
           rxQ := x.rxQ.map (fun m => (m.1, m.2.1, m.2.2.1, 0)), lasers := if st = .off || st = .failed then false else x.lasers }

end Sys2Proof.Machine
end

