-- ==== Sys2Proof/Machine/Events.lean ====
section
/-! DEFINITION. Event records and what a class does (R11, R363 to R371): the log, the trace, the notification queue, a
partition's stop, and the device-fatal stop with its capture (R452). -/

namespace Sys2Proof.Machine

/-- An event to be raised: code, the path word of its source where it has one, partition (0xFF none, 0xFE device), context,
STAG, and the bytes of its DETAIL from 0x18 on. -/
structure Ev where
  code : Nat
  path : Option Path := none
  part : Nat := 0xFF
  ctx : Nat := 0
  stag : Option Word := none
  injected : Bool := false
  detail : Bytes := []
  deriving DecidableEq, Repr

/-- The record of an event (R367). -/
def State.recordOf (s : State) (e : Ev) : EventRec :=
  { code := BitVec.ofNat 16 e.code, path := e.path.getD 0, seqno := s.integ.nextSeq, time := s.now,
    part := BitVec.ofNat 8 e.part,
    flags := BitVec.ofNat 8 ((if e.path.isSome then 1 else 0) + (if e.stag.isSome then 2 else 0) + (if e.injected then 4 else 0)),
    ctx := BitVec.ofNat 16 e.ctx, stag := e.stag.getD 0, detail := BitVec.ofNat 320 (leNat (fit e.detail 40)) }

/-- The 64 bytes of a record (R367). -/
def EventRec.bytes (r : EventRec) : Bytes :=
  toLE r.code.toNat 2 ++ toLE r.path.toNat 2 ++ toLE r.seqno.toNat 4 ++ toLE r.time.toNat 8 ++ [r.part, r.flags]
    ++ toLE r.ctx.toNat 2 ++ toLE r.stag.toNat 4 ++ toLE r.detail.toNat 40

/-- The bit of the notify mask that governs a code (R369). -/
def classBit (code : Nat) : Nat :=
  match code / 4096 with
  | 1 => 0
  | 4 => 1
  | 8 => 2
  | _ => 3

/-- The 16 bytes of a notification (R445). -/
def EventRec.note (r : EventRec) (lost : Bool) : Bytes :=
  toLE r.code.toNat 2 ++ [r.part, if lost then 1 else 0] ++ toLE r.seqno.toNat 4 ++ toLE r.time.toNat 8

/-- The mirror's ring entry of a notification (R444, R445), and its MSI-X signal. -/
def Mgmt.ring (m : Mgmt) (r : EventRec) : Mgmt :=
  { m with ntfRing := mapSet 0 m.ntfRing (m.ntfHead.toNat % 64) (BitVec.ofNat 256 (leNat (fit (r.note m.notifyLost) 32))),
           ntfHead := m.ntfHead + 1, msix1 := m.msix1 + 1 }

/-- A record whose class is notified (R369, R371). -/
def Integ.notified (x : Integ) (r : EventRec) : Bool :=
  classBit r.code.toNat = 3 || bit x.notifyMask (classBit r.code.toNat)

/-- A notification queued for the port, the oldest dropped from a full queue of 256, and raised on the mirror (R371, R445). -/
def Mgmt.notify (m : Mgmt) (r : EventRec) (mirror : Bool) : Mgmt :=
  let m1 := if mirror then m.ring r else m
  { m1 with notifyQ := (m.notifyQ ++ [r]).drop (m.notifyQ.length + 1 - 256),
            notifyLost := m.notifyLost || 256 ≤ m.notifyQ.length }

/-- A record appended to the log of 4,096, and to the queue of 256 notifications when its class is notified (R369, R371,
R445). Without the auxiliary rail nothing is recorded (R476). -/
def State.append (s : State) (r : EventRec) : State :=
  if !s.pwr.aux then s
  else
    { s with integ := { s.integ with log := (s.integ.log ++ [r]).drop (s.integ.log.length + 1 - 4096),
                                     nextSeq := s.integ.nextSeq + 1 },
             mgmt := if s.integ.notified r then s.mgmt.notify r s.pwr.pcieUp else s.mgmt }

/-- The trace's EVENT packet of a record (R479); the second value says that it was dropped. -/
def State.eventPacket (s : State) (r : EventRec) : State × Bool :=
  s.pushPacket r.part r.path 4 (word (r.code.toNat * 65536 + r.seqno.toNat % 65536))

/-- TRACE_LOST of a region, at most once per second (R477): its own packet, dropped too, raises nothing more. -/
def State.traceLost (s : State) (part : Byte) : State :=
  let r := if part.toNat < 40 then part.toNat else 254
  let due := match (s.region r).lastLost with
    | none => true
    | some at' => at' + 1000000000 ≤ s.island
  if due then
    let rec' := s.recordOf { code := 0x1F04, part := if r = 254 then 0xFE else r, detail := [BitVec.ofNat 8 r] }
    (((s.modRegion r fun x => { x with lastLost := some s.island }).append rec').eventPacket rec').1
  else s

/-- A packet of a tile, cluster or the device: counted for its cluster (R479), dropped between MARKER and RESYNC (R481). -/
def State.trace' (s : State) (part : Byte) (path : Path) (kind : Byte) (data : Word) : State :=
  let (s', lost) := s.pushPacket part path kind data
  if lost then s'.traceLost part else s'

/-- A packet of a tile's or cluster's own kind. -/
def State.tilePacket (s : State) (path : Path) (kind : Byte) (data : Word) : State :=
  let k := clusterOf path
  let p := (s.ownerOf k).getD 0xFE
  if (s.cluster k).marked || !s.capturing p kind.toNat then s
  else (s.modCluster k fun c => { c with packets := c.packets + 1 }).trace' (BitVec.ofNat 8 p) path kind data

/-- An event logged: record, trace packet, notification. -/
def State.log (s : State) (e : Ev) : State :=
  let r := s.recordOf e
  let (s', lost) := (s.append r).eventPacket r
  if lost then s'.traceLost r.part else s'

/-! ### Collectives that end without completing (R285) -/

/-- The fields of B0 (R258). -/
def Slot.b0 (x : Slot) : Word := x.body.getD 0 0
/-- SOP (R259). -/
def Slot.sop (x : Slot) : Nat := bits x.b0 24 8
/-- ALG (R258). -/
def Slot.alg (x : Slot) : Nat := bits x.b0 18 2
/-- ARG (R259). -/
def Slot.arg (x : Slot) : Word := x.body.getD 7 0

/-- The parent and children of a rank in the tree of R264. -/
def treePeers (r p : Nat) : List Nat :=
  (if r = 0 then [] else [(r - 1) / 2]) ++ [2 * r + 1, 2 * r + 2].filter (· < p)

/-- The peers a collective exchanges messages with (R263 to R265, R277). -/
def Slot.peers (x : Slot) : List Nat :=
  let others := (List.range x.size).filter (· ≠ x.rank)
  if x.size ≤ 1 then []
  else if 6 ≤ x.sop then others
  else if x.sop = 1 ∨ x.alg ≠ 0 then
    let root := bits x.arg 0 17
    let extra :=
      if x.sop = 2 ∧ root ≠ 0 then (if x.rank = 0 then [root] else if x.rank = root then [0] else []) else []
    (treePeers x.rank x.size ++ extra).eraseDups
  else
    let prev := (x.rank + x.size - 1) % x.size
    let next := (x.rank + 1) % x.size
    let root := bits x.arg 0 17
    ((if x.sop = 2 ∧ x.rank = root then [] else [prev]) ++ if x.sop = 2 ∧ next = root then [] else [next]).eraseDups

/-- A message of a slot to a rank of its group. -/
def State.slotMsg (s : State) (g : Group) (x : Slot) (mt : BitVec 4) (q : Nat) (slot : BitVec 4) (offset : Nat)
    (payload : Bytes) : Msg :=
  { gid := x.gid, seq := x.seq, mt := mt, slot := slot, srank := BitVec.ofNat 17 x.rank, offset := word offset,
    dest := BitVec.ofNat 17 (s.rankCoord g.base.toNat g.extent.toNat q), gtag := g.gtag, payload := payload }

/-- Sixteen words as a payload of 64 bytes. -/
def words64 (ws : List Nat) : Bytes := fit (ws.flatMap fun w => toLE w 4) 64

/-- An ABORT to one peer, where a path leads there. -/
def State.sendAbort (s : State) (ctx : BitVec 12) (n : BitVec 4) (x : Slot) (reason : Word) (q : Nat) : State :=
  match s.group x.gid with
  | none => s
  | some g =>
    match s.post x.part ctx (s.slotMsg g x 5 q n 0 (words64 [reason.toNat])) with
    | some (_, s') => s'
    | none => s

/-- An open slot ends without completing (R285): ABORT to its peers, the slot free, the command gone and no ticket
advanced. -/
def State.endSlot (s : State) (key : Nat) (reason : Word) : State :=
  match mapGet none s.sh.slots key with
  | none => s
  | some x =>
    let s1 := { s with sh := { s.sh with slots := mapSet none s.sh.slots key none } }
    let s2 := s1.modTile x.tile fun t => { t with flights := t.flights.filter fun f => f.cmd.id ≠ x.cmd }
    let s3 := s2.each x.peers fun a q => a.sendAbort (BitVec.ofNat 12 (key / 16)) (BitVec.ofNat 4 key) x reason q
    s3.trace' (BitVec.ofNat 8 x.part) x.tile 10 (word (x.gid.toNat * 65536 + x.seq.toNat))

/-- The open slots of a partition. -/
def State.slotsOf (s : State) (p : Nat) : List Nat :=
  (s.sh.slots.filter fun e => match e.2 with | some x => x.part = p | none => false).map (·.1)

/-- A context is bound to a partition. -/
def State.boundTo (s : State) (ctx p : Nat) : Bool :=
  match s.ctxBind ctx with
  | some b => b.part.toNat = p
  | none => false

/-! ### A partition's stop (R363) -/

/-- A tile is at an instruction boundary: it runs no program, or no delay slot is pending (R56) and no exception is raised and
not yet entered. -/
def Tile.atBoundary (x : Tile) : Bool := x.run ≠ .running || (x.delay.isNone && x.exc.isNone)

/-- A tile stops at its next instruction boundary: now, or when it gets there (R56). A faulted tile stays faulted, and a tile
that was stopped keeps the state it returns to. -/
def Tile.stopTo (target : Run) (x : Tile) : Tile :=
  match x.run with
  | .faulted => x
  | .stopped => { x with run := target }
  | r => if x.atBoundary then { x with run := target, held := r } else { x with waiting := x.waiting ++ [.stop target] }

/-- The fault fields of a raising tile (R21, R363): PART is set by a partition fault only. -/
def FaultRegs.add (f : FaultRegs) (code : Nat) (path : Path) (stamp : DWord) : FaultRegs :=
  let count := BitVec.ofNat 16 (min (f.count.toNat + 1) 0xFFFF)
  let part := f.part || code / 4096 = 8
  if f.code = 0 then { code := BitVec.ofNat 16 code, path := path, stamp := stamp, count := count, part := part }
  else { f with count := count, part := part }

/-- A fault enters the fault fields of the tile that raised it (R21, R22). -/
def State.markFault (s : State) (t : Path) (code : Nat) : State := s.modTile t fun x => { x with fault := x.fault.add code t s.now }

/-- The tiles whose sequencer runs a program of a partition: the lowest of each panel, where the cluster has power. -/
def State.runners (s : State) (p : Nat) : List Path :=
  (s.partTiles p).filter fun t => s.lead t = t && !s.poweredDown (clusterOf t)

/-- Every open outing exchange of a partition ends, and its command with it (R363). -/
def State.endExchanges (s : State) (p : Nat) : State :=
  s.each (s.bindings.filter fun b => b.part.toNat = p) fun a b =>
    match b.exch with
    | none => a
    | some x =>
      let a' := a.modTile x.tile fun t => { t with flights := t.flights.filter fun f => f.cmd.id ≠ x.cmd }
      { a' with bindings := a'.bindings.map fun c => if c.gid = b.gid then { c with exch := none } else c }

/-- An armed launch is cancelled; the launch count is that of the last fired one again (R346). -/
def Part.cancelLaunch (x : Part) : Part :=
  if x.launchStatus = 1 then { x with launchStatus := 3, launchCount := x.firedCount } else x

/-- The stop of a partition: every tile stops, collectives and exchanges end, the launch is cancelled, early entries are
discarded, 0x2000:04 reads 2. -/
def State.stopPartition (s : State) (p : Nat) (reason : Word) : State :=
  let s1 := s.each (s.runners p) fun a t => a.modTile t (Tile.stopTo .stopped)
  let s2 := s1.each (s1.slotsOf p) fun a k => a.endSlot k reason
  let s3 := s2.endExchanges p
  let s4 := { s3 with sh := { s3.sh with early := s3.sh.early.filter fun e => !s3.boundTo e.1.toNat p } }
  s4.modPart p fun x => { x.cancelLaunch with state := 2 }

/-- A class-0x8 event's effects (R363). The reason ABORT carries is given for the events of R285; for any other fault the
spec states none and it is a free value. -/
def State.partitionFault (s : State) (e : Ev) (reason : Option Nat) : State :=
  let raiser := match e.path with
    | some t => some t
    | none => (s.partTiles e.part).head?
  let s1 := match raiser with
    | none => s
    | some t =>
      (s.markFault t e.code).modTile (s.lead t) (Tile.stopTo .faulted)
  let (w, s2) := match reason with
    | some r => (word r, s1)
    | none => s1.freeWord
  if s2.formed e.part then s2.stopPartition e.part w else s2

/-! ### The device-fatal stop (R364, R365, R452) -/

/-- The order of two records in the fatal slot (R365): stamp, records with a path word first, path word, code. -/
def fatalBefore (a b : EventRec) : Bool :=
  let v (r : EventRec) : Nat := if bit r.flags 0 then 0 else 1
  a.time < b.time ||
    (a.time = b.time && (v a < v b || (v a = v b && (a.path < b.path || (a.path = b.path && a.code < b.code)))))

/-- The bits of 0x1140:01 (R448). -/
def State.deviceView (s : State) : Nat :=
  (if s.pwr.main then 1 else 0) + (if s.pwr.converters then 2 else 0) + (if s.fatal then 4 else 0)
    + (if s.fatal || s.mgmt.wedged then 8 else 0) + (if s.trace.frozen then 16 else 0)

/-- The number of a port's state (R250). -/
def PortState.code : PortState → Nat
  | .off => 0
  | .training => 1
  | .up => 2
  | .down => 3
  | .failed => 4

/-- Every tile of the device in path order. -/
def allTiles : List Path := (List.range 40).flatMap fun k => (List.range 33).map (pathOf k)

/-- FSEQ of the last data frame a port has transmitted (R234). -/
def Port.lastSent (x : Port) : BitVec 24 := x.txs

/-- Uncertainty that has grown in HOLDOVER, in ps (R341). -/
def State.grown (s : State) : Nat :=
  match s.time.holdSince with
  | some t => 100 * ((s.island - t) / 1000000)
  | none => 0

/-- UNC and SUNC as they stand now. -/
def State.uncNow (s : State) : Nat := s.time.unc + s.grown
/-- SUNC as it stands now. -/
def State.suncNow (s : State) : Nat := s.time.sunc + s.grown

/-- What a unit outside the island reports for a fatal capture: all ones where it does not answer, having no power (R452). -/
def State.reported (s : State) (bs : Bytes) : Bytes := if s.pwr.converters then bs else List.replicate bs.length 0xFF

/-- STATE of a fatal capture: 2 where every unit answered, 3 where some did not (R452). -/
def State.capStateNow (s : State) : BitVec 8 := if s.pwr.converters then 2 else 3

/-- The 32 segments of the fatal capture (R452). -/
def State.captureOf (s : State) (r : EventRec) (log : List EventRec) : List Bytes :=
  let seg0 := toLE r.code.toNat 2 ++ toLE r.path.toNat 2 ++ toLE r.seqno.toNat 4 ++ toLE r.time.toNat 8
    ++ [s.capStateNow, if s.sec.fieldDebug then 4 else s.sec.lc] ++ toLE s.deviceView 4
  let tiles := allTiles.flatMap fun t =>
    s.reported (toLE (s.status (tileWin t) (.tile t)) 8 ++ toLE ((s.tile t).fault).first 8)
  let ports := (List.range 16).flatMap fun c =>
    let x := s.port c
    s.reported (fit ([BitVec.ofNat 8 x.state.code, x.reason] ++ toLE x.ack.toNat 4 ++ toLE x.txs.toNat 4 ++ [x.peerPort]) 32)
  let time := s.reported <| toLE s.now.toNat 8 ++ [s.time.dstate, s.time.role, s.time.priority, s.time.parent]
    ++ toLE s.time.offset.toNat 4 ++ toLE s.uncNow 4 ++ toLE s.suncNow 4
    ++ (List.range 7).flatMap (fun i => toLE (mapGet 0 s.pwr.draw (i + 1)).toNat 4)
  let recs := (log.drop (log.length - 128)).flatMap EventRec.bytes
  fit seg0 1024 :: (List.range 21).map (fun i => slice tiles (1024 * i) 1024)
    ++ [fit ports 1024, fit time 1024] ++ (List.range 8).map (fun i => slice recs (1024 * i) 1024)

/-- Trace capture stops: FREEZE in every region (R482). -/
def State.freezeTrace (s : State) (why : Nat) : State :=
  if s.trace.frozen then s
  else
    let s' := s.each (254 :: List.range 40) fun a r => (a.pushPacket (BitVec.ofNat 8 r) 0 0x0B (word why)).1
    { s' with trace := { s'.trace with frozen := true } }

/-- Trace capture resumes: START in every region (R482). -/
def State.startTrace (s : State) : State :=
  let s' := { s with trace := { s.trace with frozen := false } }
  s'.each (254 :: List.range 40) fun a r => (a.pushPacket (BitVec.ofNat 8 r) 0 0x0C 0).1

/-- A port closed by a fatal event (R243): HELLO with CLOSE and CRSN 1 three times, then lasers off. -/
def State.fatalClose (s : State) (c : Nat) : State :=
  if s.portUp c then
    (s.each (List.range 3) fun a _ => a.sendControl c (helloWords c false true 1)).modPort c fun x => x.leave .off 7
  else s

/-- A counter of 0x3000 raised (R359). -/
def Integ.count (x : Integ) (sub n : Nat) : Integ :=
  { x with ctr := mapSet 0 x.ctr sub (satAdd64 (mapGet 0 x.ctr sub) n) }

/-- The fatal slot keeps the record that comes first (R365). -/
def Integ.keepFatal (x : Integ) (r : EventRec) : Integ :=
  match x.fatalRec with
  | none => { x with fatalRec := some r }
  | some q => if fatalBefore r q then { x with fatalRec := some r } else x

/-- The gap of an array begins: its real operations have ended (R111). -/
def ArrayLevel.gap (now : Nat) (a : ArrayLevel) : ArrayLevel :=
  if a.rising then { a with rising := false, gapLevel := a.level, since := now, holdUntil := none } else a

/-- Commands in flight are abandoned (R364); the array begins its ramp (R113). -/
def Tile.abandon (now : Nat) (x : Tile) : Tile := { x with flights := [], arr := x.arr.gap now }

/-- Samples waiting in a backlog are discarded unchecked (R365). -/
def Cluster.dropSamples (x : Cluster) : Cluster := { x with chk := { x.chk with backlog := [], used := 0 } }

/-- A pending fence reads 3 (R365). -/
def Part.abandon (x : Part) : Part :=
  { x with fence := if x.fence = 1 then 3 else x.fence, fenceWait := [] }

/-- What a class-0xC event ends at once. -/
def State.abandonAll (s : State) (r : EventRec) : State :=
  { s with fatal := true,
           tiles := mapEach ({} : Tile) s.tiles (Tile.abandon s.island),
           clusters := mapEach ({} : Cluster) s.clusters Cluster.dropSamples,
           parts := mapEach ({} : Part) s.parts Part.abandon,
           sh := { s.sh with slots := [] },
           bindings := s.bindings.map fun b => { b with exch := none, fetch := none },
           mgmt := { s.mgmt with aerSent := s.mgmt.aerSent + if s.pwr.pcieUp then 1 else 0 },
           integ := s.integ.keepFatal r }

/-- The fatal capture is taken unless one is held (R452). -/
def State.takeCapture (s : State) (r : EventRec) (log : List EventRec) : State :=
  if s.mgmt.capState = 0 then
    { s with mgmt := { s.mgmt with capState := s.capStateNow, capture := s.captureOf r log } }
  else s

/-- A class-0xC event's effects (R364, R365, R452); a second one is logged and may take the fatal slot. -/
def State.deviceFatal (s : State) (r : EventRec) : State :=
  if s.fatal then { s with integ := s.integ.keepFatal r }
  else (((s.abandonAll r).each (List.range 16) State.fatalClose).freezeTrace 1).takeCapture r s.integ.log

/-- An event raised: logged, with its class's effects. Both fault classes enter the fault fields of the tile that raised them
(R21, R22). A partition fault of a fatal device has no more effects (R365). -/
def State.raiseWith (s : State) (e : Ev) (reason : Option Nat) : State :=
  let r := s.recordOf e
  let s' := s.log e
  if e.code / 4096 = 8 then (if s.fatal then s' else s'.partitionFault e reason)
  else if e.code / 4096 = 0xC then
    (match e.path with
      | some t => s'.markFault t e.code
      | none => s').deviceFatal r
  else s'

/-- An event raised. -/
def State.raise (s : State) (e : Ev) : State := s.raiseWith e none

/-- An event of a tile: its partition and that partition's slot-0 context go into the record. -/
def State.raiseTile (s : State) (t : Path) (code : Nat) (stag : Option Word) (detail : Bytes) (injected : Bool := false) : State :=
  s.raise { code := code, path := some t, part := (s.partOf t).getD 0xFF, ctx := ((s.ownCtx t).getD 0).toNat, stag := stag,
            detail := detail, injected := injected }

/-- A refusal's record (R425, R507). DESIGN CHOICE (log 117): what R89 adds, the local-store address of the first offending word, stands
behind ARG. -/
def State.refuse (s : State) (code : Nat) (path : Option Path) (part ctx source cond index sub arg : Nat) (more : Bytes := []) :
    State :=
  s.raise { code := code, path := path, part := part, ctx := ctx,
            detail := [BitVec.ofNat 8 source, BitVec.ofNat 8 cond] ++ toLE index 2 ++ [BitVec.ofNat 8 sub, 0, 0, 0]
              ++ toLE arg 8 ++ more }

end Sys2Proof.Machine
end

