-- ==== Sys2Proof/Machine/Operands.lean ====
section
/-! DEFINITION. Operands in local store (R41, R158, R159) and the words of descriptors (R68). -/

namespace Sys2Proof.Machine

/-- Member i of the panel that t leads. -/
def memberAt (t : Path) (i : Nat) : Path := pathOf (clusterOf t) (tileNo t + i)

/-- The span of a panel's local store in bytes (R41). -/
def State.span (s : State) (t : Path) : Nat := s.panelWidth t * 0x200000

/-- The ones among the low n bits of a word. -/
def popcount (n : Nat) (w : DWord) : Nat := ((List.range n).filter fun i => w.getLsbD i).length

/-- The words in error among words lo to hi of one tile's store (R159). -/
def Tile.errorsIn (x : Tile) (lo hi : Nat) : SMap DWord := x.lsErr.filter fun e => lo ≤ e.1 && e.1 ≤ hi

/-- Single-bit errors among words lo to hi corrected and counted; a double error raises LS_UE (R159). Bits in error of a word come
from an injection alone, so FLAGS bit 2 is set (R372). The second value says that the words can be used. -/
def State.checkWords (s : State) (t : Path) (lo hi : Nat) : State × Bool :=
  let es := (s.tile t).errorsIn lo hi
  match es.find? fun e => 2 ≤ popcount 64 e.2 with
  | some e => (s.raiseTile t 0xC401 none (toLE (8 * e.1) 4) true, false)
  | none =>
    if es.isEmpty then (s, true)
    else
      ({ s.modTile t fun x => { x with lsErr := x.lsErr.filter fun e => !(lo ≤ e.1 && e.1 ≤ hi) } with
           mem := { s.mem with lsCorr := satAdd64 s.mem.lsCorr es.length } }, true)

/-- The bytes of a panel's store from an address; the address runs over the members in path order (R41). -/
def State.peekLS (s : State) (t : Path) (a : Nat) : Nat → Bytes
  | 0 => []
  | len + 1 => mapGet 0 (s.tile (memberAt t (a / 0x200000))).ls (a % 0x200000) :: s.peekLS t (a + 1) len

/-- The pieces of a range that lie in one member each: member, address in its store, length. -/
def lsPieces : Nat → Nat → Nat → List (Nat × Nat × Nat)
  | 0, _, _ => []
  | fuel + 1, a, len =>
    if len = 0 then []
    else
      let n := min len (0x200000 - a % 0x200000)
      (a / 0x200000, a % 0x200000, n) :: lsPieces fuel (a + n) (len - n)

/-- A read of local store: none where a double error made the device fatal. -/
def State.readLS (s : State) (t : Path) (a len : Nat) : State × Option Bytes :=
  let (s', ok) := (lsPieces 5 a len).foldl (fun (acc : State × Bool) (p : Nat × Nat × Nat) =>
    if acc.2 then acc.1.checkWords (memberAt t p.1) (p.2.1 / 8) ((p.2.1 + p.2.2 - 1) / 8) else acc) (s, true)
  (s', if ok then some (s.peekLS t a len) else none)

/-- The bytes of one piece written: words written whole get new check bits. -/
def Tile.writeLS (x : Tile) (a : Nat) (bs : Bytes) : Tile :=
  { x with ls := writeCells x.ls a bs,
           lsErr := x.lsErr.filter fun e => !(a ≤ 8 * e.1 && 8 * e.1 + 8 ≤ a + bs.length) }

/-- Bytes written over the members of a panel. -/
def State.pokeLS (s : State) (t : Path) : Nat → Nat → Bytes → State
  | 0, _, _ => s
  | fuel + 1, a, bs =>
    if bs.isEmpty then s
    else
      let n := 0x200000 - a % 0x200000
      (s.modTile (memberAt t (a / 0x200000)) fun x => x.writeLS (a % 0x200000) (bs.take n)).pokeLS t fuel (a + n) (bs.drop n)

/-- A write to local store. Words written in part are read and checked first; a double error there makes the device fatal
and nothing is written (R159). The second value says that it was written. -/
def State.writeLS (s : State) (t : Path) (a : Nat) (bs : Bytes) : State × Bool :=
  let edges := (lsPieces 5 a bs.length).flatMap fun p =>
    (if p.2.1 % 8 = 0 then [] else [(p.1, p.2.1 / 8)])
      ++ (if (p.2.1 + p.2.2) % 8 = 0 then [] else [(p.1, (p.2.1 + p.2.2) / 8)])
  let (s', ok) := edges.foldl (fun (acc : State × Bool) (e : Nat × Nat) =>
    if acc.2 then acc.1.checkWords (memberAt t e.1) e.2 e.2 else acc) (s, true)
  if ok then (s'.pokeLS t 5 a bs, true) else (s', false)

/-- Little-endian words of a string. -/
def wordsOf (bs : Bytes) : List Word := (chunks 4 bs).map fun c => word (leNat c)

/-- UNIT of a header's word 0 (R68). -/
def hdrUnit (w0 : Word) : Nat := bits w0 28 4
/-- V of a header. -/
def hdrV (w0 : Word) : Bool := bit w0 27
/-- BODY of a header. -/
def hdrBody (w0 : Word) : Nat := bits w0 20 4
/-- SIGT of a header. -/
def hdrSigt (w0 : Word) : Nat := bits w0 16 4
/-- SIG of a header. -/
def hdrSig (w0 : Word) : Bool := bit w0 15
/-- WAIT of a header. -/
def hdrWait (w0 : Word) : Bool := bit w0 14
/-- WAITT of a header. -/
def hdrWaitt (w0 : Word) : Nat := bits w0 10 4
/-- MSRC of a header. -/
def hdrMsrc (w0 : Word) : Nat := bits w0 8 2

/-- A MODE value that R58 accepts: reserved fields 0, NARROW not 3. -/
def modeOk (m : Word) : Bool := bits m 12 20 = 0 && bits m 0 5 = 0 && bits m 6 2 ≠ 3

/-- The reserved fields and codes of a header that R69 checks. -/
def hdrOk (w0 w2 : Word) : Bool :=
  bits w0 24 3 = 0 && bits w0 0 8 = 0 && hdrUnit w0 ≤ 5 &&
    (if hdrMsrc w0 = 0 then w2 = 0 else hdrMsrc w0 = 1 && modeOk w2)

/-- RND of a mode word (R57). -/
def modeRnd (m : Word) : Nat := bits m 10 2
/-- FTZ of a mode word. -/
def modeFtz (m : Word) : Bool := bit m 9
/-- SAT of a mode word. -/
def modeSat (m : Word) : Bool := bit m 8
/-- NARROW of a mode word. -/
def modeNarrow (m : Word) : Nat := bits m 6 2
/-- SR of a mode word. -/
def modeSr (m : Word) : Bool := bit m 5

/-- A wait condition: (ticket - threshold) is not negative as a signed 32-bit number (R51, R68). -/
def reached (ticket threshold : Word) : Bool := !(ticket - threshold).msb

/-- A change of a cluster's Current: POWER packet, POWER_STATE event, and the count of 0x1110:04 (R471, R472, R479). -/
def State.setCurrent (s : State) (k : Nat) (new : BitVec 8) : State :=
  let old := (s.cluster k).current
  if old = new then s
  else
    let done := new = 0 ∨ new = 2 ∨ new = 3
    let s1 := s.modCluster k fun c => { c with current := new, transitions := if done then c.transitions + 1 else c.transitions }
    let p := (s.ownerOf k).getD 0xFE
    let s2 := s1.trace' (BitVec.ofNat 8 p) (pathOf k 0) 5 (word (k * 256 + old.toNat * 16 + new.toNat))
    s2.raise { code := 0x1F02, path := some (pathOf k 0), part := p, detail := [BitVec.ofNat 8 k, old, new] }

/-- A cluster leaves Idle-clocked when a doorbell or command is accepted (R470). -/
def State.wake (s : State) (k : Nat) : State := if (s.cluster k).current = 1 then s.setCurrent k 0 else s

end Sys2Proof.Machine
end

