-- ==== Sys2Proof/Machine/Memory.lean ====
section
/-! DEFINITION. Tier memory (R160 to R172, R176 to R178, R181 to R184, R361, R362): addresses, slabs, the interleave, translation,
line requests, check values and read-ahead. -/

namespace Sys2Proof.Machine

/-! ### Physical addresses and slabs (R160) -/

/-- Bytes of a slab. -/
def slabBytes : Nat := 0xC0000000

/-- First byte of a slab. -/
def slabBase (n : Nat) : Nat := if n < 128 then n * slabBytes else 0x10000000000 + (n - 128) * slabBytes

/-- The slab of a physical address; none in the ranges marked None. -/
def slabOf (pa : Nat) : Option Nat :=
  if pa < 0x6000000000 then some (pa / slabBytes)
  else if 0x10000000000 ≤ pa ∧ pa < 0x28000000000 then some (128 + (pa - 0x10000000000) / slabBytes)
  else none

/-- A slab's record. -/
def State.slab (s : State) (n : Nat) : Slab := mapGet {} s.mem.slabs n

/-- A slab's record changed. -/
def State.modSlab (s : State) (n : Nat) (f : Slab → Slab) : State :=
  { s with mem := { s.mem with slabs := mapSet {} s.mem.slabs n (f (s.slab n)) } }

/-- The mixing of R162. -/
def laneMix (key : DWord) (g : Nat) : Nat :=
  let z := key ^^^ BitVec.ofNat 64 (g * 0x9E3779B97F4A7C15)
  let z := (z ^^^ (z >>> 30)) * 0xBF58476D1CE4E5B9
  let z := (z ^^^ (z >>> 27)) * 0x94D049BB133111EB
  (z ^^^ (z >>> 31)).toNat

/-- The channel of a line (R162, R163); tier-2 channels are numbered from 384. -/
def State.channelOf (s : State) (pa : Nat) : Nat :=
  match slabOf pa with
  | none => 0
  | some n =>
    let line := (pa - slabBase n) / 512
    if n < 128 then
      (line % 384 + laneMix (s.slab n).key (n * 16384 + line / 384) % 384) % 384
    else 384 + (line % 48 + ((n - 128) * 131072 + line / 48)) % 48

/-- The byte offset in the channel (R162, R163). -/
def channelOffset (pa : Nat) : Nat :=
  match slabOf pa with
  | none => 0
  | some n =>
    let line := (pa - slabBase n) / 512
    (if n < 128 then n * 16384 + line / 384 else (n - 128) * 131072 + line / 48) * 512 + pa % 512

/-! ### Translation (R169, R172) -/

/-- Bytes of a page. -/
def PageMap.size (p : PageMap) : Nat := if p.big then 0x40000000 else 0x200000

/-- A page maps a virtual address of a context. -/
def PageMap.holds (p : PageMap) (ctx : BitVec 12) (va : Nat) : Bool := p.ctx = ctx && p.va ≤ va && va < p.va + p.size

/-- Who sends a request: a tile's access engine, a die's Shuttle slice with the engines beside it, or the hamper on the I/O bridge,
to which R169 gives no translation buffer. -/
inductive Mover where
  | tile (t : Path)
  | slice (d : Nat)
  | bridge
  deriving DecidableEq, Repr

/-- A mover's translation buffer. -/
def State.tlbOf (s : State) (who : Mover) : List PageMap :=
  match who with
  | .tile t => (s.tile t).tlb
  | .slice d => mapGet [] s.mem.sliceTlb d
  | .bridge => []

/-- A walked translation enters the buffer of 128 or 512 entries. -/
def State.fillTlb (s : State) (who : Mover) (p : PageMap) : State :=
  match who with
  | .tile t => s.modTile t fun x => { x with tlb := (p :: x.tlb).take 128 }
  | .bridge => s
  | .slice d => { s with mem := { s.mem with sliceTlb := mapSet [] s.mem.sliceTlb d ((p :: mapGet [] s.mem.sliceTlb d).take 512) } }

/-- The page that serves a virtual address for a mover: of its buffer, which may hold an old entry until the request that removed it
is done (R172), or of the mappings. -/
def State.pageFor (s : State) (who : Mover) (ctx : BitVec 12) (va : Nat) : Option PageMap :=
  match (s.tlbOf who).find? fun p => p.holds ctx va with
  | some p => some p
  | none => s.mem.maps.find? fun p => p.holds ctx va

/-- The page a mover finds for a virtual address: in its buffer, or by a walk that fills the buffer. -/
def State.translate (s : State) (who : Mover) (ctx : BitVec 12) (va : Nat) : State × Option PageMap :=
  match (s.tlbOf who).find? fun p => p.holds ctx va with
  | some p => (s, some p)
  | none =>
    match s.mem.maps.find? fun p => p.holds ctx va with
    | some p => (s.fillTlb who p, some p)
    | none => (s, none)

/-- A translated line or the fault of R175. -/
inductive Xlate where
  | ok (page : PageMap) (pa : Nat)
  | fault (code : Nat)
  deriving DecidableEq, Repr

/-- A virtual address translated for a read or a write (R169, R175). -/
def State.xlate (s : State) (who : Mover) (ctx : BitVec 12) (va : Nat) (write : Bool) : State × Xlate :=
  match s.translate who ctx va with
  | (s', none) => (s', .fault 0x8402)
  | (s', some p) => if (if write then p.w else p.r) then (s', .ok p (p.pa + (va - p.va))) else (s', .fault 0x8403)

/-- The pieces of a range that lie in one line each: address and length. -/
def linePieces : Nat → Nat → Nat → List (Nat × Nat)
  | 0, _, _ => []
  | fuel + 1, a, len =>
    if len = 0 then []
    else
      let n := min len (512 - a % 512)
      (a, n) :: linePieces fuel (a + n) (len - n)

/-- The line pieces of a range. -/
def linesOf (a len : Nat) : List (Nat × Nat) := linePieces (len / 512 + 2) a len

/-! ### Blocks and check values (R361, R362) -/

/-- The bookkeeping of the block of a physical address. -/
def State.block (s : State) (pa : Nat) : Block := mapGet {} s.mem.blocks (pa / 4096)

/-- A block's bookkeeping changed. -/
def State.modBlock (s : State) (pa : Nat) (f : Block → Block) : State :=
  { s with mem := { s.mem with blocks := mapSet {} s.mem.blocks (pa / 4096) (f (s.block pa)) } }

/-- Bytes of tier memory. -/
def State.tierBytes (s : State) (pa len : Nat) : Bytes := readCells s.mem.tier pa len

/-- The number of a writing engine (R362): access engines by tile, then Shuttle slices, training-state engines and the checkpoint path. -/
def Mover.engine : Mover → Nat
  | .tile t => clusterOf t * 32 + tileNo t
  | .slice d => 1280 + d
  | .bridge => 1288

/-- A new writer tag of an engine. -/
def State.newTag (s : State) (engine : Nat) : BitVec 24 × State :=
  let n := mapGet 0 s.mem.tagCounts engine + 1
  (BitVec.ofNat 24 (engine % 2048 * 8192 + n.toNat), { s with mem := { s.mem with tagCounts := mapSet 0 s.mem.tagCounts engine n } })

/-! ### Requests at the channel controller (R176, R177) -/

/-- A slab that answers no request (R165). -/
def State.scrubbing (s : State) (pa : Nat) : Bool :=
  match slabOf pa with
  | some n => (s.slab n).state = 1
  | none => false

/-- A request served by a channel controller is counted for its partition (R333), and for the balance windows of tier 1 (R167). -/
def State.countRequest (s : State) (part pa : Nat) : State :=
  let c := s.channelOf pa
  let s := s.countPart (if part < 40 then some part else none) 0x2270 3 1
  if c < 384 then
    { s with mem := { s.mem with winChan := mapSet 0 s.mem.winChan c (mapGet 0 s.mem.winChan c + 1),
                                 winPart := mapSet 0 s.mem.winPart (c * 256 + part) (mapGet 0 s.mem.winPart (c * 256 + part) + 1) } }
  else s

/-- A read of one line: served from a read-ahead entry of its partition where there is one (R181). -/
def State.lineRead (s : State) (part pa : Nat) : State :=
  let line := pa / 512
  let own (e : ReadAhead) : Bool := e.line = line && e.part.toNat = part
  let s1 := s.countRequest part pa
  if s1.mem.readAhead.any own then
    { s1 with mem := { s1.mem with raHits := satAdd64 s1.mem.raHits 1,
                                   readAhead := s1.mem.readAhead.map fun e => if own e then { e with hit := true } else e } }
  else s1

/-- A write of part of one line (R177, R362): the bytes are merged, the line takes its writer's tag, or 0 and its block loses its
check value; read-ahead of the line is dropped (R181). -/
def State.lineWrite (s : State) (part pa : Nat) (bs : Bytes) (tag : Option (BitVec 24)) : State :=
  let s1 := s.countRequest part pa
  let s2 := { s1 with mem := { s1.mem with tier := writeCells s1.mem.tier pa bs,
                                           readAhead := s1.mem.readAhead.filter fun e => e.line ≠ pa / 512 } }
  s2.modBlock pa fun b =>
    match tag with
    | some g => { b with lineTags := mapSet 0 b.lineTags (pa / 512 % 8) g }
    | none => { check := none, tag := 0, lineTags := mapSet 0 b.lineTags (pa / 512 % 8) 0 }

/-- What a transfer meets: nothing wrong, a fault with the address it names, or a slab that does not answer yet. -/
inductive Met where
  | ok
  | fault (code va : Nat)
  deriving DecidableEq, Repr

/-- Bytes read through a context, line by line in ascending address; what was read before a fault is returned with it. -/
def State.readVA (s : State) (who : Mover) (part : Nat) (ctx : BitVec 12) (va len : Nat) : State × Bytes × Met :=
  (linesOf va len).foldl (fun (acc : State × Bytes × Met) (p : Nat × Nat) =>
    match acc.2.2 with
    | .fault .. => acc
    | .ok =>
      match acc.1.xlate who ctx p.1 false with
      | (s', .fault code) => (s', acc.2.1, .fault code p.1)
      | (s', .ok _ pa) => (s'.lineRead part pa, acc.2.1 ++ s'.tierBytes pa p.2, .ok)) (s, [], .ok)

/-- Bytes written through a context without check values, line by line; lines before a fault stay written (R175, R178). -/
def State.writeVA (s : State) (who : Mover) (part : Nat) (ctx : BitVec 12) (va : Nat) (bs : Bytes) : State × Met :=
  (linesOf va bs.length).foldl (fun (acc : State × Met) (p : Nat × Nat) =>
    match acc.2 with
    | .fault .. => acc
    | .ok =>
      match acc.1.xlate who ctx p.1 true with
      | (s', .fault code) => (s', .fault code p.1)
      | (s', .ok _ pa) => (s'.lineWrite part pa (slice bs (p.1 - va) p.2) none, .ok)) (s, .ok)

/-- No line of a range, as a mover translates it, lies in a slab that is being scrubbed (R165). -/
def State.answers (s : State) (who : Mover) (ctx : BitVec 12) (va len : Nat) : Bool :=
  s.pwr.tiersTrained && (linesOf va len).all fun p =>
    match s.pageFor who ctx p.1 with
    | some m => !s.scrubbing (m.pa + (p.1 - m.va))
    | none => true

/-- The bytes a read of a range would return; 0 where nothing is mapped. -/
def State.peekVA (s : State) (who : Mover) (ctx : BitVec 12) (va len : Nat) : Bytes :=
  (linesOf va len).flatMap fun p =>
    match s.pageFor who ctx p.1 with
    | some m => s.tierBytes (m.pa + (p.1 - m.va)) p.2
    | none => zeros p.2

/-- An injection of a kind is armed (R372). -/
def State.armedFor (s : State) (kind : BitVec 8) : Bool := s.integ.armed && s.integ.armKind = kind

/-- The injected inversion of the next check value written by the target's access engine (R372, kind 3). -/
def State.injectCheck (s : State) (who : Mover) : Bool :=
  s.armedFor 3 && (match who with
    | .tile t => s.integ.armTarget = t
    | _ => false)

/-- A whole 4 KiB block written with its check value (R178, R361, R362). -/
def State.writeBlock (s : State) (who : Mover) (engine part : Nat) (ctx : BitVec 12) (va : Nat) (bs : Bytes) : State × Met :=
  let (tag, s0) := s.newTag engine
  let (s1, met) := (linesOf va 4096).foldl (fun (acc : State × Met) (p : Nat × Nat) =>
    match acc.2 with
    | .fault .. => acc
    | .ok =>
      match acc.1.xlate who ctx p.1 true with
      | (s', .fault code) => (s', .fault code p.1)
      | (s', .ok _ pa) => (s'.lineWrite part pa (slice bs (p.1 - va) p.2) (some tag), .ok)) (s0, .ok)
  match met with
  | .fault .. => (s1, met)
  | .ok =>
    match s1.xlate who ctx va true with
    | (s2, .fault code) => (s2, .fault code va)
    | (s2, .ok _ pa) =>
      let inj := s2.injectCheck who
      let v := crc32c (fit bs 4096) ^^^ (if inj then 1 else 0)
      ({ s2.modBlock pa fun b => { b with check := some v, tag := tag, injected := inj } with
           integ := if inj then { s2.integ with armed := false } else s2.integ }, .ok)

/-- Engine numbers of R362 beside the access engines. -/
def shuttleEngine (d : Nat) : Nat := 1280 + d
/-- A training-state engine. -/
def trainingEngine (d : Nat) : Nat := 1284 + d
/-- The checkpoint path. -/
def hamperEngine : Nat := 1288

/-- What verification of a block finds (R178, R362). -/
inductive Verdict where
  | good
  | nocheck
  | torn (line : Nat)
  | bad
  deriving DecidableEq, Repr

/-- A block's value and tags held against its bytes. -/
def State.verify (s : State) (pa : Nat) : Verdict :=
  let b := s.block pa
  match b.check with
  | none => .nocheck
  | some v =>
    match (List.range 8).find? fun i => mapGet 0 b.lineTags i ≠ b.tag with
    | some i => .torn i
    | none => if crc32c (s.tierBytes (pa / 4096 * 4096) 4096) = v then .good else .bad

/-- The event of a failed verification: code, DETAIL (R368) and whether it was injected. READER is 0 access engine, 1 Shuttle, 2 training-state engine,
3 checkpoint path, 4 expander. -/
def State.verifyEvent (s : State) (reader va pa : Nat) (v : Verdict) : Nat × Bytes × Bool :=
  let b := s.block pa
  let det (line a c : Nat) : Bytes :=
    [BitVec.ofNat 8 reader, BitVec.ofNat 8 line] ++ zeros 6 ++ toLE va 8 ++ toLE (pa / 4096 * 4096) 8
      ++ toLE a 4 ++ toLE c 4
  match v with
  | .torn i => (0x8C01, det i b.tag.toNat (mapGet 0 b.lineTags i).toNat, false)
  | .bad => (0xC003, det 0 (b.check.getD 0).toNat (crc32c (s.tierBytes (pa / 4096 * 4096) 4096)).toNat, b.injected)
  | _ => (0x8405, det 0 0 0, false)

/-- Verifications and torn blocks are counted (R359). -/
def State.countVerify (s : State) (v : Verdict) : State :=
  let c (x : SMap DWord) (sub : Nat) : SMap DWord := mapSet 0 x sub (satAdd64 (mapGet 0 x sub) 1)
  match v with
  | .nocheck => s
  | .torn _ => { s with integ := { s.integ with ctr := c (c s.integ.ctr 6) 7 } }
  | _ => { s with integ := { s.integ with ctr := c s.integ.ctr 6 } }

/-! ### Read-ahead (R181, R182) -/

/-- A cluster whose entries shared partitions may use: no sealed partition owns it. -/
def State.openCluster (s : State) (k : Nat) : Bool :=
  match s.ownerOf k with
  | some p => !(s.part p).sealedMode
  | none => true

/-- The places a partition may use at a controller: 32 common ones and cluster entries, as (cluster or none, how many). -/
def State.raPlaces (s : State) (part : Nat) : List (Option Nat × Nat) :=
  if (s.part part).sealedMode then (s.partClusters part).map fun k => (some k, 1)
  else (none, 32) :: ((List.range 40).filter s.openCluster).map fun k => (some k, 1)

/-- The oldest entry of a channel among the places given. -/
def oldestOf (xs : List ReadAhead) (chan : Nat) (homes : List (Option Nat)) : Option ReadAhead :=
  (xs.filter fun e => e.chan = chan && homes.contains e.home).foldl (fun a e =>
    match a with
    | none => some e
    | some b => if e.filled < b.filled then some e else some b) none

/-- A read-ahead fill of one line: a free place, else the oldest entry its partition may use (R181). -/
def State.fillLine (s : State) (part : Nat) (via : PageMap) (pa : Nat) : State :=
  let chan := s.channelOf pa
  let line := pa / 512
  let xs := s.mem.readAhead
  if xs.any fun e => e.line = line && e.part.toNat = part then s
  else
    let places := s.raPlaces part
    let new (home : Option Nat) : ReadAhead :=
      { chan := chan, line := line, part := BitVec.ofNat 8 part, home := home, via := via, filled := s.island }
    match places.find? fun p => (xs.filter fun e => e.chan = chan && e.home = p.1).length < p.2 with
    | some p => { s with mem := { s.mem with readAhead := xs ++ [new p.1] } }
    | none =>
      match oldestOf xs chan (places.map (·.1)) with
      | some old => { s with mem := { s.mem with readAhead := (xs.filter (· ≠ old)) ++ [new old.home] } }
      | none => { s with mem := { s.mem with raDiscarded := satAdd64 s.mem.raDiscarded 1 } }

/-- Read-ahead of a range through a context; what meets a fault is discarded and counted (R181). -/
def State.prefetch (s : State) (who : Mover) (part : Nat) (ctx : BitVec 12) (va len : Nat) : State :=
  s.each (linesOf va len) fun a p =>
    match a.xlate who ctx p.1 false with
    | (s', .ok page pa) => (s'.countRequest part pa).fillLine part page pa
    | (s', .fault _) => { s' with mem := { s'.mem with raDiscarded := satAdd64 s'.mem.raDiscarded 1 } }

/-! ### Rows on their own: line requests, errors, scrub (R177, R183, R184) -/

/-- A corrected error in a page: counted, and MEM_CE_PAGE at the sixteenth within 24 hours (R183, R184). -/
def State.correctTier (s : State) (pa n : Nat) : State :=
  let page := pa / 0x200000
  let recent := ((List.replicate n s.island) ++ (mapGet [] s.mem.pageErrs page)).filter fun t => s.island < t + 86400000000000
  let full : Bool := 16 ≤ recent.length
  let m := { s.mem with pageErrs := mapSet [] s.mem.pageErrs page (if full then [] else recent) }
  let m := if pa < 0x10000000000 then { m with t1Corr := satAdd64 m.t1Corr n } else { m with t2Corr := satAdd64 m.t2Corr n }
  let s1 := { s with mem := m }
  if full then s1.raise { code := 0x1402, part := 0xFE, detail := toLE (page * 0x200000) 8 } else s1

/-- MEMORY_UE: the physical address and the channel, 0 to 383 of tier 1 or 0 to 47 of tier 2 (R183). -/
def State.memoryUe (s : State) (pa : Nat) : State :=
  let c := s.channelOf pa
  s.raise { code := 0xC010, part := 0xFE, detail := toLE pa 8 ++ toLE (if c < 384 then c else c - 384) 2 }

/-- The bad symbols of each 32-byte unit of a line. -/
def badSymbols (errs : List (BitVec 4 × BitVec 8)) : List Nat :=
  (List.range 16).map fun u => ((errs.filter fun e => e.1.toNat = u).map (·.2)).eraseDups.length

/-- A controller finds bad symbols in a line: a single one of a unit is corrected, two or more of one unit are not (R183). -/
def State.lineErrors (s : State) (pa : Nat) (errs : List (BitVec 4 × BitVec 8)) : State × Bool :=
  let ns := badSymbols errs
  if ns.any (2 ≤ ·) then (s.memoryUe pa, false)
  else if ns.sum = 0 then (s, true)
  else (s.correctTier pa ns.sum, true)

/-- MEMORY_REQUEST (R177): one request to one line, applied at its controller. A request that would cross its line, that names no
memory, or whose slab is being scrubbed is not answered. -/
def execMemoryRequest (ctx : BitVec 12) (pa : BitVec 44) (req : LineRequest) (errs : List (BitVec 4 × BitVec 8)) (s : State) : Out :=
  .next
    (let a := pa.toNat
     let len := match req with
       | .read n => n
       | .write bs => bs.length
     let part := match s.ctxBind ctx.toNat with
       | some b => b.part.toNat
       | none => 0xFE
     if (slabOf a).isNone || !s.pwr.tiersTrained || s.scrubbing a || 512 < a % 512 + len || s.fatal then s
     else
       match s.lineErrors a errs with
       | (s1, false) => s1
       | (s1, true) =>
         match req with
         | .read n =>
           let s2 := s1.lineRead part a
           { s2 with mem := { s2.mem with lastRead := s2.tierBytes a n } }
         | .write bs => s1.lineWrite part a bs none)

/-- READAHEAD_EXPIRE (R181): the oldest entry of a channel that has gone 20 µs without a hit. -/
def execReadaheadExpire (tier2 : Bool) (ch : BitVec 9) (s : State) : Out :=
  guardUnit (decide (ch.toNat < if tier2 then 48 else 384))
    (let c := (if tier2 then 384 else 0) + ch.toNat
     match s.mem.readAhead.find? fun e => e.chan = c && !e.hit && e.filled + 20000 ≤ s.island with
     | some e =>
       { s with mem := { s.mem with readAhead := s.mem.readAhead.filter (· ≠ e), raExpired := satAdd64 s.mem.raExpired 1 } }
     | none => s)

/-- PATROL_SCRUB (R184): one line read and, where an error is found, corrected. -/
def execPatrolScrub (pa : BitVec 44) (errs : List (BitVec 4 × BitVec 8)) (s : State) : Out :=
  .next
    (if (slabOf pa.toNat).isNone || s.fatal || !s.pwr.tiersTrained then s else (s.lineErrors pa.toNat errs).1)

/-- The busiest channel of a window: the lowest of those with the largest count. -/
def busiest (m : SMap Nat) : Nat × Nat := m.foldl (fun a e => if a.2 < e.2 then e else a) (0, 0)

/-- IMBALANCE_WINDOW (R167): the 100 µs window closes. An episode ends with the first counted window below the threshold. -/
def execImbalanceWindow (s : State) : Out :=
  .next
    (let m := s.mem
     let total := (m.winChan.map (·.2)).sum
     let (ch, n) := busiest m.winChan
     let ratio := n * 384 * 256 / total
     let part := (busiest ((m.winPart.filter fun e => e.1 / 256 = ch).map fun e => (e.1 % 256, e.2))).1
     let clear := { m with winChan := [], winPart := [] }
     if total < 38400 then { s with mem := clear }
     else
       let run := if m.imbThreshold.toNat < ratio then m.imbRun + 1 else 0
       let judged := { clear with
         imbRatio := BitVec.ofNat 16 (min ratio 0xFFFF), imbBusiest := BitVec.ofNat 16 ch, imbRun := run,
         imbLast := if run = 0 then none else m.imbLast }
       let s1 := { s with mem := judged }
       let due := match m.imbLast with
         | none => true
         | some t => t + 10000000000 ≤ s.island
       if m.imbPersist.toNat ≤ run ∧ 0 < run ∧ due = true then
         let s2 := { s1 with mem := { s1.mem with imbLast := some s.island, imbEvents := s1.mem.imbEvents + 1 } }
         s2.raise { code := 0x1401, part := 0xFE, detail := toLE ch 2 ++ toLE ratio 4 ++ [BitVec.ofNat 8 part] }
       else s1)

end Sys2Proof.Machine
end

