-- ==== Sys2Proof/Machine/Float.lean ====
section
/-! DEFINITION. Numbers: the formats of R95 and R137, exact values, the roundings of R138, R100 and R206, and the generator
YCG-64 (R204). A value is exact until a rule rounds it. -/

namespace Sys2Proof.Machine

/-- A floating-point format: exponent bits, mantissa bits, bias, and whether the top exponent holds infinity and NaN. -/
structure Fmt where
  eb : Nat
  mb : Nat
  bias : Nat
  ieee : Bool
  deriving DecidableEq, Repr

/-- fp32. -/
def fp32 : Fmt := ⟨8, 23, 127, true⟩
/-- bf16. -/
def bf16 : Fmt := ⟨8, 7, 127, true⟩
/-- fp16. -/
def fp16 : Fmt := ⟨5, 10, 15, true⟩
/-- FP8 E5M2. -/
def e5m2 : Fmt := ⟨5, 2, 15, true⟩
/-- FP8 E4M3: no infinity, NaN at S.1111.111. -/
def e4m3 : Fmt := ⟨4, 3, 7, false⟩
/-- E2M1, the element of y4: no infinity, no NaN. -/
def e2m1 : Fmt := ⟨2, 1, 1, false⟩

/-- Bits of the magnitude. -/
def Fmt.width (f : Fmt) : Nat := f.eb + f.mb
/-- The pattern of the largest finite magnitude (R95). -/
def Fmt.maxBits (f : Fmt) : Nat :=
  if f.ieee then (2 ^ f.eb - 1) * 2 ^ f.mb - 1 else if f.eb = 4 then 0x7E else 2 ^ f.width - 1
/-- The exponent of the smallest normal magnitude. -/
def Fmt.emin (f : Fmt) : Int := 1 - (f.bias : Int)
/-- The pattern of infinity. -/
def Fmt.infBits (f : Fmt) : Nat := (2 ^ f.eb - 1) * 2 ^ f.mb
/-- The canonical NaN of a format (R138, R206): quiet in the IEEE formats, all ones in FP8. -/
def Fmt.nanBits (f : Fmt) : Nat :=
  if f.ieee then (if f.mb = 2 then 0x7F else f.infBits + 2 ^ (f.mb - 1)) else 2 ^ f.width - 1
/-- The sign bit. -/
def Fmt.sign (f : Fmt) (neg : Bool) : Nat := if neg then 2 ^ f.width else 0

/-- The value of a pattern. -/
def Fmt.decode (f : Fmt) (w : Nat) : Num :=
  let neg := w / 2 ^ f.width % 2 = 1
  let ex := w / 2 ^ f.mb % 2 ^ f.eb
  let man := w % 2 ^ f.mb
  if f.ieee && ex = 2 ^ f.eb - 1 then (if man = 0 then .inf neg else .nan)
  else if !f.ieee && f.eb = 4 && w % 128 = 127 then .nan
  else if ex = 0 then .fin neg man (f.emin - f.mb)
  else .fin neg (2 ^ f.mb + man) (f.emin - f.mb + (ex : Int) - 1)

/-- floor(log2(n / d)) of a positive ratio. -/
def log2Ratio (n d : Nat) : Int :=
  let k : Int := (Nat.log2 n : Int) - Nat.log2 d
  let below : Bool := if 0 ≤ k then n < d * 2 ^ k.toNat else n * 2 ^ (-k).toNat < d
  if below then k - 1 else k

/-- A positive ratio in a format: the pattern of the largest magnitude not above it with unbounded exponent, and the rest as
a fraction of the distance to the next pattern. -/
def Fmt.floorRatio (f : Fmt) (n d : Nat) : Nat × Nat × Nat :=
  let ex := log2Ratio n d
  let norm := max ex f.emin
  let q := norm - f.mb
  let (num, den) := if 0 ≤ q then (n, d * 2 ^ q.toNat) else (n * 2 ^ (-q).toNat, d)
  let sig := num / den
  let pat := if ex < f.emin then sig else (norm - f.emin + 1).toNat * 2 ^ f.mb + (sig - 2 ^ f.mb)
  (pat, num % den, den)

/-- A rounding (R57): 0 to nearest even, 1 toward zero, 2 toward -∞, 3 toward +∞. -/
def roundsUp (rnd : Nat) (neg : Bool) (pat rem den : Nat) : Bool :=
  match rnd with
  | 0 => den < 2 * rem || (2 * rem = den && pat % 2 = 1)
  | 1 => false
  | 2 => neg && 0 < rem
  | _ => !neg && 0 < rem

/-- The pattern of an overflowing result (R100, R138): FP8 E4M3 and E2M1 saturate. -/
def Fmt.overflow (f : Fmt) (rnd : Nat) (neg : Bool) : Nat :=
  if !f.ieee then f.sign neg + f.maxBits
  else
    let toInf : Bool := match rnd with
      | 0 => true
      | 1 => false
      | 2 => neg
      | _ => !neg
    f.sign neg + (if toInf then f.infBits else f.maxBits)

/-- A ratio rounded to a format, with its sign; 0 for a zero ratio. -/
def Fmt.roundRatio (f : Fmt) (rnd : Nat) (neg : Bool) (n d : Nat) : Nat :=
  if n = 0 then f.sign neg
  else
    let (pat, rem, den) := f.floorRatio n d
    let p := if roundsUp rnd neg pat rem den then pat + 1 else pat
    if f.maxBits < p then f.overflow rnd neg else f.sign neg + p

/-- Numerator and denominator of m × 2^e. -/
def ratioOf (m : Nat) (e : Int) : Nat × Nat := if 0 ≤ e then (m * 2 ^ e.toNat, 1) else (m, 2 ^ (-e).toNat)

/-- An exact value rounded to a format. A saturating format writes an infinite value as its largest magnitude. -/
def Fmt.encode (f : Fmt) (rnd : Nat) : Num → Nat
  | .nan => f.nanBits
  | .inf neg => if f.ieee then f.sign neg + f.infBits else f.sign neg + f.maxBits
  | .fin neg m e => let (n, d) := ratioOf m e; f.roundRatio rnd neg n d

/-- Stochastic rounding of a ratio (R206): the overflow is judged on the exact value. -/
def Fmt.srRatio (f : Fmt) (neg : Bool) (n d : Nat) (rnd : Nat) : Nat :=
  if n = 0 then f.sign neg
  else
    let (pat, rem, den) := f.floorRatio n d
    if f.maxBits < pat || (pat = f.maxBits && 0 < rem) then f.overflow 0 neg
    else f.sign neg + (if rnd < 65536 * rem / den then pat + 1 else pat)

/-- Stochastic rounding of a value with 16 random bits (R206). -/
def Fmt.sr (f : Fmt) (rnd : Nat) : Num → Nat
  | .nan => f.nanBits
  | .inf neg => f.overflow 0 neg
  | .fin neg m e => let (n, d) := ratioOf m e; f.srRatio neg n d rnd

/-! ### Exact arithmetic -/

/-- A signed integer significand. -/
def Num.sig (neg : Bool) (m : Nat) : Int := if neg then -(m : Int) else m

/-- The significand of m × 2^e at a smaller exponent. -/
def alignTo (m : Nat) (e lo : Int) : Nat := m * 2 ^ (e - lo).toNat

/-- The exact sum; an exact zero of unlike signs is negative only when rounding toward -∞ (IEEE 754). -/
def Num.add (rnd : Nat) : Num → Num → Num
  | .nan, _ => .nan
  | _, .nan => .nan
  | .inf a, .inf b => if a = b then .inf a else .nan
  | .inf a, .fin .. => .inf a
  | .fin .., .inf b => .inf b
  | .fin a m e, .fin b n g =>
    let lo := min e g
    let x := Num.sig a (alignTo m e lo) + Num.sig b (alignTo n g lo)
    if x = 0 then .fin (if a = b then a else rnd = 2) 0 0 else .fin (x < 0) x.natAbs lo

/-- The negated value. -/
def Num.neg : Num → Num
  | .nan => .nan
  | .inf a => .inf (!a)
  | .fin a m e => .fin (!a) m e

/-- The magnitude. -/
def Num.abs : Num → Num
  | .nan => .nan
  | .inf _ => .inf false
  | .fin _ m e => .fin false m e

/-- The exact product. -/
def Num.mul : Num → Num → Num
  | .nan, _ => .nan
  | _, .nan => .nan
  | .inf a, .inf b => .inf (a != b)
  | .inf a, .fin b n _ => if n = 0 then .nan else .inf (a != b)
  | .fin a m _, .inf b => if m = 0 then .nan else .inf (a != b)
  | .fin a m e, .fin b n g => .fin (a != b) (m * n) (e + g)

/-- A value times a power of two. -/
def Num.scale (k : Int) : Num → Num
  | .fin a m e => .fin a m (e + k)
  | x => x

/-- A value is a zero. -/
def Num.isZero : Num → Bool
  | .fin _ m _ => m = 0
  | _ => false

/-- A value is NaN. -/
def Num.isNan : Num → Bool
  | .nan => true
  | _ => false

/-- A value is an infinity. -/
def Num.isInf : Num → Bool
  | .inf _ => true
  | _ => false

/-- A value is finite. -/
def Num.isFin : Num → Bool
  | .fin .. => true
  | _ => false

/-- The sign of a value. -/
def Num.isNeg : Num → Bool
  | .nan => false
  | .inf a => a
  | .fin a _ _ => a

/-- The order of two values that are no NaN, with equal zeros. -/
def Num.lt : Num → Num → Bool
  | .nan, _ => false
  | _, .nan => false
  | .inf a, .inf b => a && !b
  | .inf a, .fin .. => a
  | .fin .., .inf b => !b
  | .fin a m e, .fin b n g =>
    let lo := min e g
    Num.sig a (alignTo m e lo) < Num.sig b (alignTo n g lo)

/-- Equality of two values: false for NaN, -0 equal to +0 (R138). -/
def Num.eq (x y : Num) : Bool := !x.isNan && !y.isNan && !x.lt y && !y.lt x

/-- The order with -0 below +0 (R138). -/
def Num.below (x y : Num) : Bool := x.lt y || (x.isZero && y.isZero && x.isNeg && !y.isNeg)

/-- Minimum under R138. -/
def Num.minOf (x y : Num) : Num := if x.isNan || y.isNan then .nan else if y.below x then y else x

/-- Maximum under R138. -/
def Num.maxOf (x y : Num) : Num := if x.isNan || y.isNan then .nan else if x.below y then y else x

/-- The exact quotient of two values as a sign and a ratio, where both are finite and the divisor is not zero; the IEEE value
otherwise. -/
def Num.divide (f : Fmt) (rnd : Nat) (x y : Num) : Nat :=
  match x, y with
  | .nan, _ => f.nanBits
  | _, .nan => f.nanBits
  | .inf _, .inf _ => f.nanBits
  | .inf a, .fin b _ _ => f.encode rnd (.inf (a != b))
  | .fin a _ _, .inf b => f.sign (a != b)
  | .fin a m e, .fin b n g =>
    if n = 0 then (if m = 0 then f.nanBits else f.encode rnd (.inf (a != b)))
    else
      let (p, q) := ratioOf m (e - g)
      f.roundRatio rnd (a != b) p (q * n)

/-- The integer square root, bit by bit from bit k down. -/
def isqrtFrom : Nat → Nat → Nat → Nat
  | 0, _, r => r
  | k + 1, n, r => let c := r + 2 ^ k; isqrtFrom k n (if c * c ≤ n then c else r)

/-- The integer square root. -/
def isqrt (n : Nat) : Nat := isqrtFrom (Nat.log2 n / 2 + 1) n 0

/-- The square root rounded to a format: enough bits are taken that one sticky bit settles every rounding. -/
def Num.root (f : Fmt) (rnd : Nat) : Num → Nat
  | .nan => f.nanBits
  | .inf true => f.nanBits
  | .inf false => f.infBits
  | .fin a m e =>
    if m = 0 then f.sign a
    else if a then f.nanBits
    else
      let odd := (e % 2).toNat
      let n := m * 2 ^ (odd + 64)
      let r := isqrt n
      let s := 2 * r + (if r * r = n then 0 else 1)
      f.encode rnd (.fin false s ((e - odd - 64) / 2 - 1))

/-- A value rounded to a format and read back. -/
def Fmt.snap (f : Fmt) (rnd : Nat) (x : Num) : Num := f.decode (f.encode rnd x)

/-- A pattern whose subnormal is replaced by the zero of its sign (R138). -/
def Fmt.flush (f : Fmt) (ftz : Bool) (w : Nat) : Nat :=
  if ftz && w / 2 ^ f.mb % 2 ^ f.eb = 0 then w / 2 ^ f.width % 2 * 2 ^ f.width else w

/-! ### fp32 operations rounded to nearest even -/

/-- The value of an fp32 pattern. -/
def f32 (w : Nat) : Num := fp32.decode w
/-- fp32 addition, nearest even. -/
def add32 (a b : Nat) : Nat := fp32.encode 0 ((f32 a).add 0 (f32 b))
/-- fp32 subtraction. -/
def sub32 (a b : Nat) : Nat := fp32.encode 0 ((f32 a).add 0 (f32 b).neg)
/-- fp32 multiplication. -/
def mul32 (a b : Nat) : Nat := fp32.encode 0 ((f32 a).mul (f32 b))
/-- fp32 fused multiply-add a × b + c. -/
def fma32 (a b c : Nat) : Nat := fp32.encode 0 (((f32 a).mul (f32 b)).add 0 (f32 c))
/-- fp32 division. -/
def div32 (a b : Nat) : Nat := (f32 a).divide fp32 0 (f32 b)
/-- fp32 square root. -/
def sqrt32 (a : Nat) : Nat := (f32 a).root fp32 0
/-- fp32 minimum under R138. -/
def min32 (a b : Nat) : Nat := fp32.encode 0 ((f32 a).minOf (f32 b))
/-- fp32 maximum under R138. -/
def max32 (a b : Nat) : Nat := fp32.encode 0 ((f32 a).maxOf (f32 b))
/-- The fp32 pattern of a natural number, nearest even. -/
def ofNat32 (n : Nat) : Nat := fp32.encode 0 (.fin false n 0)
/-- The canonical NaN of fp32. -/
def nan32 : Nat := 0x7FC00000

/-- An integer clamped to 32 bits of two's complement, as a pattern (R139). -/
def clamp32 (x : Int) : Nat := ((max (-(2 ^ 31 : Int)) (min x (2 ^ 31 - 1))) % 2 ^ 32).toNat

/-- A value rounded to an integer in a rounding mode. -/
def Num.toInt (rnd : Nat) (neg : Bool) (m : Nat) (e : Int) : Int :=
  let (n, d) := ratioOf m e
  let p := if roundsUp rnd neg (n / d) (n % d) d then n / d + 1 else n / d
  Num.sig neg p

/-! ### YCG-64 (R204) -/

/-- The mixing function of YCG-64. -/
def ycgMix (z : DWord) : DWord :=
  let a := (z ^^^ (z >>> 33)) * 0xFF51AFD7ED558CCD
  let b := (a ^^^ (a >>> 33)) * 0xC4CEB9FE1A85EC53
  b ^^^ (b >>> 33)

/-- YCG-64 of a seed, a step, a class and a 48-bit index. -/
def ycg64 (seed : DWord) (step : Word) (cls index : Nat) : DWord :=
  let k := ycgMix (seed ^^^ (step.setWidth 64 * 0x9E3779B97F4A7C15))
  let x := BitVec.ofNat 64 (cls * 2 ^ 48 + index % 2 ^ 48)
  ycgMix (k ^^^ ycgMix (x + 0xD6E8FEB86659FD93))

/-- The low 16 bits of class 1 at a stream index (R205). -/
def srBits (seed : DWord) (step : Word) (index : Nat) : Nat := bits (ycg64 seed step 1 index) 0 16

end Sys2Proof.Machine
end

