-- ==== Sys2Proof/Machine/Firing.lean ====
section
/-! DEFINITION. The firing table of dataflow firing mode (R73 to R77). -/

namespace Sys2Proof.Machine

/-- The bytes of item i of the firing table (R73). -/
def State.item (s : State) (l : Path) (i : Nat) : Bytes := s.peekLS l ((s.tile l).fireBase.toNat + 32 * (i + 1)) 32

/-- STATE of an item. -/
def itemState (b : Bytes) : Nat := fieldAt b 2 1
/-- HAVE of an item. -/
def itemHave (b : Bytes) : Nat := fieldAt b 1 1
/-- NEED of an item. -/
def itemNeed (b : Bytes) : Nat := fieldAt b 0 1
/-- DESC of an item. -/
def itemDesc (b : Bytes) : Nat := fieldAt b 4 4
/-- SUCC0 to 3 of an item. -/
def itemSucc (b : Bytes) : List Nat := (List.range 4).map fun i => fieldAt b (8 + 2 * i) 2

/-- An item whose reserved fields are 0 and whose successors exist (R76). -/
def itemOk (n : Nat) (b : Bytes) : Bool :=
  fieldAt b 3 1 = 0 && fieldAt b 16 16 = 0 && (itemSucc b).all fun x => x = 0xFFFF || x < n

/-- An item is ready: STATE 0 and HAVE ≥ NEED (R75). -/
def itemReady (b : Bytes) : Bool := itemState b = 0 && itemNeed b ≤ itemHave b

/-- The commands a tile's items issued no longer report to the firing table: firing mode is left. DESIGN CHOICE (log 109): a command
that completes after that writes no STATE and raises no HAVE (R77). -/
def Tile.endFiring (x : Tile) : Tile :=
  let f (c : Command) : Command := { c with item := none }
  { x with cmdQ := x.cmdQ.map f, loadQ := x.loadQ.map f, storeQ := x.storeQ.map f,
           flights := x.flights.map fun g => { g with cmd := f g.cmd } }

/-- A refusal in firing mode: an unhandled exception's partition fault, with the item's index and EPC (R76, R90). DESIGN CHOICE
(log 110): it writes no crash frame and counts none. -/
def State.fireFault (s : State) (l : Path) (cause i : Nat) : State :=
  (s.modTile l fun x => { x.endFiring with ended := true }).raiseTile l (0x8200 + cause) none
    (toLE i 4 ++ toLE (s.tile l).pc.toNat 4)

/-- With no item fired, in flight or ready the tile becomes idle and raises FIRE_QUIESCENT with the number of items left
waiting and EPC (R77, R90). -/
def State.quiesce (s : State) (l : Path) : State :=
  let x := s.tile l
  if x.run ≠ .firing then s
  else
    let items := (List.range x.fireN).map (s.item l)
    if items.any fun b => itemState b = 1 || itemReady b then s
    else
      (s.modTile l fun y => { y with run := .idle }).raiseTile l 0x1210 none
        (toLE ((items.filter fun b => itemState b = 0).length) 4 ++ toLE x.pc.toNat 4)

/-- Entry into firing mode (R74, R76): N is read and the items are scanned before any fires. DESIGN CHOICE (log 111): a table that
leaves the span of R41 raises 0x8204 with index 0. -/
def State.enterFiring (s : State) (l : Path) : State :=
  let base := (s.tile l).fireBase.toNat
  if s.span l < base + 32 then s.fireFault l 4 0
  else
    match s.readLS l base 32 with
    | (s1, none) => s1
    | (s1, some hdr) =>
      let n := fieldAt hdr 0 2 % 512
      if n = 0 ∨ 256 < n then s1.fireFault l 5 0
      else if s.span l < base + 32 * (n + 1) then s1.fireFault l 4 0
      else
        match s1.readLS l (base + 32) (32 * n) with
        | (s2, none) => s2
        | (s2, some _) =>
          match (List.range n).find? fun i => !itemOk n (s2.item l i) with
          | some i => s2.fireFault l 5 i
          | none =>
            (s2.modTile l fun x => { x with run := .firing, ended := false, fireN := n }).quiesce l

/-- Bytes of the firing table written by the device. -/
def State.setItemByte (s : State) (l : Path) (i off : Nat) (b : Byte) : State :=
  (s.writeLS l ((s.tile l).fireBase.toNat + 32 * (i + 1) + off) [b]).1

/-- One more arrival at an item, saturating at 255 (R75). -/
def State.arrive (s : State) (l : Path) (i : Nat) : State :=
  s.setItemByte l i 1 (BitVec.ofNat 8 (min (itemHave (s.item l i) + 1) 255))

/-- The completion of an item's command (R75, R77). -/
def State.itemDone (s : State) (l : Path) (i : Nat) : State :=
  if !((s.tile l).run = .firing || ((s.tile l).run ≠ .running && (s.tile l).held = .firing)) then s
  else
    let succ := (itemSucc (s.item l i)).filter (· ≠ 0xFFFF)
    ((s.setItemByte l i 2 2).each succ fun a j => a.arrive l j).quiesce l

/-! ### What a tile does at an instruction boundary (R19, R56, R74) -/

/-- START on one runner (R19): a running or faulted tile ignores it; else execution begins at the entry point. -/
def Tile.startAt (x : Tile) (entry : Word) : Tile :=
  match x.run with
  | .running => x
  | .faulted => x
  | _ => { x.endFiring with run := .running, pc := entry, ended := false, delay := none, exc := none, shadow := 0 }

/-- RESUME on one runner (R19): a tile whose program was ended stays stopped. -/
def Tile.resume (x : Tile) : Tile := if x.run = .stopped && !x.ended then { x with run := x.held } else x

/-- The partition of a tile is stopped by a fault. -/
def State.faultStopped (s : State) (l : Path) : Bool :=
  match s.partOf l with
  | some p => (s.part p).state = 2
  | none => false

/-- SET_FIRING on one runner (R74, R77). DESIGN CHOICE (log 112): entry on a stopped tile needs no RESUME; a tile in STATE 4 and
a tile of a partition stopped by a fault ignore it. -/
def State.setFiring (s : State) (l : Path) (on : Bool) : State :=
  let x := s.tile l
  let leave (y : Tile) : Tile := { y.endFiring with run := .stopped, held := .idle, ended := true }
  match on, x.run with
  | _, .faulted => s
  | true, .firing => s
  | true, _ => if s.faultStopped l then s else s.enterFiring l
  | false, .firing => s.modTile l leave
  | false, .stopped => if x.held = .firing then s.modTile l leave else s
  | false, _ => s

/-- What reaches a tile at an instruction boundary takes effect. -/
def State.applyLater (s : State) (l : Path) : Later → State
  | .stop r => s.modTile l (Tile.stopTo r)
  | .start e => s.modTile l fun x => x.startAt e
  | .resume => (s.modTile l Tile.resume).quiesce l
  | .firing on => s.setFiring l on

/-- It takes effect now, or waits for the boundary behind what waits already (R27, R56). -/
def State.atNext (s : State) (l : Path) (b : Later) : State :=
  if (s.tile l).atBoundary then s.applyLater l b else s.modTile l fun x => { x with waiting := x.waiting ++ [b] }

/-- At a boundary, what waited for it takes effect in order. -/
def State.settle (s : State) (l : Path) : State :=
  let bs := (s.tile l).waiting
  if bs.isEmpty then s else (s.modTile l fun x => { x with waiting := [] }).each bs fun a b => a.applyLater l b

end Sys2Proof.Machine
end

