-- ==== Sys2Proof/Machine/Seq.lean ====
section
/-! DEFINITION. The tile sequencer (R40 to R65): registers, encodings, the checks every instruction passes, retirement with
loops and delay slots, exceptions as they are raised (R78, R80, R81, R505), and the instructions but ISSUE and VEC. -/

namespace Sys2Proof.Machine

/-! ### Registers and encodings -/

/-- A general register; s0 reads 0 (R40). -/
def Tile.reg (x : Tile) (r : Reg) : Word := if r = 0 then 0 else mapGet 0 x.regs r.toNat

/-- A general register written; a write to s0 is discarded (R40). -/
def Tile.setReg (x : Tile) (r : Reg) (v : Word) : Tile :=
  if r = 0 then x else { x with regs := mapSet 0 x.regs r.toNat v }

/-- The word of an instruction: class, V mark and the bits 26:0 of its class (R45, R47). -/
def encode (cls : Nat) (v : Bool) (rest : Nat) : Word := word (cls * 2 ^ 28 + (if v then 2 ^ 27 else 0) + rest)

/-- The word of an ALU.R instruction. -/
def encAluR (fn : Nat) (v : Bool) (rd ra rb : Reg) : Word :=
  encode 0 v (rd.toNat * 2 ^ 22 + ra.toNat * 2 ^ 17 + rb.toNat * 2 ^ 12 + fn * 2 ^ 6)
/-- The word of an ALU.I instruction with FN 0 to 6. -/
def encAluI (fn : Nat) (v : Bool) (rd ra : Reg) (imm : Nat) : Word :=
  encode 1 v (fn * 2 ^ 24 + rd.toNat * 2 ^ 19 + ra.toNat * 2 ^ 14 + imm)
/-- The word of LUI. -/
def encLui (v : Bool) (rd : Reg) (imm : BitVec 18) : Word := encode 1 v (7 * 2 ^ 24 + rd.toNat * 2 ^ 19 + imm.toNat)
/-- The word of a load or store. -/
def encLs (op : Nat) (v : Bool) (rt base : Reg) (off : BitVec 15) : Word :=
  encode 2 v (op * 2 ^ 25 + rt.toNat * 2 ^ 20 + base.toNat * 2 ^ 15 + off.toNat)
/-- The word of a branch. -/
def encBr (cond : Nat) (v : Bool) (ra rb : Reg) (off : BitVec 14) : Word :=
  encode 3 v (cond * 2 ^ 24 + ra.toNat * 2 ^ 19 + rb.toNat * 2 ^ 14 + off.toNat)
/-- The word of J and JAL. -/
def encJ (kind : Nat) (v : Bool) (off : BitVec 25) : Word := encode 4 v (kind * 2 ^ 25 + off.toNat)
/-- The word of JR and JALR. -/
def encJr (kind : Nat) (v : Bool) (ra : Reg) : Word := encode 4 v (kind * 2 ^ 25 + ra.toNat * 2 ^ 20)
/-- The word of LOOP. -/
def encLoop (v : Bool) (level : BitVec 2) (i : Bool) (len count : BitVec 12) : Word :=
  encode 5 v (level.toNat * 2 ^ 25 + (if i then 2 ^ 24 else 0) + len.toNat * 2 ^ 12 + count.toNat)
/-- The word of ISSUE. -/
def encIssue (v : Bool) (rdesc : Reg) : Word := encode 6 v (rdesc.toNat * 2 ^ 22)
/-- The word of a ticket instruction. -/
def encTicket (op : Nat) (v : Bool) (tk : BitVec 4) (rx : Reg) (imm : BitVec 15) : Word :=
  encode 7 v (op * 2 ^ 24 + tk.toNat * 2 ^ 20 + rx.toNat * 2 ^ 15 + imm.toNat)
/-- The word of MFC (DIR 0) and MTC (DIR 1). -/
def encCr (dir : Nat) (v : Bool) (rx : Reg) (cr : BitVec 6) : Word :=
  encode 8 v (dir * 2 ^ 26 + rx.toNat * 2 ^ 21 + cr.toNat * 2 ^ 15)
/-- The word of a system instruction. -/
def encSys (op : Nat) (v : Bool) (imm : BitVec 16) : Word := encode 9 v (op * 2 ^ 23 + imm.toNat)
/-- The word of a VEC instruction. -/
def encVec (vop : Nat) (v : Bool) (vd va vb : Reg) (m : BitVec 3) : Word :=
  encode 10 v (vop * 2 ^ 21 + vd.toNat * 2 ^ 16 + va.toNat * 2 ^ 11 + vb.toNat * 2 ^ 6 + m.toNat * 2 ^ 3)

/-- The V mark of an instruction word. -/
def insnV (w : Word) : Bool := bit w 27

/-! ### Loops (R44, R60 to R65) -/

/-- LCOUNT of a level. -/
def Tile.lc (x : Tile) (lv : Nat) : Word := mapGet 0 x.lcount lv
/-- LOOP of a level. -/
def Tile.loop (x : Tile) (lv : Nat) : Word := mapGet 0 x.loops lv
/-- ACTIVE of a loop word. -/
def loopActive (w : Word) : Bool := bit w 31
/-- The byte address of the first instruction of a body. -/
def loopStart (w : Word) : Nat := 4 * bits w 12 19
/-- LEND of a loop word. -/
def loopEnd (w : Word) : Nat := 4 * (bits w 12 19 + bits w 0 12)
/-- LCOUNT written. -/
def Tile.setLc (x : Tile) (lv : Nat) (v : Word) : Tile := { x with lcount := mapSet 0 x.lcount lv v }
/-- LOOP written. -/
def Tile.setLoop (x : Tile) (lv : Nat) (v : Word) : Tile := { x with loops := mapSet 0 x.loops lv v }
/-- A level made inactive: ACTIVE cleared. -/
def Tile.deactivate (x : Tile) (lv : Nat) : Tile := x.setLoop lv (x.loop lv &&& 0x7FFFFFFF)
/-- Every level from lv on made inactive. -/
def Tile.deactivateFrom (x : Tile) (lv : Nat) : Tile := ((List.range 3).filter (lv ≤ ·)).foldl Tile.deactivate x
/-- The deepest active level whose LEND is the present instruction. -/
def Tile.atLend (x : Tile) : Option Nat := [2, 1, 0].find? fun lv => loopActive (x.loop lv) && loopEnd (x.loop lv) = x.pc.toNat

/-- The end-of-loop test over levels, deepest first (R62). -/
def Tile.endTest (x : Tile) : List Nat → Tile
  | [] => { x with pc := x.pc + 4 }
  | lv :: rest =>
    let w := x.loop lv
    if loopActive w && loopEnd w = x.pc.toNat then
      if 1 < (x.lc lv).toNat then { x.setLc lv (x.lc lv - 1) with pc := word (loopStart w) }
      else ((x.setLc lv 0).deactivate lv).endTest rest
    else x.endTest rest

/-- The next program counter: past a delay slot to the branch's target, else past the end-of-loop test. -/
def Tile.advance (x : Tile) : Tile :=
  match x.delay with
  | some d => { x with pc := d.target.getD (x.pc + 4), delay := none }
  | none => x.endTest [2, 1, 0]

/-- The levels a taken branch leaves become inactive, with every deeper level (R65). -/
def Tile.leaveLoops (x : Tile) (target : Word) : Tile :=
  match [0, 1, 2].find? fun lv =>
      loopActive (x.loop lv) && !(loopStart (x.loop lv) ≤ target.toNat && target.toNat ≤ loopEnd (x.loop lv)) with
  | some lv => x.deactivateFrom lv
  | none => x

/-! ### Retirement and exceptions -/

/-- An instruction retires with its effect on the tile: one slot of a mode shadow passes, the program counter advances, and what
waited for the delay slot takes effect behind it. -/
def State.retire (s : State) (l : Path) (f : Tile → Tile) : State :=
  let x := s.tile l
  let s' := s.setTile l (f { x with shadow := x.shadow - 1 }).advance
  if x.delay.isSome then s'.settle l else s'

/-- A branch or jump retires: its delay slot comes next (R54, R65). -/
def State.retireBranch (s : State) (l : Path) (target : Option Word) (f : Tile → Tile) : State :=
  s.modTile l fun x =>
    let y := f { x with shadow := x.shadow - 1, delay := some ⟨x.pc, target⟩ }
    let z := match target with
      | some a => y.leaveLoops a
      | none => y
    { z with pc := x.pc + 4 }

/-- An exception raised (R78, R80, R81): it waits for EXCEPTION_ENTRY; nothing of the instruction takes effect. In a delay slot
EPC is the branch. -/
def State.raiseExc (s : State) (l : Path) (cause : Nat) (epc : Option Word) (detail insn : Word) : State :=
  let x := s.tile l
  let own := match x.delay with
    | some d => d.branch
    | none => x.pc
  let e : Exc := { cause := BitVec.ofNat 8 cause, epc := epc.getD own, detail := detail, insn := insn,
                   ds := x.delay.isSome, sh := 0 < x.shadow, le := x.atLend.isSome,
                   lev := BitVec.ofNat 2 (x.atLend.getD 0) }
  s.modTile l fun y => { y with exc := some e, delay := none, shadow := 0 }

/-- ILLEGAL_INSN of an instruction. -/
def State.illegal (s : State) (l : Path) (insn : Word) : State := s.raiseExc l 1 none 0 insn

/-- The sequencer of a tile executes instructions: not fatal, cluster up, running, no exception waiting. -/
def State.canRun (s : State) (l : Path) : Bool :=
  !s.fatal && s.clusterUp (clusterOf l) && (s.tile l).run = .running && (s.tile l).exc.isNone

/-- The checks that come before an instruction's position (R505): the fetch range, then V_FETCH. DESIGN CHOICE (log 115): INSN of the
frame of a fetch beyond the range, where no instruction word exists, is 0. -/
def State.fetchedWord (s : State) (t : Path) (insn : Word) (f : State → Path → State) : Out :=
  guardUnit (activePath t)
    (let l := s.lead t
     let x := s.tile l
     if !s.canRun l then s
     else if 0x200000 ≤ x.pc.toNat then s.raiseExc l 4 (some x.pc) x.pc 0
     else if insnV insn && s.repro l then s.raiseExc l 8 none 0 insn
     else f s l)

/-- The position forbids an instruction: one that R55 and R64 name in a delay slot or at the LEND of an active level, and any in
a delay slot that is such an LEND (R64). -/
def Tile.misplaced (x : Tile) (placed : Bool) : Bool :=
  (placed && (x.delay.isSome || x.atLend.isSome)) || (x.delay.isSome && x.atLend.isSome)

/-- The checks before an instruction's own (R505): the fetch range, V_FETCH, PLACEMENT. -/
def State.fetched (s : State) (t : Path) (insn : Word) (placed : Bool) (f : State → Path → State) : Out :=
  s.fetchedWord t insn fun s l => if (s.tile l).misplaced placed then s.raiseExc l 2 none 0 insn else f s l

/-- An instruction whose whole effect is on the tile. -/
def State.simple (s : State) (t : Path) (insn : Word) (f : Tile → Tile) : Out :=
  s.fetched t insn false fun s l => s.retire l f

/-! ### ALU (R48) -/

/-- An ALU.R instruction: rd = op ra rb. -/
def State.aluR (s : State) (t : Path) (fn : Nat) (v : Bool) (rd ra rb : Reg) (op : Word → Word → Word) : Out :=
  s.simple t (encAluR fn v rd ra rb) fun x => x.setReg rd (op (x.reg ra) (x.reg rb))

/-- The amount of a shift: bits 4:0. -/
def shamt (w : Word) : Nat := bits w 0 5
/-- 1 or 0. -/
def flag (b : Bool) : Word := if b then 1 else 0
/-- The high 32 bits of the unsigned product. -/
def mulHigh (a b : Word) : Word := word (a.toNat * b.toNat / 2 ^ 32)

/-- ADD (R48). -/
def execAdd (t : Path) (v : Bool) (rd ra rb : Reg) (s : State) : Out := s.aluR t 0 v rd ra rb fun a b => a + b
/-- SUB (R48). -/
def execSub (t : Path) (v : Bool) (rd ra rb : Reg) (s : State) : Out := s.aluR t 1 v rd ra rb fun a b => a - b
/-- AND (R48). -/
def execAnd (t : Path) (v : Bool) (rd ra rb : Reg) (s : State) : Out := s.aluR t 2 v rd ra rb fun a b => a &&& b
/-- OR (R48). -/
def execOr (t : Path) (v : Bool) (rd ra rb : Reg) (s : State) : Out := s.aluR t 3 v rd ra rb fun a b => a ||| b
/-- XOR (R48). -/
def execXor (t : Path) (v : Bool) (rd ra rb : Reg) (s : State) : Out := s.aluR t 4 v rd ra rb fun a b => a ^^^ b
/-- SLL (R48). -/
def execSll (t : Path) (v : Bool) (rd ra rb : Reg) (s : State) : Out := s.aluR t 5 v rd ra rb fun a b => a <<< shamt b
/-- SRL (R48). -/
def execSrl (t : Path) (v : Bool) (rd ra rb : Reg) (s : State) : Out := s.aluR t 6 v rd ra rb fun a b => a >>> shamt b
/-- SRA (R48). -/
def execSra (t : Path) (v : Bool) (rd ra rb : Reg) (s : State) : Out := s.aluR t 7 v rd ra rb fun a b => a.sshiftRight (shamt b)
/-- SLT (R48). -/
def execSlt (t : Path) (v : Bool) (rd ra rb : Reg) (s : State) : Out := s.aluR t 8 v rd ra rb fun a b => flag (a.slt b)
/-- SLTU (R48). -/
def execSltu (t : Path) (v : Bool) (rd ra rb : Reg) (s : State) : Out := s.aluR t 9 v rd ra rb fun a b => flag (a.ult b)
/-- MUL (R48). -/
def execMul (t : Path) (v : Bool) (rd ra rb : Reg) (s : State) : Out := s.aluR t 10 v rd ra rb fun a b => a * b
/-- MULHU (R48). -/
def execMulhu (t : Path) (v : Bool) (rd ra rb : Reg) (s : State) : Out := s.aluR t 11 v rd ra rb mulHigh
/-- MIN (R48). -/
def execMin (t : Path) (v : Bool) (rd ra rb : Reg) (s : State) : Out :=
  s.aluR t 12 v rd ra rb fun a b => if b.slt a then b else a
/-- MAX (R48). -/
def execMax (t : Path) (v : Bool) (rd ra rb : Reg) (s : State) : Out :=
  s.aluR t 13 v rd ra rb fun a b => if a.slt b then b else a
/-- MINU (R48). -/
def execMinu (t : Path) (v : Bool) (rd ra rb : Reg) (s : State) : Out :=
  s.aluR t 14 v rd ra rb fun a b => if b.ult a then b else a
/-- MAXU (R48). -/
def execMaxu (t : Path) (v : Bool) (rd ra rb : Reg) (s : State) : Out :=
  s.aluR t 15 v rd ra rb fun a b => if a.ult b then b else a

/-- An ALU.I instruction: rd = op ra. -/
def State.aluI (s : State) (t : Path) (fn : Nat) (v : Bool) (rd ra : Reg) (imm : Nat) (op : Word → Word) : Out :=
  s.simple t (encAluI fn v rd ra imm) fun x => x.setReg rd (op (x.reg ra))

/-- ADDI (R48): IMM14 sign-extended. -/
def execAddi (t : Path) (v : Bool) (rd ra : Reg) (imm : BitVec 14) (s : State) : Out :=
  s.aluI t 0 v rd ra imm.toNat fun a => a + imm.signExtend 32
/-- ANDI (R48): IMM14 zero-extended. -/
def execAndi (t : Path) (v : Bool) (rd ra : Reg) (imm : BitVec 14) (s : State) : Out :=
  s.aluI t 1 v rd ra imm.toNat fun a => a &&& imm.setWidth 32
/-- ORI (R48): IMM14 zero-extended. -/
def execOri (t : Path) (v : Bool) (rd ra : Reg) (imm : BitVec 14) (s : State) : Out :=
  s.aluI t 2 v rd ra imm.toNat fun a => a ||| imm.setWidth 32
/-- SLTI (R48): IMM14 sign-extended. -/
def execSlti (t : Path) (v : Bool) (rd ra : Reg) (imm : BitVec 14) (s : State) : Out :=
  s.aluI t 3 v rd ra imm.toNat fun a => flag (a.slt (imm.signExtend 32))
/-- SLLI (R48). -/
def execSlli (t : Path) (v : Bool) (rd ra : Reg) (sh : BitVec 5) (s : State) : Out :=
  s.aluI t 4 v rd ra sh.toNat fun a => a <<< sh.toNat
/-- SRLI (R48). -/
def execSrli (t : Path) (v : Bool) (rd ra : Reg) (sh : BitVec 5) (s : State) : Out :=
  s.aluI t 5 v rd ra sh.toNat fun a => a >>> sh.toNat
/-- SRAI (R48). -/
def execSrai (t : Path) (v : Bool) (rd ra : Reg) (sh : BitVec 5) (s : State) : Out :=
  s.aluI t 6 v rd ra sh.toNat fun a => a.sshiftRight sh.toNat
/-- LUI (R48): IMM18 shifted left by 14. -/
def execLui (t : Path) (v : Bool) (rd : Reg) (imm : BitVec 18) (s : State) : Out :=
  s.simple t (encLui v rd imm) fun x => x.setReg rd (imm.setWidth 32 <<< 14)

/-! ### Loads and stores (R49) -/

/-- The address of a load or store: base plus the sign-extended offset. -/
def Tile.lsAddr (x : Tile) (base : Reg) (off : BitVec 15) : Word := x.reg base + off.signExtend 32

/-- The checks of a load or store of n bytes, then its effect: LS_ALIGN, then LS_RANGE (R41, R49, R505). -/
def State.lsAccess (s : State) (t : Path) (insn : Word) (n : Nat) (base : Reg) (off : BitVec 15)
    (f : State → Path → Nat → State) : Out :=
  s.fetched t insn false fun s l =>
    let a := (s.tile l).lsAddr base off
    if a.toNat % n ≠ 0 then s.raiseExc l 3 none a insn
    else if s.span l ≤ a.toNat then s.raiseExc l 4 none a insn
    else f s l a.toNat

/-- A load of n bytes, zero-extended. -/
def State.loadInsn (s : State) (t : Path) (insn : Word) (n : Nat) (rt base : Reg) (off : BitVec 15) : Out :=
  s.lsAccess t insn n base off fun s l a =>
    match s.readLS l a n with
    | (s', none) => s'
    | (s', some bs) => s'.retire l fun x => x.setReg rt (word (leNat bs))

/-- A store of the low n bytes of rt. -/
def State.storeInsn (s : State) (t : Path) (insn : Word) (n : Nat) (rt base : Reg) (off : BitVec 15) : Out :=
  s.lsAccess t insn n base off fun s l a =>
    match s.writeLS l a (toLE ((s.tile l).reg rt).toNat n) with
    | (s', false) => s'
    | (s', true) => s'.retire l id

/-- LW (R49). -/
def execLw (t : Path) (v : Bool) (rt base : Reg) (off : BitVec 15) (s : State) : Out :=
  s.loadInsn t (encLs 0 v rt base off) 4 rt base off
/-- SW (R49). -/
def execSw (t : Path) (v : Bool) (rt base : Reg) (off : BitVec 15) (s : State) : Out :=
  s.storeInsn t (encLs 1 v rt base off) 4 rt base off
/-- LHU (R49). -/
def execLhu (t : Path) (v : Bool) (rt base : Reg) (off : BitVec 15) (s : State) : Out :=
  s.loadInsn t (encLs 2 v rt base off) 2 rt base off
/-- SH (R49). -/
def execSh (t : Path) (v : Bool) (rt base : Reg) (off : BitVec 15) (s : State) : Out :=
  s.storeInsn t (encLs 3 v rt base off) 2 rt base off

/-! ### Branches and jumps (R50, R54) -/

/-- A taken branch or jump: its target is checked on the branch itself, LS_ALIGN before LS_RANGE (R50). -/
def State.jumpTo (s : State) (l : Path) (insn target : Word) (f : Tile → Tile) : State :=
  if target.toNat % 4 ≠ 0 then s.raiseExc l 3 none target insn
  else if 0x200000 ≤ target.toNat then s.raiseExc l 4 none target insn
  else s.retireBranch l (some target) f

/-- A conditional branch: with its target 4 × offset from its own address. -/
def State.branch (s : State) (t : Path) (cond : Nat) (v : Bool) (ra rb : Reg) (off : BitVec 14)
    (test : Word → Word → Bool) : Out :=
  let insn := encBr cond v ra rb off
  s.fetched t insn true fun s l =>
    let x := s.tile l
    if test (x.reg ra) (x.reg rb) then s.jumpTo l insn (x.pc + (off.signExtend 32 <<< 2)) id
    else s.retireBranch l none id

/-- BR EQ (R54). -/
def execBrEq (t : Path) (v : Bool) (ra rb : Reg) (off : BitVec 14) (s : State) : Out :=
  s.branch t 0 v ra rb off fun a b => a = b
/-- BR NE (R54). -/
def execBrNe (t : Path) (v : Bool) (ra rb : Reg) (off : BitVec 14) (s : State) : Out :=
  s.branch t 1 v ra rb off fun a b => a ≠ b
/-- BR LT (R54). -/
def execBrLt (t : Path) (v : Bool) (ra rb : Reg) (off : BitVec 14) (s : State) : Out :=
  s.branch t 2 v ra rb off fun a b => a.slt b
/-- BR GE (R54). -/
def execBrGe (t : Path) (v : Bool) (ra rb : Reg) (off : BitVec 14) (s : State) : Out :=
  s.branch t 3 v ra rb off fun a b => !a.slt b
/-- BR LTU (R54). -/
def execBrLtu (t : Path) (v : Bool) (ra rb : Reg) (off : BitVec 14) (s : State) : Out :=
  s.branch t 4 v ra rb off fun a b => a.ult b
/-- BR GEU (R54). -/
def execBrGeu (t : Path) (v : Bool) (ra rb : Reg) (off : BitVec 14) (s : State) : Out :=
  s.branch t 5 v ra rb off fun a b => !a.ult b

/-- J (R50). -/
def execJ (t : Path) (v : Bool) (off : BitVec 25) (s : State) : Out :=
  s.fetched t (encJ 0 v off) true fun s l => s.jumpTo l (encJ 0 v off) ((s.tile l).pc + (off.signExtend 32 <<< 2)) id
/-- JAL (R50): s31 holds the address after the delay slot. -/
def execJal (t : Path) (v : Bool) (off : BitVec 25) (s : State) : Out :=
  s.fetched t (encJ 1 v off) true fun s l =>
    s.jumpTo l (encJ 1 v off) ((s.tile l).pc + (off.signExtend 32 <<< 2)) fun x => x.setReg 31 (x.pc + 8)
/-- JR (R50). -/
def execJr (t : Path) (v : Bool) (ra : Reg) (s : State) : Out :=
  s.fetched t (encJr 2 v ra) true fun s l => s.jumpTo l (encJr 2 v ra) ((s.tile l).reg ra) id
/-- JALR (R50): a ra of s31 is illegal. -/
def execJalr (t : Path) (v : Bool) (ra : Reg) (s : State) : Out :=
  s.fetched t (encJr 3 v ra) true fun s l =>
    if ra = 31 then s.illegal l (encJr 3 v ra)
    else s.jumpTo l (encJr 3 v ra) ((s.tile l).reg ra) fun x => x.setReg 31 (x.pc + 8)

/-! ### LOOP (R60, R61) -/

/-- The count of a LOOP: COUNT12, or s[rc] with rc in bits 4:0 of the field. -/
def Tile.loopCount (x : Tile) (i : Bool) (count : BitVec 12) : Word :=
  if i then count.setWidth 32 else x.reg (count.setWidth 5)

/-- A loop level started, or its body skipped where the count is 0. -/
def Tile.startLoop (x : Tile) (lv len : Nat) (n : Word) : Tile :=
  if n = 0 then
    { ((x.setLc lv 0).deactivateFrom lv) with pc := x.pc + word (4 * (len + 2)) }
  else
    let w := word (2 ^ 31 + (x.pc.toNat / 4 + 1) * 2 ^ 12 + len)
    { ((x.setLc lv n).setLoop lv w).deactivateFrom (lv + 1) with pc := x.pc + 4 }

/-- LOOP (R60, R61). -/
def execLoop (t : Path) (v : Bool) (level : BitVec 2) (i : Bool) (len count : BitVec 12) (s : State) : Out :=
  let insn := encLoop v level i len count
  if !i && 32 ≤ count.toNat then
    s.fetchedWord t insn fun s l => s.illegal l insn
  else
    s.fetched t insn true fun s l =>
      let x := s.tile l
      let last := x.pc.toNat + 4 * (len.toNat + 1)
      if level = 3 then s.illegal l insn
      else if 0x1FFFFC < last then s.raiseExc l 4 none (word last) insn
      else s.modTile l fun x =>
        { x with shadow := x.shadow - 1 }.startLoop level.toNat len.toNat (x.loopCount i count)

/-! ### Tickets (R51) -/

/-- TICKETk of a tile. -/
def Tile.ticket (x : Tile) (k : Nat) : Word := mapGet 0 x.tickets k
/-- A ticket raised by an amount. -/
def Tile.addTicket (x : Tile) (k : Nat) (n : Word) : Tile := { x with tickets := mapSet 0 x.tickets k (x.ticket k + n) }

/-- TWAIT (R51): it stalls until the ticket has reached s[rx]. -/
def execTwait (t : Path) (v : Bool) (tk : BitVec 4) (rx : Reg) (imm : BitVec 15) (s : State) : Out :=
  s.fetched t (encTicket 0 v tk rx imm) false fun s l =>
    if reached ((s.tile l).ticket tk.toNat) ((s.tile l).reg rx) then s.retire l id else s
/-- TWAITI (R51): it stalls until the ticket has reached IMM15. -/
def execTwaiti (t : Path) (v : Bool) (tk : BitVec 4) (rx : Reg) (imm : BitVec 15) (s : State) : Out :=
  s.fetched t (encTicket 1 v tk rx imm) false fun s l =>
    if reached ((s.tile l).ticket tk.toNat) (imm.setWidth 32) then s.retire l id else s
/-- TADV (R51). -/
def execTadv (t : Path) (v : Bool) (tk : BitVec 4) (rx : Reg) (imm : BitVec 15) (s : State) : Out :=
  s.fetched t (encTicket 2 v tk rx imm) false fun s l =>
    if imm = 0 then s.illegal l (encTicket 2 v tk rx imm)
    else s.retire l fun x => x.addTicket tk.toNat (imm.setWidth 32)
/-- TREAD (R51, R53). -/
def execTread (t : Path) (v : Bool) (tk : BitVec 4) (rx : Reg) (imm : BitVec 15) (s : State) : Out :=
  s.fetched t (encTicket 3 v tk rx imm) false fun s l =>
    if !v then s.illegal l (encTicket 3 v tk rx imm)
    else s.retire l fun x => x.setReg rx (x.ticket tk.toNat)

/-! ### Control registers (R43, R57, R58, R336) -/

/-- CR PART (R43). -/
def State.crPart (s : State) (l : Path) : Word :=
  let p := s.partOf l
  let sealed := match p with
    | some q => (s.part q).sealedMode
    | none => false
  word ((if s.repro l then 2 ^ 31 else 0) + (if sealed then 2 ^ 30 else 0) + ((s.ownCtx l).getD 0xFFF).toNat)

/-- The value MFC reads; none where the number names no register. TIMEH gives the latched half, if any (R336). -/
def State.readCr (s : State) (l : Path) (cr : Nat) : Option Word :=
  let x := s.tile l
  match cr with
  | 0x00 => some x.mode
  | 0x01 => some x.evbase
  | 0x02 => some x.stkLo
  | 0x03 => some x.stkHi
  | 0x04 => some (x.lc 0)
  | 0x05 => some (x.lc 1)
  | 0x06 => some (x.lc 2)
  | 0x07 => some (x.loop 0)
  | 0x08 => some (x.loop 1)
  | 0x09 => some (x.loop 2)
  | 0x0A => some (l.setWidth 32)
  | 0x0B => some (s.now.setWidth 32)
  | 0x0C => some (x.timeHi.getD ((s.now >>> 32).setWidth 32))
  | 0x0D => some (s.crPart l)
  | 0x0E => some x.fireBase
  | _ => none

/-- MFC (R43, R53, R336). -/
def execMfc (t : Path) (v : Bool) (rx : Reg) (cr : BitVec 6) (s : State) : Out :=
  let insn := encCr 0 v rx cr
  s.fetched t insn false fun s l =>
    match s.readCr l cr.toNat with
    | none => s.raiseExc l 7 none 0 insn
    | some w =>
      if (cr = 0x0B || cr = 0x0C) && !v then s.illegal l insn
      else s.retire l fun x =>
        { x.setReg rx w with timeHi := if cr = 0x0B then some ((s.now >>> 32).setWidth 32) else x.timeHi }

/-- A control register written; read-only and reserved numbers leave the tile as it is. DESIGN CHOICE (log 116): FIRE_BASE takes any
value, and the table is read there. -/
def Tile.writeCr (x : Tile) (cr : Nat) (w : Word) : Tile :=
  match cr with
  | 0x00 => { x with mode := w, shadow := 2 }
  | 0x01 => { x with evbase := w }
  | 0x02 => { x with stkLo := w }
  | 0x03 => { x with stkHi := w }
  | 0x04 => x.setLc 0 w
  | 0x05 => x.setLc 1 w
  | 0x06 => x.setLc 2 w
  | 0x07 => x.setLoop 0 w
  | 0x08 => x.setLoop 1 w
  | 0x09 => x.setLoop 2 w
  | 0x0E => { x with fireBase := w }
  | _ => x

/-- A control register that MTC may write (R43). -/
def crWritable (cr : Nat) : Bool := cr ≤ 9 || cr = 0x0E

/-- MTC (R43, R55, R58, R64). -/
def execMtc (t : Path) (v : Bool) (rx : Reg) (cr : BitVec 6) (s : State) : Out :=
  let insn := encCr 1 v rx cr
  s.fetched t insn (cr = 0 || (4 ≤ cr.toNat && cr.toNat ≤ 9)) fun s l =>
    let w := (s.tile l).reg rx
    if !crWritable cr.toNat then s.raiseExc l 7 none 0 insn
    else if cr = 0 && !modeOk w then s.illegal l insn
    else s.retire l fun x => x.writeCr cr.toNat w

/-! ### System instructions (R52) -/

/-- Every command a tile has issued has completed and its queues are empty. -/
def Tile.drained (x : Tile) : Bool := x.cmdQ.isEmpty && x.loadQ.isEmpty && x.storeQ.isEmpty && x.flights.isEmpty

/-- NOP (R52). -/
def execNop (t : Path) (v : Bool) (imm : BitVec 16) (s : State) : Out := s.simple t (encSys 0 v imm) id
/-- TRAP (R52): the saved PC is the instruction after it. -/
def execTrap (t : Path) (v : Bool) (imm : BitVec 16) (s : State) : Out :=
  s.fetched t (encSys 1 v imm) true fun s l =>
    s.raiseExc l 6 (some ((s.tile l).pc + 4)) (imm.setWidth 32) (encSys 1 v imm)
/-- HALT (R52): it waits until everything issued has completed. -/
def execHalt (t : Path) (v : Bool) (imm : BitVec 16) (s : State) : Out :=
  s.fetched t (encSys 3 v imm) true fun s l =>
    if (s.tile l).drained then s.retire l fun x => { x with run := .idle } else s
/-- FENCE (R52): it stalls until every command issued earlier has completed. -/
def execFence (t : Path) (v : Bool) (imm : BitVec 16) (s : State) : Out :=
  s.fetched t (encSys 4 v imm) false fun s l => if (s.tile l).drained then s.retire l id else s
/-- FAULT (R52, R90): the partition fault 0x82F0 | IMM16 bits 3:0, without a crash frame. -/
def execFaultInsn (t : Path) (v : Bool) (imm : BitVec 16) (s : State) : Out :=
  s.fetched t (encSys 5 v imm) true fun s l =>
    if 16 ≤ imm.toNat then s.illegal l (encSys 5 v imm)
    else
      (s.modTile l fun x => { x with ended := true }).raiseTile l (0x82F0 + imm.toNat) none (toLE (s.tile l).pc.toNat 4)

end Sys2Proof.Machine
end

