-- ==== Sys2Proof/Machine/Except.lean ====
section
/-! DEFINITION. Taking an exception, returning from one (R79 to R86), and the two events of a fetch: a word that is no
instruction (R46) and an address beyond the range (R50). -/

namespace Sys2Proof.Machine

/-! ### Words that are no instruction (R46, R47, R48, R141) -/

/-- A VEC word with an operation code in use and its zero fields 0 (R141). -/
def vecOk (w : Word) : Bool :=
  let vop := bits w 21 6
  let vd := bits w 16 5
  let va := bits w 11 5
  let vb := bits w 6 5
  let m := bits w 3 3
  bits w 0 3 = 0 &&
  (if vop ≤ 0x05 || (0x10 ≤ vop && vop ≤ 0x15) || (0x18 ≤ vop && vop ≤ 0x1C) || (0x20 ≤ vop && vop ≤ 0x26) then true
   else if (0x06 ≤ vop && vop ≤ 0x08) || vop = 0x1D || vop = 0x1E then vd < 8
   else if vop = 0x09 then vd < 8 && vb < 4
   else if vop = 0x27 then vb = 0
   else if vop = 0x28 then va = 0 && vb = 0
   else if 0x29 ≤ vop && vop ≤ 0x2B then m = 0 && vd < 8 && va < 8 && vb < 8
   else if vop = 0x2C then m = 0 && vd < 8 && va < 8 && vb = 0
   else if vop = 0x2D then m = 0 && vd = 0
   else if vop = 0x2E then m = 0 && vd < 16 && va = 0 && vb = 0
   else if (0x30 ≤ vop && vop ≤ 0x32) || (0x3C ≤ vop && vop ≤ 0x3F) then true
   else if vop = 0x33 then vb < 2
   else if vop = 0x34 || vop = 0x35 then vb < 4
   else 0x38 ≤ vop && vop ≤ 0x3B)

/-- A word whose class, function code and reserved fields R46 accepts. -/
def wordOk (w : Word) : Bool :=
  match bits w 28 4 with
  | 0x0 => bits w 6 6 ≤ 0x0F && bits w 0 6 = 0
  | 0x1 => if bits w 24 3 = 7 then !bit w 18 else if 4 ≤ bits w 24 3 then bits w 5 9 = 0 else true
  | 0x2 => true
  | 0x3 => bits w 24 3 ≤ 5
  | 0x4 => if bits w 25 2 ≤ 1 then true else bits w 0 20 = 0
  | 0x5 => bit w 24 || bits w 5 7 = 0
  | 0x6 => bits w 0 22 = 0
  | 0x7 => bits w 24 3 ≤ 3
  | 0x8 => bits w 0 15 = 0
  | 0x9 => bits w 23 4 ≤ 5 && bits w 16 7 = 0
  | 0xA => vecOk w
  | _ => false

/-- The fetch of a word that is no instruction: ILLEGAL_INSN, after V_FETCH (R46, R505). A word that is an instruction raises
nothing here. -/
def execIllegalInsn (t : Path) (w : Word) (s : State) : Out :=
  if wordOk w then guardUnit (activePath t) s else s.fetchedWord t w fun s l => s.illegal l w

/-- A fetch at or beyond the end of the range (R50). -/
def execLsRangeFetch (t : Path) (s : State) : Out := s.fetchedWord t 0 fun s _ => s

/-! ### Entry (R79, R80, R83, R84) -/

/-- The stack is valid (R83). -/
def State.stackOk (s : State) (l : Path) : Bool :=
  let x := s.tile l
  let sp := (x.reg 30).toNat
  x.stkLo.toNat < x.stkHi.toNat && x.stkHi.toNat ≤ s.span l && sp % 16 = 0 && x.stkLo.toNat + 64 ≤ sp && sp ≤ x.stkHi.toNat

/-- The sixteen words of an exception frame, and of a crash frame with XF set (R80). -/
def Tile.frame (x : Tile) (e : Exc) (xf : Bool) (time : Word) : List Word :=
  [word (e.cause.toNat * 2 ^ 24 + (if xf then 256 else 0) + (if e.ds then 128 else 0) + (if e.sh then 64 else 0)
      + (if e.le then 32 else 0) + e.lev.toNat * 8),
   e.epc, e.detail, e.insn, x.mode, x.lc 0, x.lc 1, x.lc 2, x.loop 0, x.loop 1, x.loop 2,
   x.reg 30, x.reg 28, x.reg 29, x.reg 31, time]

/-- Words as the entries of a map from 0 on. -/
def wordMap (ws : List Word) : SMap Word :=
  (List.zipIdx ws).filterMap fun e => if e.1 = 0 then none else some (e.2, e.1)

/-- The crash frame written and the tile faulted; no local store and no s30 changes (R84). -/
def State.crash (s : State) (l : Path) (e : Exc) (code : Nat) : State :=
  let x := s.tile l
  let fr := x.frame e true (s.now.setWidth 32)
  let s1 := s.modTile l fun y => { y with crash := wordMap fr, exc := none, ended := true, delay := none, shadow := 0 }
  let n := BitVec.ofNat 32 (min (s1.pwr.crashCount.toNat + 1) (2 ^ 32 - 1))
  (({ s1 with pwr := { s1.pwr with crashCount := n } }).raiseTile l code none (toLE e.epc.toNat 4)).settle l

/-- An exception entered (R79, R84): with no handler or no valid stack a crash frame; else the frame is pushed at s30 - 64 and
the sequencer continues at EVBASE. -/
def State.enterExc (s : State) (l : Path) (e : Exc) : State :=
  let x := s.tile l
  if x.evbase = 0 then s.crash l e (0x8200 + e.cause.toNat)
  else if !s.stackOk l then s.crash l e 0x8110
  else
    let fr := x.frame e false (s.now.setWidth 32)
    match s.writeLS l ((x.reg 30).toNat - 64) (fr.flatMap fun w => toLE w.toNat 4) with
    | (s', false) => s'
    | (s', true) =>
      (s'.modTile l fun y =>
        { y.setReg 30 (y.reg 30 - 64) with pc := y.evbase, exc := none, delay := none, shadow := 0 }).settle l

/-- EXCEPTION_ENTRY (R79): the exception a tile has raised is entered. -/
def execExceptionEntry (t : Path) (s : State) : Out :=
  guardUnit (activePath t)
    (let l := s.lead t
     if s.fatal || !s.clusterUp (clusterOf l) || (s.tile l).run ≠ .running then s
     else match (s.tile l).exc with
       | none => s
       | some e => s.enterExc l e)

/-! ### Return (R82, R85) -/

/-- An active loop word whose body extends beyond the range. -/
def loopBad (w : Word) : Bool := loopActive w && 0x1FFFFC < loopEnd w

/-- A frame that ERET refuses (R85). -/
def frameBad (fr : List Word) : Bool :=
  let w (i : Nat) := fr.getD i 0
  !modeOk (w 4) || loopBad (w 8) || loopBad (w 9) || loopBad (w 10) || (w 1).toNat % 4 ≠ 0 || 0x1FFFFC < (w 1).toNat

/-- The registers a frame restores, and the return to EPC (R82). -/
def Tile.restore (x : Tile) (fr : List Word) : Tile :=
  let w (i : Nat) := fr.getD i 0
  let y := { x with mode := w 4 }
  let y := ((y.setLc 0 (w 5)).setLc 1 (w 6)).setLc 2 (w 7)
  let y := ((y.setLoop 0 (w 8)).setLoop 1 (w 9)).setLoop 2 (w 10)
  let y := (((y.setReg 28 (w 12)).setReg 29 (w 13)).setReg 31 (w 14)).setReg 30 (w 11)
  { y with pc := w 1, delay := none, shadow := 0 }

/-- ERET (R82, R85): ERET_BAD with an invalid stack is handled at once as a crash (R84); a frame that would leave the span raises
LS_RANGE (R41). -/
def execEret (t : Path) (v : Bool) (imm : BitVec 16) (s : State) : Out :=
  let insn := encSys 2 v imm
  s.fetched t insn true fun s l =>
    let sp := (s.tile l).reg 30
    if !s.stackOk l then
      let s1 := s.raiseExc l 9 none 0 insn
      match (s1.tile l).exc with
      | some e => s1.enterExc l e
      | none => s1
    else if s.span l < sp.toNat + 64 then s.raiseExc l 4 none sp insn
    else
      match s.readLS l sp.toNat 64 with
      | (s', none) => s'
      | (s', some bs) =>
        let fr := wordsOf bs
        if frameBad fr then s'.raiseExc l 9 none 0 insn
        else s'.modTile l fun x => x.restore fr

end Sys2Proof.Machine
end

