-- ==== Sys2Proof/Machine/Queue.lean ====
section
/-! DEFINITION. Queues, tickets and commands (R66 to R71): ISSUE, dispatch, completion, and the firing of items (R75, R76). -/

namespace Sys2Proof.Machine

/-- The queue a unit's commands wait in (R66). -/
def Tile.queueOf (x : Tile) (unit : Nat) : List Command :=
  match unit with
  | 3 => x.loadQ
  | 4 => x.storeQ
  | _ => x.cmdQ

/-- A unit's queue has room (R66, R67). -/
def Tile.hasRoom (x : Tile) (unit : Nat) : Bool :=
  match unit with
  | 3 => x.loadQ.length < 16
  | 4 => x.storeQ.length < 16
  | _ => x.cmdQ.length < 32

/-- A command put at the end of its unit's queue, with the next number. -/
def Tile.enqueue (x : Tile) (c : Command) : Tile :=
  let c := { c with id := x.nextId }
  match c.unit.toNat with
  | 3 => { x with loadQ := x.loadQ ++ [c], nextId := x.nextId + 1 }
  | 4 => { x with storeQ := x.storeQ ++ [c], nextId := x.nextId + 1 }
  | _ => { x with cmdQ := x.cmdQ ++ [c], nextId := x.nextId + 1 }

/-- A command taken out of the queues. -/
def Tile.unqueue (x : Tile) (id : Nat) : Tile :=
  { x with cmdQ := x.cmdQ.filter fun c => c.id ≠ id, loadQ := x.loadQ.filter fun c => c.id ≠ id,
           storeQ := x.storeQ.filter fun c => c.id ≠ id }

/-- A command's completion marked possible. -/
def Tile.finish (x : Tile) (id : Nat) : Tile :=
  { x with flights := x.flights.map fun f => if f.cmd.id = id then { f with finished := true } else f }

/-- A command in flight that ends without completing. -/
def Tile.dropFlight (x : Tile) (id : Nat) : Tile := { x with flights := x.flights.filter fun f => f.cmd.id ≠ id }

/-! ### ISSUE (R68, R69) -/

/-- The unit of a descriptor is ready (R467): the tile's own units with its cluster, the Shuttle with its die's slice. -/
def State.unitReady (s : State) (l : Path) (unit : Nat) : Bool :=
  if unit = 5 then bit s.pwr.functions (8 + dieOf l) else (s.cluster (clusterOf l)).ready

/-- A descriptor as ISSUE reads it: refused with a code and the position of the condition in R69's table, or its header words
and body words. -/
inductive Desc where
  | refused (code cond : Nat) (head : Bytes)
  | ok (hdr body : List Word)
  | lost
  deriving DecidableEq, Repr

/-- A descriptor read and checked at an address (R68, R69). -/
def State.readDesc (s : State) (l : Path) (a : Nat) : State × Desc :=
  if a % 16 ≠ 0 ∨ s.span l < a + 16 then (s, .refused 0x4001 1 [])
  else
    match s.readLS l a 16 with
    | (s1, none) => (s1, .lost)
    | (s1, some hb) =>
      let hdr := wordsOf hb
      let w0 := hdr.getD 0 0
      if !hdrOk w0 (hdr.getD 2 0) || s.span l < a + 16 + 16 * hdrBody w0 then (s1, .refused 0x4001 1 hb)
      else if !s1.unitReady l (hdrUnit w0) then (s1, .refused 0x4010 2 hb)
      else if hdrV w0 && s1.repro l then (s1, .refused 0x4030 3 hb)
      else
        match s1.readLS l (a + 16) (16 * hdrBody w0) with
        | (s2, none) => (s2, .lost)
        | (s2, some bb) => (s2, .ok hdr (wordsOf bb))

/-- The command of a descriptor: its mode from MODE at issue or from word 2 (R68). -/
def mkCommand (hdr body : List Word) (mode : Word) (item : Option Nat) : Command :=
  let w0 := hdr.getD 0 0
  { id := 0, unit := BitVec.ofNat 4 (hdrUnit w0), w0 := w0, waitV := hdr.getD 1 0,
    mode := if hdrMsrc w0 = 0 then mode else hdr.getD 2 0, stag := hdr.getD 3 0, work := .desc body, item := item }

/-- The record of a descriptor refused at ISSUE (R425, R507). -/
def State.refuseDesc (s : State) (l : Path) (code cond : Nat) (head : Bytes) : State :=
  s.refuse code (some l) ((s.partOf l).getD 0xFF) ((s.ownCtx l).getD 0).toNat 2 cond 0 0 (fieldAt head 0 8)

/-- ISSUE (R67, R69): refused with DESC_REFUSED, stalled by a full queue, or queued. -/
def execIssue (t : Path) (v : Bool) (rdesc : Reg) (s : State) : Out :=
  let insn := encIssue v rdesc
  s.fetched t insn false fun s l =>
    match s.readDesc l ((s.tile l).reg rdesc).toNat with
    | (s1, .lost) => s1
    | (s1, .refused code cond head) => (s1.refuseDesc l code cond head).raiseExc l 5 none (word (code * 65536)) insn
    | (s1, .ok hdr body) =>
      let c := mkCommand hdr body (s1.tile l).mode none
      if (s1.tile l).hasRoom c.unit.toNat then (s1.retire l fun x => x.enqueue c).wake (clusterOf l) else s

/-! ### Dispatch and completion (R70, R71) -/

/-- The first command of a unit in its queue. -/
def Tile.headOf (x : Tile) (unit : Nat) : Option Command := (x.queueOf unit).find? fun c => c.unit.toNat = unit

/-- A command's WAIT condition holds (R68, R70). -/
def Tile.waitOk (x : Tile) (c : Command) : Bool := !hdrWait c.w0 || reached (x.ticket (hdrWaitt c.w0)) c.waitV

/-- The body words of a queued descriptor. -/
def Command.body (c : Command) : List Word :=
  match c.work with
  | .desc b => b
  | .vec .. => []

/-- A queued VEC instruction. -/
def Command.isVec (c : Command) : Bool :=
  match c.work with
  | .desc _ => false
  | .vec .. => true

/-- A command leaves its queue for its unit (R70). -/
def State.launchCmd (s : State) (l : Path) (c : Command) : State :=
  (s.modTile l fun x => { x.unqueue c.id with flights := x.flights ++ [⟨c, false⟩] }).tilePacket l 2 c.stag

/-- Units work for a tile: the device is not fatal and the cluster up. -/
def State.unitsRun (s : State) (l : Path) : Bool := !s.fatal && s.clusterUp (clusterOf l)

/-- The first command of a unit in tile t's queue is dispatched and worked on, if it is one the row names and its wait holds. -/
def State.dispatch (s : State) (t : Path) (unit : Nat) (isOp : Command → Bool) (work : State → Path → Command → State) : Out :=
  guardUnit (activePath t)
    (let l := s.lead t
     match (s.tile l).headOf unit with
     | none => s
     | some c =>
       if s.unitsRun l && !c.isVec && isOp c && (s.tile l).waitOk c then work (s.launchCmd l c) l c else s)

/-- A command's work is done; it may complete. -/
def State.finish (s : State) (l : Path) (c : Command) : State := s.modTile l fun x => x.finish c.id

/-- A command fails: a partition fault of its tile, no ticket (R110). -/
def State.failCmd (s : State) (l : Path) (c : Command) (code : Nat) (detail : Bytes) (injected : Bool := false) : State :=
  (s.modTile l fun x => x.dropFlight c.id).raiseTile l code (some c.stag) detail injected

/-- A finished command completes: its ticket, its packet, the count of a block operation, its firing item (R70, R71, R75, R156). -/
def State.complete (s : State) (l : Path) (c : Command) : State :=
  let s1 := s.modTile l fun x =>
    let y := x.dropFlight c.id
    if hdrSig c.w0 then y.addTicket (hdrSigt c.w0) 1 else y
  let s2 := (s1.tilePacket l 3 c.stag).countPart (s.partOf l) 0x2150 4 (if c.unit = 1 && !c.isVec then 1 else 0)
  match c.item with
  | some i => s2.itemDone l i
  | none => s2

/-! ### Firing (R75, R76) -/

/-- The lowest ready item. -/
def State.readyItem (s : State) (l : Path) : Option Nat :=
  (List.range (s.tile l).fireN).find? fun i => itemReady (s.item l i)

/-- FIRE_ITEM (R75, R76): the lowest ready item fires; a descriptor refused under R69 faults the partition. -/
def execFireItem (t : Path) (s : State) : Out :=
  guardUnit (activePath t)
    (let l := s.lead t
     if !s.unitsRun l || (s.tile l).run ≠ .firing then s
     else match s.readyItem l with
       | none => s
       | some i =>
         match s.readDesc l (itemDesc (s.item l i)) with
         | (s1, .lost) => s1
         | (s1, .refused code cond head) => (s1.refuseDesc l code cond head).fireFault l 5 i
         | (s1, .ok hdr body) =>
           let c := mkCommand hdr body (s1.tile l).mode (some i)
           if (s1.tile l).hasRoom c.unit.toNat then ((s1.setItemByte l i 2 1).modTile l fun x => x.enqueue c).wake (clusterOf l)
           else s)

end Sys2Proof.Machine
end

