-- ==== Sys2Proof/Machine/Sample.lean ====
section
/-! DEFINITION. The sums and the narrowing every sampled operation uses (R99, R100, R102), the samples of the checkers (R355
to R357), and the activity level of an array (R111). -/

namespace Sys2Proof.Machine

/-! ### Formats of local-store operands (R95, R96) -/

/-- The floating-point format of a code of R95. -/
def fmtOf (code : Nat) : Fmt :=
  match code with
  | 0 => e4m3
  | 1 => e5m2
  | 2 => e2m1
  | 3 => bf16
  | 6 => fp16
  | _ => fp32

/-- Bits of an element of a format code. -/
def fmtBits (code : Nat) : Nat :=
  match code with
  | 0 => 8
  | 1 => 8
  | 2 => 4
  | 3 => 16
  | 4 => 8
  | 6 => 16
  | _ => 32

/-- Bytes of a row of n elements. -/
def rowBytes (code n : Nat) : Nat := (n * fmtBits code + 7) / 8

/-- A little-endian number of `len` bytes read through a function. -/
def readNat (rd : Nat → Byte) (a : Nat) : Nat → Nat
  | 0 => 0
  | len + 1 => (rd a).toNat + 256 * readNat rd (a + 1) len

/-- The pattern of element j of a row that starts at an address. -/
def elemBits (rd : Nat → Byte) (code a j : Nat) : Nat :=
  match fmtBits code with
  | 4 => (rd (a + j / 2)).toNat / 16 ^ (j % 2) % 16
  | 8 => (rd (a + j)).toNat
  | 16 => readNat rd (a + 2 * j) 2
  | _ => readNat rd (a + 4 * j) 4

/-- An integer as an exact value. -/
def Num.ofInt (x : Int) : Num := .fin (x < 0) x.natAbs 0

/-- The value of element j of a row; sb is the address of the row's scales when the format is y4. -/
def elemNum (rd : Nat → Byte) (code a sb j : Nat) : Num :=
  let w := elemBits rd code a j
  match code with
  | 2 => (e2m1.decode w).mul (e4m3.decode (rd (sb + j / 16)).toNat)
  | 4 => .ofInt (signed 8 w)
  | 7 => .ofInt (signed 32 w)
  | c => (fmtOf c).decode w

/-- The bytes of a panel's store, correct as R159 leaves them. -/
def State.lsByte (s : State) (l : Path) (a : Nat) : Byte :=
  mapGet 0 (s.tile (memberAt l (a / 0x200000))).ls (a % 0x200000)

/-- Ranges of local store read and checked (R159): the second value says that no double error was met. -/
def State.checkLS (s : State) (l : Path) (ranges : List (Nat × Nat)) : State × Bool :=
  ranges.foldl (fun (acc : State × Bool) (r : Nat × Nat) =>
    if acc.2 then
      match acc.1.readLS l r.1 r.2 with
      | (s', some _) => (s', true)
      | (s', none) => (s', false)
    else acc) (s, true)

/-! ### Sums by groups (R99) and the other combinations (R102) -/

/-- floor(log2 |p|) of a value that is not zero. -/
def Num.top : Num → Int
  | .fin _ m e => (Nat.log2 m : Int) + e
  | _ => 0

/-- A value truncated toward zero to a multiple of 2^q, as the multiple. -/
def Num.truncTo (q : Int) : Num → Int
  | .fin a m e => if q ≤ e then Num.sig a (m * 2 ^ (e - q).toNat) else Num.sig a (m / 2 ^ (q - e).toNat)
  | _ => 0

/-- group_sum of R99. -/
def groupSum (ps : List Num) : Num :=
  let pos := ps.any fun p => p.isInf && !p.isNeg
  let neg := ps.any fun p => p.isInf && p.isNeg
  if ps.any Num.isNan || (pos && neg) then .nan
  else if pos then .inf false
  else if neg then .inf true
  else
    let live := ps.filter fun p => !p.isZero
    match live with
    | [] => .fin (ps.all Num.isNeg) 0 0
    | p :: rest =>
      let q := rest.foldl (fun a x => max a x.top) p.top - 47
      let x := (live.map (Num.truncTo q)).sum
      if x = 0 then .fin false 0 0 else .fin (x < 0) x.natAbs q

/-- A list cut into groups of n. -/
def groupsFuel (n : Nat) : Nat → List Num → List (List Num)
  | 0, _ => []
  | fuel + 1, xs => if xs.isEmpty then [] else xs.take n :: groupsFuel n fuel (xs.drop n)

/-- The groups of R99. -/
def groupsOf (n : Nat) (xs : List Num) : List (List Num) := groupsFuel n xs.length xs

/-- The integer an exact value of an INT8 operation stands for. -/
def Num.toZ : Num → Int
  | .fin a m _ => Num.sig a m
  | _ => 0

/-- An accumulator after a run of terms: minimum (op 2), maximum (op 3), saturating integer groups, or fp32 groups. -/
def foldTerms (op : Nat) (int : Bool) (glen : Nat) (acc : Word) (terms : List Num) : Word :=
  if op = 2 ∨ op = 3 then
    terms.foldl (fun a t =>
      let x := f32 a.toNat
      let y := f32 (fp32.encode 0 t)
      if x.isNan || y.isNan then word nan32
      else if (if op = 2 then y.lt x else x.lt y) then word (fp32.encode 0 y) else a) acc
  else if int then
    (groupsOf glen terms).foldl (fun a g => word (clamp32 (signed 32 a.toNat + (g.map Num.toZ).sum))) acc
  else
    (groupsOf glen terms).foldl (fun a g => word (fp32.encode 0 ((f32 a.toNat).add 0 (groupSum g)))) acc

/-! ### Narrowing (R100) -/

/-- The smallest positive E4M3 pattern whose value is at least m × 2^e ÷ 6; 0 for 0. A value above 448 gives 0x7E. -/
def y4Scale (m : Nat) (e : Int) : Nat :=
  if m = 0 then 0
  else
    let (n, d) := ratioOf m e
    let (pat, rem, _) := e4m3.floorRatio n (6 * d)
    min (if rem = 0 ∧ 0 < pat then pat else pat + 1) 0x7E

/-- A value divided by an E4M3 scale and rounded to E2M1, stochastically with the bits given or to nearest even. -/
def y4Elem (scale : Nat) (rnd : Option Nat) : Num → Nat
  | .nan => 0
  | .inf neg => e2m1.sign neg + e2m1.maxBits
  | .fin neg m e =>
    match e4m3.decode scale with
    | .fin _ sm se =>
      let (n, d) := ratioOf m (e - se)
      match rnd with
      | none => e2m1.roundRatio 0 neg n (d * sm)
      | some r => e2m1.srRatio neg n (d * sm) r
    | _ => 0

/-- A run of sixteen values in y4 (R100): the scale and the elements. -/
def y4Run (xs : List Num) (rnd : Nat → Option Nat) : Nat × List Nat :=
  if xs.any Num.isNan then (0x7F, xs.map fun _ => 0)
  else
    let amax := (xs.map Num.abs).foldl Num.maxOf (.fin false 0 0)
    let scale := match amax with
      | .fin _ m e => y4Scale m e
      | _ => 0x7E
    (scale, xs.zipIdx.map fun x =>
      if scale = 0 then (if x.1.isNeg then 8 else 0) else y4Elem scale (rnd x.2) x.1)

/-- The runs of a row. -/
def y4Runs (rnd : Nat → Option Nat) : Nat → Nat → List Num → List (Nat × List Nat)
  | 0, _, _ => []
  | fuel + 1, i, xs =>
    if xs.isEmpty then [] else y4Run (xs.take 16) (fun j => rnd (i + j)) :: y4Runs rnd fuel (i + 16) (xs.drop 16)

/-- A row of accumulators converted to a format (R100): the element patterns and the scales; rnd gives the random bits of a
position, none when rounding to nearest even. -/
def convertRow (code : Nat) (shift : Int) (rnd : Nat → Option Nat) (accs : List Word) : List Nat × List Nat :=
  if code = 5 ∨ code = 7 then (accs.map (·.toNat), [])
  else
    let xs := accs.map fun a => (f32 a.toNat).scale (if code = 6 then shift else 0)
    if code = 2 then
      let runs := y4Runs rnd xs.length 0 xs
      (runs.flatMap (·.2), runs.map (·.1))
    else
      (xs.zipIdx.map fun x =>
        match rnd x.2 with
        | none => (fmtOf code).encode 0 x.1
        | some r => (fmtOf code).sr r x.1, [])

/-- Element patterns packed into bytes (R92, R96). -/
def packElems (code : Nat) : List Nat → Bytes
  | [] => []
  | [x] => if fmtBits code = 4 then [BitVec.ofNat 8 x] else toLE x (fmtBits code / 8)
  | x :: y :: rest =>
    if fmtBits code = 4 then BitVec.ofNat 8 (x + 16 * y) :: packElems code rest
    else toLE x (fmtBits code / 8) ++ toLE y (fmtBits code / 8) ++ packElems code rest

/-- The random bits of a stream position under MODE.SR (R100, R205). -/
def streamRnd (sr : Bool) (seed : DWord) (step : Word) (base i : Nat) : Option Nat :=
  if sr then some (srBits seed step ((base + i) % 2 ^ 48)) else none

/-- The job seed and the partition step at dispatch (R205); 0 without a partition. -/
def State.seedStep (s : State) (l : Path) : DWord × Word :=
  match s.partOf l with
  | some p => ((s.part p).seed, (s.part p).step)
  | none => (0, 0)

/-! ### Samples (R355 to R357) -/

/-- The backlog of a checker: 1.75 MiB (R357). -/
def backlogSize : Nat := 1835008

/-- The largest capture (R357). -/
def captureMax : Nat := 1056768

/-- A 1 s window of the skip rate starts when the last one is over. -/
def Checker.window (now : Nat) (c : Checker) : Checker :=
  if c.winStart + 1000000000 ≤ now then { c with winStart := now, winSel := 0, winSkip := 0 } else c

/-- A selected candidate skipped (R357): counted by its cause, 3 a busy unit or 4 a full backlog, and judged against 1/16 of those
selected within 1 s. -/
def State.skipSample (s : State) (k cause : Nat) : State :=
  let s1 := { s.modCluster k fun c => { c with chk := { c.chk with winSkip := c.chk.winSkip + 1 } } with
                integ := s.integ.count cause 1 }
  let c := (s1.cluster k).chk
  let due := match c.lastRate with
    | none => true
    | some t => t + 60000000000 ≤ s.island
  if c.winSel < 16 * c.winSkip && due then
    (s1.modCluster k fun c => { c with chk := { c.chk with lastRate := some s.island } }).raise
      { code := 0x1C01, path := some (pathOf k 32), part := (s.ownerOf k).getD 0xFF }
  else s1

/-- The unit of a kind of sample: 0 array, 1 vector engine, 2 reduction unit. -/
def sampleUnit (kind : Nat) : Nat :=
  match kind with
  | 0 => 0
  | 3 => 2
  | _ => 1

/-- The sampled unit still has a capture in flight (R357). How long a capture takes is left open: while an earlier one of the unit
waits in the backlog it is a free value (log 34). -/
def State.captureBusy (s : State) (l : Path) (kind : Nat) : Bool :=
  ((s.cluster (clusterOf l)).chk.backlog.any fun c => c.path = l && sampleUnit c.kind = sampleUnit kind)
    && Config.captureInFlight s.free

/-- One candidate (R356, R357): selected with probability 2^-E by the checker's generator, captured if its unit has no capture in
flight and the backlog has room. -/
def State.candidate (s : State) (l : Path) (stag mode : Word) (c : Capture) : State :=
  let k := clusterOf l
  let pick := Config.selected s.free s.integ.sampleExp.toNat
  let s0 := { s with free := s.free + 1 }
  if pick then
    let size := min c.bytes captureMax
    let s1 := s0.modCluster k fun x =>
      { x with chk := { x.chk.window s.island with winSel := (x.chk.window s.island).winSel + 1 } }
    let used := (s1.cluster k).chk.used
    if s.captureBusy l c.kind then s1.skipSample k 3
    else if used + size ≤ backlogSize then
      let cap := { c with id := s.integ.nextCap, path := l, part := BitVec.ofNat 8 ((s.partOf l).getD 0xFF), stag := stag,
                          mode := mode, bytes := size }
      { s1.modCluster k fun x => { x with chk := { x.chk with backlog := x.chk.backlog ++ [cap], used := used + size } } with
          integ := { s1.integ with nextCap := s1.integ.nextCap + 1,
                                   highMark := word (max s1.integ.highMark.toNat (used + size)) } }
    else s1.skipSample k 4
  else s0

/-- The candidates of a command's work. Sampling changes the checkers, the counters and the log, and nothing else (R357). -/
def State.sampled (s : State) (l : Path) (c : Command) (cands : List Capture) : State :=
  let s' := s.each cands fun a x => a.candidate l c.stag c.mode x
  { s with clusters := s'.clusters, integ := s'.integ, mgmt := s'.mgmt, trace := s'.trace, free := s'.free }

/-- A checker's selection generator is seeded from the DRBG, or with 0 until the DRBG reports ready (R356). -/
def State.seedChecker (s : State) (k : Nat) : State :=
  let put (seed : DWord) (a : State) : State :=
    a.modCluster k fun x => { x with chk := { x.chk with seed := seed, seededAt := s.island } }
  if s.sec.drbg = 1 then
    let g := s.generate 8
    put (BitVec.ofNat 64 (leNat g.1)) g.2
  else put 0 s

/-! ### The activity level of an array (R111) -/

/-- A real operation arrives after a gap: below level 8 the level rises by one at once. -/
def ArrayLevel.arrive (now : Nat) (a : ArrayLevel) : ArrayLevel :=
  if a.rising then a else { a with level := min 8 (a.level + 1), since := now, rising := true }

/-- Every array of a panel changed. -/
def State.arrays (s : State) (l : Path) (f : ArrayLevel → ArrayLevel) : State :=
  s.each (s.members l) fun a t => a.modTile t fun x => { x with arr := f x.arr }

end Sys2Proof.Machine
end

