-- ==== Sys2Proof/Machine/Array.lean ====
section
/-! DEFINITION. The matrix array (R91 to R105, R109 to R115, R116 to R123): the body of a descriptor, its checks, the values it
computes and writes, its counters and samples, and UNDERLAY. -/

namespace Sys2Proof.Machine

/-- The fields of an array body (R93, R94). -/
structure ArrCmd where
  blen : Nat
  w : List Word
  op : Nat
  fa : Nat
  fb : Nat
  fd : Nat
  pshape : Nat
  trb : Bool
  acc : Bool
  wsp : Nat
  askip : Bool
  m : Nat
  n : Nat
  k : Nat
  /-- FMTD with NARROW resolved by MODE.NARROW (R95). -/
  od : Nat
  sr : Bool

/-- Body word i. -/
def ArrCmd.b (d : ArrCmd) (i : Nat) : Word := d.w.getD i 0

/-- The fields of a command's body. -/
def arrCmd (c : Command) : ArrCmd :=
  let w := c.body
  let ctl := w.getD 0 0
  let fd := bits ctl 16 4
  { blen := hdrBody c.w0, w := w, op := bits ctl 28 4, fa := bits ctl 24 4, fb := bits ctl 20 4, fd := fd,
    pshape := bits ctl 14 2, trb := bit ctl 13, acc := bit ctl 12, wsp := bits ctl 10 2, askip := bit ctl 9,
    m := bits (w.getD 1 0) 16 16, n := bits (w.getD 1 0) 0 16, k := bits (w.getD 2 0) 16 16,
    od := if fd = 8 then modeNarrow c.mode else fd, sr := modeSr c.mode }

/-- Addresses. -/
def ArrCmd.aaddr (d : ArrCmd) : Nat := (d.b 3).toNat
/-- BADDR. -/
def ArrCmd.baddr (d : ArrCmd) : Nat := (d.b 4).toNat
/-- CADDR. -/
def ArrCmd.caddr (d : ArrCmd) : Nat := (d.b 5).toNat
/-- DADDR. -/
def ArrCmd.daddr (d : ArrCmd) : Nat := (d.b 6).toNat
/-- Row strides in bytes. -/
def ArrCmd.astr (d : ArrCmd) : Nat := 16 * bits (d.b 7) 16 16
/-- BSTRIDE in bytes. -/
def ArrCmd.bstr (d : ArrCmd) : Nat := 16 * bits (d.b 7) 0 16
/-- CSTRIDE in bytes. -/
def ArrCmd.cstr (d : ArrCmd) : Nat := 16 * bits (d.b 8) 16 16
/-- DSTRIDE in bytes. -/
def ArrCmd.dstr (d : ArrCmd) : Nat := 16 * bits (d.b 8) 0 16
/-- ASCL. -/
def ArrCmd.ascl (d : ArrCmd) : Nat := (d.b 9).toNat
/-- BSCL. -/
def ArrCmd.bscl (d : ArrCmd) : Nat := (d.b 10).toNat
/-- DSCL. -/
def ArrCmd.dscl (d : ArrCmd) : Nat := (d.b 11).toNat
/-- WMETA. -/
def ArrCmd.wmeta (d : ArrCmd) : Nat := (d.b 12).toNat
/-- AMASK. -/
def ArrCmd.amask (d : ArrCmd) : Nat := (d.b 13).toNat
/-- SRBASE (R100). -/
def ArrCmd.srbase (d : ArrCmd) : Nat := bits (d.b 15) 16 16 * 2 ^ 32 + (d.b 14).toNat
/-- FP16E. -/
def ArrCmd.fp16e (d : ArrCmd) : Int := signed 8 (bits (d.b 15) 8 8)
/-- OPX. -/
def ArrCmd.opx (d : ArrCmd) : Nat := bits (d.b 15) 0 8
/-- Values per complex element (R105). -/
def ArrCmd.cx (d : ArrCmd) : Nat := if d.op = 6 then 2 else 1
/-- Integer accumulators (R99). -/
def ArrCmd.int (d : ArrCmd) : Bool := d.fa = 4
/-- The group length of R99. -/
def ArrCmd.glen (d : ArrCmd) : Nat := if d.fa = 2 ∧ d.fb = 2 then 128 else 64
/-- D is narrowed, so that MODE.SR governs it (R93, R100). -/
def ArrCmd.narrowed (d : ArrCmd) : Bool := d.op ≠ 4 && (d.od ≤ 3 || d.od = 6)
/-- Stored rows, dense row length and stored row length of B (R91, R116). -/
def ArrCmd.brows (d : ArrCmd) : Nat := if d.trb then d.k else d.n
/-- The dense row length of B. -/
def ArrCmd.bdense (d : ArrCmd) : Nat := if d.trb then d.n else d.k
/-- The stored row length of B. -/
def ArrCmd.bstored (d : ArrCmd) : Nat := if d.wsp = 1 then d.bdense / 2 else d.bdense

/-! ### The checks (R110, R115) -/

/-- ARRAY_BODY. -/
def ArrCmd.bodyBad (d : ArrCmd) : Bool :=
  if d.blen ≠ 4 ∨ 7 < d.op ∨ 8 < d.fa ∨ 8 < d.fb ∨ 8 < d.fd then true
  else if bits (d.b 0) 0 9 ≠ 0 ∨ bits (d.b 2) 0 16 ≠ 0 then true
  else if [3, 4, 5, 6, 9, 10, 11, 12, 13].any fun i => bits (d.b i) 23 9 ≠ 0 then true
  else if d.op = 7 then
    d.n = 0 || bits (d.b 0) 0 28 ≠ 0 || d.m ≠ 0 || (d.w.drop 2).any (· ≠ 0)
  else
    d.m = 0 || d.n = 0 || d.k = 0
      || (if d.op = 4 then d.opx = 0 || 16 < d.opx || (d.acc && d.cstr ≠ d.dstr) else d.opx ≠ 0)
      || (!d.acc && (d.caddr ≠ 0 || d.cstr ≠ 0))
      || (d.fa ≠ 2 && d.ascl ≠ 0) || (d.fb ≠ 2 && d.bscl ≠ 0) || (d.od ≠ 2 && d.dscl ≠ 0)
      || (d.wsp = 0 && d.wmeta ≠ 0) || (!d.askip && d.amask ≠ 0)
      || (!(d.sr && d.narrowed) && (bits (d.b 15) 16 16 ≠ 0 || (d.op ≠ 4 && d.b 14 ≠ 0)))
      || (d.od ≠ 6 && d.fp16e ≠ 0)

/-- The combinations of R97. -/
def ArrCmd.comboOk (d : ArrCmd) : Bool :=
  let small (f : Nat) : Bool := f ≤ 1
  let float : Bool := d.fd ≤ 3 || d.fd = 5 || d.fd = 6 || d.fd = 8
  let same : Bool := d.fa = d.fb && (small d.fa || d.fa = 3)
  let lowPair : Bool := d.fa ≤ 2 && d.fb ≤ 2
  let bfPair : Bool := d.fa = 3 && d.fb = 3
  let intPair : Bool := d.fa = 4 && d.fb = 4
  match d.op with
  | 0 =>
    (lowPair && float && d.wsp ≤ 2) || (bfPair && float && (d.wsp = 0 || d.wsp = 2))
      || (intPair && d.fd = 7 && (d.wsp = 0 || d.wsp = 2))
  | 4 => ((lowPair && d.wsp ≤ 2) || (bfPair && (d.wsp = 0 || d.wsp = 2))) && d.fd = 5
  | 1 => d.wsp = 0 && ((same && d.fd = 5) || (intPair && d.fd = 7))
  | 2 => d.wsp = 0 && same && d.fd = 5
  | 3 => d.wsp = 0 && same && d.fd = 5
  | 5 => d.wsp = 0 && d.fa = 5 && d.fb = 5 && (d.fd = 3 || d.fd = 5)
  | 6 => d.wsp = 0 && bfPair && (d.fd = 3 || d.fd = 5)
  | _ => false

/-- ARRAY_FORMAT. -/
def ArrCmd.formatBad (d : ArrCmd) : Bool :=
  !d.comboOk || (d.acc && !(d.fd = 3 || 5 ≤ d.fd && d.fd ≤ 7)) || (d.askip && d.op ≠ 0 && d.op ≠ 4)
    || (d.fa = 2 && d.k % 16 ≠ 0) || (d.fb = 2 && d.bstored % 16 ≠ 0) || (d.od = 2 && d.n % 16 ≠ 0)
    || (d.wsp = 1 && d.bdense % 64 ≠ 0) || (d.wsp = 2 && (d.brows % 16 ≠ 0 || d.bstored % 16 ≠ 0))

/-- ARRAY_SHAPE (R109). -/
def ArrCmd.shapeBad (d : ArrCmd) (width : Nat) : Bool :=
  (match d.pshape with
    | 0 => width ≠ 1
    | 3 => width ≠ 4
    | _ => width ≠ 2) || (d.trb && d.pshape ≠ 3)

/-- The byte ranges of rows: base, number, stride, bytes. -/
def rowRanges (base rows stride len : Nat) : List (Nat × Nat) :=
  if rows ≤ 1 ∨ stride ≤ len then [(base, stride * (rows - 1) + len)]
  else (List.range rows).map fun r => (base + r * stride, len)

/-- Bytes of an entry row of D. -/
def ArrCmd.drow (d : ArrCmd) : Nat := if d.op = 4 then 8 * d.opx else rowBytes d.od (d.cx * d.n)

/-- The ranges of C, which has D's layout. -/
def ArrCmd.cRanges (d : ArrCmd) : List (Nat × Nat) := if d.acc then rowRanges d.caddr d.m d.cstr d.drow else []

/-- The ranges of the inputs but C: A, B, scales, metadata, mask. -/
def ArrCmd.inRanges (d : ArrCmd) : List (Nat × Nat) :=
  rowRanges d.aaddr d.m d.astr (rowBytes d.fa (d.cx * d.k))
    ++ rowRanges d.baddr d.brows d.bstr (rowBytes d.fb (d.cx * d.bstored))
    ++ (if d.fa = 2 then [(d.ascl, d.m * (d.k / 16))] else [])
    ++ (if d.fb = 2 then [(d.bscl, d.brows * (d.bstored / 16))] else [])
    ++ (if d.wsp = 1 then [(d.wmeta, d.brows * (d.bdense / 8))] else [])
    ++ (if d.wsp = 2 then [(d.wmeta, (d.brows / 16 * (d.bstored / 16) + 7) / 8)] else [])
    ++ (if d.askip then [(d.amask, (d.m * ((d.k + 63) / 64) + 7) / 8)] else [])

/-- The ranges of D. -/
def ArrCmd.dRanges (d : ArrCmd) : List (Nat × Nat) := rowRanges d.daddr d.m d.dstr d.drow
/-- The range of D's scale plane. -/
def ArrCmd.dsRanges (d : ArrCmd) : List (Nat × Nat) := if d.od = 2 then [(d.dscl, d.m * (d.n / 16))] else []

/-- Two lists of ranges share a byte. -/
def meet (xs ys : List (Nat × Nat)) : Bool :=
  xs.any fun x => ys.any fun y => x.1 < y.1 + y.2 && y.1 < x.1 + x.2

/-- ARRAY_RANGE. -/
def ArrCmd.rangeBad (d : ArrCmd) (span : Nat) : Bool :=
  [d.aaddr, d.baddr, d.caddr, d.daddr, d.ascl, d.bscl, d.dscl, d.wmeta, d.amask].any (· % 16 ≠ 0)
    || (d.inRanges ++ d.cRanges ++ d.dRanges ++ d.dsRanges).any fun r => span < r.1 + r.2

/-- ARRAY_OVERLAP: an exact C is allowed. -/
def ArrCmd.overlapBad (d : ArrCmd) : Bool :=
  let exact : Bool := d.acc && d.caddr = d.daddr && d.cstr = d.dstr
  let ins := d.inRanges ++ (if exact then [] else d.cRanges)
  meet d.dRanges (ins ++ d.dsRanges) || meet d.dsRanges (ins ++ d.cRanges)

/-- The fault of a descriptor, in the order of R115's table. -/
def ArrCmd.fault (d : ArrCmd) (width span : Nat) : Option Nat :=
  if d.bodyBad then some 0x8301
  else if d.op = 7 then none
  else if d.formatBad then some 0x8302
  else if d.shapeBad width then some 0x8303
  else if d.rangeBad span then some 0x8304
  else if d.overlapBad then some 0x8305
  else none

/-! ### Operand values (R91, R96, R116 to R122) -/

/-- Element j of row m of A, or component x of complex element j. -/
def ArrCmd.aRaw (d : ArrCmd) (rd : Nat → Byte) (m j : Nat) : Num :=
  elemNum rd d.fa (d.aaddr + m * d.astr) (d.ascl + m * (d.k / 16)) j

/-- The occupancy bit of a row's element (R122). -/
def ArrCmd.occupied (d : ArrCmd) (rd : Nat → Byte) (m k : Nat) : Bool :=
  let b := m * ((d.k + 63) / 64) + k / 64
  !d.askip || (rd (d.amask + b / 8)).getLsbD (b % 8)

/-- The metadata nibble of a group of a stored row (R117). -/
def ArrCmd.nibble (d : ArrCmd) (rd : Nat → Byte) (r g : Nat) : Nat :=
  (rd (d.wmeta + r * (d.bdense / 8) + g / 2)).toNat / 16 ^ (g % 2) % 16

/-- The presence bit of the block that holds an element (R120). -/
def ArrCmd.present (d : ArrCmd) (rd : Nat → Byte) (r j : Nat) : Bool :=
  let b := r / 16 * (d.bstored / 16) + j / 16
  (rd (d.wmeta + b / 8)).getLsbD (b % 8)

/-- The stored position of a dense position of a row of B; none where it is pruned or absent. -/
def ArrCmd.bPos (d : ArrCmd) (rd : Nat → Byte) (r j : Nat) : Option Nat :=
  match d.wsp with
  | 1 =>
    let nib := d.nibble rd r (j / 4)
    if nib % 4 = j % 4 then some (2 * (j / 4)) else if nib / 4 = j % 4 then some (2 * (j / 4) + 1) else none
  | 2 => if d.present rd r j then some j else none
  | _ => some j

/-- Stored element p of a row of B. -/
def ArrCmd.bRaw (d : ArrCmd) (rd : Nat → Byte) (r p : Nat) : Num :=
  elemNum rd d.fb (d.baddr + r * d.bstr) (d.bscl + r * (d.bstored / 16)) p

/-- Exact zero, positive. -/
def Num.zero : Num := .fin false 0 0

/-- The two values an operation combines at (m, n, k), by a function of their raw positions; none contributes +0. -/
def ArrCmd.pair (d : ArrCmd) (rd : Nat → Byte) (m n k : Nat) (f : Num → Num → Num) : Num :=
  let (r, j) := if d.trb then (k, n) else (n, k)
  if d.occupied rd m k then
    match d.bPos rd r j with
    | some p => f (d.aRaw rd m k) (d.bRaw rd r p)
    | none => .zero
  else .zero

/-- hi and lo of an fp32 element (R104): an infinite or NaN hi gives a NaN lo. -/
def splitHi (x : Num) : Num := bf16.snap 0 x
/-- lo of R104. -/
def splitLo (x : Num) : Num :=
  let hi := splitHi x
  if hi.isFin then bf16.snap 0 (x.add 0 hi.neg) else .nan

/-- Real part, imaginary part, or their sum rounded to bf16 (R105). -/
def cplx (i : Nat) (re im : Num) : Num :=
  match i with
  | 0 => re
  | 1 => im
  | _ => bf16.snap 0 (re.add 0 im)

/-- Component i of complex element k of row m of A. -/
def ArrCmd.aCx (d : ArrCmd) (rd : Nat → Byte) (i m k : Nat) : Num :=
  cplx i (d.aRaw rd m (2 * k)) (d.aRaw rd m (2 * k + 1))
/-- Component i of complex element (n, k) of B. -/
def ArrCmd.bCx (d : ArrCmd) (rd : Nat → Byte) (i n k : Nat) : Num :=
  let (r, j) := if d.trb then (k, n) else (n, k)
  cplx i (d.bRaw rd r (2 * j)) (d.bRaw rd r (2 * j + 1))

/-- Passes of an operation (R104, R105). -/
def ArrCmd.passes (d : ArrCmd) : Nat := if d.op = 5 ∨ d.op = 6 then 3 else 1

/-- The term at (m, n, k) of a pass for accumulator x (0, or of CPLX3 0 real and 1 imaginary). -/
def ArrCmd.term (d : ArrCmd) (rd : Nat → Byte) (pass x m n k : Nat) : Num :=
  match d.op with
  | 1 => d.pair rd m n k fun a b => (a.add 0 b.neg).abs
  | 2 => d.pair rd m n k fun a b => a.add 0 b
  | 3 => d.pair rd m n k fun a b => a.add 0 b
  | 5 =>
    d.pair rd m n k fun a b =>
      match pass with
      | 0 => (splitLo a).mul (splitHi b)
      | 1 => (splitHi a).mul (splitLo b)
      | _ => (splitHi a).mul (splitHi b)
  | 6 =>
    let p := (d.aCx rd pass m k).mul (d.bCx rd pass n k)
    if pass = 1 ∨ (pass = 0 ∧ x = 1) then p.neg else p
  | _ => d.pair rd m n k Num.mul

/-- The accumulators a pass of an operation adds to. -/
def ArrCmd.accs (d : ArrCmd) (pass : Nat) : List Nat :=
  if d.op = 6 then (if pass = 2 then [1] else [0, 1]) else [0]

/-- The initial value of accumulator x of (m, n) (R91, R98, R102). -/
def ArrCmd.start (d : ArrCmd) (rd : Nat → Byte) (x m n : Nat) : Word :=
  if d.acc && d.op ≠ 4 then
    let a := d.caddr + m * d.cstr
    let j := d.cx * n + x
    if d.fd = 7 ∨ d.fd = 5 then word (elemBits rd d.fd a j)
    else word (fp32.encode 0 ((elemNum rd d.fd a 0 j).scale (if d.fd = 6 then -d.fp16e else 0)))
  else match d.op with
    | 2 => 0x7F800000
    | 3 => 0xFF800000
    | _ => 0

/-- The terms of accumulator x in one pass, from position lo to hi. -/
def ArrCmd.terms (d : ArrCmd) (rd : Nat → Byte) (pass x m n lo hi : Nat) : List Num :=
  (List.range (hi - lo)).map fun i => d.term rd pass x m n (lo + i)

/-- Accumulator x of (m, n) after the passes before `pass` and positions below hi of it. -/
def ArrCmd.accAt (d : ArrCmd) (rd : Nat → Byte) (pass x m n hi : Nat) : Word :=
  let full := ((List.range pass).filter fun p => (d.accs p).contains x).foldl
    (fun a p => foldTerms d.op d.int d.glen a (d.terms rd p x m n 0 d.k)) (d.start rd x m n)
  if (d.accs pass).contains x then foldTerms d.op d.int d.glen full (d.terms rd pass x m n 0 hi) else full

/-- The final accumulators of row m, complex parts in order. -/
def ArrCmd.rowAccs (d : ArrCmd) (rd : Nat → Byte) (m : Nat) : List Word :=
  (List.range (d.cx * d.n)).map fun j => d.accAt rd (d.passes - 1) (j % d.cx) m (j / d.cx) d.k

/-! ### TOPK (R103) -/

/-- One entry ranks before another. -/
def rankBefore (a b : Nat × Nat) : Bool :=
  let x := f32 a.1
  let y := f32 b.1
  if x.isNan then y.isNan && a.2 < b.2
  else if y.isNan then true
  else y.lt x || (x.eq y && a.2 < b.2)

/-- An entry put into a ranked list, behind the entries that do not rank after it. -/
def rankInsert (e : Nat × Nat) : List (Nat × Nat) → List (Nat × Nat)
  | [] => [e]
  | x :: xs => if rankBefore e x then e :: x :: xs else x :: rankInsert e xs

/-- The list of a row. -/
def ArrCmd.topk (d : ArrCmd) (rd : Nat → Byte) (m : Nat) : List (Nat × Nat) :=
  let fresh := (d.rowAccs rd m).zipIdx.map fun e => (e.1.toNat, (d.b 14 + word e.2).toNat)
  let old := if d.acc then (List.range d.opx).map fun i =>
    (readNat rd (d.caddr + m * d.cstr + 8 * i) 4, readNat rd (d.caddr + m * d.cstr + 8 * i + 4) 4) else []
  let ranked := ((old ++ fresh).foldl (fun l e => rankInsert e l) []).take d.opx
  ranked ++ List.replicate (d.opx - ranked.length) (0xFF800000, 0xFFFFFFFF)

/-! ### What is written -/

/-- The bytes of row m of D and of its scales. -/
def ArrCmd.rowOut (d : ArrCmd) (rd : Nat → Byte) (seed : DWord) (step : Word) (m : Nat) : Bytes × Bytes :=
  if d.op = 4 then ((d.topk rd m).flatMap fun e => toLE e.1 4 ++ toLE e.2 4, [])
  else
    let (es, ss) := convertRow d.od d.fp16e (streamRnd (d.sr && d.narrowed) seed step (d.srbase + m * (d.cx * d.n)))
      (d.rowAccs rd m)
    (packElems d.od es, ss.map (BitVec.ofNat 8))

/-- D written, row by row. -/
def State.writeD (s : State) (l : Path) (d : ArrCmd) (rows : List (Bytes × Bytes)) : State :=
  s.each rows.zipIdx fun a r =>
    let a1 := (a.writeLS l (d.daddr + r.2 * d.dstr) r.1.1).1
    if r.1.2.isEmpty then a1 else (a1.writeLS l (d.dscl + r.2 * (d.n / 16)) r.1.2).1

/-! ### Weight tiles: SPARSE_META, counters (R109, R119, R121, R123, R133) -/

/-- Kt (R109). -/
def ArrCmd.kt (d : ArrCmd) : Nat :=
  (if d.pshape = 1 ∨ (d.pshape = 3 ∧ !d.trb) then 128 else 64) * (if d.glen = 128 then 2 else 1)
    * (if d.wsp = 1 ∧ !d.trb then 2 else 1)
/-- Nt (R109). -/
def ArrCmd.nt (d : ArrCmd) : Nat :=
  match d.pshape with
  | 2 => 64
  | 3 => if d.trb then 128 else 64
  | _ => 32
/-- Cycles per row and weight tile (R97). -/
def ArrCmd.cyc (d : ArrCmd) : Nat := if d.op = 5 ∨ d.op = 6 then 6 else if d.fa = 3 then 2 else 1

/-- The weight tiles in the order they are loaded: column tile, K tile. -/
def ArrCmd.tiles (d : ArrCmd) : List (Nat × Nat) :=
  (List.range ((d.n + d.nt - 1) / d.nt)).flatMap fun c => (List.range ((d.k + d.kt - 1) / d.kt)).map fun t => (c, t)

/-- The metadata groups of a weight tile: stored row and group, in ascending address. -/
def ArrCmd.tileGroups (d : ArrCmd) (t : Nat × Nat) : List (Nat × Nat) :=
  let cols := (t.1 * d.nt, min d.n ((t.1 + 1) * d.nt))
  let ks := (t.2 * d.kt, min d.k ((t.2 + 1) * d.kt))
  let (rows, pos) := if d.trb then (ks, cols) else (cols, ks)
  (List.range (rows.2 - rows.1)).flatMap fun r =>
    (List.range ((pos.2 - pos.1) / 4)).map fun g => (rows.1 + r, pos.1 / 4 + g)

/-- The first invalid nibble: its weight tile and the address of its byte (R117, R119). -/
def ArrCmd.badNibble (d : ArrCmd) (rd : Nat → Byte) : Option ((Nat × Nat) × Nat) :=
  if d.wsp = 1 then
    d.tiles.findSome? fun t =>
      ((d.tileGroups t).find? fun g => d.nibble rd g.1 g.2 / 4 ≤ d.nibble rd g.1 g.2 % 4).map fun g =>
        (t, d.wmeta + g.1 * (d.bdense / 8) + g.2 / 2)
  else none

/-- K slices of a weight tile, and those with a present block (R121). -/
def ArrCmd.slices (d : ArrCmd) (rd : Nat → Byte) (t : Nat × Nat) : Nat × Nat :=
  let lo := t.2 * d.kt
  let n := (min d.k (lo + d.kt) - lo + 15) / 16
  let c0 := t.1 * d.nt
  let nc := (min d.n (c0 + d.nt) - c0 + 15) / 16
  (n, ((List.range n).filter fun i => (List.range nc).any fun j =>
    if d.trb then d.present rd (lo + 16 * i) (c0 + 16 * j) else d.present rd (c0 + 16 * j) (lo + 16 * i)).length)

/-- Rows of a chunk that a weight tile does not skip (R123). -/
def ArrCmd.rowsKept (d : ArrCmd) (rd : Nat → Byte) (m0 mc : Nat) (t : Nat × Nat) : Nat :=
  let lo := t.2 * d.kt
  let hi := min d.k (lo + d.kt)
  ((List.range mc).filter fun i =>
    (List.range ((hi + 63) / 64 - lo / 64)).any fun j => d.occupied rd (m0 + i) (lo + 64 * j)).length

/-- Slices skipped, row passes skipped and ceiling cycles of one chunk on one weight tile. -/
def ArrCmd.charge (d : ArrCmd) (rd : Nat → Byte) (m0 mc : Nat) (t : Nat × Nat) : Nat × Nat × Nat :=
  let (all, kept) := if d.wsp = 2 then d.slices rd t else (1, 1)
  let ra := if d.askip then d.rowsKept rd m0 mc t else mc
  let own := max ((ra * d.cyc * kept + all - 1) / all) 32
  let charged := max own ((mc * d.cyc + 1) / 2)
  (all - kept, mc - ra, if d.wsp = 1 ∨ (d.wsp = 0 ∧ !d.askip) then 0 else charged - own)

/-- The counters of R133, per chunk of 256 rows and weight tile. -/
def State.countSkips (s : State) (l : Path) (d : ArrCmd) (rd : Nat → Byte) : State :=
  let chunks := (List.range ((d.m + 255) / 256)).flatMap fun c => d.tiles.map fun t =>
    d.charge rd (256 * c) (min 256 (d.m - 256 * c)) t
  if d.wsp = 2 ∨ d.askip then
    ((s.countPart (s.partOf l) 0x2140 2 (chunks.map (·.1)).sum).countPart (s.partOf l) 0x2140 3
      (chunks.map (·.2.1)).sum).countPart (s.partOf l) 0x2140 4 (chunks.map (·.2.2)).sum
  else s

/-- n bytes of free value. -/
def State.freeBytes (s : State) : Nat → State × Bytes
  | 0 => (s, [])
  | n + 1 =>
    let (w, s1) := s.freeWord
    let (s2, bs) := s1.freeBytes n
    (s2, BitVec.ofNat 8 w.toNat :: bs)

/-- What earlier weight tiles may have left in the rows of the first chunk when a nibble is invalid (R119): free values in the
columns of the tiles loaded before. -/
def State.partialD (s : State) (l : Path) (d : ArrCmd) (t : Nat × Nat) : State :=
  let cols := min d.n ((if t.2 = 0 then t.1 else t.1 + 1) * d.nt)
  let len := if d.op = 4 then 0 else rowBytes d.od cols
  s.each (List.range (min d.m 256)) fun a r =>
    let (a1, bs) := a.freeBytes len
    (a1.writeLS l (d.daddr + r * d.dstr) bs).1

/-! ### Samples (R355) -/

/-- The AMASK bits of rows m0 on over K positions lo to hi. -/
def ArrCmd.maskBits (d : ArrCmd) (rd : Nat → Byte) (m0 rows lo hi : Nat) : List Bool :=
  if d.askip then
    (List.range rows).flatMap fun i => (List.range ((hi - lo + 63) / 64)).map fun j => d.occupied rd (m0 + i) (lo + 64 * j)
  else []

/-- The WMETA nibbles or presence bits of columns n0 on over K positions lo to hi. -/
def ArrCmd.metaBits (d : ArrCmd) (rd : Nat → Byte) (n0 cols lo hi : Nat) : List Nat :=
  let (r0, rn, p0, pn) := if d.trb then (lo, hi - lo, n0, cols) else (n0, cols, lo, hi - lo)
  match d.wsp with
  | 1 => (List.range rn).flatMap fun r => (List.range (pn / 4)).map fun g => d.nibble rd (r0 + r) (p0 / 4 + g)
  | 2 => (List.range ((rn + 15) / 16)).flatMap fun r => (List.range ((pn + 15) / 16)).map fun j =>
      if d.present rd (r0 + 16 * r) (p0 + 16 * j) then 1 else 0
  | _ => []

/-- The candidate of a row group, a column group, a pass and a span. -/
def ArrCmd.candidate (d : ArrCmd) (rd : Nat → Byte) (seed : DWord) (step : Word) (rg cg pass sp : Nat) : Capture :=
  let m0 := 32 * rg
  let n0 := 32 * cg
  let rows := min 32 (d.m - m0)
  let cols := min 32 (d.n - n0)
  let lo := 4096 * sp
  let hi := min d.k (lo + 4096)
  let cells := (List.range rows).flatMap fun i => (List.range cols).flatMap fun j =>
    (List.range d.cx).map fun x => (x, m0 + i, n0 + j)
  let last : Bool := pass + 1 = d.passes && hi = d.k && d.op ≠ 4
  let outs := if last then (List.range rows).map fun i =>
    convertRow d.od d.fp16e (streamRnd (d.sr && d.narrowed) seed step (d.srbase + (m0 + i) * (d.cx * d.n) + d.cx * n0))
      ((List.range (d.cx * cols)).map fun j => d.accAt rd (d.passes - 1) (j % d.cx) (m0 + i) (n0 + j / d.cx) d.k) else []
  let wmeta := d.metaBits rd n0 cols lo hi
  let amask := d.maskBits rd m0 rows lo hi
  { kind := 0, pass := pass, row := m0, col := n0, span := sp, op := d.op, int := d.int, glen := d.glen, seed := seed,
    step := step, base := d.srbase + m0 * (d.cx * d.n) + d.cx * n0, pitch := d.cx * d.n, cols := d.cx * cols, fmt := d.od,
    shift := d.fp16e, last := last,
    start := cells.map fun c => d.accAt rd pass c.1 c.2.1 c.2.2 lo,
    terms := cells.map fun c => if (d.accs pass).contains c.1 then d.terms rd pass c.1 c.2.1 c.2.2 lo hi else [],
    ends := cells.map fun c => d.accAt rd pass c.1 c.2.1 c.2.2 hi,
    written := outs.flatMap (·.1), scales := outs.flatMap (·.2), wmeta := wmeta, amask := amask,
    bytes := (rows * fmtBits d.fa + cols * (fmtBits d.fb / (if d.wsp = 1 then 2 else 1))) * d.cx * (hi - lo) / 8
      + (if d.fa = 2 then rows * (hi - lo) / 16 else 0) + (if d.fb = 2 then cols * (hi - lo) / 16 else 0)
      + (wmeta.length * (if d.wsp = 1 then 4 else 1) + amask.length + 7) / 8
      + 8 * cells.length + (if last then rows * rowBytes d.od (d.cx * cols) + (outs.flatMap (·.2)).length else 0) }

/-- Every candidate of a command. -/
def ArrCmd.candidates (d : ArrCmd) (rd : Nat → Byte) (seed : DWord) (step : Word) : List Capture :=
  (List.range ((d.m + 31) / 32)).flatMap fun i => (List.range ((d.n + 31) / 32)).flatMap fun j =>
    (List.range d.passes).flatMap fun p => (List.range ((d.k + 4095) / 4096)).map fun sp =>
      d.candidate rd seed step i j p sp

/-! ### Execution -/

/-- The rows of local store an operation reads: masked segments and absent blocks are not read. -/
def ArrCmd.reads (d : ArrCmd) (rd : Nat → Byte) : List (Nat × Nat) :=
  let planes := (d.inRanges.drop ((rowRanges d.aaddr d.m d.astr (rowBytes d.fa (d.cx * d.k))).length
    + (rowRanges d.baddr d.brows d.bstr (rowBytes d.fb (d.cx * d.bstored))).length))
  let a := if d.askip then
    (List.range d.m).flatMap fun m => ((List.range ((d.k + 63) / 64)).filter fun j => d.occupied rd m (64 * j)).map fun j =>
      (d.aaddr + m * d.astr + 64 * j * fmtBits d.fa / 8, rowBytes d.fa (min 64 (d.k - 64 * j)))
    else rowRanges d.aaddr d.m d.astr (rowBytes d.fa (d.cx * d.k))
  let b := if d.wsp = 2 then
    (List.range d.brows).flatMap fun r => ((List.range (d.bstored / 16)).filter fun j => d.present rd r (16 * j)).map fun j =>
      (d.baddr + r * d.bstr + 2 * j * fmtBits d.fb, 2 * fmtBits d.fb)
    else rowRanges d.baddr d.brows d.bstr (rowBytes d.fb (d.cx * d.bstored))
  planes ++ a ++ b ++ d.cRanges

/-- A real operation that ends at once: the array's gap begins again. -/
def State.arrayPulse (s : State) (l : Path) : State :=
  s.arrays l fun a => (a.arrive s.island).gap s.island

/-- The work of an array command other than UNDERLAY (R99 to R105, R119). -/
def State.arrayWork (s : State) (l : Path) (c : Command) (d : ArrCmd) : State :=
  let rd := s.lsByte l
  match s.checkLS l (d.reads rd) with
  | (s1, false) => s1
  | (s1, true) =>
    match d.badNibble rd with
    | some (t, a) => ((s1.arrayPulse l).partialD l d t).failCmd l c 0x8306 (toLE a 4)
    | none =>
      let seed := (s.seedStep l).1
      let step := (s.seedStep l).2
      let rows := (List.range d.m).map (d.rowOut rd seed step)
      let s2 := (s1.arrays l (ArrayLevel.arrive s.island)).writeD l d rows
      ((s2.countSkips l d rd).sampled l c (d.candidates rd seed step)).finish l c

/-- UNDERLAY (R112): the level rises and is held; the command completes when its duration has passed. -/
def State.underlay (s : State) (l : Path) (n : Nat) : State :=
  s.arrays l fun a => { a.arrive s.island with holdUntil := some (s.island + 1000 * n) }

/-- An array command after dispatch (R110). -/
def State.arrayCmd (s : State) (l : Path) (c : Command) : State :=
  let d := arrCmd c
  match d.fault (s.panelWidth l) (s.span l) with
  | some code => s.failCmd l c code []
  | none => if d.op = 7 then s.underlay l d.n else s.arrayWork l c d

/-- OP of a queued array command. -/
def Command.arrOp (c : Command) : Nat := bits (c.body.getD 0 0) 28 4

/-- An UNDERLAY holds the array, and commands behind it wait (R112). -/
def Tile.underlayRuns (x : Tile) : Bool := x.flights.any fun f => f.cmd.unit = 0 && !f.finished && f.cmd.arrOp = 7

/-- The first array command of a tile, if its OP is the row's and the array is free. -/
def State.arrayRow (s : State) (t : Path) (isOp : Nat → Bool) : Out :=
  s.dispatch t 0 (fun c => isOp c.arrOp && !(s.tile (s.lead t)).underlayRuns) State.arrayCmd

/-- MMA (R91, R99). A command whose OP is reserved is dispatched by this row too, and raises ARRAY_BODY. -/
def execMma (t : Path) (s : State) : Out := s.arrayRow t fun op => op = 0 || 7 < op
/-- L1 (R102). -/
def execL1 (t : Path) (s : State) : Out := s.arrayRow t fun op => op = 1
/-- MINPLUS (R102). -/
def execMinplus (t : Path) (s : State) : Out := s.arrayRow t fun op => op = 2
/-- MAXPLUS (R102). -/
def execMaxplus (t : Path) (s : State) : Out := s.arrayRow t fun op => op = 3
/-- TOPK (R103). -/
def execTopk (t : Path) (s : State) : Out := s.arrayRow t fun op => op = 4
/-- FP32X3 (R104). -/
def execFp32x3 (t : Path) (s : State) : Out := s.arrayRow t fun op => op = 5
/-- CPLX3 (R105). -/
def execCplx3 (t : Path) (s : State) : Out := s.arrayRow t fun op => op = 6
/-- UNDERLAY (R112). -/
def execUnderlay (t : Path) (s : State) : Out := s.arrayRow t fun op => op = 7

/-- UNDERLAY_STEP_DOWN (R111, R113): 2.5 µs more of gap beyond the hold time. -/
def execUnderlayStepDown (t : Path) (s : State) : Out :=
  guardUnit (validPath t)
    (let a := (s.tile t).arr
     if !a.rising && 0 < a.level && a.since + s.pwr.holdTime.toNat + 2500 * (a.gapLevel - a.level + 1) ≤ s.island then
       s.modTile t fun x => { x with arr := { x.arr with level := x.arr.level - 1 } }
     else s)

/-- UNDERLAY_STEP_UP (R111): 2.5 µs more of the rising rule. -/
def execUnderlayStepUp (t : Path) (s : State) : Out :=
  guardUnit (validPath t)
    (let a := (s.tile t).arr
     if a.rising && a.level < 8 && a.since + 2500 ≤ s.island then
       s.modTile t fun x => { x with arr := { x.arr with level := x.arr.level + 1, since := s.island } }
     else s)

end Sys2Proof.Machine
end

