-- ==== Sys2Proof/Machine/Vector.lean ====
section
/-! DEFINITION. The vector engine (R135 to R147, R153 to R156): VEC instructions from issue to their effect on every member of
the panel. -/

namespace Sys2Proof.Machine

/-! ### Vector state -/

/-- Lane i of vector register r (R135). -/
def Tile.lane (x : Tile) (r i : Nat) : Nat := (mapGet 0 x.vregs (32 * r + i)).toNat

/-- Lanes of a register written where they are given. -/
def Tile.setLanes (x : Tile) (r : Nat) (ws : List (Nat × Nat)) : Tile :=
  { x with vregs := ws.foldl (fun m e => mapSet 0 m (32 * r + e.1) (word e.2)) x.vregs }

/-- A mask register; m0 reads as all ones (R135). -/
def Tile.mask (x : Tile) (k : Nat) : Word := if k = 0 then 0xFFFFFFFF else mapGet 0 x.masks k

/-- A mask register written; a write to m0 is discarded (R135). -/
def Tile.setMask (x : Tile) (k : Nat) (w : Word) : Tile :=
  if k = 0 then x else { x with masks := mapSet 0 x.masks k w }

/-- The active lanes under a mask (R140). -/
def activeLanes (m : Word) : List Nat := numbers 32 fun i => bit m i

/-- A word with the bits of the lanes for which a test holds. -/
def maskOf (f : Nat → Bool) : Word := word (((List.range 32).map fun i => if f i then 2 ^ i else 0).sum)

/-! ### Lane arithmetic (R138, R139, R141) -/

/-- A floating-point operation on patterns of a format: inputs flushed, one rounding, the result flushed. -/
def floatOp (f : Fmt) (mode : Word) (op : Num → Num → Num → Num) (a b d : Nat) : Nat :=
  let x (w : Nat) := f.decode (f.flush (modeFtz mode) w)
  f.flush (modeFtz mode) (f.encode (modeRnd mode) (op (x a) (x b) (x d)))

/-- The operation of VOP bits 2:0 on exact values: add, subtract, multiply, fused multiply-add, minimum, maximum. -/
def numOp (rnd k : Nat) (a b d : Num) : Num :=
  match k with
  | 0 => a.add rnd b
  | 1 => a.add rnd b.neg
  | 2 => a.mul b
  | 3 => (a.mul b).add rnd d
  | 4 => a.minOf b
  | _ => a.maxOf b

/-- A .F operation. -/
def laneF (mode : Word) (k a b d : Nat) : Nat := floatOp fp32 mode (numOp (modeRnd mode) k) a b d

/-- A .H operation: each half on its own. -/
def laneH (mode : Word) (k a b d : Nat) : Nat :=
  let h := floatOp bf16 mode (numOp (modeRnd mode) k)
  h (a % 65536) (b % 65536) (d % 65536) + 65536 * h (a / 65536) (b / 65536) (d / 65536)

/-- An exact integer result wrapped, or saturated under MODE.SAT (R139). -/
def intResult (mode : Word) (x : Int) : Nat := if modeSat mode then clamp32 x else (x % 2 ^ 32).toNat

/-- A .I operation: add, subtract, multiply, signed minimum, signed maximum. -/
def laneI (mode : Word) (k a b : Nat) : Nat :=
  let x := signed 32 a
  let y := signed 32 b
  match k with
  | 0 => intResult mode (x + y)
  | 1 => intResult mode (x - y)
  | 2 => intResult mode (x * y)
  | 3 => if y < x then b else a
  | _ => if x < y then b else a

/-- A bit operation or shift: and, or, exclusive or, left, right logical, right arithmetic. -/
def laneBits (k a b : Nat) : Nat :=
  let x := word a
  let y := word b
  (match k with
    | 0 => x &&& y
    | 1 => x ||| y
    | 2 => x ^^^ y
    | 3 => x <<< (b % 32)
    | 4 => x >>> (b % 32)
    | _ => x.sshiftRight (b % 32)).toNat

/-- A comparison: less, less or equal, equal on fp32; signed less, equal on integers. -/
def laneCompare (vop : Nat) (mode : Word) (a b : Nat) : Bool :=
  let x := f32 (fp32.flush (modeFtz mode) a)
  let y := f32 (fp32.flush (modeFtz mode) b)
  match vop with
  | 0x06 => x.lt y
  | 0x07 => x.lt y || x.eq y
  | 0x08 => x.eq y
  | 0x1D => signed 32 a < signed 32 b
  | _ => a = b

/-- VCLASS.F: the class of a pattern, whatever FTZ says (R138). -/
def laneClass (sel a : Nat) : Bool :=
  let ex := a / 2 ^ 23 % 256
  let man := a % 2 ^ 23
  match sel with
  | 0 => ex = 255 && man ≠ 0
  | 1 => ex = 255 && man = 0
  | 2 => ex = 0 && man = 0
  | _ => ex = 0 && man ≠ 0

/-- VCVT.FI: rounded by RND, saturating; NaN gives 0. -/
def cvtFi (mode : Word) (a : Nat) : Nat :=
  match f32 (fp32.flush (modeFtz mode) a) with
  | .nan => 0
  | .inf neg => if neg then 2 ^ 31 else 2 ^ 31 - 1
  | .fin neg m e => clamp32 (Num.toInt (modeRnd mode) neg m e)

/-- VCVT.IF: rounded by RND. -/
def cvtIf (mode : Word) (a : Nat) : Nat :=
  let x := signed 32 a
  fp32.encode (modeRnd mode) (.fin (x < 0) x.natAbs 0)

/-- A narrowing of an fp32 pattern: by RND, or stochastically with the bits given; FTZ on both sides (R138, R144, R206). -/
def narrow (f : Fmt) (mode : Word) (rnd a : Nat) : Nat :=
  let x := f32 (fp32.flush (modeFtz mode) a)
  f.flush (modeFtz mode) (if modeSr mode then f.sr rnd x else f.encode (modeRnd mode) x)

/-- A widening of a pattern to fp32, exact; FTZ acts on its input. -/
def widen (f : Fmt) (mode : Word) (a : Nat) : Nat := fp32.encode 0 (f.decode (f.flush (modeFtz mode) a))

/-- The FP8 format MODE.NARROW names: E4M3 or E5M2. -/
def narrowFmt (mode : Word) : Fmt := if modeNarrow mode = 0 then e4m3 else e5m2

/-! ### Reductions (R153, R154) -/

/-- The fold of 32 values to one: five levels of pairs. -/
def treeFold (op : Nat → Nat → Nat) : Nat → List Nat → Nat
  | 0, xs => xs.getD 0 0
  | n + 1, xs => treeFold op n ((List.range (2 ^ n)).map fun i => op (xs.getD (2 * i) 0) (xs.getD (2 * i + 1) 0))

/-- The operation and identity of a reduction: 0 sum, 1 maximum, 2 minimum. -/
def redOp (k : Nat) : (Nat → Nat → Nat) × Nat :=
  match k with
  | 0 => (add32, 0)
  | 1 => (max32, 0xFF800000)
  | _ => (min32, 0x7F800000)

/-- The reduction of one chunk of 32, from the identity. -/
def reduceChunk (k : Nat) (xs : List Nat) : Nat := (redOp k).1 (redOp k).2 (treeFold (redOp k).1 5 xs)

/-- VRAMX.F of the active lanes, given with their numbers: the maximum, and the lowest lane holding that exact value; the lowest NaN
lane where there is one; -∞ and -1 where no lane is active. -/
def ramx (xs : List (Nat × Nat)) : Nat × Nat :=
  match xs.find? fun e => (f32 e.2).isNan with
  | some e => (nan32, e.1)
  | none =>
    match xs with
    | [] => (0xFF800000, 0xFFFFFFFF)
    | _ =>
      let mx := (xs.map (·.2)).foldl max32 0xFF800000
      (mx, ((xs.find? fun e => e.2 = mx).map (·.1)).getD 0)

/-! ### One instruction on one member -/

/-- What a VEC instruction needs besides the registers: the word's fields, the scalars read at issue, mode, and the draw of
random bits at a position (R144). -/
structure VecCtx where
  vop : Nat
  vd : Nat
  va : Nat
  vb : Nat
  m : Nat
  sa : Word
  sb : Word
  mode : Word
  member : Nat
  rnd : Nat → Nat

/-- The value of an active lane for the instructions that work lane by lane; none for the others. -/
def VecCtx.laneValue (c : VecCtx) (x : Tile) (i : Nat) : Option Nat :=
  let a := x.lane c.va i
  let b := x.lane c.vb i
  let d := x.lane c.vd i
  if c.vop ≤ 0x05 then some (laneF c.mode c.vop a b d)
  else if 0x10 ≤ c.vop ∧ c.vop ≤ 0x15 then some (laneH c.mode (c.vop - 0x10) a b d)
  else if 0x18 ≤ c.vop ∧ c.vop ≤ 0x1C then some (laneI c.mode (c.vop - 0x18) a b)
  else if 0x20 ≤ c.vop ∧ c.vop ≤ 0x25 then some (laneBits (c.vop - 0x20) a b)
  else match c.vop with
    | 0x27 => some c.sa.toNat
    | 0x28 => some (32 * c.member + i)
    | 0x30 => some (cvtFi c.mode a)
    | 0x31 => some (cvtIf c.mode a)
    | 0x32 => some (narrow bf16 c.mode (c.rnd (2 * i)) a + 65536 * narrow bf16 c.mode (c.rnd (2 * i + 1)) b)
    | 0x33 => some (widen bf16 c.mode (if c.vb % 2 = 0 then a % 65536 else a / 65536))
    | 0x35 => some (widen (narrowFmt c.mode) c.mode (x.lane c.va (8 * (c.vb % 4) + i / 4) / 256 ^ (i % 4) % 256))
    | _ => none

/-- A byte of a lane replaced. -/
def laneByte (w i b : Nat) : Nat := w - (w / 256 ^ i % 256) * 256 ^ i + b * 256 ^ i

/-- VCVT.FN: the bytes of the active lanes into lanes 8Q to 8Q + 7 of vd. -/
def VecCtx.narrowBytes (c : VecCtx) (x : Tile) : List (Nat × Nat) :=
  (List.range 8).map fun j =>
    let lane := 8 * (c.vb % 4) + j
    (lane, (List.range 4).foldl (fun w k =>
      let i := 4 * j + k
      if bit (x.mask c.m) i then laneByte w k (narrow (narrowFmt c.mode) c.mode (c.rnd i) (x.lane c.va i)) else w)
      (x.lane c.vd lane))

/-- The effect of an instruction that touches no memory on one member. -/
def VecCtx.effect (c : VecCtx) (x : Tile) : Tile :=
  let act := activeLanes (x.mask c.m)
  let vals := act.map fun i => (i, x.lane c.va i)
  let filled (id : Nat) := (List.range 32).map fun i => if bit (x.mask c.m) i then x.lane c.va i else id
  if (0x06 ≤ c.vop ∧ c.vop ≤ 0x08) ∨ c.vop = 0x1D ∨ c.vop = 0x1E then
    x.setMask c.vd (maskOf fun i => bit (x.mask c.m) i && laneCompare c.vop c.mode (x.lane c.va i) (x.lane c.vb i))
  else match c.vop with
    | 0x09 => x.setMask c.vd (maskOf fun i => bit (x.mask c.m) i && laneClass (c.vb % 4) (x.lane c.va i))
    | 0x26 => x.setLanes c.vd ((List.range 32).map fun i =>
        (i, if bit (x.mask c.m) i then x.lane c.va i else x.lane c.vb i))
    | 0x29 => x.setMask c.vd (x.mask c.va &&& x.mask c.vb)
    | 0x2A => x.setMask c.vd (x.mask c.va ||| x.mask c.vb)
    | 0x2B => x.setMask c.vd (x.mask c.va ^^^ x.mask c.vb)
    | 0x2C => x.setMask c.vd (~~~(x.mask c.va))
    | 0x2D => { x with vsrb := BitVec.ofNat 48 (c.sb.toNat % 65536 * 2 ^ 32 + c.sa.toNat) }
    | 0x34 => x.setLanes c.vd (c.narrowBytes x)
    | 0x3C => x.setLanes c.vd ((List.range 32).map fun i => (i, reduceChunk 0 (filled 0)))
    | 0x3D => x.setLanes c.vd ((List.range 32).map fun i => (i, reduceChunk 1 (filled 0xFF800000)))
    | 0x3E => x.setLanes c.vd ((List.range 32).map fun i => (i, reduceChunk 2 (filled 0x7F800000)))
    | 0x3F =>
      let (mx, at') := ramx (vals.map fun e => (32 * c.member + e.1, e.2))
      x.setLanes c.vd ((List.range 32).map fun i => (i, if i = 0 then mx else if i = 1 then at' else 0))
    | _ => x.setLanes c.vd (act.filterMap fun i => (c.laneValue x i).map fun v => (i, v))

/-! ### Memory instructions (R136, R145) -/

/-- The address of a lane's word on a member: VLD and VST run on from s[va] + 128 × vb; VLDX and VSTX add the lane's offset. -/
def VecCtx.laneAddr (c : VecCtx) (x : Tile) (i : Nat) : Nat :=
  c.member * 0x200000 +
    (if c.vop ≤ 0x39 then (c.sa + word (128 * c.vb)).toNat + 4 * i else (c.sa + word (x.lane c.vb i)).toNat)

/-- The vector fault of a memory instruction on one member, and the address it names: alignment, then range; of a gather or scatter
the lowest active lane that fails (R155). -/
def VecCtx.memFault (c : VecCtx) (x : Tile) (span : Nat) : Option (Nat × Nat) :=
  let act := activeLanes (x.mask c.m)
  if c.vop ≤ 0x39 then
    let a := c.laneAddr x 0
    if a % 16 ≠ 0 then some (0x8311, a) else if span < a + 128 then some (0x8310, a) else none
  else
    (act.find? fun i => c.laneAddr x i % 4 ≠ 0 || span < c.laneAddr x i + 4).map fun i =>
      (if c.laneAddr x i % 4 ≠ 0 then 0x8311 else 0x8310, c.laneAddr x i)

/-- The words of the active lanes read; none after a double error. -/
def State.vecLoad (s : State) (l : Path) (c : VecCtx) (x : Tile) : State × Option (List (Nat × Nat)) :=
  (activeLanes (x.mask c.m)).foldl (fun (acc : State × Option (List (Nat × Nat))) i =>
    match acc.2 with
    | none => acc
    | some ws =>
      match acc.1.readLS l (c.laneAddr x i) 4 with
      | (s', none) => (s', none)
      | (s', some bs) => (s', some (ws ++ [(i, leNat bs)]))) (s, some [])

/-- The active lanes of vd stored, in ascending order, so that the higher lane of two that name one word stays. -/
def State.vecStore (s : State) (l : Path) (c : VecCtx) (x : Tile) : State :=
  s.each (activeLanes (x.mask c.m)) fun a i => (a.writeLS l (c.laneAddr x i) (toLE (x.lane c.vd i) 4)).1

/-- A load or store of one member: nothing is loaded after a double error. -/
def State.vecMove (s : State) (l : Path) (c : VecCtx) (t : Path) : State :=
  if c.vop = 0x38 ∨ c.vop = 0x3A then
    match s.vecLoad l c (s.tile t) with
    | (s', none) => s'
    | (s', some ws) => s'.modTile t fun x => x.setLanes c.vd ws
  else s.vecStore l c (s.tile t)

/-! ### One instruction on a panel -/

/-- The context of an instruction on member j: the random bits follow VSRB + j × V + position (R144). -/
def State.vecCtx (s : State) (l : Path) (w sa sb step mode : Word) (j : Nat) : VecCtx :=
  let vop := bits w 21 6
  let seed := match s.partOf l with
    | some p => (s.part p).seed
    | none => 0
  let vsrb := (s.tile (memberAt l j)).vsrb.toNat
  let v := if vop = 0x32 then 64 else 32
  { vop := vop, vd := bits w 16 5, va := bits w 11 5, vb := bits w 6 5, m := bits w 3 3, sa := sa, sb := sb, mode := mode,
    member := j, rnd := fun pos => srBits seed step (vsrb + j * v + pos) }

/-- A vector fault (R155): the engine of the panel stops, everything queued for it is discarded, the partition is stopped. -/
def State.vecFault (s : State) (l : Path) (j code : Nat) (w pc : Word) (addr : Nat) : State :=
  let s1 := s.each (s.members l) fun a t => a.modTile t fun x => { x with vecStopped := true }
  let s2 := s1.modTile l fun x => { x with cmdQ := x.cmdQ.filter fun c => c.unit.toNat ≠ 1 }
  s2.raiseTile (memberAt l j) code none (toLE w.toNat 4 ++ toLE pc.toNat 4 ++ toLE addr 4)

/-- The stream index after a stochastic conversion: VSRB of every member advances by w × V (R144). -/
def State.vecAdvance (s : State) (l : Path) (vop : Nat) (mode : Word) : State :=
  if (vop = 0x32 ∨ vop = 0x34) ∧ modeSr mode = true then
    let n := s.panelWidth l * (if vop = 0x32 then 64 else 32)
    s.each (s.members l) fun a t => a.modTile t fun x => { x with vsrb := x.vsrb + BitVec.ofNat 48 n }
  else s

/-- A VEC instruction's effect on every member of the panel, without its completion (R136). -/
def State.vecEffect (s : State) (l : Path) (w sa sb pc step mode : Word) : State :=
  let n := s.panelWidth l
  let ctx := s.vecCtx l w sa sb step mode
  let vop := bits w 21 6
  if (vop = 0x34 ∨ vop = 0x35) ∧ modeNarrow mode = 2 then s.vecFault l 0 0x8312 w pc 0
  else if 0x38 ≤ vop ∧ vop ≤ 0x3B then
    let faults := (List.range n).filterMap fun j =>
      ((ctx j).memFault (s.tile (memberAt l j)) (s.span l)).map fun f => (j, f.1, f.2)
    match faults with
    | (j, code, a) :: _ => s.vecFault l j code w pc a
    | [] =>
      s.each (List.range n) fun a j => a.vecMove l (ctx j) (memberAt l j)
  else if vop = 0x2E then s.modTile l fun x => x.addTicket (bits w 16 4) 1
  else (s.each (List.range n) fun a j => a.modTile (memberAt l j) (ctx j).effect).vecAdvance l vop mode

/-- The elements a VEC reduction folds, over the panel. -/
def State.vecReduced (s : State) (l : Path) (w : Word) : Nat :=
  if 0x3C ≤ bits w 21 6 then
    ((s.members l).map fun t => (activeLanes ((s.tile t).mask (bits w 3 3))).length).sum
  else 0

/-- A VEC instruction executed and counted (R156); a faulting one is not. -/
def State.runVec (s : State) (l : Path) (w sa sb pc step mode : Word) : State :=
  let s1 := s.vecEffect l w sa sb pc step mode
  if (s1.tile l).vecStopped || s1.fatal then s1
  else
    ((s1.countPart (s.partOf l) 0x2150 2 1).countPart (s.partOf l) 0x2150 5 (s.vecReduced l w)).tilePacket l 3 0

/-- A VSIG waits for every vector block operation issued earlier to complete (R146). -/
def Tile.vecBlocked (x : Tile) (w : Word) : Bool :=
  bits w 21 6 = 0x2E && x.flights.any fun f => f.cmd.unit.toNat = 1

/-- The vector engine takes the VEC instructions at the head of its stream, in issue order (R143); a stopped engine discards what
reaches it (R155). `fuel` bounds their number. -/
def State.drainVec (s : State) (l : Path) : Nat → State
  | 0 => s
  | fuel + 1 =>
    match (s.tile l).headOf 1 with
    | none => s
    | some c =>
      match c.work with
      | .desc _ => s
      | .vec w sa sb pc step =>
        if !s.unitsRun l then s
        else if (s.tile l).vecStopped then (s.modTile l fun x => x.unqueue c.id).drainVec l fuel
        else if (s.tile l).vecBlocked w then s
        else (((s.modTile l fun x => x.unqueue c.id).tilePacket l 2 0).runVec l w sa sb pc step c.mode).drainVec l fuel

/-- The vector engine of a tile takes all it can. -/
def State.vecRun (s : State) (l : Path) : State := s.drainVec l (s.tile l).cmdQ.length

/-- The command of a VEC instruction: the sequencer registers it names and the partition step are read at issue (R142, R205). -/
def State.vecCommand (s : State) (l : Path) (w : Word) : Command :=
  let x := s.tile l
  let step := match s.partOf l with
    | some p => (s.part p).step
    | none => 0
  { id := 0, unit := 1, w0 := 0, waitV := 0, mode := x.mode, stag := 0,
    work := .vec w (x.reg (BitVec.ofNat 5 (bits w 11 5))) (x.reg (BitVec.ofNat 5 (bits w 6 5))) x.pc step }

/-- A VEC instruction: its fields are checked before its place (R505), it stalls while the command queue is full, and it enters the
queue (R46, R67, R140, R141). -/
def State.vecInsn (s : State) (t : Path) (vop : Nat) (v : Bool) (vd va vb : Reg) (m : BitVec 3) : Out :=
  let w := encVec vop v vd va vb m
  s.fetchedWord t w fun s l =>
    if !vecOk w then s.illegal l w
    else if (s.tile l).misplaced false then s.raiseExc l 2 none 0 w
    else if !(s.tile l).hasRoom 1 then s
    else (((s.retire l fun x => x.enqueue (s.vecCommand l w)).wake (clusterOf l))).vecRun l

/-! ### The instructions (R141) -/

/-- VADD.F (R141). Vector fp32 add on active lanes. -/
def execVaddF (t : Path) (v : Bool) (vd va vb : Reg) (m : BitVec 3) (s : State) : Out :=
  s.vecInsn t 0x00 v vd va vb m
/-- VSUB.F (R141). Vector fp32 subtract on active lanes. -/
def execVsubF (t : Path) (v : Bool) (vd va vb : Reg) (m : BitVec 3) (s : State) : Out :=
  s.vecInsn t 0x01 v vd va vb m
/-- VMUL.F (R141). Vector fp32 multiply on active lanes. -/
def execVmulF (t : Path) (v : Bool) (vd va vb : Reg) (m : BitVec 3) (s : State) : Out :=
  s.vecInsn t 0x02 v vd va vb m
/-- VFMA.F (R141). Vector fp32 fused multiply-add on active lanes. -/
def execVfmaF (t : Path) (v : Bool) (vd va vb : Reg) (m : BitVec 3) (s : State) : Out :=
  s.vecInsn t 0x03 v vd va vb m
/-- VMIN.F (R141). Vector fp32 minimum on active lanes. -/
def execVminF (t : Path) (v : Bool) (vd va vb : Reg) (m : BitVec 3) (s : State) : Out :=
  s.vecInsn t 0x04 v vd va vb m
/-- VMAX.F (R141). Vector fp32 maximum on active lanes. -/
def execVmaxF (t : Path) (v : Bool) (vd va vb : Reg) (m : BitVec 3) (s : State) : Out :=
  s.vecInsn t 0x05 v vd va vb m
/-- VCLT.F (R141). Vector fp32 less-than comparison into a mask. -/
def execVcltF (t : Path) (v : Bool) (vd va vb : Reg) (m : BitVec 3) (s : State) : Out :=
  s.vecInsn t 0x06 v vd va vb m
/-- VCLE.F (R141). Vector fp32 less-or-equal comparison into a mask. -/
def execVcleF (t : Path) (v : Bool) (vd va vb : Reg) (m : BitVec 3) (s : State) : Out :=
  s.vecInsn t 0x07 v vd va vb m
/-- VCEQ.F (R141). Vector fp32 equality comparison into a mask. -/
def execVceqF (t : Path) (v : Bool) (vd va vb : Reg) (m : BitVec 3) (s : State) : Out :=
  s.vecInsn t 0x08 v vd va vb m
/-- VCLASS.F (R141). Vector classification of fp32 values into a mask. -/
def execVclassF (t : Path) (v : Bool) (vd va vb : Reg) (m : BitVec 3) (s : State) : Out :=
  s.vecInsn t 0x09 v vd va vb m
/-- VADD.H (R141). Vector bf16-pair add. -/
def execVaddH (t : Path) (v : Bool) (vd va vb : Reg) (m : BitVec 3) (s : State) : Out :=
  s.vecInsn t 0x10 v vd va vb m
/-- VSUB.H (R141). Vector bf16-pair subtract. -/
def execVsubH (t : Path) (v : Bool) (vd va vb : Reg) (m : BitVec 3) (s : State) : Out :=
  s.vecInsn t 0x11 v vd va vb m
/-- VMUL.H (R141). Vector bf16-pair multiply. -/
def execVmulH (t : Path) (v : Bool) (vd va vb : Reg) (m : BitVec 3) (s : State) : Out :=
  s.vecInsn t 0x12 v vd va vb m
/-- VFMA.H (R141). Vector bf16-pair fused multiply-add. -/
def execVfmaH (t : Path) (v : Bool) (vd va vb : Reg) (m : BitVec 3) (s : State) : Out :=
  s.vecInsn t 0x13 v vd va vb m
/-- VMIN.H (R141). Vector bf16-pair minimum. -/
def execVminH (t : Path) (v : Bool) (vd va vb : Reg) (m : BitVec 3) (s : State) : Out :=
  s.vecInsn t 0x14 v vd va vb m
/-- VMAX.H (R141). Vector bf16-pair maximum. -/
def execVmaxH (t : Path) (v : Bool) (vd va vb : Reg) (m : BitVec 3) (s : State) : Out :=
  s.vecInsn t 0x15 v vd va vb m
/-- VADD.I (R139). Vector integer add, wrapping or saturating by MODE.SAT. -/
def execVaddI (t : Path) (v : Bool) (vd va vb : Reg) (m : BitVec 3) (s : State) : Out :=
  s.vecInsn t 0x18 v vd va vb m
/-- VSUB.I (R139). Vector integer subtract, wrapping or saturating by MODE.SAT. -/
def execVsubI (t : Path) (v : Bool) (vd va vb : Reg) (m : BitVec 3) (s : State) : Out :=
  s.vecInsn t 0x19 v vd va vb m
/-- VMUL.I (R139). Vector integer multiply, wrapping or saturating by MODE.SAT. -/
def execVmulI (t : Path) (v : Bool) (vd va vb : Reg) (m : BitVec 3) (s : State) : Out :=
  s.vecInsn t 0x1A v vd va vb m
/-- VMIN.I (R141). Vector signed integer minimum. -/
def execVminI (t : Path) (v : Bool) (vd va vb : Reg) (m : BitVec 3) (s : State) : Out :=
  s.vecInsn t 0x1B v vd va vb m
/-- VMAX.I (R141). Vector signed integer maximum. -/
def execVmaxI (t : Path) (v : Bool) (vd va vb : Reg) (m : BitVec 3) (s : State) : Out :=
  s.vecInsn t 0x1C v vd va vb m
/-- VCLT.I (R141). Vector signed integer less-than into a mask. -/
def execVcltI (t : Path) (v : Bool) (vd va vb : Reg) (m : BitVec 3) (s : State) : Out :=
  s.vecInsn t 0x1D v vd va vb m
/-- VCEQ.I (R141). Vector integer equality into a mask. -/
def execVceqI (t : Path) (v : Bool) (vd va vb : Reg) (m : BitVec 3) (s : State) : Out :=
  s.vecInsn t 0x1E v vd va vb m
/-- VAND (R141). Vector bitwise and. -/
def execVand (t : Path) (v : Bool) (vd va vb : Reg) (m : BitVec 3) (s : State) : Out :=
  s.vecInsn t 0x20 v vd va vb m
/-- VOR (R141). Vector bitwise or. -/
def execVor (t : Path) (v : Bool) (vd va vb : Reg) (m : BitVec 3) (s : State) : Out :=
  s.vecInsn t 0x21 v vd va vb m
/-- VXOR (R141). Vector bitwise exclusive or. -/
def execVxor (t : Path) (v : Bool) (vd va vb : Reg) (m : BitVec 3) (s : State) : Out :=
  s.vecInsn t 0x22 v vd va vb m
/-- VSLL (R141). Vector logical shift left. -/
def execVsll (t : Path) (v : Bool) (vd va vb : Reg) (m : BitVec 3) (s : State) : Out :=
  s.vecInsn t 0x23 v vd va vb m
/-- VSRL (R141). Vector logical shift right. -/
def execVsrl (t : Path) (v : Bool) (vd va vb : Reg) (m : BitVec 3) (s : State) : Out :=
  s.vecInsn t 0x24 v vd va vb m
/-- VSRA (R141). Vector arithmetic shift right. -/
def execVsra (t : Path) (v : Bool) (vd va vb : Reg) (m : BitVec 3) (s : State) : Out :=
  s.vecInsn t 0x25 v vd va vb m
/-- VSEL (R141). Vector select between va and vb under a mask. -/
def execVsel (t : Path) (v : Bool) (vd va vb : Reg) (m : BitVec 3) (s : State) : Out :=
  s.vecInsn t 0x26 v vd va vb m
/-- VSPLAT (R141). Vector broadcast of a sequencer register to all active lanes. -/
def execVsplat (t : Path) (v : Bool) (vd va vb : Reg) (m : BitVec 3) (s : State) : Out :=
  s.vecInsn t 0x27 v vd va vb m
/-- VLANE (R141). Vector write of each lane's number. -/
def execVlane (t : Path) (v : Bool) (vd va vb : Reg) (m : BitVec 3) (s : State) : Out :=
  s.vecInsn t 0x28 v vd va vb m
/-- VMAND (R141). Mask and. -/
def execVmand (t : Path) (v : Bool) (vd va vb : Reg) (m : BitVec 3) (s : State) : Out :=
  s.vecInsn t 0x29 v vd va vb m
/-- VMOR (R141). Mask or. -/
def execVmor (t : Path) (v : Bool) (vd va vb : Reg) (m : BitVec 3) (s : State) : Out :=
  s.vecInsn t 0x2A v vd va vb m
/-- VMXOR (R141). Mask exclusive or. -/
def execVmxor (t : Path) (v : Bool) (vd va vb : Reg) (m : BitVec 3) (s : State) : Out :=
  s.vecInsn t 0x2B v vd va vb m
/-- VMNOT (R141). Mask complement. -/
def execVmnot (t : Path) (v : Bool) (vd va vb : Reg) (m : BitVec 3) (s : State) : Out :=
  s.vecInsn t 0x2C v vd va vb m
/-- VSETSR (R141). VSETSR sets the stochastic stream index base VSRB from two registers. -/
def execVsetsr (t : Path) (v : Bool) (vd va vb : Reg) (m : BitVec 3) (s : State) : Out :=
  s.vecInsn t 0x2D v vd va vb m
/-- VSIG (R146). VSIG advances a ticket once every earlier vector operation has completed and is visible. -/
def execVsig (t : Path) (v : Bool) (vd va vb : Reg) (m : BitVec 3) (s : State) : Out :=
  s.vecInsn t 0x2E v vd va vb m
/-- VCVT.FI (R141). Vector conversion of fp32 to saturating integer. -/
def execVcvtFi (t : Path) (v : Bool) (vd va vb : Reg) (m : BitVec 3) (s : State) : Out :=
  s.vecInsn t 0x30 v vd va vb m
/-- VCVT.IF (R141). Vector conversion of integer to fp32. -/
def execVcvtIf (t : Path) (v : Bool) (vd va vb : Reg) (m : BitVec 3) (s : State) : Out :=
  s.vecInsn t 0x31 v vd va vb m
/-- VCVT.FH (R144). Vector narrowing of fp32 pairs to bf16, stochastic when MODE.SR is set. -/
def execVcvtFh (t : Path) (v : Bool) (vd va vb : Reg) (m : BitVec 3) (s : State) : Out :=
  s.vecInsn t 0x32 v vd va vb m
/-- VCVT.HF (R141). Vector exact widening of a bf16 half to fp32. -/
def execVcvtHf (t : Path) (v : Bool) (vd va vb : Reg) (m : BitVec 3) (s : State) : Out :=
  s.vecInsn t 0x33 v vd va vb m
/-- VCVT.FN (R144). Vector narrowing of fp32 to the FP8 format of MODE.NARROW. -/
def execVcvtFn (t : Path) (v : Bool) (vd va vb : Reg) (m : BitVec 3) (s : State) : Out :=
  s.vecInsn t 0x34 v vd va vb m
/-- VCVT.NF (R141). Vector widening of FP8 values to fp32. -/
def execVcvtNf (t : Path) (v : Bool) (vd va vb : Reg) (m : BitVec 3) (s : State) : Out :=
  s.vecInsn t 0x35 v vd va vb m
/-- VLD (R145). Vector load of 128 bytes from local store. -/
def execVld (t : Path) (v : Bool) (vd va vb : Reg) (m : BitVec 3) (s : State) : Out :=
  s.vecInsn t 0x38 v vd va vb m
/-- VST (R145). Vector store of 128 bytes to local store. -/
def execVst (t : Path) (v : Bool) (vd va vb : Reg) (m : BitVec 3) (s : State) : Out :=
  s.vecInsn t 0x39 v vd va vb m
/-- VLDX (R145). Vector gather of words at per-lane offsets. -/
def execVldx (t : Path) (v : Bool) (vd va vb : Reg) (m : BitVec 3) (s : State) : Out :=
  s.vecInsn t 0x3A v vd va vb m
/-- VSTX (R145). Vector scatter of words at per-lane offsets. -/
def execVstx (t : Path) (v : Bool) (vd va vb : Reg) (m : BitVec 3) (s : State) : Out :=
  s.vecInsn t 0x3B v vd va vb m
/-- VRSUM.F (R153). Reduction-unit sum of the active lanes. -/
def execVrsumF (t : Path) (v : Bool) (vd va vb : Reg) (m : BitVec 3) (s : State) : Out :=
  s.vecInsn t 0x3C v vd va vb m
/-- VRMAX.F (R153). Reduction-unit maximum of the active lanes. -/
def execVrmaxF (t : Path) (v : Bool) (vd va vb : Reg) (m : BitVec 3) (s : State) : Out :=
  s.vecInsn t 0x3D v vd va vb m
/-- VRMIN.F (R153). Reduction-unit minimum of the active lanes. -/
def execVrminF (t : Path) (v : Bool) (vd va vb : Reg) (m : BitVec 3) (s : State) : Out :=
  s.vecInsn t 0x3E v vd va vb m
/-- VRAMX.F (R154). Reduction-unit maximum with the lowest lane holding it. -/
def execVramxF (t : Path) (v : Bool) (vd va vb : Reg) (m : BitVec 3) (s : State) : Out :=
  s.vecInsn t 0x3F v vd va vb m

end Sys2Proof.Machine
end

