-- ==== Sys2Proof/Machine/Reduce.lean ====
section
/-! DEFINITION. The reduction unit's descriptors (R152, R153), ROUTE (R124 to R129) and the vector block operations OCC and QY4
(R148 to R151). -/

namespace Sys2Proof.Machine

/-! ### Reduction descriptors -/

/-- The common fields of a reduction or block body (R148, R152). -/
structure RowCmd where
  blen : Nat
  w : List Word
  op : Nat
  fmt : Nat
  rows : Nat
  len : Nat
  src : Nat
  sstr : Nat
  dst : Nat

/-- The fields of a command's body. -/
def rowCmd (c : Command) : RowCmd :=
  let w := c.body
  let b (i : Nat) : Word := w.getD i 0
  { blen := hdrBody c.w0, w := w, op := bits (b 0) 24 8, fmt := bits (b 0) 20 4, rows := bits (b 1) 16 16,
    len := bits (b 1) 0 16, src := (b 2).toNat, sstr := 16 * bits (b 3) 16 16, dst := (b 4).toNat }

/-- Body word i. -/
def RowCmd.b (d : RowCmd) (i : Nat) : Word := d.w.getD i 0

/-- The ranges of the source, whose y4 scales lie at an address. -/
def RowCmd.srcRanges (d : RowCmd) (scl : Nat) : List (Nat × Nat) :=
  rowRanges d.src d.rows d.sstr (rowBytes d.fmt d.len) ++ (if d.fmt = 2 then [(scl, d.rows * (d.len / 16))] else [])

/-- What reduction and block descriptors share of R151: reserved bits, rows and lengths, addresses. -/
def RowCmd.commonBad (d : RowCmd) : Bool :=
  d.blen ≠ 2 || bits (d.b 0) 0 20 ≠ 0 || bits (d.b 3) 0 16 ≠ 0 || bits (d.b 2) 23 9 ≠ 0 || bits (d.b 4) 23 9 ≠ 0
    || d.rows = 0 || d.len = 0 || (d.fmt = 2 && d.len % 16 ≠ 0) || d.src % 16 ≠ 0 || d.dst % 16 ≠ 0

/-- Regions inside the span, outputs apart from the source and from each other (R151). -/
def regionsBad (span : Nat) (ins : List (Nat × Nat)) (outs : List (List (Nat × Nat))) : Bool :=
  (ins ++ outs.flatten).any (fun r => span < r.1 + r.2)
    || outs.any (fun o => meet o ins)
    || outs.zipIdx.any fun a => outs.zipIdx.any fun b => a.2 < b.2 && meet a.1 b.1

/-- RED_BODY (R151, R152). -/
def RowCmd.redBad (d : RowCmd) (span : Nat) : Bool :=
  let scl := (d.b 6).toNat
  d.commonBad || d.op = 0 || 5 < d.op || !(d.fmt ≤ 3 || d.fmt = 5 || d.fmt = 6)
    || bits (d.b 5) 8 24 ≠ 0 || (d.fmt ≠ 6 && d.b 5 ≠ 0) || bits (d.b 6) 23 9 ≠ 0 || (d.fmt ≠ 2 && scl ≠ 0)
    || scl % 16 ≠ 0 || d.b 7 ≠ 0 || regionsBad span (d.srcRanges scl) [[(d.dst, 4 * d.rows)]]

/-- An element of a source row, widened and scaled (R153, R207). -/
def RowCmd.elem (d : RowCmd) (rd : Nat → Byte) (scl : Nat) (shift : Int) (r j : Nat) : Num :=
  f32 (fp32.encode 0 ((elemNum rd d.fmt (d.src + r * d.sstr) (scl + r * (d.len / 16)) j).scale shift))

/-- An element as a reduction folds it: squared for SSQ, without its sign for AMAX (R153). -/
def redElem (op : Nat) (x : Num) : Nat :=
  match op with
  | 2 => fp32.encode 0 (x.mul x)
  | 5 => fp32.encode 0 x.abs
  | _ => fp32.encode 0 x

/-- The fold of an operation: 0 sum, 1 maximum, 2 minimum. -/
def redKind (op : Nat) : Nat :=
  match op with
  | 3 => 1
  | 5 => 1
  | 4 => 2
  | _ => 0

/-- The identity of an operation. -/
def redIdentity (op : Nat) : Nat := (redOp (redKind op)).2

/-- A fold of elements by chunks of 32 onto an accumulator (R153). -/
def redFold (op : Nat) (acc : Nat) (xs : List Num) : Nat :=
  (groupsOf 32 xs).foldl (fun a g =>
    let ws := g.map (redElem op)
    (redOp (redKind op)).1 a
      (treeFold (redOp (redKind op)).1 5 (ws ++ List.replicate (32 - ws.length) (redIdentity op)))) acc

/-- Elements lo to hi - 1 of a row. -/
def RowCmd.elems (d : RowCmd) (rd : Nat → Byte) (scl : Nat) (shift : Int) (r lo hi : Nat) : List Num :=
  (List.range (hi - lo)).map fun i => d.elem rd scl shift r (lo + i)

/-- The candidates of a reduction (R355): one row, 4,096 elements. -/
def RowCmd.redCandidates (d : RowCmd) (rd : Nat → Byte) (scl : Nat) (shift : Int) : List Capture :=
  (List.range d.rows).flatMap fun r => (List.range ((d.len + 4095) / 4096)).map fun sp =>
    let lo := 4096 * sp
    let hi := min d.len (lo + 4096)
    let before := redFold d.op (redIdentity d.op) (d.elems rd scl shift r 0 lo)
    let after := redFold d.op before (d.elems rd scl shift r lo hi)
    { kind := 3, row := r, span := sp, op := d.op, last := hi = d.len, start := [word before],
      terms := [d.elems rd scl shift r lo hi], ends := [word after], written := if hi = d.len then [after] else [],
      bytes := rowBytes d.fmt (hi - lo) + (if d.fmt = 2 then (hi - lo) / 16 else 0) + 12 }

/-- A reduction descriptor after dispatch (R153). -/
def State.redCmd (s : State) (l : Path) (c : Command) : State :=
  let d := rowCmd c
  if d.redBad (s.span l) then s.failCmd l c 0x8314 []
  else
    let rd := s.lsByte l
    let scl := (d.b 6).toNat
    let shift : Int := if d.fmt = 6 then -(signed 8 (bits (d.b 5) 0 8)) else 0
    match s.checkLS l (d.srcRanges scl) with
    | (s1, false) => s1
    | (s1, true) =>
      let out := (List.range d.rows).flatMap fun r =>
        toLE (redFold d.op (redIdentity d.op) (d.elems rd scl shift r 0 d.len)) 4
      let s2 := (s1.writeLS l d.dst out).1.countPart (s.partOf l) 0x2150 5 (d.rows * d.len)
      (s2.sampled l c (d.redCandidates rd scl shift)).finish l c

/-- ROP of a queued reduction-unit command. -/
def Command.rop (c : Command) : Nat := bits (c.body.getD 0 0) 24 8

/-- A reduction-unit command read as a ROUTE (R125, R128): ROP 0x80, or a reserved ROP with the body of a ROUTE. -/
def Command.isRoute (c : Command) : Bool := c.rop = 0x80 || ((c.rop = 0 || 5 < c.rop) && hdrBody c.w0 = 3)

/-- RED_SUM (R152, R153). A command whose ROP is reserved and whose body is no ROUTE's is dispatched by this row too, and raises
RED_BODY. -/
def execRedSum (t : Path) (s : State) : Out :=
  s.dispatch t 2 (fun c => (c.rop ≤ 1 || 5 < c.rop) && !c.isRoute) State.redCmd
/-- RED_SSQ (R152, R153). -/
def execRedSsq (t : Path) (s : State) : Out := s.dispatch t 2 (fun c => c.rop = 2) State.redCmd
/-- RED_MAX (R152, R153). -/
def execRedMax (t : Path) (s : State) : Out := s.dispatch t 2 (fun c => c.rop = 3) State.redCmd
/-- RED_MIN (R152, R153). -/
def execRedMin (t : Path) (s : State) : Out := s.dispatch t 2 (fun c => c.rop = 4) State.redCmd
/-- RED_AMAX (R152, R153). -/
def execRedAmax (t : Path) (s : State) : Out := s.dispatch t 2 (fun c => c.rop = 5) State.redCmd

/-! ### ROUTE (R125 to R129) -/

/-- The fields of a ROUTE body (R125). -/
structure RouteCmd where
  blen : Nat
  w : List Word
  order : Bool
  ksel : Nat
  t : Nat
  e : Nat
  c : Nat
  lstr : Nat
  laddr : Nat
  raddr : Nat
  rstr : Nat
  caddr : Nat
  saddr : Nat

/-- The fields of a command's body. -/
def routeCmd (c : Command) : RouteCmd :=
  let w := c.body
  let b (i : Nat) : Word := w.getD i 0
  { blen := hdrBody c.w0, w := w, order := bit (b 0) 23, ksel := bits (b 0) 0 5, t := bits (b 1) 16 16, e := bits (b 1) 0 16,
    c := bits (b 2) 16 16, lstr := 16 * bits (b 2) 0 16, laddr := (b 3).toNat, raddr := (b 4).toNat,
    rstr := 16 * bits (b 5) 16 16, caddr := (b 6).toNat, saddr := (b 7).toNat }

/-- ROUTE_BODY (R125, R128). -/
def RouteCmd.bad (d : RouteCmd) (span : Nat) : Bool :=
  let b (i : Nat) : Word := d.w.getD i 0
  d.blen ≠ 3 || bits (b 0) 24 8 ≠ 0x80 || bits (b 0) 5 18 ≠ 0 || bits (b 5) 0 16 ≠ 0 || (d.w.drop 8).any (· ≠ 0)
    || [3, 4, 6, 7].any (fun i => bits (b i) 23 9 ≠ 0)
    || d.ksel = 0 || 16 < d.ksel || d.t = 0 || d.e = 0 || 4096 < d.e || d.c = 0 || 65534 < d.c
    || d.lstr < 8 * d.ksel || d.rstr < 8 * d.ksel
    || [d.laddr, d.raddr, d.caddr, d.saddr].any (· % 16 ≠ 0)
    || regionsBad span (rowRanges d.laddr d.t d.lstr (8 * d.ksel))
      [rowRanges d.raddr d.t d.rstr (8 * d.ksel), [(d.caddr, 4 * (d.e + 1))], [(d.saddr, 4 * d.e * d.c)]]

/-- The gate and the index of a TOPK entry (R103, R124). -/
def RouteCmd.entry (d : RouteCmd) (rd : Nat → Byte) (t r : Nat) : Nat × Nat :=
  (readNat rd (d.laddr + t * d.lstr + 8 * r) 4, readNat rd (d.laddr + t * d.lstr + 8 * r + 4) 4)

/-- Tokens and ranks in list order. -/
def RouteCmd.listOrder (d : RouteCmd) : List (Nat × Nat) :=
  (List.range d.t).flatMap fun t => (List.range d.ksel).map fun r => (t, r)

/-- Tokens and ranks in priority order (R126). -/
def RouteCmd.priority (d : RouteCmd) : List (Nat × Nat) :=
  if d.order then d.listOrder
  else (List.range d.ksel).flatMap fun r => (List.range d.t).map fun t => (t, r)

/-- What ROUTE has assigned so far: slots filled, entries dropped, and for each entry its slot and expert, newest first. -/
structure Routing where
  count : SMap Nat := []
  dropped : Nat := 0
  route : List ((Nat × Nat) × Nat × Nat × Nat) := []

/-- One entry in priority order (R126). -/
def RouteCmd.assign (d : RouteCmd) (rd : Nat → Byte) (a : Routing) (tr : Nat × Nat) : Routing :=
  let (g, x) := d.entry rd tr.1 tr.2
  let n := mapGet 0 a.count x
  if x = 0xFFFFFFFF then { a with route := (tr, g, 0xFFFF, 0xFFFF) :: a.route }
  else if n < d.c then { a with count := mapSet 0 a.count x (n + 1), route := (tr, g, n, x) :: a.route }
  else { a with dropped := a.dropped + 1, route := (tr, g, 0xFFFF, x) :: a.route }

/-- The outputs of ROUTE written (R127). -/
def State.routeWrite (s : State) (l : Path) (d : RouteCmd) (a : Routing) : State :=
  let s1 := s.each a.route fun b e =>
    (b.writeLS l (d.raddr + e.1.1 * d.rstr + 8 * e.1.2) (toLE e.2.1 4 ++ toLE (e.2.2.1 * 65536 + e.2.2.2) 4)).1
  let counts := (List.range d.e).flatMap (fun e => toLE (mapGet 0 a.count e) 4) ++ toLE a.dropped 4
  let s2 := (s1.writeLS l d.caddr counts).1
  let s3 := (s2.writeLS l d.saddr (List.replicate (4 * d.e * d.c) 0xFF)).1
  s3.each (a.route.filter fun e => e.2.2.1 ≠ 0xFFFF) fun b e =>
    (b.writeLS l (d.saddr + (e.2.2.2 * d.c + e.2.2.1) * 4) (toLE (e.1.2 * 2 ^ 28 + e.1.1) 4)).1

/-- ROUTE after dispatch (R126, R128, R129). -/
def State.routeWork (s : State) (l : Path) (c : Command) : State :=
  let d := routeCmd c
  if d.bad (s.span l) then s.failCmd l c 0x8307 []
  else
    match s.checkLS l (rowRanges d.laddr d.t d.lstr (8 * d.ksel)) with
    | (s1, false) => s1
    | (s1, true) =>
      let rd := s.lsByte l
      match d.listOrder.find? fun tr => let x := (d.entry rd tr.1 tr.2).2; d.e ≤ x && x ≠ 0xFFFFFFFF with
      | some tr => s1.failCmd l c 0x8308 (toLE tr.1 4 ++ toLE tr.2 4)
      | none =>
        let a := d.priority.foldl (d.assign rd) {}
        let filled := (a.route.filter fun e => e.2.2.1 ≠ 0xFFFF).length
        let s2 := ((s1.routeWrite l d a).countPart (s.partOf l) 0x2140 5 filled).countPart (s.partOf l) 0x2140 6 a.dropped
        let s3 := if a.dropped = 0 then s2 else s2.raiseTile l 0x1301 (some c.stag) (toLE a.dropped 4)
        s3.finish l c

/-- ROUTE (R126, R128). -/
def execRoute (t : Path) (s : State) : Out := s.dispatch t 2 Command.isRoute State.routeWork

/-! ### Vector block operations (R148 to R151) -/

/-- BLOCK_BODY of OCC. -/
def RowCmd.occBad (d : RowCmd) (span : Nat) : Bool :=
  let scl := (d.b 7).toNat
  d.commonBad || d.op ≠ 1 || !(d.fmt ≤ 3 || d.fmt = 5) || d.b 5 ≠ 0 || d.b 6 ≠ 0 || bits (d.b 7) 23 9 ≠ 0
    || (d.fmt ≠ 2 && scl ≠ 0) || scl % 16 ≠ 0
    || regionsBad span (d.srcRanges scl) [[(d.dst, (d.rows * ((d.len + 63) / 64) + 7) / 8)]]

/-- DSTRIDE in bytes. -/
def RowCmd.dstr (d : RowCmd) : Nat := 16 * bits (d.b 5) 16 16
/-- DSCL. -/
def RowCmd.dscl (d : RowCmd) : Nat := (d.b 6).toNat

/-- BLOCK_BODY of QY4. -/
def RowCmd.qy4Bad (d : RowCmd) (span : Nat) : Bool :=
  d.commonBad || !(d.fmt = 3 || d.fmt = 5) || d.len % 16 ≠ 0 || bits (d.b 5) 0 16 ≠ 0 || bits (d.b 6) 23 9 ≠ 0 || d.b 7 ≠ 0
    || d.dscl % 16 ≠ 0
    || regionsBad span (d.srcRanges 0)
      [rowRanges d.dst d.rows d.dstr (d.len / 2), [(d.dscl, d.rows * (d.len / 16))]]

/-- Whether a segment of 64 elements holds a value other than ±0 (R149). -/
def segBit (xs : List Num) : Bool := xs.any fun x => !x.isZero

/-- The segment bits of elements of a row (R149). -/
def segBits (xs : List Num) : List Nat := (groupsOf 64 xs).map fun g => if segBit g then 1 else 0

/-- Bits packed eight to a byte, least significant first. -/
def packBits : List Nat → Nat → Bytes
  | _, 0 => []
  | xs, n + 1 => BitVec.ofNat 8 ((xs.take 8).zipIdx.map fun x => x.1 * 2 ^ x.2).sum :: packBits (xs.drop 8) n

/-- A block operation on a stopped engine is discarded (R155); else it is done and counted, and the VEC instructions behind it go on
(R143). -/
def State.blockRun (s : State) (l : Path) (c : Command) (work : State → State) : State :=
  (if (s.tile l).vecStopped then s.modTile l fun x => x.dropFlight c.id else work s).vecRun l

/-- OCC after dispatch (R149). -/
def State.occWork (s : State) (l : Path) (c : Command) : State :=
  let d := rowCmd c
  if d.occBad (s.span l) then s.failCmd l c 0x8313 []
  else
    let rd := s.lsByte l
    let scl := (d.b 7).toNat
    match s.checkLS l (d.srcRanges scl) with
    | (s1, false) => s1
    | (s1, true) =>
      let row (r lo hi : Nat) := d.elems rd scl 0 r lo hi
      let bitsAll := (List.range d.rows).flatMap fun r => segBits (row r 0 d.len)
      let cands : List Capture := (List.range d.rows).flatMap fun r => (List.range ((d.len + 4095) / 4096)).map fun sp =>
        let xs := row r (4096 * sp) (min d.len (4096 * sp + 4096))
        { kind := 1, row := r, span := sp, op := 1, last := true, terms := [xs], written := segBits xs,
          bytes := rowBytes d.fmt xs.length + (if d.fmt = 2 then xs.length / 16 else 0) + (xs.length + 511) / 512 }
      let s2 := (s1.writeLS l d.dst (packBits bitsAll ((bitsAll.length + 7) / 8))).1
      (s2.sampled l c cands).finish l c

/-- QY4 after dispatch (R150). -/
def State.qy4Work (s : State) (l : Path) (c : Command) : State :=
  let d := rowCmd c
  if d.qy4Bad (s.span l) then s.failCmd l c 0x8313 []
  else
    let rd := s.lsByte l
    match s.checkLS l (d.srcRanges 0) with
    | (s1, false) => s1
    | (s1, true) =>
      let seed := (s.seedStep l).1
      let step := (s.seedStep l).2
      let base := (s.tile l).vsrb.toNat
      let conv (r lo hi : Nat) := convertRow 2 0 (streamRnd (modeSr c.mode) seed step (base + r * d.len + lo))
        ((d.elems rd 0 0 r lo hi).map fun x => word (fp32.encode 0 x))
      let s2 := s1.each (List.range d.rows) fun a r =>
        let (es, ss) := conv r 0 d.len
        ((a.writeLS l (d.dst + r * d.dstr) (packElems 2 es)).1.writeLS l (d.dscl + r * (d.len / 16))
          (ss.map (BitVec.ofNat 8))).1
      let s3 := if modeSr c.mode then s2.modTile l fun x => { x with vsrb := x.vsrb + BitVec.ofNat 48 (d.rows * d.len) } else s2
      let cands : List Capture := (List.range d.rows).flatMap fun r => (List.range ((d.len + 1023) / 1024)).map fun sp =>
        let lo := 1024 * sp
        let hi := min d.len (lo + 1024)
        let (es, ss) := conv r lo hi
        { kind := 2, row := r, span := sp, op := 2, last := true, seed := seed, step := step, base := base + r * d.len + lo,
          cols := hi - lo, fmt := 2, terms := [d.elems rd 0 0 r lo hi], written := es, scales := ss,
          bytes := rowBytes d.fmt (hi - lo) + (hi - lo) / 2 + (hi - lo) / 16 }
      (s3.sampled l c cands).finish l c

/-- OCC (R149). A command whose BOP is reserved is dispatched by this row too, and raises BLOCK_BODY. -/
def execOcc (t : Path) (s : State) : Out :=
  s.dispatch t 1 (fun c => c.rop ≠ 2) fun s l c => s.blockRun l c fun s => s.occWork l c
/-- QY4 (R150). -/
def execQy4 (t : Path) (s : State) : Out :=
  s.dispatch t 1 (fun c => c.rop = 2) fun s l c => s.blockRun l c fun s => s.qy4Work l c

end Sys2Proof.Machine
end

