-- ==== Sys2Proof/Machine/Ybf.lean ====
section
/-! DEFINITION. The Yalwetar block format (R186 to R195, R198 to R200) as functions of bytes. -/

namespace Sys2Proof.Machine

/-- The 256 code lengths of a table of 128 bytes (R187). -/
def codeLengths (table : Bytes) : List Nat :=
  table.flatMap fun b => [b.toNat % 16, b.toNat / 16]

/-- A valid table (R187). -/
def tableOk (ls : List Nat) : Bool :=
  ls.all (fun l => l ≤ 12) && ls.any (fun l => l ≠ 0)
    && ((ls.filter (· ≠ 0)).map fun l => 2 ^ (12 - l)).sum ≤ 4096

/-- The codewords of length l to 12 (R188): length, codeword, symbol; `next` is the next codeword of length l. -/
def canonFrom (ls : List Nat) : Nat → Nat → Nat → List (Nat × Nat × Nat)
  | 0, _, _ => []
  | fuel + 1, l, next =>
    let syms := numbers 256 fun s => ls.getD s 0 = l
    syms.zipIdx.map (fun x => (l, next + x.2, x.1)) ++ canonFrom ls fuel (l + 1) ((next + syms.length) * 2)

/-- The canonical code of a table: length, codeword, symbol. -/
def canon (ls : List Nat) : List (Nat × Nat × Nat) := canonFrom ls 12 1 0

/-- Bit i of a bit string, from bit 7 of each byte on (R191); zero past its end. -/
def bitAt (bs : Bytes) (i : Nat) : Nat := if (bs.getD (i / 8) 0).getLsbD (7 - i % 8) then 1 else 0

/-- The number in n bits from a position, most significant first; bits from `stop` on are read as 0 (R193). -/
def bitsAt (bs : Bytes) (stop pos : Nat) : Nat → Nat
  | 0 => 0
  | n + 1 => (if pos < stop then bitAt bs pos else 0) * 2 ^ n + bitsAt bs stop (pos + 1) n

/-- What decoding a lane finds. -/
inductive LaneResult where
  | symbols (xs : Bytes) (pos : Nat)
  | illegal
  deriving DecidableEq, Repr

/-- n symbols of a lane from a position (R191, R193). -/
def decodeLane (code : List (Nat × Nat × Nat)) (bs : Bytes) (stop : Nat) : Nat → Nat → Bytes → LaneResult
  | 0, pos, acc => .symbols acc.reverse pos
  | n + 1, pos, acc =>
    let w := bitsAt bs stop pos 12
    match code.find? fun c => w / 2 ^ (12 - c.1) = c.2.1 with
    | none => .illegal
    | some c => decodeLane code bs stop n (pos + c.1) (BitVec.ofNat 8 c.2.2 :: acc)

/-- The lengths of the 32 lanes (R192). -/
def laneLengths (field : Bytes) : List Nat := (List.range 32).map fun j => leNat field / 2 ^ (12 * j) % 4096

/-- The starts of the lanes in the payload. -/
def laneStarts (ls : List Nat) : List Nat := (List.range 32).map fun j => (ls.take j).sum

/-- What decoding a block finds: its bytes, or the event of R199. -/
inductive BlockResult where
  | bytes (bs : Bytes)
  | fault (code : Nat)
  deriving DecidableEq, Repr

/-- BLEN of a block header. -/
def blenOf (h : Bytes) : Nat := fieldAt h 0 2
/-- KIND of a block header. -/
def kindOf (h : Bytes) : Nat := fieldAt h 3 1 / 64

/-- YBF_BLOCK: the header's own checks, with the bytes left in the segment (R189, R190, R199). -/
def blockHdrBad (h : Bytes) (left : Nat) : Bool :=
  let kind := kindOf h
  let blen := blenOf h
  left < 16 || kind = 3 || fieldAt h 3 1 % 64 ≠ 0 || (kind ≠ 2 && fieldAt h 2 1 ≠ 0) || fieldAt h 8 8 ≠ 0 || blen % 16 ≠ 0
    || (match kind with
        | 0 => blen ≤ 64 || 3840 < blen
        | 1 => blen ≠ 4112
        | _ => blen ≠ 16)
    || left < blen

/-- A coded block's payload decoded (R191, R192, R199): the lengths, the pad bits, then the codewords. -/
def decodeCoded (code : List (Nat × Nat × Nat)) (blen : Nat) (body : Bytes) : BlockResult :=
  let ls := laneLengths (body.take 48)
  let total := ls.sum
  let payload := body.drop 48
  if ls.any (fun l => l < 128 || 1536 < l) || blen ≠ 64 + 16 * ((total + 127) / 128) then .fault 0x8505
  else if (List.range (8 * payload.length - total)).any fun i => bitAt payload (total + i) = 1 then .fault 0x8505
  else
    let lanes := (List.range 32).map fun j =>
      let start := (laneStarts ls).getD j 0
      (decodeLane code payload (start + ls.getD j 0) 128 start [], start + ls.getD j 0)
    if lanes.any fun x => x.1 = .illegal then .fault 0x8504
    else if lanes.any fun x => match x.1 with | .symbols _ pos => pos ≠ x.2 | .illegal => true then .fault 0x8505
    else
      let out (i : Nat) : Byte :=
        match (lanes.getD (i % 32) (.illegal, 0)).1 with
        | .symbols xs _ => xs.getD (i / 32) 0
        | .illegal => 0
      .bytes ((List.range 4096).map out)

/-- A block decoded from its header and the bytes behind it, before its check value is judged. -/
def decodeBlock (code : List (Nat × Nat × Nat)) (h body : Bytes) : BlockResult :=
  match kindOf h with
  | 0 => decodeCoded code (blenOf h) body
  | 1 => .bytes (fit body 4096)
  | _ => .bytes (List.replicate 4096 (BitVec.ofNat 8 (fieldAt h 2 1)))

/-- YBF_HEADER at the start (R186, R198). -/
def segHdrBad (h : Bytes) (rowBytes : Nat) : Bool :=
  let n := fieldAt h 6 2
  fieldAt h 0 4 ≠ 0x31464259 || fieldAt h 4 1 ≠ 1 || fieldAt h 5 1 ≠ 0 || fieldAt h 12 4 ≠ 0 || n = 0 || 256 < n
    || n * 4096 ≠ rowBytes || fieldAt h 8 4 % 16 ≠ 0 || 144 + n * 4112 < fieldAt h 8 4

/-! ### The compressor (R194, R195) -/

/-- A node of the tree: weight, key, and the leaves under it with their depths. -/
structure HuffNode where
  weight : Nat
  key : Nat
  leaves : List (Nat × Nat)
  deriving DecidableEq, Repr

/-- A node comes before another. -/
def HuffNode.before (a b : HuffNode) : Bool := a.weight < b.weight || (a.weight = b.weight && a.key < b.key)

/-- A node put into a list ordered by (weight, key). -/
def huffInsert (x : HuffNode) : List HuffNode → List HuffNode
  | [] => [x]
  | y :: ys => if x.before y then x :: y :: ys else y :: huffInsert x ys

/-- The two least nodes joined until one remains. -/
def huffJoin : Nat → Nat → List HuffNode → List (Nat × Nat)
  | 0, _, _ => []
  | fuel + 1, n, nodes =>
    match nodes with
    | [] => []
    | [x] => x.leaves
    | a :: b :: rest =>
      let deeper := (a.leaves ++ b.leaves).map fun e => (e.1, e.2 + 1)
      huffJoin fuel (n + 1) (huffInsert ⟨a.weight + b.weight, 256 + n, deeper⟩ rest)

/-- The code lengths of counts by symbol (R194). -/
def huffLengths : Nat → List Nat → List Nat
  | 0, _ => List.replicate 256 0
  | fuel + 1, counts =>
    let live := numbers 256 fun s => 0 < counts.getD s 0
    if live.length = 1 then (List.range 256).map fun s => if live.contains s then 1 else 0
    else
      let nodes := live.foldl (fun l s => huffInsert ⟨counts.getD s 0, s, [(s, 0)]⟩ l) []
      let leaves := huffJoin 257 0 nodes
      if leaves.all fun e => e.2 ≤ 12 then
        (List.range 256).map fun s => ((leaves.find? fun e => e.1 = s).map (·.2)).getD 0
      else huffLengths fuel (counts.map fun c => (c + 1) / 2)

/-- Occurrences of each byte value. -/
def histogram (bs : Bytes) : List Nat :=
  let m := bs.foldl (fun (m : SMap Nat) b => mapSet 0 m b.toNat (mapGet 0 m b.toNat + 1)) []
  (List.range 256).map (mapGet 0 m)

/-- Bits packed into bytes from bit 7 on, filled with zeros. -/
def packMsb : Nat → List Bool → Bytes
  | 0, _ => []
  | fuel + 1, xs =>
    if xs.isEmpty then []
    else BitVec.ofNat 8 (((List.range 8).map fun i => if xs.getD i false then 2 ^ (7 - i) else 0).sum) :: packMsb fuel (xs.drop 8)

/-- A codeword's bits, most significant first. -/
def codeBits (len w : Nat) : List Bool := (List.range len).map fun i => w / 2 ^ (len - 1 - i) % 2 = 1

/-- A block header (R189). -/
def blockHeader (kind fillv blen : Nat) (check : Word) : Bytes :=
  toLE (kind * 2 ^ 30 + fillv * 65536 + blen) 4 ++ toLE check.toNat 4 ++ zeros 8

/-- A block of 4,096 bytes as the compressor stores it (R190, R191, R195). -/
def encodeBlock (code : List (Nat × Nat × Nat)) (bs : Bytes) : Bytes :=
  let check := crc32c bs
  let first := bs.getD 0 0
  if bs.all (· = first) then blockHeader 2 first.toNat 16 check
  else
    let word (b : Byte) : List Bool :=
      match code.find? fun c => c.2.2 = b.toNat with
      | some c => codeBits c.1 c.2.1
      | none => []
    let lanes := (List.range 32).map fun j => (List.range 128).flatMap fun k => word (bs.getD (j + 32 * k) 0)
    let total := (lanes.map List.length).sum
    let blen := 64 + 16 * ((total + 127) / 128)
    if blen ≤ 3840 then
      let field := ((lanes.map List.length).zipIdx.map fun x => x.1 * 2 ^ (12 * x.2)).sum
      let payload := packMsb (total / 8 + 1) lanes.flatten
      blockHeader 0 0 blen check ++ toLE field 48 ++ fit payload (blen - 64)
    else blockHeader 1 0 4112 check ++ bs

/-- The table of a segment (R187). -/
def tableBytes (ls : List Nat) : Bytes :=
  (List.range 128).map fun i => BitVec.ofNat 8 (ls.getD (2 * i) 0 + 16 * ls.getD (2 * i + 1) 0)

/-- The segment header (R186). -/
def segHeader (nblk seglen : Nat) : Bytes :=
  toLE 0x31464259 4 ++ [1, 0] ++ toLE nblk 2 ++ toLE seglen 4 ++ zeros 4

/-- The table and the stored blocks of a segment's bytes. -/
def compressed (bs : Bytes) : Bytes × List Bytes :=
  let ls := huffLengths 24 (histogram bs)
  (tableBytes ls, (chunks 4096 bs).map (encodeBlock (canon ls)))

end Sys2Proof.Machine
end

