-- ==== Sys2Proof/Machine/Access.lean ====
section
/-! DEFINITION. The access engine (R173 to R180, R197 to R201): loads, stores, gather, transpose, read-ahead, the YBF codec, and
program load (R88, R89, R179). -/

namespace Sys2Proof.Machine

/-- The fields of an access body (R173). -/
structure AccCmd where
  blen : Nat
  w : List Word
  op : Nat
  cslot : Nat
  chk : Bool
  esz : Nat
  pfn : Nat
  taddr : Nat
  laddr : Nat
  rows : Nat
  rb : Nat
  tstr : Nat
  lstr : Nat
  xaddr : Nat
  aux : Word

/-- The fields of a command's body. -/
def accCmd (c : Command) : AccCmd :=
  let w := c.body
  let b (i : Nat) : Word := w.getD i 0
  { blen := hdrBody c.w0, w := w, op := bits (b 0) 28 4, cslot := bits (b 0) 24 4, chk := bit (b 0) 23, esz := bits (b 0) 21 2,
    pfn := bits (b 0) 17 4, taddr := bits (b 2) 0 20 * 2 ^ 32 + (b 1).toNat, laddr := (b 3).toNat, rows := bits (b 4) 16 16,
    rb := (b 5).toNat, tstr := (b 6).toNat, lstr := 16 * bits (b 7) 16 16, xaddr := (b 8).toNat, aux := b 9 }

/-- Bytes of a TRANSPOSE element. -/
def AccCmd.size (d : AccCmd) : Nat := 2 ^ d.esz

/-- The local-store region of the rows. -/
def AccCmd.lsRows (d : AccCmd) (unit : Nat) : List (Nat × Nat) :=
  if unit = 3 then
    match d.op with
    | 1 => [(d.laddr, d.rb)]
    | 2 => rowRanges d.laddr (d.rb / d.size) d.lstr (d.rows * d.size)
    | 4 => []
    | 5 => []
    | _ => rowRanges d.laddr d.rows d.lstr d.rb
  else if d.op = 1 then [(d.laddr, d.rb)]
  else rowRanges d.laddr d.rows d.lstr d.rb

/-- The auxiliary local-store region. -/
def AccCmd.xRegion (d : AccCmd) (unit : Nat) : List (Nat × Nat) :=
  if unit = 3 ∧ d.op = 3 then [(d.xaddr, 4 * d.rows)]
  else if (unit = 3 ∧ d.op = 5) ∨ (unit = 4 ∧ d.op = 1) then [(d.xaddr, 4)]
  else []

/-- The limits of one operation and the fields it does not name (R174, R178, R197). -/
def AccCmd.opBad (d : AccCmd) (unit : Nat) : Bool :=
  let noX : Bool := d.xaddr ≠ 0 || d.aux ≠ 0
  let flat : Bool := d.rows ≠ 1 || d.tstr ≠ 0 || d.lstr ≠ 0
  let big : Bool := d.rb % 4096 ≠ 0 || 0x100000 < d.rb
  let chkBad : Bool := d.chk && (d.tstr ≠ d.rb || d.taddr % 4096 ≠ 0 || d.rows * d.rb % 4096 ≠ 0)
  if unit = 3 then
    match d.op with
    | 0 => noX || d.esz ≠ 0 || chkBad
    | 1 => noX || d.esz ≠ 0 || d.chk || d.pfn ≠ 0 || flat || big
    | 2 => noX || d.esz = 3 || d.chk || d.pfn ≠ 0
    | 3 => d.aux ≠ 0 || d.esz ≠ 0 || d.chk || d.pfn ≠ 0
    | 4 => noX || d.esz ≠ 0 || d.chk || d.pfn ≠ 0 || d.laddr ≠ 0 || d.lstr ≠ 0
    | 5 => d.esz ≠ 0 || d.chk || d.pfn ≠ 0 || flat || d.laddr ≠ 0 || bits d.aux 18 14 ≠ 0 || bits d.aux 0 4 ≠ 0
    | _ => true
  else
    match d.op with
    | 0 => noX || d.esz ≠ 0 || d.pfn ≠ 0 || chkBad
    | 1 => d.esz ≠ 0 || d.chk || d.pfn ≠ 0 || flat || big || d.aux.toNat % 16 ≠ 0 || d.aux.toNat < 144
    | _ => true

/-- ACCESS_BODY (R173 to R175, R178, R197). -/
def AccCmd.bad (d : AccCmd) (unit span : Nat) : Bool :=
  let b (i : Nat) : Word := d.w.getD i 0
  d.blen ≠ 3 || bits (b 0) 0 17 ≠ 0 || bits (b 2) 20 12 ≠ 0 || bits (b 3) 23 9 ≠ 0 || bits (b 4) 0 16 ≠ 0
    || bits (b 7) 0 16 ≠ 0 || bits (b 8) 23 9 ≠ 0 || b 10 ≠ 0 || b 11 ≠ 0
    || d.taddr % 16 ≠ 0 || d.laddr % 16 ≠ 0 || d.xaddr % 16 ≠ 0 || d.rows = 0 || d.rb % 16 ≠ 0 || d.rb = 0
    || 0x800000 < d.rb || d.tstr % 16 ≠ 0 || d.opBad unit
    || (d.lsRows unit ++ d.xRegion unit).any (fun r => span < r.1 + r.2) || meet (d.lsRows unit) (d.xRegion unit)

/-- What one command works with: its leader, the command, its fields, the partition and the context. -/
structure AccCtx where
  l : Path
  c : Command
  d : AccCmd
  p : Nat
  ctx : BitVec 12

/-- The mover of row r of a panel (R180). -/
def State.rowMover (s : State) (l : Path) (r : Nat) : Mover := .tile (memberAt l (r % s.panelWidth l))

/-- An access fault: the record carries the virtual address (R175). -/
def State.accFault (s : State) (a : AccCtx) (code va : Nat) : State := s.failCmd a.l a.c code (toLE va 8)

/-- A transfer's end: done, or its fault. -/
def State.accEnd (s : State) (a : AccCtx) (m : Met) : State :=
  match m with
  | .ok => s.finish a.l a.c
  | .fault code va => s.accFault a code va

/-! ### Loads -/

/-- The bytes of rows read in order, and what stopped them. -/
def State.readRows (s : State) (a : AccCtx) : State × Bytes × Met :=
  (List.range a.d.rows).foldl (fun (acc : State × Bytes × Met) r =>
    match acc.2.2 with
    | .fault .. => acc
    | .ok =>
      let (s', bs, m) := acc.1.readVA (acc.1.rowMover a.l r) a.p a.ctx (a.d.taddr + r * a.d.tstr) a.d.rb
      (s', acc.2.1 ++ bs, m)) (s, [], .ok)

/-- Read bytes put into local-store rows, as far as they go. -/
def State.fillRows (s : State) (l : Path) (d : AccCmd) (bs : Bytes) : State :=
  s.each ((chunks d.rb bs).zipIdx) fun a x => (a.writeLS l (d.laddr + x.2 * d.lstr) x.1).1

/-- COPY without check values. -/
def State.copyLoad (s : State) (a : AccCtx) : State :=
  let (s1, bs, m) := s.readRows a
  let s2 := s1.fillRows a.l a.d bs
  match m with
  | .fault code va => s2.accFault a code va
  | .ok =>
    let s3 := if a.d.pfn ≠ 0 && a.d.tstr = a.d.rb then
      s2.prefetch (.tile a.l) a.p a.ctx (a.d.taddr + a.d.rows * a.d.rb) (a.d.pfn * 65536) else s2
    s3.finish a.l a.c

/-- Blocks verified and read until one fails: the bytes, and a fault or the event of a failed verification. -/
def State.readBlocks (s : State) (who : Mover) (reader p : Nat) (ctx : BitVec 12) (va : Nat) :
    Nat → State × Bytes × Met × Option (Nat × Bytes × Bool)
  | 0 => (s, [], .ok, none)
  | n + 1 =>
    match s.xlate who ctx va false with
    | (s1, .fault code) => (s1, [], .fault code va, none)
    | (s1, .ok _ pa) =>
      let v := s1.verify pa
      if v = .good then
        let (s2, bs, m) := (s1.countVerify v).readVA who p ctx va 4096
        match m with
        | .fault .. => (s2, bs, m, none)
        | .ok =>
          let (s3, more, m', e) := s2.readBlocks who reader p ctx (va + 4096) n
          (s3, bs ++ more, m', e)
      else (s1.countVerify v, [], .ok, some (s1.verifyEvent reader va pa v))

/-- The mover of block i of a COPY with check values: that of the row the block begins in (R180). -/
def State.blockMover (s : State) (a : AccCtx) (i : Nat) : Mover := s.rowMover a.l (4096 * i / a.d.rb)

/-- The blocks of a COPY with check values read until one fails. -/
def State.readChecked (s : State) (a : AccCtx) : State × Bytes × Met × Option (Nat × Bytes × Bool) :=
  (List.range (a.d.rows * a.d.rb / 4096)).foldl (fun (acc : State × Bytes × Met × Option (Nat × Bytes × Bool)) i =>
    match acc with
    | (s0, bs, .ok, none) =>
      match s0.readBlocks (s0.blockMover a i) 0 a.p a.ctx (a.d.taddr + 4096 * i) 1 with
      | (s1, more, m, e) => (s1, bs ++ more, m, e)
    | stopped => stopped) (s, [], .ok, none)

/-- COPY with check values (R178). -/
def State.copyLoadChk (s : State) (a : AccCtx) : State :=
  let (s1, bs, m, e) := s.readChecked a
  let s2 := s1.fillRows a.l a.d bs
  match e, m with
  | some (code, det, inj), _ => s2.failCmd a.l a.c code det inj
  | none, .fault code va => s2.accFault a code va
  | none, .ok =>
    let s3 := if a.d.pfn ≠ 0 then
      s2.prefetch (.tile a.l) a.p a.ctx (a.d.taddr + a.d.rows * a.d.rb) (a.d.pfn * 65536) else s2
    s3.finish a.l a.c

/-- TRANSPOSE (R174). -/
def State.transpose (s : State) (a : AccCtx) : State :=
  let (s1, bs, m) := s.readRows a
  let cols := a.d.rb / a.d.size
  let s2 := s1.each ((chunks a.d.size bs).zipIdx) fun b x =>
    (b.writeLS a.l (a.d.laddr + x.2 % cols * a.d.lstr + x.2 / cols * a.d.size) x.1).1
  s2.accEnd a m

/-- One row of GATHER. -/
def State.gatherRow (s : State) (a : AccCtx) (r : Nat) : State × Met :=
  let idx := leNat (s.peekLS a.l (a.d.xaddr + 4 * r) 4)
  if idx = 0xFFFFFFFF then ((s.writeLS a.l (a.d.laddr + r * a.d.lstr) (zeros a.d.rb)).1, .ok)
  else
    let (s1, bs, m) := s.readVA (s.rowMover a.l r) a.p a.ctx (a.d.taddr + idx * a.d.tstr) a.d.rb
    ((s1.writeLS a.l (a.d.laddr + r * a.d.lstr) bs).1, m)

/-- GATHER (R174): rows gathered before a fault stay written. -/
def State.gather (s : State) (a : AccCtx) : State :=
  match s.checkLS a.l (a.d.xRegion 3) with
  | (s0, false) => s0
  | (s0, true) =>
    let (s1, m) := (List.range a.d.rows).foldl (fun (acc : State × Met) r =>
      match acc.2 with
      | .fault .. => acc
      | .ok => acc.1.gatherRow a r) (s0, .ok)
    s1.accEnd a m

/-- PREFETCH (R181). -/
def State.prefetchRows (s : State) (a : AccCtx) : State :=
  (s.each (List.range a.d.rows) fun b r => b.prefetch (b.rowMover a.l r) a.p a.ctx (a.d.taddr + r * a.d.tstr) a.d.rb).finish a.l a.c

/-! ### Program load (R87 to R89, R179) -/

/-- What loading an image would do: write code and descriptors, or be refused with a code, a condition and an address. -/
inductive LoadPlan where
  | write (codeAt : Nat) (code : Bytes) (descAt : Nat) (desc : Bytes)
  | refuse (code cond addr : Nat)
  deriving DecidableEq, Repr

/-- The static descriptors of an image: offsets in the image, and the offset behind the last. -/
def descOffsets (img : Bytes) : Nat → Nat → List Nat × Nat
  | _, 0 => ([], 0)
  | off, n + 1 =>
    let len := 16 + 16 * hdrBody (word (fieldAt img off 4))
    match descOffsets img (off + len) n with
    | (rest, stop) => (off :: rest, if n = 0 then off + len else stop)

/-- An image checked and laid out (R87 to R89). A refusal names the local-store address of the first word that offends: the first one
beyond 0x1FFFFF, or LOAD_ADDR for a header that is refused for its own fields (DESIGN CHOICE, log 117). -/
def loadPlan (img : Bytes) (limit : Nat) (repro : Bool) : LoadPlan :=
  let f := fieldAt img
  let codeOff := f 8 4
  let words := f 12 4
  let at' := f 16 4
  let descOff := f 20 4
  let n := f 24 2
  let (offs, stop) := descOffsets img descOff n
  let descLen := if n = 0 then 0 else stop - descOff
  let descAt := (at' + 4 * words + 15) / 16 * 16
  if limit < 32 || f 0 4 ≠ 0x31515359 || f 4 2 ≠ 1 || 1 < f 6 2 || f 26 2 ≠ 0 || codeOff % 4 ≠ 0 || at' % 4 ≠ 0
      || descOff % 16 ≠ 0 then .refuse 0x4001 1 at'
  else if 0x200000 < at' + 4 * words then .refuse 0x4001 1 (max at' 0x200000)
  else if n ≠ 0 ∧ 0x200000 < descAt + descLen then .refuse 0x4001 1 (max descAt 0x200000)
  else if limit < codeOff + 4 * words ∨ (n ≠ 0 ∧ limit < descOff + descLen) then .refuse 0x4001 1 at'
  else
    let marked (off : Nat) : Bool := bit (word (f off 4)) 27
    let badCode := (List.range words).find? fun i => marked (codeOff + 4 * i)
    let badDesc := offs.find? marked
    match repro, badCode, badDesc with
    | true, some i, _ => .refuse 0x4030 2 (at' + 4 * i)
    | true, none, some off => .refuse 0x4030 2 (descAt + (off - descOff))
    | _, _, _ => .write at' (slice img codeOff (4 * words)) descAt (slice img descOff descLen)

/-- The target's condition of R179 that fails, by its position in the table. -/
def State.loadTargetBad (s : State) (p : Option Nat) (target : Path) (width : Nat) (issuer : Option Path) : Option Nat :=
  if !activePath target || 2 < width || s.panelWidth target ≠ 2 ^ width || s.lead target ≠ target || p.isNone
      || s.partOf target ≠ p then some 1
  else if s.tileState target ≠ 0 then some 2
  else if issuer = some target then some 3
  else none

/-- The bytes of a plan written into its target; a double error in a word written in part makes the device fatal (R159). -/
def State.place (s : State) (target : Path) (plan : LoadPlan) : State :=
  match plan with
  | .write a code b desc =>
    match s.writeLS target a code with
    | (s1, false) => s1
    | (s1, true) => (s1.writeLS target b desc).1
  | .refuse .. => s

/-- PROGLOAD (R179). -/
def State.progload (s : State) (a : AccCtx) : State :=
  let target : Path := BitVec.ofNat 16 (bits a.d.aux 0 16)
  let outcome (s : State) (code : Nat) : State := ((s.writeLS a.l a.d.xaddr (toLE code 4)).1).finish a.l a.c
  let refuse (s : State) (code cond : Nat) (more : Bytes) : State :=
    outcome (s.refuse code (some a.l) a.p ((s.slotCtx a.p 0).getD 0).toNat 3 cond 0 0
      (a.c.w0.toNat + 2 ^ 32 * a.c.waitV.toNat) more) code
  match s.loadTargetBad (some a.p) target (bits a.d.aux 16 2) (some a.l) with
  | some cond => refuse s 0x4001 cond []
  | none =>
    let (s1, img, m) := s.readVA (.tile a.l) a.p a.ctx a.d.taddr a.d.rb
    match m with
    | .fault code va => s1.accFault a code va
    | .ok =>
      match loadPlan img a.d.rb (s1.part a.p).repro with
      | .refuse code cond addr => refuse s1 code cond (toLE addr 4)
      | plan =>
        let s2 := s1.place target plan
        if s2.fatal then s2 else outcome s2 0

/-! ### Stores -/

/-- COPY store without check values (R176). -/
def State.copyStore (s : State) (a : AccCtx) : State :=
  let (s1, m) := (List.range a.d.rows).foldl (fun (acc : State × Met) r =>
    match acc.2 with
    | .fault .. => acc
    | .ok => acc.1.writeVA (acc.1.rowMover a.l r) a.p a.ctx (a.d.taddr + r * a.d.tstr)
        (acc.1.peekLS a.l (a.d.laddr + r * a.d.lstr) a.d.rb)) (s, .ok)
  s1.accEnd a m

/-- COPY store with check values (R178). -/
def State.copyStoreChk (s : State) (a : AccCtx) : State :=
  let bs := (List.range a.d.rows).flatMap fun r => s.peekLS a.l (a.d.laddr + r * a.d.lstr) a.d.rb
  let (s1, m) := ((chunks 4096 bs).zipIdx).foldl (fun (acc : State × Met) (x : Bytes × Nat) =>
    match acc.2 with
    | .fault .. => acc
    | .ok =>
      let who := acc.1.blockMover a x.2
      acc.1.writeBlock who who.engine a.p a.ctx (a.d.taddr + 4096 * x.2) x.1) (s, .ok)
  s1.accEnd a m

/-! ### The codec (R197 to R202) -/

/-- A YBF fault (R201): TADDR and the index of the block. DESIGN CHOICE (log 43): they stand from 0x18 on in this order, as 8 and 2
bytes. -/
def State.ybfFault (s : State) (a : AccCtx) (code blk : Nat) : State :=
  s.failCmd a.l a.c code (toLE a.d.taddr 8 ++ toLE blk 2)

/-- The bytes of a block at the expander's first decode, which a hardware error may have spoilt (R200). -/
def slipped (flip : Byte) : Bytes → Bytes
  | [] => []
  | b :: bs => (b ^^^ flip) :: bs

/-- DETAIL of a BLOCK_CHECK_FAIL of the expander (R368): READER 4, the block's address, the value stored and the one computed. -/
def State.expanderDetail (s : State) (a : AccCtx) (va stored : Nat) (computed : Word) : Bytes :=
  let pa : Nat := match s.pageFor (.tile a.l) a.ctx va with
    | some m => m.pa + (va - m.va)
    | none => 0
  [4, 0] ++ zeros 6 ++ toLE va 8 ++ toLE pa 8 ++ toLE stored 4 ++ toLE computed.toNat 4

/-- The block at an offset expanded into its 4 KiB of local store. Where its check value differs, the second decode decides: the same
bytes make it YBF_CHECK, other bytes make it BLOCK_CHECK_FAIL, for the expander itself has failed (R200): the offset behind it, or none where a fault has ended the
command (R199, R200). -/
def State.expandBlock (s : State) (a : AccCtx) (code : List (Nat × Nat × Nat)) (seglen off i : Nat) : State × Option Nat :=
  if seglen < off + 16 then (s.ybfFault a 0x8503 i, none)
  else
    match s.readVA (.tile a.l) a.p a.ctx (a.d.taddr + off) 16 with
    | (s1, _, .fault c va) => (s1.accFault a c va, none)
    | (s1, h, .ok) =>
      if blockHdrBad h (seglen - off) then (s1.ybfFault a 0x8503 i, none)
      else
        match s1.readVA (.tile a.l) a.p a.ctx (a.d.taddr + off + 16) (blenOf h - 16) with
        | (s2, _, .fault c va) => (s2.accFault a c va, none)
        | (s2, body, .ok) =>
          match decodeBlock code h body with
          | .fault e => (s2.ybfFault a e i, none)
          | .bytes second =>
            let bs := slipped (s2.tile a.l).expSlip second
            let s3 := { s2.modTile a.l fun x => { x with expSlip := 0 } with integ := s2.integ.count 6 1 }
            if (crc32c bs).toNat ≠ fieldAt h 4 4 then
              if bs = second then ((s3.countPart (some a.p) 0x2300 8 1).ybfFault a 0x8506 i, none)
              else
                (((s3.countPart (some a.p) 0x2300 8 1)).failCmd a.l a.c 0xC003
                  (s3.expanderDetail a (a.d.taddr + off) (fieldAt h 4 4) (crc32c bs)), none)
            else
              (((s3.writeLS a.l (a.d.laddr + 4096 * i) bs).1).countPart (some a.p) 0x2300 (3 + kindOf h) 1,
                some (off + blenOf h))

/-- The blocks of a segment expanded one after another from an offset (R199, R200). -/
def State.expandBlocks (s : State) (a : AccCtx) (code : List (Nat × Nat × Nat)) (seglen : Nat) : Nat → Nat → Nat → State
  | 0, off, _ => if off = seglen then (s.countPart (some a.p) 0x2300 2 1).finish a.l a.c else s.ybfFault a 0x8501 0xFFFF
  | n + 1, off, i =>
    match s.expandBlock a code seglen off i with
    | (s1, none) => s1
    | (s1, some off') => s1.expandBlocks a code seglen n off' (i + 1)

/-- EXPAND (R198, R199). -/
def State.expand (s : State) (a : AccCtx) : State :=
  match s.readVA (.tile a.l) a.p a.ctx a.d.taddr 144 with
  | (s1, _, .fault code va) => s1.accFault a code va
  | (s1, h, .ok) =>
    let ls := codeLengths (slice h 16 128)
    if segHdrBad h a.d.rb then s1.ybfFault a 0x8501 0xFFFF
    else if !tableOk ls then s1.ybfFault a 0x8502 0xFFFF
    else s1.expandBlocks a (canon ls) (fieldAt h 8 4) (fieldAt h 6 2) 144 0

/-- The blocks of a segment written one after another while they fit (R197): the offset reached, whether all fitted. -/
def State.storeBlocks (s : State) (a : AccCtx) : Nat → List Bytes → State × Met × Nat × Bool
  | off, [] => (s, .ok, off, true)
  | off, b :: bs =>
    if a.d.aux.toNat < off + b.length then (s, .ok, off, false)
    else
      match s.writeVA (.tile a.l) a.p a.ctx (a.d.taddr + off) b with
      | (s1, .fault code va) => (s1, .fault code va, off, false)
      | (s1, .ok) => s1.storeBlocks a (off + b.length) bs

/-- COMPRESS (R194 to R197). -/
def State.compress (s : State) (a : AccCtx) : State :=
  let bs := s.peekLS a.l a.d.laddr a.d.rb
  let (table, blocks) := compressed bs
  match s.writeVA (.tile a.l) a.p a.ctx (a.d.taddr + 16) table with
  | (s1, .fault code va) => s1.accFault a code va
  | (s1, .ok) =>
    match s1.storeBlocks a 144 blocks with
    | (s2, .fault code va, _, _) => s2.accFault a code va
    | (s2, .ok, off, all) =>
      match s2.writeVA (.tile a.l) a.p a.ctx a.d.taddr (if all then segHeader blocks.length off else zeros 16) with
      | (s3, .fault code va) => s3.accFault a code va
      | (s3, .ok) =>
        let s4 := (s3.writeLS a.l a.d.xaddr (toLE (if all then off else 0xFFFFFFFF) 4)).1
        if all then
          ((s4.countPart (some a.p) 0x2300 6 a.d.rb).countPart (some a.p) 0x2300 7 off).finish a.l a.c
        else (s4.raiseTile a.l 0x1501 (some a.c.stag) []).finish a.l a.c

/-! ### Dispatch -/

/-- An access command after dispatch (R175). -/
def State.accDispatch (s : State) (unit : Nat) (work : State → AccCtx → State) (l : Path) (c : Command) : State :=
  let d := accCmd c
  if d.bad unit (s.span l) then s.failCmd l c 0x8401 []
  else
    match (s.partOf l).bind fun p => (s.slotCtx p d.cslot).map fun x => (p, x) with
    | none => s.failCmd l c 0x8404 []
    | some (p, ctx) => work s { l := l, c := c, d := d, p := p, ctx := ctx }

/-- A store reads its local store first, checked (R159). -/
def State.storing (work : State → AccCtx → State) (s : State) (a : AccCtx) : State :=
  match s.checkLS a.l (a.d.lsRows 4) with
  | (s1, false) => s1
  | (s1, true) => work s1 a

/-- The offset behind the last block of a segment that fits (R197). -/
def fitEnd (limit : Nat) : Nat → List Bytes → Nat
  | off, [] => off
  | off, b :: bs => if limit < off + b.length then off else fitEnd limit (off + b.length) bs

/-- Bytes of tier memory an EXPAND reads: the header and table, and the segment it announces, which its blocks bound (R198). -/
def State.expandReach (s : State) (l : Path) (ctx : BitVec 12) (d : AccCmd) : Nat :=
  max 144 (min (fieldAt (s.peekVA (.tile l) ctx d.taddr 144) 8 4) (144 + d.rb / 4096 * 4112))

/-- Every slab a command's memory lies in answers requests (R165); a command whose checks fail needs none. -/
def State.accReady (s : State) (t : Path) (unit : Nat) (c : Command) : Bool :=
  let l := s.lead t
  let d := accCmd c
  d.bad unit (s.span l) || (match (s.partOf l).bind fun p => s.slotCtx p d.cslot with
    | none => true
    | some ctx =>
      if unit = 3 ∧ d.op = 1 then
        s.answers (.tile l) ctx d.taddr 144 && s.answers (.tile l) ctx d.taddr (s.expandReach l ctx d)
      else if unit = 4 ∧ d.op = 1 then
        s.answers (.tile l) ctx d.taddr (fitEnd d.aux.toNat 144 (compressed (s.peekLS l d.laddr d.rb)).2)
      else
        (List.range d.rows).all fun r =>
          let i := if unit = 3 ∧ d.op = 3 then leNat (s.peekLS l (d.xaddr + 4 * r) 4) else r
          s.answers (s.rowMover l r) ctx (d.taddr + i * d.tstr) d.rb)

/-- The engine works on up to four load commands and four store commands at once (R176). -/
def Tile.accFree (x : Tile) (unit : Nat) : Bool := (x.flights.filter fun f => f.cmd.unit.toNat = unit).length < 4

/-- OP of a queued access command. -/
def Command.accOp (c : Command) : Nat := bits (c.body.getD 0 0) 28 4

/-- The first command of an access queue, if its OP is the row's, the engine can take it and its memory answers. -/
def State.accRow (s : State) (t : Path) (unit : Nat) (isOp : Nat → Bool) (work : State → AccCtx → State) : Out :=
  s.dispatch t unit (fun c => isOp c.accOp && (s.tile (s.lead t)).accFree unit && s.accReady t unit c) fun s l c => s.accDispatch unit work l c

/-- COPY_LOAD (R174). A load whose OP is reserved is dispatched by this row too, and raises ACCESS_BODY. -/
def execCopyLoad (t : Path) (s : State) : Out :=
  s.accRow t 3 (fun op => op = 0 || 5 < op) fun s a => if a.d.chk then s.copyLoadChk a else s.copyLoad a
/-- EXPAND (R198, R199). -/
def execExpand (t : Path) (s : State) : Out := s.accRow t 3 (fun op => op = 1) State.expand
/-- TRANSPOSE (R174). -/
def execTranspose (t : Path) (s : State) : Out := s.accRow t 3 (fun op => op = 2) State.transpose
/-- GATHER (R174). -/
def execGather (t : Path) (s : State) : Out := s.accRow t 3 (fun op => op = 3) State.gather
/-- PREFETCH (R181). -/
def execPrefetch (t : Path) (s : State) : Out := s.accRow t 3 (fun op => op = 4) State.prefetchRows
/-- PROGLOAD (R179). -/
def execProgload (t : Path) (s : State) : Out := s.accRow t 3 (fun op => op = 5) State.progload
/-- COPY_STORE (R176, R178). A store whose OP is reserved is dispatched by this row too, and raises ACCESS_BODY. -/
def execCopyStore (t : Path) (s : State) : Out :=
  s.accRow t 4 (fun op => op ≠ 1) (State.storing fun s a => if a.d.chk then s.copyStoreChk a else s.copyStore a)
/-- COMPRESS (R194 to R197). -/
def execCompress (t : Path) (s : State) : Out := s.accRow t 4 (fun op => op = 1) (State.storing State.compress)

end Sys2Proof.Machine
end

