-- ==== Sys2Proof/Machine/Doorbell.lean ====
section
/-! DEFINITION. Doorbells (R19, R27 to R31): the checks, the refusal, and what each command does to its member tiles. -/

namespace Sys2Proof.Machine

/-- The 64 bits of a doorbell (R19). -/
def doorbellWord (cmd ctx rsv arg : Nat) : Nat := cmd * 2 ^ 56 + ctx * 2 ^ 44 + rsv * 2 ^ 40 + arg

/-- The bits of ARG that R19 requires to be 0 are 0. -/
def argOk (cmd : Nat) (arg : BitVec 40) : Bool :=
  match cmd with
  | 0 => true
  | 1 => bits arg 0 2 = 0 && bits arg 21 19 = 0
  | 5 => bits arg 16 24 = 0
  | 6 => bits arg 1 39 = 0
  | _ => arg = 0

/-- A doorbell to a unit is refused: the code, and the position of the condition in R28's list; DENIED goes before NOT_READY. A
checker tile's window and a fatal device refuse every doorbell with DENIED (R31, R365). DESIGN CHOICE (log 113): COND of those two
is 1, and of a NOT_READY refusal 1 for a member without power and 2 for one not ready. -/
def State.doorbellRefusal (s : State) (u : Unit') (cmd : Nat) (ctx : BitVec 12) (rsv : BitVec 4) (arg : BitVec 40) :
    Option (Nat × Nat) :=
  let checker : Bool := match u with
    | .tile t => !activePath t
    | _ => false
  let members := s.covers u
  let stopped : Bool := match s.unitOwner u with
    | some p => (s.part p).state = 2
    | none => false
  if s.fatal || checker || s.unitCtx u ≠ some ctx then some (0x4001, 1)
  else if 6 < cmd then some (0x4001, 2)
  else if !argOk cmd arg then some (0x4001, 3)
  else if rsv ≠ 0 then some (0x4001, 4)
  else if (cmd = 1 || cmd = 3) && stopped then some (0x4001, 5)
  else if members.any fun t => s.poweredDown (clusterOf t) then some (0x4010, 1)
  else if members.any fun t => !s.clusterUp (clusterOf t) then some (0x4010, 2)
  else none

/-- CLEAR_FAULT on one tile (R19, R155). -/
def Tile.clearFault (x : Tile) : Tile :=
  { x with fault := {}, vecStopped := false, run := if x.run = .faulted then .stopped else x.run,
           waiting := x.waiting.map fun b => if b = .stop .faulted then .stop .stopped else b }

/-- A partition stopped by a fault returns to 1 when no tile of it shows a partition fault (R363). -/
def State.unstop (s : State) (p : Nat) : State :=
  if (s.part p).state = 2 && (s.partTiles p).all fun t => !(s.tile t).fault.part then
    s.modPart p fun x => { x with state := 1 }
  else s

/-- A doorbell's effect on one member (R19). -/
def State.applyDoorbell (s : State) (cmd : Nat) (arg : BitVec 40) (t : Path) : State :=
  let lead := s.lead t = t
  match cmd with
  | 1 => if lead then s.atNext t (.start (arg.setWidth 32)) else s
  | 2 => if lead then s.atNext t (.stop .stopped) else s
  | 3 => if lead then s.atNext t .resume else s
  | 4 => s.modTile t Tile.clearFault
  | 5 =>
    if lead then
      s.modTile t fun x => (numbers 16 fun k => bit arg k).foldl
        (fun y k => { y with tickets := mapSet 0 y.tickets k 0 }) x
    else s
  | 6 => if lead then s.atNext t (.firing (bit arg 0)) else s
  | _ => s

/-- The window written takes DB_RESULT and advances DB_SEQ (R20, R29). -/
def State.setResult (s : State) (win : WinAddr) (r : BitVec 4) : State :=
  { s with wins := mapSet {} s.wins win.toNat { result := r, seq := (s.win win).seq + 1 } }

/-- A doorbell written to a window address (R27 to R32); an address that is no window ignores it. The DOORBELL packets go out as
it reaches the tiles (R479). DESIGN CHOICE (log 114): it is answered also while the 48 V converters are off. -/
def State.doorbell (s : State) (win : WinAddr) (cmd : Nat) (ctx : BitVec 12) (rsv : BitVec 4) (arg : BitVec 40) : State :=
  match s.unitAt win with
  | none => s
  | some u =>
    match s.doorbellRefusal u cmd ctx rsv arg with
    | some (code, cond) =>
      let p := match s.ctxBind ctx.toNat with
        | some b => b.part.toNat
        | none => 0xFF
      (s.setResult win (if code = 0x4001 then 1 else 2)).refuse code none p ctx.toNat 0 cond (win.toNat % 65536) 0
        (doorbellWord cmd ctx.toNat rsv.toNat arg.toNat)
    | none =>
      let members := s.actsOn u
      let s1 := s.setResult win 0
      let s2 := s1.each (members.map clusterOf).eraseDups State.wake
      let s3 := s2.each members fun a t =>
        a.tilePacket t 1 (word (cmd * 2 ^ 24 + ctx.toNat * 2 ^ 8 + (s1.win win).seq.toNat))
      let s4 := s3.each members fun a t => a.applyDoorbell cmd arg t
      match cmd, s.unitOwner u with
      | 4, some p => s4.unstop p
      | _, _ => s4

/-- NOP (R19). -/
def execDoorbellNop (win : WinAddr) (ctx : BitVec 12) (rsv : BitVec 4) (arg : BitVec 40) (s : State) : Out :=
  .next (s.doorbell win 0 ctx rsv arg)
/-- START (R19). -/
def execStart (win : WinAddr) (ctx : BitVec 12) (rsv : BitVec 4) (arg : BitVec 40) (s : State) : Out :=
  .next (s.doorbell win 1 ctx rsv arg)
/-- STOP (R19, R56). -/
def execStop (win : WinAddr) (ctx : BitVec 12) (rsv : BitVec 4) (arg : BitVec 40) (s : State) : Out :=
  .next (s.doorbell win 2 ctx rsv arg)
/-- RESUME (R19). -/
def execResume (win : WinAddr) (ctx : BitVec 12) (rsv : BitVec 4) (arg : BitVec 40) (s : State) : Out :=
  .next (s.doorbell win 3 ctx rsv arg)
/-- CLEAR_FAULT (R19, R363). -/
def execClearFault (win : WinAddr) (ctx : BitVec 12) (rsv : BitVec 4) (arg : BitVec 40) (s : State) : Out :=
  .next (s.doorbell win 4 ctx rsv arg)
/-- RESET_TICKETS (R19, R71). -/
def execResetTickets (win : WinAddr) (ctx : BitVec 12) (rsv : BitVec 4) (arg : BitVec 40) (s : State) : Out :=
  .next (s.doorbell win 5 ctx rsv arg)
/-- SET_FIRING (R74). -/
def execSetFiring (win : WinAddr) (ctx : BitVec 12) (rsv : BitVec 4) (arg : BitVec 40) (s : State) : Out :=
  .next (s.doorbell win 6 ctx rsv arg)

end Sys2Proof.Machine
end

