-- ==== Sys2Proof/Machine/Session.lean ====
section
/-! DEFINITION. Who writes an object (R439 to R443): roles, life-cycle states, selects held per session, the outcome of a write and
the record of a refusal (R425, R438, R507). -/

namespace Sys2Proof.Machine

/-- A session by number; none for an anonymous writer or a number no session holds. -/
def State.session (s : State) (ses : Ses) : Option Session := mapGet none s.mgmt.sessions ses.toNat

/-- The role of a writer. -/
def State.role (s : State) (ses : Ses) : Role :=
  match s.session ses with
  | some x => x.role
  | none => .anonymous

/-- The key of a select subindex of a session (R443). -/
def selectKey (ses : Ses) (idx sub : Nat) : Nat := ses.toNat * 2 ^ 24 + idx * 256 + sub

/-- A select subindex as a session holds it; `d` is its default. -/
def State.select (s : State) (ses : Ses) (idx sub d : Nat) : Nat :=
  let raw := (mapGet 0 s.mgmt.selects (selectKey ses idx sub)).toNat
  if d = 0 then raw else raw ^^^ d

/-- A select subindex written; it is kept as its difference from the default. -/
def State.setSelect (s : State) (ses : Ses) (idx sub d v : Nat) : State :=
  { s with mgmt := { s.mgmt with selects := mapSet 0 s.mgmt.selects (selectKey ses idx sub) (word (v ^^^ d)) } }

/-- Manufacture and Return, where the maker reads and writes every object (R442). -/
def State.makerOpen (s : State) : Bool := s.sec.lc = 1 || s.sec.lc = 5

/-- A writer that a rule names as the operator role; the maker acts in its place where every object is open to it (R442). -/
def State.asOperator (s : State) (r : Role) : Bool :=
  match r with
  | .operator => true
  | .maker => s.makerOpen
  | _ => false

/-- A writer that a rule names as the owner role of p. -/
def State.asOwner (s : State) (r : Role) (p : Nat) : Bool :=
  match r with
  | .owner q => q.toNat = p
  | .maker => s.makerOpen
  | _ => false

/-- The life-cycle state the device is in: 4 Field-Debug stands in the island beside the fused state (R426). -/
def State.lifeCycle (s : State) : Nat := if s.sec.fieldDebug then 4 else s.sec.lc.toNat

/-- R442 lets a role write to an object at all. -/
def State.mayWrite (s : State) (r : Role) (idx sub : Nat) : Bool :=
  let lc := s.lifeCycle
  match r with
  | .anonymous => idx = 0x3140 && sub = 3
  | .operator => 2 ≤ lc && lc ≤ 4
  | .owner _ => 2 ≤ lc && lc ≤ 4
  | .maker =>
    if lc = 1 ∨ lc = 5 then true
    else if lc = 6 then idx = 0x3300 || (idx = 0x3030 && sub = 4)
    else idx = 0x1000 || idx = 0x1010 || idx = 0x3010 || idx = 0x3030

/-- R442 lets a role read an object at all. -/
def State.mayRead (s : State) (r : Role) (idx sub : Nat) : Bool :=
  let lc := s.lifeCycle
  match r with
  | .anonymous => idx = 0x1000 || (idx = 0x3140 && sub = 1)
  | .operator => 2 ≤ lc && lc ≤ 4
  | .owner _ => 2 ≤ lc && lc ≤ 4
  | .maker =>
    if lc = 1 ∨ lc = 5 then true
    else [0x1000, 0x1010, 0x3010, 0x3030].contains idx || (lc = 6 && idx = 0x3300)

/-- The objects the controller serves itself (R432). -/
def islandObject (idx : Nat) : Bool :=
  [0x1000, 0x1010, 0x1020, 0x1140, 0x3010, 0x3030, 0x3130, 0x3140, 0x3300].contains idx

/-- The device is wedged (R448). -/
def State.isWedged (s : State) : Bool := s.fatal || s.mgmt.wedged

/-- The outcome of an object's own rule: accepted, with the state it leaves, or refused with a code and the position of the
condition in its rule's list (0 where the rule has no list). -/
inductive Put where
  | ok (s : State)
  | refused (code cond : Nat)
  deriving DecidableEq, Repr

/-- A condition that refuses with DENIED when it does not hold, before the rest is asked. -/
def Put.deny (bad : Bool) (cond : Nat) (rest : Put) : Put := if bad then .refused 0x4001 cond else rest

/-- A write: who, where, the bytes, and the CTX a request carries, with the partition that owns its CTX or GID. -/
structure WriteReq where
  ses : Ses
  idx : Nat
  sub : Nat
  bytes : Bytes
  ctx : Option Nat := none
  part : Option Nat := none
  /-- What the record of its refusal carries behind ARG (R89). -/
  more : Bytes := []

/-- PART and CTX of a refused write's record (R507). -/
def State.refusalPart (s : State) (r : Role) (w : WriteReq) : Nat × Nat :=
  match r with
  | .owner p => (p.toNat, w.ctx.getD ((s.slotCtx p.toNat 0).getD 0).toNat)
  | .anonymous => (0xFF, 0)
  | _ => (w.part.getD 0xFF, w.ctx.getD 0)

/-- The record of a refused write (R425, R507). Where the refusing rule gives no list of conditions, COND is a free value. -/
def State.refuseWrite (s : State) (w : WriteReq) (source code cond : Nat) : State :=
  let r := s.role w.ses
  let (v, s1) := if cond = 0 then (let (x, t) := s.freeWord; (x.toNat % 256, t)) else (cond, s)
  let pc := s.refusalPart r w
  s1.refuse code none pc.1 pc.2 source v w.idx w.sub (fieldAt w.bytes 0 8) w.more

/-- A forwarded object cannot be served: the device is wedged (R438), or the units that hold it have no power (R432). -/
def State.unserved (s : State) (idx : Nat) : Bool := !islandObject idx && (s.isWedged || !s.pwr.converters)

/-- SOURCE of a refused write's record (R425). -/
def WriteReq.source (w : WriteReq) : Nat := if w.idx = 0x1010 then 4 else 1

/-- A write that R442 refuses its writer's role. A life-cycle request consumes the challenge all the same, and its Result shows the
refusal (R430). -/
def State.roleDenied (s : State) (w : WriteReq) : State :=
  let s1 := s.refuseWrite w w.source 0x4001 0
  if w.idx = 0x1010 ∧ w.sub = 2 then { s1 with sec := { s1.sec with challenge := none, lcResult := 0x4001 } } else s1

/-- A write under R442, R438 and an object's own rule: the state it leaves and the status of its answer. In Retired whatever R442 does not
let a role write is refused with DENIED, before anything else is asked (R428). -/
def State.putStatus (s : State) (w : WriteReq) (h : State → Role → Put) : State × Nat :=
  let r := s.role w.ses
  let may := s.mayWrite r w.idx w.sub
  if s.unserved w.idx && (may || s.lifeCycle ≠ 6) then (s.refuseWrite w 1 0x4010 6, 0x4010)
  else if !may then (s.roleDenied w, 0x4001)
  else
    match h s r with
    | .ok s' => (s', 0)
    | .refused code cond => (s.refuseWrite w w.source code cond, code)

/-- A write that is an object's row of its own. Without the auxiliary rail no write reaches the controller (R432). -/
def State.putRow (s : State) (w : WriteReq) (h : State → Role → Put) : Out :=
  .next (if s.pwr.aux then (s.putStatus w h).1 else s)

/-- The partition in whose slot a request is served (R423): the owner's own, or for the operator the one that owns its CTX or GID. -/
def slotPart (r : Role) (named : Option Nat) : Option Nat :=
  match r with
  | .owner p => some p.toNat
  | _ => named

/-- The slot of a request object is busy with an accepted request (R506). -/
def State.slotBusy (s : State) (p idx : Nat) : Bool := mapGet false (s.part p).busy idx

/-- An accepted request makes its slot busy. DESIGN CHOICE (log 54): its effect is in force from its ordering on, and its outcome is written
at the next tick. -/
def Part.hold (x : Part) (idx : Nat) : Part := { x with busy := mapSet false x.busy idx true }

/-- A request's outcome is written: its slot is busy no more. -/
def Part.release (x : Part) (idx : Nat) : Part := { x with busy := mapSet false x.busy idx false }

/-- A request's outcome shown in its slot's Result: the request is refused and logged, but the write was ordered (R421, R438). -/
def State.requestRefused (s : State) (w : WriteReq) (source code cond : Nat) (slot : Option Nat) (f : Part → Part) : State :=
  let s1 := s.refuseWrite w source code cond
  match slot with
  | some p => s1.modPart p f
  | none => s1

end Sys2Proof.Machine
end

