-- ==== Sys2Proof/Machine/Mapping.lean ====
section
/-! DEFINITION. Slabs, contexts, mappings, retired pages and the host's program load (R165, R166, R168 to R172, R179, R184, R328). -/

namespace Sys2Proof.Machine

/-! ### Slabs (R165, R166) -/

/-- A mapped page lies in a slab. -/
def State.slabMapped (s : State) (n : Nat) : Bool :=
  s.mem.maps.any (fun p => slabOf p.pa = some n) || s.mem.stale.any fun e => slabOf e.2.pa = some n

/-- The DRBG generates (R400). -/
def State.drbgReady (s : State) : Bool := s.sec.drbg = 1

/-- A slab's new key: eight bytes of the DRBG. DESIGN CHOICE (log 125): where a scrub of R427 begins while the DRBG generates nothing
(R400), the key is a free value. -/
def State.newKey (s : State) : DWord × State :=
  if s.drbgReady then
    let g := s.generate 8
    (BitVec.ofNat 64 (leNat g.1), g.2)
  else
    let a := s.freeWord
    let b := a.2.freeWord
    (a.1 ++ b.1, b.2)

/-- A slab's scrub begins, under a new key (R166); its read-ahead entries are dropped (R181). -/
def State.beginScrub (s : State) (n : Nat) (owner : BitVec 8) : State :=
  let k := s.newKey
  let s2 := k.2.modSlab n fun x => { x with owner := owner, state := 1, key := k.1 }
  { s2 with mem := { s2.mem with readAhead := s2.mem.readAhead.filter fun e => slabOf (e.line * 512) ≠ some n } }

/-- The position of the condition of R166 that refuses an owner change or a rekey with DENIED. The writer's role is asked first, so that
COND tells a writer without it nothing of the owner's mappings (R416, R419). -/
def State.slabDenied (s : State) (n : Nat) (mayAct : Bool) : Option Nat :=
  if !mayAct then some 4
  else if s.slabMapped n then some 1
  else if n = 639 then some 2
  else if (s.slab n).state = 1 then some 3
  else none

/-- An owner change or rekey that nothing denies: NOT_READY until the DRBG is ready, else the scrub begins. -/
def State.slabPut (s : State) (n : Nat) (owner : BitVec 8) : Put :=
  if s.drbgReady then .ok (s.beginScrub n owner) else .refused 0x4010 0

/-- A write to 0x2230:02. -/
def State.putSlabOwner (s : State) (ses : Ses) (r : Role) (v : BitVec 8) : Put :=
  let n := s.select ses 0x2230 1 0
  let old := (s.slab n).owner.toNat
  match s.slabDenied n (s.asOperator r) with
  | some cond => .refused 0x4001 cond
  | none =>
    Put.deny (40 ≤ v.toNat && v ≠ 0xFF) 0
      (Put.deny (old < 40 && v.toNat ≠ old && (s.part old).plan ≠ 0xFFFF) 0 (s.slabPut n v))

/-- A write to 0x2230:04. -/
def State.putRekey (s : State) (ses : Ses) (r : Role) (v : BitVec 8) : Put :=
  let n := s.select ses 0x2230 1 0
  match s.slabDenied n (s.asOwner r (s.slab n).owner.toNat) with
  | some cond => .refused 0x4001 cond
  | none => Put.deny (v ≠ 1) 0 (s.slabPut n (s.slab n).owner)

/-- SLAB_OWNER_WRITE (R166). -/
def execSlabOwnerWrite (ses : Ses) (owner : BitVec 8) (s : State) : Out :=
  s.putRow { ses := ses, idx := 0x2230, sub := 2, bytes := [owner] } fun s r => s.putSlabOwner ses r owner
/-- REKEY (R166). -/
def execRekey (ses : Ses) (s : State) : Out :=
  s.putRow { ses := ses, idx := 0x2230, sub := 4, bytes := [1] } fun s r => s.putRekey ses r 1

/-- A slab's bytes are zero and its blocks carry no check value (R165). -/
def State.wipeSlab (s : State) (n : Nat) : State :=
  { s with mem := { s.mem with tier := s.mem.tier.filter (fun c => slabOf c.1 ≠ some n),
                               blocks := s.mem.blocks.filter fun b => slabOf (b.1 * 4096) ≠ some n } }

/-- SLAB_SCRUB_DONE (R166). -/
def execSlabScrubDone (slab : BitVec 10) (s : State) : Out :=
  guardUnit (decide (slab.toNat < 640))
    (if (s.slab slab.toNat).state = 1 ∧ s.pwr.tiersTrained then
       (s.wipeSlab slab.toNat).modSlab slab.toNat fun x => { x with state := 0, scrubs := x.scrubs + 1 }
     else s)

/-! ### Contexts (R168) -/

/-- Mappings taken away: they become old entries that buffers may still hold, and read-ahead through them is dropped (R172, R181). -/
def State.unmapPages (s : State) (p : Nat) (gone : List PageMap) : State :=
  let same (a b : PageMap) : Bool := a.ctx = b.ctx && a.va = b.va
  { s with mem := { s.mem with maps := s.mem.maps.filter (fun m => !gone.any (same m)),
                               stale := s.mem.stale ++ gone.map fun g => (BitVec.ofNat 8 p, g),
                               readAhead := s.mem.readAhead.filter fun e => !gone.any (same e.via) } }

/-- A mapping request or unbinding begins to wait for old entries (R172). -/
def State.mapWait (s : State) (p : Nat) : State := s.modPart p fun x => { x with mapResult := 1, mapBusy := true }

/-- A mapping request ends with an outcome (R170). -/
def State.mapEnd (s : State) (p code : Nat) : State :=
  s.modPart p fun x => { x with mapResult := BitVec.ofNat 16 code, mapCount := x.mapCount + 1 }

/-- A binding of context c to a partition's slot. -/
def State.bindCtx (s : State) (c p slot : Nat) : State :=
  { s with mem := { s.mem with ctxs := mapSet none s.mem.ctxs c (some ⟨BitVec.ofNat 8 p, BitVec.ofNat 4 slot⟩) } }

/-- Context c unbound with every mapping and early table entry of it (R168, R172, R285). -/
def State.unbindCtx (s : State) (c p : Nat) : State :=
  let gone := s.mem.maps.filter fun m => m.ctx.toNat = c
  let s1 := s.unmapPages p gone
  ({ s1 with mem := { s1.mem with ctxs := mapSet none s1.mem.ctxs c none },
             sh := { s1.sh with early := s1.sh.early.filter fun e => e.1.toNat ≠ c } }).mapWait p

/-- A write to 0x2201:02 (R168, R414). The writer's role and the partition's own range are asked before what a context or slot holds, so that
COND tells a writer nothing of another partition's bindings (R416, R419). -/
def State.putCtxPart (s : State) (ses : Ses) (r : Role) (v : BitVec 8) : Put :=
  let c := s.select ses 0x2201 1 0
  if v = 0xFF then
    match s.ctxBind c with
    | none => .refused 0x4001 0
    | some b =>
      let p := b.part.toNat
      Put.deny (!s.asOwner r p) 0
        (Put.deny (b.slot = 0 && (s.partTiles p).any fun t => s.tileState t ≠ 0) 0 (.ok (s.unbindCtx c p)))
  else
    let slot := s.select ses 0x2201 3 0 % 16
    Put.deny (!(s.asOwner r v.toNat && s.formed v.toNat)) 3
      (Put.deny (!(102 * v.toNat ≤ c && c ≤ 102 * v.toNat + 101)) 0
        (Put.deny (s.ctxBind c).isSome 1
          (Put.deny (s.slotCtx v.toNat slot).isSome 2 (.ok (s.bindCtx c v.toNat slot)))))

/-- CONTEXT_BIND (R168). -/
def execContextBind (ses : Ses) (part : BitVec 8) (s : State) : Out :=
  s.putRow { ses := ses, idx := 0x2201, sub := 2, bytes := [part] } fun s r => s.putCtxPart ses r part
/-- CONTEXT_UNBIND (R168). -/
def execContextUnbind (ses : Ses) (s : State) : Out :=
  s.putRow { ses := ses, idx := 0x2201, sub := 2, bytes := [0xFF] } fun s r => s.putCtxPart ses r 0xFF

/-! ### The mapping request (R170 to R172) -/

/-- The fields of a mapping request. -/
structure MapReq where
  op : Nat
  big : Bool
  ctx : Nat
  count : Nat
  va : Nat
  pa : Nat
  perm : Nat
  reservedBad : Bool

/-- The fields in 32 bytes. -/
def mapReq (b : Bytes) : MapReq :=
  let op := fieldAt b 0 1
  let pg := fieldAt b 1 1
  let perm := fieldAt b 24 1
  let size := if pg = 1 then 0x40000000 else 0x200000
  let va := fieldAt b 8 8
  let pa := fieldAt b 16 8
  { op := op, big := pg = 1, ctx := fieldAt b 2 2 % 4096, count := fieldAt b 4 4, va := va, pa := pa, perm := perm,
    reservedBad := op = 0 || 3 < op || 1 < pg || 4096 ≤ fieldAt b 2 2 || 2 ^ 52 ≤ va || 4 ≤ perm || fieldAt b 25 7 ≠ 0
      || va % size ≠ 0 || pa % size ≠ 0 || (op ≠ 1 && pa ≠ 0) || (op = 2 && perm ≠ 0) }

/-- Bytes of a page of the request. -/
def MapReq.size (q : MapReq) : Nat := if q.big then 0x40000000 else 0x200000

/-- The pages a MAP makes. -/
def MapReq.pages (q : MapReq) : List PageMap :=
  (List.range q.count).map fun i =>
    { ctx := BitVec.ofNat 12 q.ctx, va := q.va + i * q.size, pa := q.pa + i * q.size, big := q.big, r := q.perm % 2 = 1,
      w := 2 ≤ q.perm }

/-- A physical page may be mapped for a partition (R161, R169, R170). -/
def State.pageOwned (s : State) (p : Nat) (pa size : Nat) : Bool :=
  (match slabOf pa with
    | some n => (s.slab n).owner.toNat = p && p < 40
    | none => false)
    && (List.range (size / 0x200000)).all fun i => !s.mem.retired.contains (pa / 0x200000 + i)

/-- A virtual page of the request is mapped, in whole or in part. -/
def State.pageMeets (s : State) (ctx va size : Nat) : Bool :=
  s.mem.maps.any fun m => m.ctx.toNat = ctx && m.va < va + size && va < m.va + m.size

/-- A virtual page is mapped with a page size. -/
def State.pageAt (s : State) (ctx va : Nat) (big : Bool) : Option PageMap :=
  s.mem.maps.find? fun m => m.ctx.toNat = ctx && m.va = va && m.big = big

/-- The condition of R170 that a request fails, by its position; `owned` says that the writer owns the context's partition. -/
def State.mapRefusal (s : State) (q : MapReq) (p : Nat) (owned : Bool) : Option Nat :=
  if !owned then some 1
  else if q.reservedBad then some 2
  else if q.count = 0 ∨ 2 ^ 52 < q.va + q.count * q.size ∨ (q.op = 1 ∧ 2 ^ 44 < q.pa + q.count * q.size) then some 3
  else if q.op = 1 && q.pages.any fun m => !s.pageOwned p m.pa q.size || s.pageMeets q.ctx m.va q.size then some 4
  else if q.op ≠ 1 && q.pages.any fun m => (s.pageAt q.ctx m.va q.big).isNone then some 5
  else none

/-- Every translation buffer without the entries for which a test holds. -/
def State.purgeTlbs (s : State) (f : PageMap → Bool) : State :=
  { s with tiles := mapEach ({} : Tile) s.tiles fun x => { x with tlb := x.tlb.filter fun p => !f p },
           mem := { s.mem with sliceTlb := mapEach [] s.mem.sliceTlb fun l => l.filter fun p => !f p } }

/-- An accepted request (R171, R172): a MAP is done at once; what takes a permission away waits for the old entries. -/
def State.mapDo (s : State) (p : Nat) (q : MapReq) : State :=
  match q.op with
  | 1 => ({ s with mem := { s.mem with maps := s.mem.maps ++ q.pages } }).mapEnd p 0
  | 2 => (s.unmapPages p (q.pages.filterMap fun m => s.pageAt q.ctx m.va q.big)).mapWait p
  | _ =>
    let hit (m : PageMap) : Bool := q.pages.any fun x => m.ctx = x.ctx && m.va = x.va
    let old := s.mem.maps.filter hit
    let new (m : PageMap) : PageMap := if hit m then { m with r := q.perm % 2 = 1, w := 2 ≤ q.perm } else m
    let s1 := { s with mem := { s.mem with maps := s.mem.maps.map new } }
    if old.any fun m => (m.r && q.perm % 2 = 0) || (m.w && q.perm < 2) then
      ({ s1 with mem := { s1.mem with stale := s1.mem.stale ++ old.map fun g => (BitVec.ofNat 8 p, g) } }).mapWait p
    else (s1.purgeTlbs hit).mapEnd p 0

/-- The partition that a context is bound to. -/
def State.ctxPart (s : State) (c : Nat) : Option Nat := (s.ctxBind c).map fun b => b.part.toNat

/-- A write to 0x2210:01: the outcome goes to Result of the writer's slot (R421, R423). -/
def State.putMap (s : State) (w : WriteReq) (r : Role) : Put :=
  let q := mapReq w.bytes
  let slot := slotPart r w.part
  let owned : Bool := match w.part with
    | some p => s.asOwner r p
    | none => false
  let refuse (code cond : Nat) : Put :=
    .ok (s.requestRefused w 1 code cond slot fun x =>
      { x with mapResult := BitVec.ofNat 16 code, mapCount := x.mapCount + 1 })
  match w.part, s.mapRefusal q (w.part.getD 0) owned with
  | _, some cond => refuse 0x4001 cond
  | none, none => refuse 0x4001 1
  | some p, none => if (s.part p).mapBusy then refuse 0x4010 0 else .ok (s.mapDo p q)

/-- The write request of a mapping record; the row gives OP. -/
def State.mapWrite (s : State) (ses : Ses) (op : Nat) (rec' : BitVec 256) : WriteReq :=
  let b := setByte (toLE rec'.toNat 32) 0 (BitVec.ofNat 8 op)
  let c := (mapReq b).ctx
  { ses := ses, idx := 0x2210, sub := 1, bytes := b, ctx := some c, part := s.ctxPart c }

/-- One mapping request written. -/
def State.mapRow (s : State) (ses : Ses) (op : Nat) (rec' : BitVec 256) : Out :=
  let w := s.mapWrite ses op rec'
  s.putRow w fun s r => s.putMap w r

/-- MAP (R171). -/
def execMap (ses : Ses) (rec' : BitVec 256) (s : State) : Out := s.mapRow ses 1 rec'
/-- UNMAP (R172). -/
def execUnmap (ses : Ses) (rec' : BitVec 256) (s : State) : Out := s.mapRow ses 2 rec'
/-- PROTECT (R172). -/
def execProtect (ses : Ses) (rec' : BitVec 256) (s : State) : Out := s.mapRow ses 3 rec'

/-- MAPPING_COMPLETE (R172): no buffer holds an old entry of the partition's requests, and Result becomes 0. -/
def execMappingComplete (part : BitVec 8) (s : State) : Out :=
  guardUnit (decide (part.toNat < 40))
    (if (s.part part.toNat).mapBusy then
       let old := (s.mem.stale.filter fun e => e.1 = part).map (·.2)
       let s1 := s.purgeTlbs fun m => old.any fun g => g.ctx = m.ctx && g.va = m.va
       let s2 := { s1 with mem := { s1.mem with stale := s1.mem.stale.filter fun e => e.1 ≠ part } }
       (s2.modPart part.toNat fun x => { x with mapBusy := false }).mapEnd part.toNat 0
     else s)

/-! ### Retired pages (R184) -/

/-- A write to 0x2250:05. -/
def State.putRetire (s : State) (r : Role) (page : Nat) : Put :=
  Put.deny (!s.asOperator r) 0
    (Put.deny (page % 0x200000 ≠ 0 || (slabOf page).isNone) 0
      (.ok { s with mem := { s.mem with
        retired := if s.mem.retired.contains (page / 0x200000) then s.mem.retired else s.mem.retired ++ [page / 0x200000] } }))

/-- RETIRE_PAGE (R184). -/
def execRetirePage (ses : Ses) (page : BitVec 64) (s : State) : Out :=
  s.putRow { ses := ses, idx := 0x2250, sub := 5, bytes := toLE page.toNat 8 } fun s r => s.putRetire r page.toNat

/-! ### The host's program load (R179) -/

/-- The end of an image's static descriptors, read header by header. -/
def State.descEnd (s : State) (who : Mover) (p : Nat) (ctx : BitVec 12) (va : Nat) : Nat → Nat → State × Option Nat
  | off, 0 => (s, some off)
  | off, n + 1 =>
    match s.readVA who p ctx (va + off) 16 with
    | (s1, h, .ok) => s1.descEnd who p ctx va (off + 16 + 16 * hdrBody (word (fieldAt h 0 4))) n
    | (s1, _, .fault ..) => (s1, none)

/-- An image read through a context, its length taken from its header; none where it is not mapped readable. -/
def State.readImage (s : State) (who : Mover) (p : Nat) (ctx : BitVec 12) (va : Nat) : State × Option Bytes :=
  match s.readVA who p ctx va 32 with
  | (s1, _, .fault ..) => (s1, none)
  | (s1, h, .ok) =>
    if 0x200000 < fieldAt h 16 4 + 4 * fieldAt h 12 4 then (s1, some h)
    else
      match s1.descEnd who p ctx va (fieldAt h 20 4) (fieldAt h 24 2) with
      | (s2, none) => (s2, none)
      | (s2, some stop) =>
        let len := max 32 (max (fieldAt h 8 4 + 4 * fieldAt h 12 4) (if fieldAt h 24 2 = 0 then 0 else stop))
        match s2.readVA who p ctx va len with
        | (s3, img, .ok) => (s3, some img)
        | (s3, _, .fault ..) => (s3, none)

/-- The write request of a load record. -/
def State.loadWrite (s : State) (ses : Ses) (rec' : BitVec 128) : WriteReq :=
  let b := toLE rec'.toNat 16
  let c := fieldAt b 0 2 % 4096
  { ses := ses, idx := 0x2220, sub := 1, bytes := b, ctx := some c, part := s.ctxPart c }

/-- The target of a load record. -/
def WriteReq.loadTarget (w : WriteReq) : Path := BitVec.ofNat 16 (fieldAt w.bytes 2 2)

/-- A load refused, with its outcome in a slot's Result. -/
def State.loadRefused (s : State) (slot : Option Nat) (w : WriteReq) (source code cond : Nat) : State :=
  s.requestRefused w source code cond slot fun x => { x.release 0x2220 with loadResult := BitVec.ofNat 16 code, loadHeld := none }

/-- A load of partition p whose record is in order: its target is asked, its image read and checked, and written; in progress until the tick.
It waits while a slab of the image is being scrubbed (R165). -/
def State.loadRun (s : State) (w : WriteReq) (p : Nat) (held : Ses × BitVec 128) : State :=
  let b := w.bytes
  let t := w.loadTarget
  let ctx : BitVec 12 := BitVec.ofNat 12 (fieldAt b 0 2)
  match s.loadTargetBad (some p) t (fieldAt b 4 1) none with
  | some cond => s.loadRefused (some p) w 3 0x4001 cond
  | none =>
    let (s1, img) := s.readImage (.tile t) p ctx (fieldAt b 8 8)
    if !s.answers (.tile t) ctx (fieldAt b 8 8) (max 32 (img.getD []).length) then
      s.modPart p fun x => { x.hold 0x2220 with loadResult := 1, loadHeld := some held }
    else match img with
      | none => s1.loadRefused (some p) w 1 0x4001 0
      | some img =>
        match loadPlan img img.length (s1.part p).repro with
        | .refuse code cond addr => s1.loadRefused (some p) { w with more := toLE addr 4 } 3 code cond
        | plan => (s1.place t plan).modPart p fun x => { x.hold 0x2220 with loadResult := 1, loadHeld := none }

/-- A write to 0x2220:01. A request refused while an earlier one is in progress leaves that one going (R506). -/
def State.putLoad (s : State) (w : WriteReq) (r : Role) (held : Ses × BitVec 128) : Put :=
  let b := w.bytes
  let refuse (source code cond : Nat) : Put :=
    .ok (s.requestRefused w source code cond (slotPart r w.part) fun x => { x with loadResult := BitVec.ofNat 16 code })
  match w.part with
  | none => refuse 1 0x4001 0
  | some p =>
    if !s.asOwner r p || 4096 ≤ fieldAt b 0 2 || fieldAt b 5 3 ≠ 0 then refuse 1 0x4001 0
    else if s.slotBusy p 0x2220 then
      (match s.loadTargetBad (some p) w.loadTarget (fieldAt b 4 1) none with
        | some cond => refuse 3 0x4001 cond
        | none => refuse 1 0x4010 0)
    else .ok (s.loadRun w p held)

/-- PROGRAM_LOAD_REQUEST (R179). -/
def execProgramLoadRequest (ses : Ses) (rec' : BitVec 128) (s : State) : Out :=
  let w := s.loadWrite ses rec'
  s.putRow w fun s r => s.putLoad w r (ses, rec')

/-- A load that waits for its memory is tried again. -/
def State.retryLoad (s : State) (p : Nat) : State :=
  match (s.part p).loadHeld with
  | some (ses, rec') => s.loadRun (s.loadWrite ses rec') p (ses, rec')
  | none => s

end Sys2Proof.Machine
end

