-- ==== Sys2Proof/Machine/Link.lean ====
section
/-! DEFINITION. The Vexoudon link (R228 to R253): frames received and sent, replay, credits, training, failure and closing. -/

namespace Sys2Proof.Machine

/-! ### Constants and counters -/

/-- The response deadline in ns (R228). -/
def responseDeadline (c : Nat) : Nat := if siteMode c then 24000 else 8000

/-- Flits of the receive buffer (R239). -/
def receiveFlits (c : Nat) : Nat := if siteMode c then 131072 else 16384

/-- The die of a port (R15). -/
def portDie (c : Nat) : Nat := c % 2 * 2 + c / 2 % 2

/-- The optical engine of a port (R15). -/
def portEngine (c : Nat) : Nat := 2 * portDie c + (if 8 ≤ c then 1 else 0)

/-- The port a port is mated with (R229). -/
def mate (c : Nat) : Nat := c / 4 * 4 + (c % 4 + 2) % 4

/-- A 24-bit difference as a signed number (R235). -/
def diff24 (x y : BitVec 24) : Int := signed 24 (x - y).toNat

/-- A counter of 0x2401 raised. -/
def Port.count (x : Port) (sub n : Nat) : Port := { x with ctr := mapSet 0 x.ctr sub (satAdd64 (mapGet 0 x.ctr sub) n) }

/-- A reason of R250 applies to a link event: all but LINK_UP, KEY_WEAR, LINK_REPLAY_RATE and LINK_PARITY. -/
def reasonApplies (code : Nat) : Bool := !([0x1601, 0x1606, 0x1607, 0xC602].contains code)

/-- A link event: port code, reason, ACK and TXS (R253), then what the event's own rule names. -/
def State.linkEvent (s : State) (c code part : Nat) (more : Bytes) : State :=
  let x := s.port c
  s.raise { code := code, part := part,
            detail := [BitVec.ofNat 8 c, if reasonApplies code then x.reason else 0, 0, 0] ++ toLE x.ack.toNat 4 ++ toLE x.txs.toNat 4 ++ more }

/-! ### A port leaves UP (R242, R243, R286) -/

/-- An open slot depends on a port: a message of it waits there, or one sent there has no DONE (R286). -/
def Slot.uses (x : Slot) (port : Port) (c : Nat) : Bool :=
  port.txQ.any (fun m => m.part.isSome && m.msg.gid = x.gid && m.msg.seq = x.seq)
    || x.via.any fun v => v.2 = c && !x.doneFrom.contains v.1

/-- The open slots that depend on a port. -/
def State.slotsUsing (s : State) (c : Nat) : List Nat :=
  (s.sh.slots.filter fun e => match e.2 with
    | some x => x.uses (s.port c) c
    | none => false).map (·.1)

/-- A collective ends with a reason of R285: COLLECTIVE_DEADLINE in its partition. -/
def State.endCollective (s : State) (key reason : Nat) : State :=
  match mapGet none s.sh.slots key with
  | none => s
  | some x =>
    s.raiseWith { code := 0x8120, path := some x.tile, part := x.part, ctx := key / 16, stag := some x.stag,
                  detail := toLE x.gid.toNat 2 ++ toLE x.seq.toNat 2 ++ [BitVec.ofNat 8 (key % 16), BitVec.ofNat 8 reason] }
      (some reason)

/-- A port leaves UP for a state and reason; what follows is raised first, then the collectives that depended on it end. -/
def State.portLost (s : State) (c : Nat) (st : PortState) (reason : Nat) (after : State → State) : State :=
  let keys := s.slotsUsing c
  let s1 := after (s.modPort c fun x => x.leave st reason)
  s1.each keys fun a k => a.endCollective k 3

/-- A failed port (R242). -/
def State.failPort (s : State) (c reason : Nat) : State :=
  if reason = 6 then s.portLost c .failed 6 fun a => a.linkEvent c 0xC601 0xFE []
  else if reason = 5 then
    let parts := ((s.slotsUsing c).filterMap fun k => (mapGet none s.sh.slots k).map fun x => x.part).eraseDups
    let s1 := s.sendControl c (helloWords c false true 2)
    s1.portLost c .down 5 fun a => a.each parts fun b p => b.linkEvent c 0x8101 p []
  else if siteMode c then s.portLost c .down reason fun a => a.linkEvent c 0x1602 0xFE []
  else s.portLost c .failed reason fun a => a.linkEvent c 0xC020 0xFE []

/-! ### Receiving (R236, R237) -/

/-- A NAK event (R236). -/
def Port.nak (x : Port) (reason : Nat) : Port := { x with nakn := x.nakn + 1, nrsn := BitVec.ofNat 2 reason, await := true }

/-- A NAK event unless a replay is awaited. -/
def Port.nakOnce (x : Port) (reason : Nat) : Port := if x.await then x else x.nak reason

/-- The additional data of a frame's tag: its header with RPN, which a replay changes, taken as 0. -/
def aadOf (f : Bytes) : Bytes := setByte (f.take 32) 7 ((f.getD 7 0) &&& 0xE1)

/-- PLEN of a frame. -/
def framePlen (f : Bytes) : Nat := fieldAt f 4 2 % 512

/-- A data frame passes its CRC and form (R231, R236). -/
def dataOk (c : Nat) (f : Bytes) : Bool :=
  let w0 := word (fieldAt f 0 4)
  let w1 := word (fieldAt f 4 4)
  let n := framePlen f
  bits w0 28 4 = 0 && bits w0 24 2 = 0 && bits w1 9 16 = 0 && 1 ≤ n && n ≤ 256 && f.length = 64 * (n + 1)
    && fieldAt f (32 + 64 * n + 16) 12 = 0 && fieldAt f (f.length - 4) 4 = (crc32c (f.take (f.length - 4))).toNat
    && (siteMode c || (!bit w0 27 && fieldAt f 8 8 = 0 && fieldAt f (32 + 64 * n) 16 = 0))

/-- The payload of a frame that passes its tag (R245, R246); in short mode the payload as it stands. -/
def State.openFrame (s : State) (c : Nat) (f : Bytes) : Option Bytes :=
  let n := framePlen f
  let ct := slice f 32 (64 * n)
  if !siteMode c then some ct
  else
    let ks := if bit (word (fieldAt f 0 4)) 27 then 1 else 0
    let cnt := fieldAt f 8 8
    match s.key (linkKeyId c 1 ks) with
    | none => none
    | some k =>
      let rk := roundKeys k.bytes
      if cnt ≤ (mapGet 0 (s.port c).fcnt (2 + ks)).toNat || 2 ^ 63 ≤ cnt then none
      else if gcmTag rk (linkIv k.salt cnt) (aadOf f) ct = slice f (32 + 64 * n) 16 then some (gcmCrypt rk (linkIv k.salt cnt) ct)
      else none

/-- Flits given back to the allowance of a VC or to the pool (R239). -/
def Port.giveBack (x : Port) (vc : BitVec 3) (sh : Bool) (n : Nat) : Port :=
  let key := if sh then 8 else vc.toNat
  { x with returned := mapSet 0 x.returned key (mapGet 0 x.returned key + BitVec.ofNat 24 n) }

/-- A message for another module goes on toward it on its VC (R280); one without a path is lost here (R286). -/
def State.forward (s : State) (c : Nat) (m : Msg) (vc : BitVec 3) (sh : Bool) (n : Nat) : State :=
  let s1 := s.modPort c fun x => x.giveBack vc sh n
  match s1.hop m.dest.toNat (s1.fixedIndex none m) with
  | none => s1
  | some o => s1.modPort o fun x => { x with txQ := x.txQ ++ [{ vc := vc, part := none, ctx := 0, msg := m }] }

/-- SH_STRAY is due for a context: none within the last second (R272). -/
def State.strayDue (s : State) (key : Nat) : Bool :=
  match s.sh.stray.find? fun e => e.1 = key with
  | none => true
  | some e => e.2 + 1000000000 ≤ s.island

/-- SH_STRAY, at most once per second per context. -/
def State.strayEvent (s : State) (key part ctx : Nat) (gid : BitVec 16) : State :=
  if s.strayDue key then
    { s with sh := { s.sh with stray := mapInsert (mapErase s.sh.stray key) key s.island } }.raise
      { code := 0x1701, part := part, ctx := ctx, detail := toLE gid.toNat 2 }
  else s

/-- A message discarded under R272: counted for its group's partition. DESIGN CHOICE (log 120): a GID no group has names no partition, so
that nothing counts it, and its SH_STRAY is the device's, at most once per second. -/
def State.strayMsg (s : State) (gid : BitVec 16) : State :=
  match s.group gid with
  | none => s.strayEvent 4096 0xFE 0 gid
  | some g => (s.countPart (some g.part.toNat) 0x2520 5 1).strayEvent g.ctx.toNat g.part.toNat g.ctx.toNat gid

/-- A frame taken by the Shuttle slice: forwarded, discarded where its type is reserved, or kept for its message's row. -/
def State.accept (s : State) (c : Nat) (m : Msg) (vc : BitVec 3) (sh : Bool) (n : Nat) : State :=
  if m.dest.toNat ≠ s.sh.coords.toNat % 2 ^ 17 then s.forward c m vc sh n
  else if m.mt = 6 ∨ m.mt = 7 ∨ 13 ≤ m.mt.toNat then (s.modPort c fun x => x.giveBack vc sh n).strayMsg m.gid
  else s.modPort c fun x => { x with rxQ := x.rxQ ++ [(m, vc, sh, n)] }

/-- The port's registers when a data frame is delivered in order (R236). -/
def Port.deliver (x : Port) (c : Nat) (f : Bytes) : Port :=
  let w0 := word (fieldAt f 0 4)
  let ks := if bit w0 27 then 1 else 0
  let y := { x with ack := BitVec.ofNat 24 (bits w0 0 24), await := false, tagFails := 0,
                    fcnt := if siteMode c then mapSet 0 x.fcnt (2 + ks) (BitVec.ofNat 64 (fieldAt f 8 8)) else x.fcnt }
  (y.count 3 1).count 0xA (64 * framePlen f)

/-- The tag of the next frame has failed (R236, R241). -/
def State.tagFailed (s : State) (c : Nat) : State :=
  let s1 := s.modPort c fun x => { (x.nak 2).count 8 1 with tagFails := x.tagFails + 1 }
  if 4 ≤ (s1.port c).tagFails then s1.failPort c 5 else s1

/-- A frame of more than one flit arrives (R236). -/
def State.rxData (s : State) (c : Nat) (f : Bytes) : State :=
  let x := s.port c
  let w0 := word (fieldAt f 0 4)
  let w1 := word (fieldAt f 4 4)
  if !dataOk c f then s.modPort c fun x => (x.nakOnce 0).count 6 1
  else if x.await && bits w1 25 4 ≠ x.nakn.toNat then s
  else
    let d := diff24 (BitVec.ofNat 24 (bits w0 0 24)) x.ack
    if d ≤ 0 then s
    else if 1 < d then s.modPort c fun x => x.nakOnce 1
    else
      match s.openFrame c f with
      | none => s.tagFailed c
      | some payload =>
        (s.modPort c fun x => x.deliver c f).accept c (parseMsg (slice f 16 16) payload) (BitVec.ofNat 3 (bits w1 29 3))
          (bit w0 26) (framePlen f + 1)

/-- A one-flit frame that fails a check (R236). -/
def State.dropControl (s : State) (c : Nat) : State := s.modPort c fun x => x.count 9 1

/-- The FEC codewords that an arriving frame's lanes corrected, and those they could not where the frame fails its CRC (R251). How many
they are is a matter of the fibre: free values (log 121). -/
def State.countFec (s : State) (c : Nat) (good : Bool) : State :=
  let (w, s1) := s.freeWord
  let s2 := s1.modPort c fun x => x.count 4 w.toNat
  if good then s2
  else
    let (v, s3) := s2.freeWord
    s3.modPort c fun x => x.count 5 v.toNat

/-- A frame waits at a D port whose cipher engine has no fresh masking seed (R401). -/
def State.stall (s : State) (c : Nat) (f : Bytes) (stamp : Nat) : State :=
  s.modPort c fun x => { x with stalled := x.stalled ++ [(f, stamp)] }

/-- A data frame arrives on a port that is UP (R236). -/
def State.frameIn (s : State) (c : Nat) (f : Bytes) : State :=
  if s.fatal || !s.portUp c then s
  else if !s.maskFresh c then s.stall c f 0
  else
    let s1 := s.countFec c (64 < f.length && dataOk c f)
    if f.length ≤ 64 then s1.dropControl c else s1.rxData c f

/-- DATA_FRAME (R236): a data frame arrives on a port that is UP. -/
def execDataFrame (p : PortCode) (frame : Bytes) (s : State) : Out := .next (s.frameIn p.toNat frame)

/-! ### Control frames (R232 to R236) -/

/-- Word i of a control frame. -/
def ctlWord (f : Bytes) (i : Nat) : Word := word (fieldAt f (4 * i) 4)

/-- CRC, KIND and reserved fields of a control frame. -/
def ctlOk (c : Nat) (f : Bytes) : Bool :=
  let w := ctlWord f
  let zero (lo n : Nat) : Bool := (List.range n).all fun i => w (lo + i) = 0
  f.length = 64 && fieldAt f 60 4 = (crc32c (f.take 60)).toNat && (siteMode c || zero 12 3)
    && (match bits (w 0) 28 4 with
      | 0x8 => bits (w 0) 5 19 = 0 && bits (w 0) 24 2 ≠ 3 && bits (w 1) 16 16 = 0 && zero 6 6
      | 0x9 => ((List.range 9).all fun i => bits (w (1 + i)) 24 8 = 0) && bits (w 10) 26 6 = 0 && bits (w 10) 24 2 ≠ 3
          && bits (w 11) 4 28 = 0
      | 0xA => bits (w 0) 18 10 = 0 && bits (w 3) 16 16 = 0
      | _ => false)

/-- The 64-bit extension of a CSEQ that follows the last accepted one (R236, R246). -/
def extendCseq (last : DWord) (w : Word) : DWord := last + (w - last.setWidth 32).setWidth 64

/-- CSEQ of a control frame in site mode follows the last accepted one by 1 to 2^31. -/
def State.cseqOk (s : State) (c : Nat) (f : Bytes) : Bool :=
  let gap := (ctlWord f 12 - (s.port c).rxCseq.setWidth 32).toNat
  1 ≤ gap && gap ≤ 2 ^ 31

/-- CTAG of a control frame in site mode; the receiver accepts either receive slot that holds a key. -/
def State.ctagOk (s : State) (c : Nat) (f : Bytes) : Bool :=
  let last := (s.port c).rxCseq
  (List.range 2).any fun ks =>
    match s.key (linkKeyId c 1 ks) with
    | none => false
    | some k =>
      (gcmTag (roundKeys k.bytes) (linkIv k.salt (2 ^ 63 + (extendCseq last (ctlWord f 12)).toNat)) (f.take 52) []).take 8
        = slice f 52 8

/-- A peer that fails step 5 (R244): DOWN with reason 8, and LINK_MISWIRE once for each change of the condition. -/
def State.miswire (s : State) (c : Nat) (f : Bytes) : State :=
  let s1 := s.modPort c fun x => { x.leave .down 8 with miswired := true, triedAt := some s.island }
  if (s.port c).miswired then s1 else s1.linkEvent c 0x1603 0xFE [BitVec.ofNat 8 (bits (ctlWord f 0) 0 4)]

/-- A control frame whose CTAG fails is discarded and counted (R236); a HELLO without CLOSE that fails it while the port trains fails step 5
of R244. -/
def State.ctagFailed (s : State) (c : Nat) (f : Bytes) : State :=
  let s1 := (s.modPort c fun x => x.count 8 1).dropControl c
  if (s.port c).state = .training && bits (ctlWord f 0) 28 4 = 8 && !bit (ctlWord f 0) 26 then s1.miswire c f else s1

/-- The port's registers when a control frame is accepted. One that comes to a port in UP after its response deadline does not move it: the
deadline has passed (R241, R344). -/
def Port.heard (x : Port) (c now : Nat) (f : Bytes) : Port :=
  { x with lastCtl := if x.state = .up && x.lastCtl + responseDeadline c < now then x.lastCtl else now,
           rxCseq := if siteMode c then extendCseq x.rxCseq (ctlWord f 12) else x.rxCseq }

/-- A control frame is handled if it passes R236, else discarded and counted. -/
def State.rxControl (s : State) (c kind : Nat) (f : Bytes) (stamp : Nat) (use : State → State) : State :=
  if s.fatal || !((s.port c).state = .up || ((s.port c).state = .training && (s.port c).lanes = 0xFFFF)) then s
  else if !s.maskFresh c then s.stall c f stamp
  else
    let s1 := s.countFec c (ctlOk c f)
    if !ctlOk c f then s1.dropControl c
    else if siteMode c && !s.ctagOk c f then s1.ctagFailed c f
    else if siteMode c && !s.cseqOk c f then s1.dropControl c
    else if bits (ctlWord f 0) 28 4 ≠ kind then s1
    else use (s1.modPort c fun x => x.heard c s.island f)

/-! ### Training (R244) -/

/-- The sum 2 × delay over which a port is out of reach, in 1/32 ns. -/
def reachLimit (c : Nat) : Nat := (if siteMode c then 10000 else 520) * 32

/-- The mean of the last 64 delay samples in ps (R250); a sample counts 1/32 ns. -/
def Port.meanDelay (x : Port) : Nat := x.delays.sum * 125 / (4 * x.delays.length)

/-- The samples of an attempt. -/
def Port.fresh (x : Port) : List Nat := x.delays.take x.sampled

/-- The mean of the attempt's samples is beyond the reach of R244. -/
def Port.tooFar (x : Port) (c : Nat) : Bool := reachLimit c * x.fresh.length < x.fresh.sum

/-- The port's registers on reaching UP (R235); Reason keeps why it last left UP or failed to reach it (R250). -/
def Port.rise (x : Port) (now : Nat) : Port :=
  { x with state := .up, fseq := 0, txs := 0xFFFFFF, ack := 0xFFFFFF, nakn := 0, rpn := 0, lastNakn := 0, nrsn := 0,
           await := false, tagFails := 0, replays := 0, buffer := [], again := [], txQ := [], debit := [],
           credit := [], returned := [], closing := none, served := [], turns := [], slotAt := none, lastCtl := now }

/-- Steps 5 and 6: four delay samples within reach, and HELLO with SEEN both sent and received, within the 500 ms of the attempt. -/
def State.tryUp (s : State) (c : Nat) : State :=
  let x := s.port c
  if x.state ≠ .training || x.sampled < 4 || x.trainAt + 500000000 < s.island then s
  else if x.tooFar c then
    let s1 := s.modPort c fun x => { x.leave .down 9 with reachBad := true, triedAt := some s.island }
    if x.reachBad then s1 else s1.linkEvent c 0x1604 0xFE []
  else
    let s1 := s.modPort c fun x => { x with reachBad := false }
    if x.seenRx && x.seenTx then (s1.modPort c fun x => x.rise s.island).linkEvent c 0x1601 0xFE [] else s1

/-- The peer of a HELLO passes step 5 (R244). -/
def peerOk (c : Nat) (f : Bytes) : Bool :=
  bits (ctlWord f 0) 0 4 = mate c && bit (ctlWord f 0) 4 = siteMode c && bits (ctlWord f 1) 0 16 = 1

/-- A HELLO with CLOSE (R243). -/
def State.peerClosed (s : State) (c : Nat) (f : Bytes) : State :=
  s.portLost c .down (12 + bits (ctlWord f 0) 24 2) fun a => (a.modPort c fun x => { x with triedAt := some s.island }).linkEvent c 0x1605 0xFE []

/-- A HELLO that passed R236. -/
def State.rxHello (s : State) (c : Nat) (f : Bytes) : State :=
  let x := s.port c
  if bit (ctlWord f 0) 26 then s.peerClosed c f
  else if x.state ≠ .training then s
  else if peerOk c f then
    (s.modPort c fun x =>
      { x with seen := true, seenRx := x.seenRx || bit (ctlWord f 0) 27, miswired := false,
               peerSerial := BitVec.ofNat 128 (beNat (slice f 8 16)), peerPort := BitVec.ofNat 8 (bits (ctlWord f 0) 0 4) }).tryUp c
  else s.miswire c f

/-- A HELLO frame arrives. -/
def State.helloIn (s : State) (c : Nat) (f : Bytes) : State := s.rxControl c 8 f 0 fun a => a.rxHello c f

/-- HELLO (R243, R244): a HELLO frame arrives. -/
def execHello (p : PortCode) (frame : Bytes) (s : State) : Out := .next (s.helloIn p.toNat frame)

/-- The optical engine of a port is powered and its function bit set (R460, R471). -/
def State.engineUp (s : State) (c : Nat) : Bool := bit s.pwr.functions (12 + portEngine c)

/-- A receive key and a transmit key are installed and the cipher engine is ready (R244, step 1). -/
def State.linkKeys (s : State) (c : Nat) : Bool :=
  bit s.pwr.functions 6 && [0, 1].any (fun k => (s.key (linkKeyId c 0 k)).isSome) && [0, 1].any fun k => (s.key (linkKeyId c 1 k)).isSome

/-- PORT_TRAIN (R244): an enabled port in OFF or DOWN begins an attempt; a port in DOWN every 100 ms (R242). -/
def execPortTrain (p : PortCode) (s : State) : Out :=
  .next
    (let c := p.toNat
     let x := s.port c
     let due := match x.state, x.triedAt with
       | .off, _ => true
       | .down, some t => t + 100000000 ≤ s.island
       | .down, none => true
       | _, _ => false
     if s.fatal || !x.enable || !due || !s.engineUp c then s
     else if siteMode c && !s.linkKeys c then
       s.modPort c fun x => { x with state := .down, reason := 11, triedAt := some s.island }
     else
       s.modPort c fun x => { x with state := .training, lasers := true, trainAt := s.island, lanes := 0, seen := false,
                                     seenRx := false, seenTx := false, sampled := 0, closing := none, triedAt := some s.island })

/-- LANE_LOCK (R244, steps 2 to 4): lanes of a training port achieve clock recovery, FEC lock and deskew. -/
def execLaneLock (p : PortCode) (lanes : BitVec 16) (s : State) : Out :=
  .next
    (if s.fatal || (s.port p.toNat).state ≠ .training then s
     else s.modPort p.toNat fun x => { x with lanes := x.lanes ||| lanes })

/-- HELLO_SEND (R244, step 5): a training port with its lanes up sends HELLO. -/
def execHelloSend (p : PortCode) (s : State) : Out :=
  .next
    (let c := p.toNat
     let x := s.port c
     if s.fatal || x.state ≠ .training || x.lanes ≠ 0xFFFF || !s.controlOpen c then s
     else
       ((s.sendControl c (helloWords c x.seen false 0)).modPort c fun x =>
         { x with lastHello := some s.island, seenTx := x.seenTx || x.seen }).tryUp c)

/-- TRAINING_TIMEOUT (R244): an attempt not UP within 500 ms. -/
def execTrainingTimeout (p : PortCode) (s : State) : Out :=
  .next
    (let x := s.port p.toNat
     if x.state = .training ∧ x.trainAt + 500000000 < s.island ∧ !s.fatal then
       s.modPort p.toNat fun x => { x.leave .down 10 with triedAt := some s.island }
     else s)

/-! ### Acknowledgement, credits and replay (R238, R239) -/

/-- Sixteen replays without an advance of ACK, and the rate of replays (R238, R253). -/
def State.startReplay (s : State) (c : Nat) (nakn : BitVec 4) : State :=
  let s1 := s.modPort c fun x =>
    let times := (s.island :: x.replayTimes).filter fun t => s.island < t + 1000000000
    { x.count 7 1 with lastNakn := nakn, rpn := nakn, again := x.buffer, replays := x.replays + 1, replayTimes := times.take 1001 }
  let x := s1.port c
  let due := match x.lastRate with
    | none => true
    | some t => t + 60000000000 ≤ s.island
  let s2 := if 1000 < x.replayTimes.length && due then
    (s1.modPort c fun x => { x with lastRate := some s.island }).linkEvent c 0x1607 0xFE [] else s1
  if 16 ≤ x.replays then s2.failPort c 3 else s2

/-- The acknowledgements and credits of a CREDIT (R238, R239). An ACK stamped after a frame's response deadline comes too late for that frame,
which stays and fails the port (R241, R344). -/
def Port.takeCredit (x : Port) (c now : Nat) (f : Bytes) : Port :=
  let w := ctlWord f
  let ack : BitVec 24 := BitVec.ofNat 24 (bits (w 0) 0 24)
  let stays (e : SentFrame) : Bool := 0 < diff24 e.fseq ack || e.sentAt + responseDeadline c < now
  let left := x.buffer.filter stays
  { x with buffer := left, again := x.again.filter (fun e => 0 < diff24 e.fseq ack),
           replays := if left.length < x.buffer.length then 0 else x.replays,
           credit := (List.range 9).foldl (fun m v => mapSet 0 m v (BitVec.ofNat 24 (bits (w (1 + v)) 0 24))) x.credit }

/-- The last two rows of R236. -/
def Port.closeGap (x : Port) (f : Bytes) : Port :=
  let w := ctlWord f
  let behind : Bool := 0 < diff24 (BitVec.ofNat 24 (bits (w 10) 0 24)) x.ack
  if x.await then
    if bits (w 11) 0 4 = x.nakn.toNat then (let y := { x with await := false }; if behind then y.nak 1 else y) else x
  else if behind then x.nak 1 else x

/-- A CREDIT frame that passed R236. -/
def State.rxCredit (s : State) (c : Nat) (f : Bytes) : State :=
  if !s.portUp c then s
  else
    let nakn : BitVec 4 := BitVec.ofNat 4 (bits (ctlWord f 0) 24 4)
    let s1 := s.modPort c fun x => (x.takeCredit c s.island f).closeGap f
    if nakn ≠ (s1.port c).lastNakn then s1.startReplay c nakn else s1

/-- A CREDIT frame arrives. -/
def State.creditIn (s : State) (c : Nat) (f : Bytes) : State := s.rxControl c 9 f 0 fun a => a.rxCredit c f

/-- CREDIT (R236, R238, R239): a CREDIT frame arrives. -/
def execCredit (p : PortCode) (frame : Bytes) (s : State) : Out := .next (s.creditIn p.toNat frame)

/-- CREDIT_SEND (R234, R240): a port in UP sends a CREDIT frame. -/
def execCreditSend (p : PortCode) (s : State) : Out :=
  .next
    (let c := p.toNat
     let x := s.port c
     if s.fatal || !s.portUp c || !s.controlOpen c then s
     else
       (s.sendControl c ([0x9 * 2 ^ 28 + x.nakn.toNat * 2 ^ 24 + x.ack.toNat]
           ++ (List.range 9).map (fun v => (mapGet 0 x.returned v).toNat)
           ++ [x.nrsn.toNat * 2 ^ 24 + x.txs.toNat, x.rpn.toNat])).modPort c fun x => { x with lastCredit := some s.island })

/-! ### Sending data frames (R238, R239, R245, R282, R283) -/

/-- The reserved allowance of a VC in flits. -/
def State.allowance (s : State) (c v : Nat) : Nat := if s.vcSealed v then (if siteMode c then 16384 else 2048) else 520

/-- Flits of the shared pool. -/
def State.pool (s : State) (c : Nat) : Nat := receiveFlits c - ((List.range 8).map (s.allowance c)).sum

/-- Flits outstanding against an allowance (keys 0 to 7) or the pool (key 8). -/
def Port.outstanding (x : Port) (key : Nat) : Nat := (mapGet 0 x.debit key - mapGet 0 x.credit key).toNat

/-- What a frame of F flits on a VC would be debited from: its allowance, or the pool; none if it has to wait. -/
def State.debitFor (s : State) (c : Nat) (vc : BitVec 3) (flits : Nat) : Option Bool :=
  let x := s.port c
  let v := vc.toNat
  if x.outstanding v + flits ≤ s.allowance c v then some false
  else if !s.vcSealed v && x.outstanding 8 + flits ≤ s.pool c then some true
  else none

/-- The number of the present time slot (R282). -/
def timeSlot (now : Nat) : Nat := now * 100 / slotTime

/-- The time slots let a VC send now (R282). -/
def State.slotOpen (s : State) (c : Nat) (vc : BitVec 3) : Bool :=
  let x := s.port c
  let n := timeSlot s.island
  if !(List.range 8).any s.vcSealed then true
  else if x.slotAt = some n then false
  else if vc.toNat ≤ 1 then n % 8 = vc.toNat || (2 ≤ n % 8 && !s.vcSealed (n % 8))
  else n % 8 = vc.toNat

/-- The contender of a queued message in VCs 0 and 1: its partition, or 40 for a forwarded one. -/
def OutMsg.contender (m : OutMsg) : Nat :=
  match m.part with
  | some p => p.toNat
  | none => 40

/-- The weight of a contender (R283); a forwarded frame's is 16. -/
def State.weightOf (s : State) (k : Nat) : Nat := if k < 40 then (s.part k).weight.toNat else 16

/-- The contender whose turn it is: the least frames sent in proportion to its weight among those with some left in the round. -/
def State.turnOf (s : State) (served : SMap Nat) (ks : List Nat) : Option Nat :=
  (ks.filter fun k => mapGet 0 served k < s.weightOf k).foldl (fun a k =>
    match a with
    | none => some k
    | some b => if mapGet 0 served k * s.weightOf b < mapGet 0 served b * s.weightOf k then some k else some b) none

/-- The key of the open slot a message belongs to; a message of no open slot (an outing's, or a slot's that has ended) has the key after
all of them. -/
def State.msgKey (s : State) (m : OutMsg) : Nat :=
  (((List.range 16).map (m.ctx.toNat * 16 + ·)).find? fun k =>
    match mapGet none s.sh.slots k with
    | some x => x.gid = m.msg.gid && x.seq = m.msg.seq
    | none => false).getD 0x10000

/-- The first of some keys from one on, or else the first of them. -/
def nextKey (from' : Nat) (ks : List Nat) : Option Nat := (ks.filter (from' ≤ ·)).min?.orElse fun _ => ks.min?

/-- Whose turn it is to send: a message, or none where the turn is that of a slot with nothing ready; and the counts after the turn. -/
structure Turn where
  msg : Option OutMsg
  served : SMap Nat
  turns : SMap Nat

/-- The turn of a contender among the messages that could go. Open slots are served in turn; in reproducible mode the turn passes to every
open slot in ascending order, ready or not (R283). -/
def State.turnIn (s : State) (x : Port) (can : List OutMsg) (served : SMap Nat) (k : Nat) : Turn :=
  let mine := can.filter fun m => m.contender = k
  if k = 40 then { msg := mine.head?, served := served, turns := x.turns }
  else
    let ready := mine.map s.msgKey
    let keys := if (s.part k).repro then s.slotsOf k ++ ready.filter (0x10000 ≤ ·) else ready
    let key := (nextKey (mapGet 0 x.turns k) keys).getD 0
    { msg := mine.find? fun m => s.msgKey m = key, served := served, turns := mapSet 0 x.turns k (key + 1) }

/-- Who sends next on a port. -/
def State.nextMsg (s : State) (c : Nat) : Option Turn :=
  let x := s.port c
  let can := x.txQ.filter fun m => s.slotOpen c m.vc && (s.debitFor c m.vc (frameFlits m.msg.payload.length)).isSome
  match can.find? fun m => 2 ≤ m.vc.toNat with
  | some m => some (s.turnIn x (can.filter fun o => o.vc = m.vc) x.served m.contender)
  | none =>
    let ks := (can.map OutMsg.contender).eraseDups
    let (k, served) := match s.turnOf x.served ks with
      | some k => (some k, x.served)
      | none => (s.turnOf [] ks, [])
    k.map fun k => s.turnIn x can (mapSet 0 served k (mapGet 0 served k + 1)) k

/-- A data frame's bytes up to its payload's encryption and CRC (R231, R245). -/
def State.dataFrame (s : State) (c : Nat) (m : OutMsg) (sh : Bool) (fcnt : Nat) : Bytes :=
  let x := s.port c
  let n := (m.msg.payload.length + 63) / 64
  let hdr := toLE ((if x.txKs && siteMode c then 2 ^ 27 else 0) + (if sh then 2 ^ 26 else 0) + x.fseq.toNat) 4
    ++ toLE (m.vc.toNat * 2 ^ 29 + x.rpn.toNat * 2 ^ 25 + n) 4 ++ toLE fcnt 8 ++ m.msg.header
  let plain := fit m.msg.payload (64 * n)
  let (ct, tag) := match siteMode c, s.key (linkKeyId c 0 (if x.txKs then 1 else 0)) with
    | true, some k =>
      let rk := roundKeys k.bytes
      let ct := gcmCrypt rk (linkIv k.salt fcnt) plain
      (ct, gcmTag rk (linkIv k.salt fcnt) (aadOf hdr) ct)
    | _, _ => (plain, zeros 16)
  let b := hdr ++ ct ++ tag ++ zeros 12
  b ++ toLE (crc32c b).toNat 4

/-- A replayed frame: its original bytes with the new RPN and the CRC over them (R238). -/
def replayed (f : Bytes) (rpn : BitVec 4) : Bytes :=
  let g := setByte f 7 (((f.getD 7 0) &&& 0xE1) ||| (rpn.setWidth 8 <<< 1))
  g.take (g.length - 4) ++ toLE (crc32c (g.take (g.length - 4))).toNat 4

/-- The transmit side can encrypt a new frame (R247). -/
def State.canEncrypt (s : State) (c : Nat) : Bool :=
  let x := s.port c
  let ks := if x.txKs then 1 else 0
  !siteMode c || (s.maskFresh c && (s.key (linkKeyId c 0 ks)).isSome && (mapGet 0 x.fcnt ks).toNat < 2 ^ 40)

/-- A new data frame leaves. -/
def State.sendNew (s : State) (c : Nat) (m : OutMsg) (turn : Turn) : State :=
  let x := s.port c
  let ks := if x.txKs then 1 else 0
  let flits := frameFlits m.msg.payload.length
  let sh := (s.debitFor c m.vc flits).getD false
  let fcnt := if siteMode c then (mapGet 0 x.fcnt ks).toNat + 1 else 0
  let f := s.dataFrame c m sh fcnt
  let key := if sh then 8 else m.vc.toNat
  let sent : SentFrame := { fseq := x.fseq, vc := m.vc, ks := x.txKs && siteMode c, flits := flits, bytes := f, sentAt := s.island }
  let s1 := s.modPort c fun x =>
    { x.count 2 1 with txQ := x.txQ.erase m, buffer := x.buffer ++ [sent], txs := x.fseq, fseq := x.fseq + 1, lastTx := f,
                       debit := mapSet 0 x.debit key (mapGet 0 x.debit key + BitVec.ofNat 24 flits),
                       fcnt := if siteMode c then mapSet 0 x.fcnt ks (BitVec.ofNat 64 fcnt) else x.fcnt,
                       served := turn.served, turns := turn.turns, slotAt := some (timeSlot s.island) }
  if siteMode c ∧ fcnt = 2 ^ 39 then s1.linkEvent c 0x1606 0xFE [] else s1

/-- The next frame of a replay leaves again. -/
def State.sendAgain (s : State) (c : Nat) (e : SentFrame) : State :=
  s.modPort c fun x =>
    { x.count 2 1 with again := x.again.drop 1, lastTx := replayed e.bytes x.rpn, txs := e.fseq, slotAt := some (timeSlot s.island),
                       buffer := x.buffer.map fun b => if b.fseq = e.fseq then { b with sentAt := s.island } else b }

/-- The next frame of a replay leaves, else the new frame whose turn it is and that has credit. A closing port sends no new data (R243). -/
def State.sendFrame (s : State) (c : Nat) : State :=
  let x := s.port c
  if s.fatal || !s.portUp c then s
  else match x.again with
    | e :: _ => if s.slotOpen c e.vc then s.sendAgain c e else s
    | [] =>
      if x.closing.isSome || !s.canEncrypt c then s
      else match s.nextMsg c with
        | none => s
        | some turn =>
          match turn.msg with
          | some m => s.sendNew c m turn
          | none => s.modPort c fun x => { x with served := turn.served, turns := turn.turns }

/-! ### Deadlines, failures, closing (R241 to R243) -/

/-- RESPONSE_DEADLINE (R241): a frame without ACK (reason 1), or no accepted control frame (reason 2), past the deadline. -/
def execResponseDeadline (p : PortCode) (s : State) : Out :=
  .next
    (let c := p.toNat
     let x := s.port c
     if s.fatal || !s.portUp c then s
     else if x.buffer.any fun e => e.sentAt + responseDeadline c < s.island then s.failPort c 1
     else if x.lastCtl + responseDeadline c < s.island then s.failPort c 2
     else s)

/-- LANE_LOCK_LOSS (R241): a lane loses clock recovery or FEC lock. -/
def execLaneLockLoss (p : PortCode) (lane : BitVec 4) (s : State) : Out :=
  .next
    (let c := p.toNat
     if s.fatal then s
     else match (s.port c).state with
       | .up => s.failPort c 4
       | .training => s.modPort c fun x => { x with lanes := x.lanes &&& ~~~(1#16 <<< lane.toNat) }
       | _ => s)

/-- OPTICS_MONITOR_FAULT (R241, reason 6). -/
def execOpticsMonitorFault (p : PortCode) (s : State) : Out :=
  .next (if s.fatal || !s.portUp p.toNat then s else s.failPort p.toNat 6)

/-- A port's lasers go off and it enters OFF, closed by this end (R243). -/
def State.closeOff (s : State) (c : Nat) : State := s.modPort c fun x => x.leave .off 7

/-- A write to 0x2400:02. -/
def State.putEnable (s : State) (ses : Ses) (r : Role) (v : Nat) : Put :=
  let c := s.select ses 0x2400 1 0 % 16
  let x := s.port c
  Put.deny (!s.asOperator r) 0
    (if v = 1 then .ok (s.modPort c fun x => { x with enable := true })
     else
       Put.deny (1 < v) 0
         (match x.state with
          | .up =>
            Put.deny (!(s.slotsUsing c).isEmpty || x.txQ.any fun m => m.part.isSome) 0
              (.ok (s.modPort c fun x => { x with enable := false, closing := some s.island }))
          | .off => .ok (s.modPort c fun x => { x with enable := false })
          | _ => .ok ((s.modPort c fun x => { x with enable := false }).closeOff c)))

/-- PORT_ENABLE (R250). -/
def execPortEnable (ses : Ses) (s : State) : Out :=
  s.putRow { ses := ses, idx := 0x2400, sub := 2, bytes := [1] } fun s r => s.putEnable ses r 1
/-- PORT_DISABLE (R243). -/
def execPortDisable (ses : Ses) (s : State) : Out :=
  s.putRow { ses := ses, idx := 0x2400, sub := 2, bytes := [0] } fun s r => s.putEnable ses r 0

/-- HELLO with CLOSE sent three times, then OFF (R243). -/
def State.closePort (s : State) (c : Nat) : State :=
  (s.each (List.range 3) fun a _ => a.sendControl c (helloWords c false true 0)).closeOff c

/-- PORT_CLOSE_DRAINED (R243): every sent frame is acknowledged, or the response deadline has passed. -/
def execPortCloseDrained (p : PortCode) (s : State) : Out :=
  .next
    (let c := p.toNat
     match (s.port c).closing with
     | none => s
     | some t =>
       if !s.fatal && s.portUp c && ((s.port c).buffer.isEmpty || t + responseDeadline c < s.island) then s.closePort c else s)

/-- The frame at the head of a port's receive queue is taken by the Shuttle, if a test of its message holds; its credit returns
(R239). -/
def State.takeRx (s : State) (c : Nat) (want : Msg → Bool) : Option (Msg × State) :=
  match (s.port c).rxQ with
  | (m, vc, sh, n) :: rest =>
    if want m && !s.fatal then some (m, s.modPort c fun x => { x with rxQ := rest }.giveBack vc sh n) else none
  | [] => none

end Sys2Proof.Machine
end

