-- ==== Sys2Proof/Machine/Training.lean ====
section
/-! DEFINITION. The training-state engine (R204 to R223): STAGE, NORMSUM, VERDICT and COMMIT over spans of parameters, with verified
blocks, 8-bit moments and stochastic rounding. -/

namespace Sys2Proof.Machine

/-! ### Work that a fault may stop -/

/-- The event that stops a piece of work: its code, the bytes of its DETAIL, and whether an injection made it. -/
structure Halt where
  code : Nat
  detail : Bytes
  injected : Bool := false
  deriving DecidableEq, Repr

/-- An event no injection made. -/
def halt (code : Nat) (detail : Bytes) : Halt := { code := code, detail := detail }

/-- A piece of work: the state it leaves, and its result or the event that stops it. -/
abbrev Trial (α : Type) := State × Except Halt α

/-- Work that goes on where earlier work has succeeded. -/
def Trial.andThen {α β : Type} (t : Trial α) (f : State → α → Trial β) : Trial β :=
  match t with
  | (s, .error e) => (s, .error e)
  | (s, .ok a) => f s a

/-- What follows a piece of work, where it succeeded and where an event stopped it. -/
def Trial.andEnd {α : Type} (t : Trial α) (bad : State → Halt → State) (good : State → α → State) : State :=
  match t with
  | (s, .error e) => bad s e
  | (s, .ok a) => good s a

/-- What a training-state command works with: leader, command, partition, context. -/
structure TsCtx where
  l : Path
  c : Command
  p : Nat
  ctx : BitVec 12

/-- The engine of the tile's die reads through its Shuttle slice's buffer (R169, R211). -/
def TsCtx.mover (a : TsCtx) : Mover := .slice (dieOf a.l)

/-- Word i of the body. -/
def TsCtx.b (a : TsCtx) (i : Nat) : Word := a.c.body.getD i 0

/-- ADDR of a body (R212). -/
def tsAddr (w : List Word) : Nat := bits (w.getD 3 0) 0 20 * 2 ^ 32 + (w.getD 2 0).toNat

/-- Bytes read with the check value of every block verified (R216). -/
def State.tsRead (s : State) (a : TsCtx) (va len : Nat) : Trial Bytes :=
  let lo := va / 4096 * 4096
  match s.readBlocks a.mover 2 a.p a.ctx lo ((va + len + 4095) / 4096 - va / 4096) with
  | (s', _, _, some e) => (s', .error ⟨e.1, e.2.1, e.2.2⟩)
  | (s', _, .fault code at', none) => (s', .error (halt code (toLE at' 8)))
  | (s', bs, .ok, none) => (s', .ok (slice bs (va - lo) len))

/-- One block written with its check value (R216). -/
def State.tsWrite (s : State) (a : TsCtx) (va : Nat) (bs : Bytes) : Trial Unit :=
  match s.writeBlock a.mover (trainingEngine (dieOf a.l)) a.p a.ctx va bs with
  | (s', .ok) => (s', .ok ())
  | (s', .fault code at') => (s', .error (halt code (toLE at' 8)))

/-- Whole blocks written one after another. -/
def State.tsWrites (s : State) (a : TsCtx) (va : Nat) (bs : Bytes) : Trial Unit :=
  ((chunks 4096 bs).zipIdx).foldl (fun t x => t.andThen fun s' _ => s'.tsWrite a (va + 4096 * x.2) x.1) (s, .ok ())

/-- Part of a block written: its other bytes are read, verified, and written back; bytes beyond the region's end are 0 (R215, R216). -/
def State.tsPatch (s : State) (a : TsCtx) (va : Nat) (bs : Bytes) (stop : Nat) : Trial Unit :=
  let lo := va / 4096 * 4096
  (s.tsRead a lo 4096).andThen fun s' old =>
    s'.tsWrite a lo (fit ((old.take (va - lo) ++ bs ++ old.drop (va - lo + bs.length)).take (stop - lo)) 4096)

/-! ### Span records (R213 to R215) -/

/-- The fields of a span record. -/
structure Span where
  opt : Nat
  pidx : Nat
  n : Nat
  wva : Nat
  gva : Nat
  geva : Nat
  mva : Nat
  vva : Nat
  msva : Nat
  vsva : Nat
  ssva : Nat
  hva : Nat
  raw : Bytes

/-- A span record's 128 bytes. -/
def parseSpan (b : Bytes) : Span :=
  let f := fieldAt b
  { opt := f 0 1, pidx := f 2 2 * 2 ^ 32 + f 4 4, n := f 8 4, wva := f 0x10 8, gva := f 0x18 8, geva := f 0x20 8, mva := f 0x28 8,
    vva := f 0x30 8, msva := f 0x38 8, vsva := f 0x40 8, ssva := f 0x48 8, hva := f 0x50 8, raw := b }

/-- The regions of a span: first byte and bytes in whole blocks (R215). -/
def Span.regions (x : Span) : List (Nat × Nat) :=
  let up (n : Nat) : Nat := (n + 4095) / 4096 * 4096
  [(x.wva, 2 * x.n), (x.gva, 2 * x.n), (x.geva, up (x.n / 4096)), (x.mva, x.n), (x.msva, up (x.n / 64)), (x.ssva, up (x.n / 32))]
    ++ if x.opt = 0 then [(x.vva, x.n), (x.vsva, up (x.n / 64))] else []

/-- Some two ranges of a list share a byte. -/
def anyMeet : List (Nat × Nat) → Bool
  | [] => false
  | r :: rest => meet [r] rest || anyMeet rest

/-- The record breaks a rule of R213 or R215. -/
def Span.bad (x : Span) : Bool :=
  let vas := [x.wva, x.gva, x.geva, x.mva, x.vva, x.msva, x.vsva, x.ssva]
  1 < x.opt || fieldAt x.raw 1 1 ≠ 0 || fieldAt x.raw 12 4 ≠ 0 || (x.raw.drop 0x58).any (· ≠ 0)
    || x.n = 0 || x.n % 4096 ≠ 0 || 2 ^ 31 < x.n || vas.any (fun v => v % 4096 ≠ 0 || 2 ^ 52 ≤ v)
    || x.hva % 64 ≠ 0 || 2 ^ 52 ≤ x.hva || (x.opt = 1 && (x.vva ≠ 0 || x.vsva ≠ 0))
    || anyMeet ((x.hva / 4096 * 4096, 4096) :: x.regions)

/-! ### Moments (R207 to R210) -/

/-- A gradient widened (R207). -/
def widen16 (w be : Nat) : Nat := fp32.encode 0 ((fp16.decode w).scale (-(signed 8 be)))

/-- The fp32 pattern of a bf16 pattern. -/
def bf32 (w : Nat) : Nat := w % 65536 * 65536

/-- A first moment from its code and its block's scale (R209). -/
def moment1 (code scale : Nat) : Nat :=
  let x := f32 (bf32 scale)
  if x.isNan then nan32 else if x.isZero then 0 else fp32.encode 0 ((e4m3.decode code).mul x)

/-- The square root of a second moment, and its square (R209). -/
def moment2 (code scale : Nat) : Nat :=
  let x := f32 (bf32 scale)
  if x.isNan then nan32 else if x.isZero then 0
  else
    let sv := mul32 (ofNat32 code) (bf32 scale)
    mul32 sv sv

/-- The smallest positive bf16 with k times it at least the positive value x (R210). -/
def scaleFor (k x : Nat) : Nat :=
  match f32 x with
  | .fin _ m e => let (n, d) := ratioOf m e; bf16.roundRatio 3 false n (k * d)
  | _ => 0x7FC0

/-- The largest magnitude of a list of finite fp32 patterns. -/
def amax32 (xs : List Nat) : Nat := xs.foldl (fun a x => max a (x % 2 ^ 31)) 0

/-- Some value is NaN or infinite. -/
def anyWild (xs : List Nat) : Bool := xs.any fun x => !(f32 x).isFin

/-- A block of first moments quantised (R210): scale and codes. -/
def quant1 (xs rnd : List Nat) : Nat × List Nat :=
  if anyWild xs then (0x7FC0, xs.map fun _ => 0)
  else if amax32 xs = 0 then (0, xs.map fun _ => 0)
  else
    let scale := scaleFor 448 (amax32 xs)
    (scale, (xs.zip rnd).map fun e => e4m3.sr e.2 (f32 (div32 e.1 (bf32 scale))))

/-- Stochastic rounding of a non-negative value to an integer (R206). -/
def srInt (x rnd : Nat) : Nat :=
  match f32 x with
  | .fin _ m e =>
    let (n, d) := ratioOf m e
    if rnd < 65536 * (n % d) / d then n / d + 1 else n / d
  | _ => 0

/-- A block of second moments quantised (R210). None where a value below zero has no square root: the spec states no code then. -/
def quant2 (xs rnd : List Nat) : Option (Nat × List Nat) :=
  if anyWild xs then some (0x7FC0, xs.map fun _ => 0)
  else if xs.any fun x => (f32 x).lt (f32 0) then none
  else
    let us := xs.map sqrt32
    if amax32 us = 0 then some (0, xs.map fun _ => 0)
    else
      let scale := scaleFor 255 (amax32 us)
      some (scale, (us.zip rnd).map fun e =>
        let q := srInt (div32 e.1 (bf32 scale)) e.2
        if e.1 % 2 ^ 31 ≠ 0 ∧ q = 0 then 1 else q)

/-! ### STAGE (R217) -/

/-- The hyper-parameters as fp32 patterns (R214). -/
structure Hyper where
  lr : Nat
  b1 : Nat
  omb1 : Nat
  b2 : Nat
  omb2 : Nat
  eps : Nat
  wd : Nat
  c1 : Nat
  c2 : Nat

/-- The record's nine words. -/
def parseHyper (b : Bytes) : Hyper :=
  let f (i : Nat) : Nat := fieldAt b (4 * i) 4
  { lr := f 0, b1 := f 1, omb1 := f 2, b2 := f 3, omb2 := f 4, eps := f 5, wd := f 6, c1 := f 7, c2 := f 8 }

/-- The class-0 bits of element i of a span (R205). -/
def TsCtx.random (a : TsCtx) (seed : DWord) (x : Span) (i : Nat) : DWord := ycg64 seed (a.b 1) 0 (x.pidx + i)

/-- What one bucket of STAGE reads. -/
structure StageIn where
  grad : List Nat
  m : Bytes
  ms : Bytes
  v : Bytes
  vs : Bytes

/-- The bucket, its exponent, and the old codes and scales of its 32 blocks. -/
def State.stageRead (s : State) (a : TsCtx) (x : Span) (b : Nat) : Trial StageIn :=
  (s.tsRead a (x.gva + 8192 * b) 8192).andThen fun s g =>
  (s.tsRead a (x.geva + b) 1).andThen fun s e =>
  (s.tsRead a (x.mva + 4096 * b) 4096).andThen fun s m =>
  (s.tsRead a (x.msva + 64 * b) 64).andThen fun s ms =>
  let out (v vs : Bytes) : StageIn :=
    { grad := (chunks 2 g).map fun w => widen16 (leNat w) (leNat e), m := m, ms := ms, v := v, vs := vs }
  if x.opt = 0 then
    (s.tsRead a (x.vva + 4096 * b) 4096).andThen fun s v =>
    (s.tsRead a (x.vsva + 64 * b) 64).andThen fun s vs => (s, .ok (out v vs))
  else (s, .ok (out [] []))

/-- New first moments of block k of a bucket. -/
def StageIn.newM (i : StageIn) (h : Hyper) (k : Nat) : List Nat :=
  (List.range 128).map fun j =>
    let e := 128 * k + j
    fma32 h.b1 (moment1 (i.m.getD e 0).toNat (fieldAt i.ms (2 * k) 2)) (mul32 h.omb1 (i.grad.getD e 0))

/-- New second moments of block k of a bucket. -/
def StageIn.newV (i : StageIn) (h : Hyper) (k : Nat) : List Nat :=
  (List.range 128).map fun j =>
    let e := 128 * k + j
    let g := i.grad.getD e 0
    fma32 h.b2 (moment2 (i.v.getD e 0).toNat (fieldAt i.vs (2 * k) 2)) (mul32 h.omb2 (mul32 g g))

/-- The scale and the codes of a block of second moments that has none stated: free values, but functions of the block's values and random
bits alone, as R225 asks. -/
def freeMoments (xs rnd : List Nat) : Nat × List Nat :=
  (bits (Config.negativeMoment xs rnd 0) 0 16, (List.range 128).map fun j => bits (Config.negativeMoment xs rnd (1 + j)) 0 8)

/-- The staged block k: the codes and scales of both moments. -/
def stageBlock (a : TsCtx) (seed : DWord) (x : Span) (h : Hyper) (b : Nat) (i : StageIn) (k : Nat) : (Nat × List Nat) × (Nat × List Nat) :=
  let r := (List.range 128).map fun j => a.random seed x (4096 * b + 128 * k + j)
  let m := quant1 (i.newM h k) (r.map fun z => bits z 16 16)
  if x.opt = 0 then
    let rnd := r.map fun z => bits z 32 16
    (m, (quant2 (i.newV h k) rnd).getD (freeMoments (i.newV h k) rnd))
  else (m, (0, List.replicate 128 0))

/-- What STAGE has made so far: the staged scales of the buckets of the current block, and the sum of squares. -/
structure StageAcc where
  scales : Bytes
  ssq : Nat

/-- One bucket staged: codes over the bucket, scales at SSVA + 128b. The block of staged scales is laid out anew, bucket by bucket. -/
def State.stageBucket (s : State) (a : TsCtx) (seed : DWord) (x : Span) (h : Hyper) (acc : StageAcc) (b : Nat) : Trial StageAcc :=
  (s.stageRead a x b).andThen fun s i =>
    let staged := (List.range 32).map (stageBlock a seed x h b i)
    let ms := staged.map (·.1)
    let vs := staged.map (·.2)
    let codes (q : List (Nat × List Nat)) : Bytes := q.flatMap fun e => e.2.map (BitVec.ofNat 8)
    let scales (q : List (Nat × List Nat)) : Bytes := q.flatMap fun e => toLE e.1 2
    let ss := (if b % 32 = 0 then [] else acc.scales) ++ scales ms ++ scales vs
    (s.tsWrites a (x.gva + 8192 * b) (codes ms ++ codes vs)).andThen fun s2 _ =>
    (s2.tsWrite a (x.ssva + b / 32 * 4096) (fit ss 4096)).andThen fun s3 _ =>
      (s3, .ok { scales := ss, ssq := redFold 2 acc.ssq (i.grad.map f32) })

/-- The buckets of a span in ascending order; an error names the failing bucket (R223). -/
def overBuckets {α : Type} (f : State → α → Nat → Trial α) (t : Trial α) (n : Nat) : Trial α :=
  (List.range n).foldl (fun t b => t.andThen fun s v =>
    match f s v b with
    | (s', .error e) => (s', .error { e with detail := e.detail ++ toLE b 4 })
    | r => r) t

/-- The span record, read and checked (R213, R215, R223). -/
def State.readSpan (s : State) (a : TsCtx) : Trial Span :=
  (s.tsRead a (tsAddr a.c.body) 128).andThen fun s b =>
    if (parseSpan b).bad then (s, .error (halt 0x8901 [])) else (s, .ok (parseSpan b))

/-- The hyper-parameter record. -/
def State.readHyper (s : State) (a : TsCtx) (x : Span) : Trial Hyper :=
  (s.tsRead a x.hva 64).andThen fun s b => (s, .ok (parseHyper b))

/-- STAGE (R217). -/
def State.stage (s : State) (a : TsCtx) : Trial Unit :=
  (s.readSpan a).andThen fun s x =>
    let n := bits (a.b 0) 0 10
    if a.b 1 ≠ (s.part a.p).step then (s, .error (halt 0x8902 []))
    else if mapGet false (s.part a.p).normMarks n then (s, .error (halt 0x8903 []))
    else
      (s.readHyper a x).andThen fun s h =>
      (overBuckets (fun s v b => s.stageBucket a (s.part a.p).seed x h v b) (s, .ok ⟨[], 0⟩) (x.n / 4096)).andThen fun s acc =>
        (s.modPart a.p fun y => { y with normSlots := mapSet 0 y.normSlots n (word acc.ssq),
                                         normMarks := mapSet false y.normMarks n true }, .ok ())

/-! ### NORMSUM and VERDICT (R218 to R221) -/

/-- NORMSUM (R219). -/
def State.normsum (s : State) (a : TsCtx) : Trial Unit :=
  let sum := redFold 1 0 ((List.range 1024).map fun i => f32 (mapGet 0 (s.part a.p).normSlots i).toNat)
  s.tsWrite a (tsAddr a.c.body) (fit (toLE sum 4) 4096)

/-- The training registers after a verdict (R220). -/
def Part.verdict (x : Part) (sum thr2 : Nat) : Part :=
  let skip : Bool := !(f32 sum).isFin || (f32 thr2).lt (f32 sum)
  let y := { x with lastSum := word sum, verdictStep := x.step, lastVerdict := if skip then 2 else 1, step := x.step + 1,
                    normSlots := [], normMarks := [] }
  if skip then { y with consec := BitVec.ofNat 16 (min (x.consec.toNat + 1) 65535), skips := satAdd64 x.skips 1 }
  else { y with applied := x.applied + 1, consec := 0 }

/-- The events of a verdict (R220). -/
def State.verdictEvents (s : State) (a : TsCtx) : State :=
  let x := s.part a.p
  if x.lastVerdict = 2 then
    let d := toLE x.verdictStep.toNat 4 ++ toLE x.lastSum.toNat 4
    let s1 := s.raiseTile a.l 0x1901 (some a.c.stag) d
    if x.skipLimit.toNat ≤ x.consec.toNat then s1.raiseTile a.l 0x8130 (some a.c.stag) d else s1
  else s

/-- VERDICT (R220). The registers that every die copies change at once (R221). -/
def State.verdictCmd (s : State) (a : TsCtx) : Trial Unit :=
  (s.tsRead a (tsAddr a.c.body) 4).andThen fun s b =>
    if a.b 1 ≠ (s.part a.p).step then (s, .error (halt 0x8902 []))
    else ((s.modPart a.p fun x => x.verdict (leNat b) (a.b 4).toNat).verdictEvents a, .ok ())

/-! ### COMMIT (R222) -/

/-- The new weight of element e of bucket b: staged codes st, staged scales sc. -/
def TsCtx.newWeight (a : TsCtx) (seed : DWord) (x : Span) (h : Hyper) (b : Nat) (st sc : Bytes) (e w : Nat) : Nat :=
  let w0 := bf32 w
  let m := moment1 (st.getD e 0).toNat (fieldAt sc (2 * (e / 128)) 2)
  let u :=
    if x.opt = 0 then
      let v := moment2 (st.getD (4096 + e) 0).toNat (fieldAt sc (64 + 2 * (e / 128)) 2)
      div32 (mul32 m h.c1) (add32 (sqrt32 (mul32 v h.c2)) h.eps)
    else mul32 m h.c1
  let u := fma32 h.wd w0 u
  let w' := fma32 (fp32.encode 0 (f32 h.lr).neg) u w0
  bf16.sr (bits (a.random seed x (4096 * b + e)) 0 16) (f32 w')

/-- One bucket committed: weights, codes, scales. -/
def State.commitBucket (s : State) (a : TsCtx) (seed : DWord) (x : Span) (h : Hyper) (b : Nat) : Trial Unit :=
  (s.tsRead a (x.wva + 8192 * b) 8192).andThen fun s w =>
  (s.tsRead a (x.gva + 8192 * b) 8192).andThen fun s st =>
  (s.tsRead a (x.ssva + 128 * b) 128).andThen fun s sc =>
  let out := ((chunks 2 w).zipIdx).flatMap fun e => toLE (a.newWeight seed x h b st sc e.2 (leNat e.1)) 2
  (s.tsWrites a (x.wva + 8192 * b) out).andThen fun s _ =>
  (s.tsWrites a (x.mva + 4096 * b) (st.take 4096)).andThen fun s _ =>
  (s.tsPatch a (x.msva + 64 * b) (sc.take 64) (x.msva + x.n / 64)).andThen fun s _ =>
  if x.opt = 0 then
    (s.tsWrites a (x.vva + 4096 * b) (st.drop 4096)).andThen fun s _ =>
    s.tsPatch a (x.vsva + 64 * b) (sc.drop 64) (x.vsva + x.n / 64)
  else (s, .ok ())

/-- COMMIT (R222). -/
def State.commit (s : State) (a : TsCtx) : Trial Unit :=
  (s.readSpan a).andThen fun s x =>
    let p := s.part a.p
    if p.lastVerdict = 0 ∨ a.b 1 ≠ p.verdictStep then (s, .error (halt 0x8902 []))
    else if p.lastVerdict = 2 then (s, .ok ())
    else
      (s.readHyper a x).andThen fun s h =>
        overBuckets (fun s _ b => s.commitBucket a p.seed x h b) (s, .ok ()) (x.n / 4096)

/-! ### Dispatch (R211, R212, R223) -/

/-- TOP of a Shuttle body. -/
def Command.top (c : Command) : Nat := bits (c.body.getD 0 0) 24 8

/-- TS_BODY of the body's own fields (R212, R223). -/
def tsBad (c : Command) : Bool :=
  let b (i : Nat) : Word := c.body.getD i 0
  hdrBody c.w0 ≠ 2 || 0xE3 < c.top || bits (b 0) 10 10 ≠ 0 || bits (b 3) 20 12 ≠ 0 || b 5 ≠ 0 || b 6 ≠ 0 || b 7 ≠ 0
    || (c.top ≠ 0xE0 && bits (b 0) 0 10 ≠ 0) || (c.top = 0xE1 && b 1 ≠ 0)
    || (if c.top = 0xE2 then (f32 (b 4).toNat).isNan else b 4 ≠ 0)
    || tsAddr c.body % (if c.top = 0xE0 ∨ c.top = 0xE3 then 128 else 4096) ≠ 0

/-- The context a training-state command works in. -/
def State.tsCtx (s : State) (l : Path) (c : Command) : Option TsCtx :=
  (s.partOf l).bind fun p => (s.slotCtx p (bits (c.body.getD 0 0) 20 4)).map fun x => { l := l, c := c, p := p, ctx := x }

/-- The residue checks of a training-state engine's work are counted (R359, R360); the spec does not say how many operations a command
takes, so the number is a free value. -/
def State.engineChecks (s : State) : State :=
  let (w, s1) := s.freeWord
  { s1 with integ := s1.integ.count 8 w.toNat }

/-- The end of a command's work: finished, or its fault (R223). -/
def State.tsEnd (l : Path) (c : Command) : Trial Unit → State
  | (s, .ok ()) => s.engineChecks.finish l c
  | (s, .error e) => s.engineChecks.failCmd l c e.code e.detail e.injected

/-- A training-state command after dispatch. -/
def State.tsDispatch (s : State) (work : State → TsCtx → Trial Unit) (l : Path) (c : Command) : State :=
  if tsBad c then s.failCmd l c 0x8901 []
  else
    match s.tsCtx l c with
    | none => s.failCmd l c 0x8404 []
    | some a => State.tsEnd l c (work s a)

/-- No slab the command touches is being scrubbed (R165). -/
def State.tsReady (s : State) (t : Path) (c : Command) : Bool :=
  let l := s.lead t
  tsBad c || (match s.tsCtx l c with
    | none => true
    | some a =>
      let va := tsAddr c.body
      let x := parseSpan (s.peekVA a.mover a.ctx va 128)
      s.answers a.mover a.ctx (va / 4096 * 4096) 4096
        && (!(c.top = 0xE0 || c.top = 0xE3) || x.bad
            || (s.answers a.mover a.ctx x.hva 64 && x.regions.all fun r => s.answers a.mover a.ctx r.1 r.2)))

/-- The commands in flight of a die's training-state engine, those that outings add among them. -/
def State.engineLoad (s : State) (d : Nat) : Nat :=
  ((s.tiles.filter fun e => dieOf (BitVec.ofNat 16 e.1) = d).map fun e =>
    (e.2.flights.filter fun f => f.cmd.unit = 5 && 0xE0 ≤ f.cmd.top && f.cmd.top ≤ 0xEF).length).sum

/-- The engine of a tile's die has room for one command more: it works on up to four at once (R211). -/
def State.engineFree (s : State) (t : Path) : Bool := s.engineLoad (dieOf t) < 4

/-- One training-state row: the first UNIT 5 command of a tile, if its TOP is the row's, the engine has room and its memory answers. -/
def State.tsRow (s : State) (t : Path) (top : Nat) (work : State → TsCtx → Trial Unit) : Out :=
  s.dispatch t 5 (fun c => c.top = top && s.engineFree t && s.tsReady t c) fun s l c => s.tsDispatch work l c

/-- STAGE (R217). -/
def execStage (t : Path) (s : State) : Out := s.tsRow t 0xE0 State.stage
/-- NORMSUM (R219). -/
def execNormsum (t : Path) (s : State) : Out := s.tsRow t 0xE1 State.normsum
/-- VERDICT (R220). -/
def execVerdict (t : Path) (s : State) : Out := s.tsRow t 0xE2 State.verdictCmd
/-- COMMIT (R222). -/
def execCommit (t : Path) (s : State) : Out := s.tsRow t 0xE3 State.commit

end Sys2Proof.Machine
end

