-- ==== Sys2Proof/Machine/Collective.lean ====
section
/-! DEFINITION. Shuttle collectives (R258 to R278): a slot's transfers, its grants, what it reads, combines, sends and writes, and how
it completes. An open slot goes as far as it can at each command that gives it something. -/

namespace Sys2Proof.Machine

/-! ### The body (R258 to R260) -/

/-- Word i of a slot's body. -/
def Slot.w (x : Slot) (i : Nat) : Word := x.body.getD i 0
/-- ETYPE. -/
def Slot.etype (x : Slot) : Nat := bits x.b0 15 3
/-- ROP. -/
def Slot.rop (x : Slot) : Nat := bits x.b0 13 2
/-- WIRE. -/
def Slot.wire (x : Slot) : Bool := bit x.b0 12
/-- CHK. -/
def Slot.chk (x : Slot) : Bool := bit x.b0 11
/-- SEG. -/
def Slot.seg (x : Slot) : Nat := (x.w 6).toNat
/-- A 52-bit address in words i and i + 1. -/
def Slot.addr (x : Slot) (i : Nat) : Nat := bits (x.w (i + 1)) 0 20 * 2 ^ 32 + (x.w i).toNat
/-- NSUB. -/
def Slot.nsub (x : Slot) : Nat := bits x.arg 24 8 + 1
/-- SUBCAP. -/
def Slot.subcap (x : Slot) : Nat := bits x.arg 0 24
/-- An all-to-all with counts. -/
def Slot.ragged (x : Slot) : Bool := x.sop = 7 || x.sop = 8

/-- Bytes of a unit (R260). -/
def Slot.unit (x : Slot) : Nat := if x.etype = 3 then 8192 else if x.chk then 4096 else 64

/-- Bytes of a unit on the wire: partials under WIRE travel in fp32 (R266). -/
def Slot.wireUnit (x : Slot) (fin : Bool) : Nat := if !fin && x.wire && (x.etype = 2 || x.etype = 3) then 2 * x.unit else x.unit

/-- A bucket travels with its exponent (R270). -/
def Slot.carriesBe (x : Slot) (fin : Bool) : Bool := x.etype = 3 && (fin || !x.wire)

/-- Units in one DATA message (R270). -/
def Slot.frameUnits (x : Slot) (fin : Bool) : Nat := if x.etype = 3 then 1 else 16384 / x.wireUnit fin

/-- Units of the whole operation, in the numbering of its target. -/
def Slot.total (x : Slot) : Nat := if x.sop = 4 ∨ x.sop = 5 ∨ x.sop = 6 then x.size * x.seg else x.seg

/-! ### Transfers (R263 to R265, R277, R278) -/

/-- Data that passes between this member and a peer: partials or final data, units numbered as in the target. -/
structure Transfer where
  peer : Nat
  out : Bool
  fin : Bool
  first : Nat
  count : Nat
  deriving DecidableEq, Repr

/-- Part i of k of a range. -/
def partRange (lo hi i k : Nat) : Nat × Nat := (lo + i * (hi - lo) / k, lo + (i + 1) * (hi - lo) / k)

/-- Segment j (R263). -/
def Slot.segment (x : Slot) (j : Nat) : Nat × Nat :=
  if x.sop = 3 then partRange 0 x.seg j x.size else (j * x.seg, (j + 1) * x.seg)

/-- Every stripe of every segment: segment, upward, first unit, unit after the last. -/
def Slot.stripes (x : Slot) : List (Nat × Bool × Nat × Nat) :=
  (List.range x.size).flatMap fun j => (List.range 4).map fun i =>
    let g := x.segment j
    let r := partRange g.1 g.2 i 4
    (j, i < 2, r.1, r.2)

/-- The rank one step on in a direction. -/
def ringNext (p r : Nat) (up : Bool) : Nat := if up then (r + 1) % p else (r + p - 1) % p

/-- The transfers of one stripe's reduction at this member: first from rank j's successor round to rank j. -/
def Slot.partialMoves (x : Slot) (e : Nat × Bool × Nat × Nat) : List Transfer :=
  let (j, up, lo, hi) := e
  let start := ringNext x.size j up
  (if x.rank = start then [] else [⟨ringNext x.size x.rank (!up), false, false, lo, hi - lo⟩])
    ++ if x.rank = j then [] else [⟨ringNext x.size x.rank up, true, false, lo, hi - lo⟩]

/-- The transfers of one stripe's final data at this member: from rank j round the ring. -/
def Slot.finalMoves (x : Slot) (e : Nat × Bool × Nat × Nat) : List Transfer :=
  let (j, up, lo, hi) := e
  let next := ringNext x.size x.rank up
  (if x.rank = j then [] else [⟨ringNext x.size x.rank (!up), false, true, lo, hi - lo⟩])
    ++ if next = j then [] else [⟨next, true, true, lo, hi - lo⟩]

/-- The children of a rank in the tree (R264). -/
def treeKids (r p : Nat) : List Nat := [2 * r + 1, 2 * r + 2].filter (· < p)

/-- The parent of a rank in the tree. -/
def treeUp (r : Nat) : List Nat := if r = 0 then [] else [(r - 1) / 2]

/-- Rows sent to or kept for rank p by the counts at an offset of the slot's count map. -/
def Slot.rows (x : Slot) (base p : Nat) : Nat :=
  ((List.range x.nsub).map fun k => (mapGet 0 x.counts (base + p * x.nsub + k)).toNat).sum

/-- Where a slot keeps its send counts, beside its receive counts. -/
def sendBase : Nat := 2 ^ 32

/-- The rows of this member that go to rank p, and those that come from it. -/
def Slot.rowsTo (x : Slot) (p : Nat) : Nat := x.rows (if x.sop = 7 then sendBase else 0) p
/-- Rows from rank q. -/
def Slot.rowsFrom (x : Slot) (q : Nat) : Nat := x.rows (if x.sop = 7 then 0 else sendBase) q

/-- The transfers of a slot at its member, in the order in which they can happen; empty ones are left out. -/
def Slot.transfers (x : Slot) : List Transfer :=
  let others := (List.range x.size).filter (· ≠ x.rank)
  let n := x.seg
  let tree (fin out : Bool) (ps : List Nat) : List Transfer := ps.map fun p => ⟨p, out, fin, 0, n⟩
  let all : List Transfer :=
    if x.size ≤ 1 then []
    else match x.sop with
      | 2 =>
        let root := bits x.arg 0 17
        if x.alg = 0 then
          (if x.rank = root then [] else [⟨ringNext x.size x.rank false, false, true, 0, n⟩])
            ++ if ringNext x.size x.rank true = root then [] else [⟨ringNext x.size x.rank true, true, true, 0, n⟩]
        else
          (if root ≠ 0 ∧ x.rank = 0 then tree true false [root] else tree true false (treeUp x.rank))
            ++ (if root ≠ 0 ∧ x.rank = root then tree true true [0] else [])
            ++ tree true true (treeKids x.rank x.size)
      | 3 =>
        if x.alg = 0 then x.stripes.flatMap x.partialMoves ++ x.stripes.flatMap x.finalMoves
        else
          tree false false (treeKids x.rank x.size) ++ tree false true (treeUp x.rank)
            ++ tree true false (treeUp x.rank) ++ tree true true (treeKids x.rank x.size)
      | 4 => x.stripes.flatMap x.partialMoves
      | 5 => x.stripes.flatMap x.finalMoves
      | 6 => others.flatMap fun p => [⟨p, false, true, p * n, n⟩, ⟨p, true, true, x.rank * n, n⟩]
      | 7 =>
        (others.map fun p => ⟨p, true, true, 0, x.rowsTo p * n⟩)
          ++ if x.laid then others.map fun p => ⟨p, false, true, 0, x.rowsFrom p * n⟩ else []
      | 8 => others.flatMap fun p => [⟨p, false, true, 0, x.rowsFrom p * n⟩, ⟨p, true, true, 0, x.rowsTo p * n⟩]
      | _ => []
  all.filter fun t => t.count ≠ 0

/-! ### What has happened to a unit -/

/-- A unit lies in a piece of a transfer. -/
def inPiece (ps : List Piece) (t u : Nat) : Bool := ps.any fun q => q.transfer = t && q.first ≤ u && u < q.first + q.count

/-- Units of a transfer's pieces. -/
def pieceSum (ps : List Piece) (t : Nat) : Nat := ((ps.filter fun q => q.transfer = t).map (·.count)).sum

/-- A unit's final value stands at the destination. -/
def Slot.isFinal (x : Slot) (u : Nat) : Bool := x.final.any fun r => r.1 ≤ u && u < r.1 + r.2

/-- The incoming partials that cover a unit, by number, in the order they are added: R264's, or that of arrival under TREE_FREE. -/
def Slot.partialsIn (x : Slot) (u : Nat) : List Nat :=
  let ts := (x.transfers.zipIdx.filter fun e => !e.1.out && !e.1.fin && e.1.first ≤ u && u < e.1.first + e.1.count).map (·.2)
  if x.alg = 2 then
    ((x.got.filter fun q => ts.contains q.transfer && q.first ≤ u && u < q.first + q.count).map (·.transfer))
      ++ ts.filter fun t => !inPiece x.got t u
  else ts

/-- Every partial a unit's combination needs has come. -/
def Slot.combinable (x : Slot) (u : Nat) : Bool := (x.partialsIn u).all fun t => inPiece x.got t u

/-- This member forms the final value of a unit: rank j of a ring's segment j, or rank 0 of a tree (R263, R264). -/
def Slot.holds (x : Slot) (u : Nat) : Bool :=
  if x.alg ≠ 0 then x.rank = 0
  else
    let g := x.segment x.rank
    g.1 ≤ u && u < g.2

/-- Ascending units cut into runs of at most k. -/
def runsOf (k : Nat) : List Nat → List (Nat × Nat)
  | [] => []
  | u :: us =>
    match runsOf k us with
    | (f, n) :: rest => if f = u + 1 ∧ n < k then (u, n + 1) :: rest else (u, 1) :: (f, n) :: rest
    | [] => [(u, 1)]

/-! ### Memory of a slot -/

/-- The context and slot number of a key. -/
def keyCtx (key : Nat) : BitVec 12 := BitVec.ofNat 12 (key / 16)

/-- What the Shuttle reads and writes for a slot: the context its die's slice translates in. -/
def Slot.ts (x : Slot) (key : Nat) : TsCtx :=
  { l := x.tile, p := x.part, ctx := keyCtx key,
    c := { id := x.cmd, unit := 5, w0 := 0, waitV := 0, mode := 0, stag := x.stag, work := .desc x.body } }

/-- Bytes read in a space: local store, or a tier address with its check values verified where CHK asks it (R260). -/
def State.shRead (s : State) (x : Slot) (key : Nat) (local' chk : Bool) (a len : Nat) : Trial Bytes :=
  let k := x.ts key
  if local' then
    match s.readLS x.tile (a % 2 ^ 23) len with
    | (s', some bs) => (s', .ok bs)
    | (s', none) => (s', .error (halt 0 []))
  else if chk then
    let lo := a / 4096 * 4096
    match s.readBlocks k.mover 1 x.part k.ctx lo ((a + len + 4095) / 4096 - a / 4096) with
    | (s', _, _, some e) => (s', .error ⟨e.1, e.2.1, e.2.2⟩)
    | (s', _, .fault code at', none) => (s', .error (halt code (toLE at' 8)))
    | (s', bs, .ok, none) => (s', .ok (slice bs (a - lo) len))
  else
    match s.readVA k.mover x.part k.ctx a len with
    | (s', bs, .ok) => (s', .ok bs)
    | (s', _, .fault code at') => (s', .error (halt code (toLE at' 8)))

/-- Bytes put into one block, whose check value becomes that of its new bytes (R260). -/
def State.patchBlock (s : State) (x : Slot) (key a : Nat) (bs : Bytes) : Trial Unit :=
  let k := x.ts key
  let lo := a / 4096 * 4096
  match s.xlate k.mover k.ctx lo true with
  | (s', .fault code) => (s', .error (halt code (toLE lo 8)))
  | (s', .ok _ pa) =>
    let old := s'.tierBytes pa 4096
    match s'.writeBlock k.mover (shuttleEngine (dieOf x.tile)) x.part k.ctx lo (old.take (a - lo) ++ bs ++ old.drop (a - lo + bs.length)) with
    | (s2, .ok) => (s2, .ok ())
    | (s2, .fault code at') => (s2, .error (halt code (toLE at' 8)))

/-- Bytes written in a space; every block gets a check value where CHK asks it, else loses it (R260). -/
def State.shWrite (s : State) (x : Slot) (key : Nat) (local' chk : Bool) (a : Nat) (bs : Bytes) : Trial Unit :=
  let k := x.ts key
  if bs.isEmpty then (s, .ok ())
  else if local' then
    match s.writeLS x.tile (a % 2 ^ 23) bs with
    | (s', true) => (s', .ok ())
    | (s', false) => (s', .error (halt 0 []))
  else if chk then
    if bs.length % 4096 = 0 then
      ((chunks 4096 bs).zipIdx).foldl (fun t e => t.andThen fun s' _ =>
        match s'.writeBlock k.mover (shuttleEngine (dieOf x.tile)) x.part k.ctx (a + 4096 * e.2) e.1 with
        | (s2, .ok) => (s2, .ok ())
        | (s2, .fault code at') => (s2, .error (halt code (toLE at' 8)))) (s, .ok ())
    else s.patchBlock x key a bs
  else
    match s.writeVA k.mover x.part k.ctx a bs with
    | (s', .ok) => (s', .ok ())
    | (s', .fault code at') => (s', .error (halt code (toLE at' 8)))

/-- Source units from a unit of the source on. -/
def State.readUnits (s : State) (x : Slot) (key u n : Nat) : Trial Bytes :=
  s.shRead x key (bit x.b0 10) x.chk (x.addr 2 + u * x.unit) (n * x.unit)

/-- The exponent of a source bucket (R260). -/
def State.readBe (s : State) (x : Slot) (key u : Nat) : Trial Bytes := s.shRead x key (bit x.b0 7) x.chk (x.addr 8 + u) 1

/-- Final units written at the destination, each with its exponent where units are buckets: `bs` holds, per unit, its bytes and then
64 bytes whose first is BE. -/
def State.writeUnits (s : State) (x : Slot) (key u : Nat) (bs : Bytes) : Trial Unit :=
  if x.etype = 3 then
    ((chunks 8256 bs).zipIdx).foldl (fun t e => t.andThen fun s1 _ =>
      (s1.shWrite x key (bit x.b0 9) x.chk (x.addr 4 + (u + e.2) * 8192) (e.1.take 8192)).andThen fun s2 _ =>
        s2.shWrite x key (bit x.b0 6) x.chk (x.addr 10 + (u + e.2)) (slice e.1 8192 1)) (s, .ok ())
  else s.shWrite x key (bit x.b0 9) x.chk (x.addr 4 + u * x.unit) bs

/-- Source units as they travel: a bucket is followed by 64 bytes whose first is BE. -/
def State.readWire (s : State) (x : Slot) (key u n : Nat) : Trial Bytes :=
  if x.etype = 3 then
    (List.range n).foldl (fun t i => t.andThen fun s1 acc =>
      (s1.readUnits x key (u + i) 1).andThen fun s2 bs => (s2.readBe x key (u + i)).andThen fun s3 be =>
        (s3, .ok (acc ++ bs ++ fit be 64))) (s, .ok [])
  else s.readUnits x key u n

/-! ### Rows (R131, R132, R277, R278) -/

/-- Rows kept in a count map from rank q for sub k. -/
def Slot.cnt (x : Slot) (base q k : Nat) : Nat := (mapGet 0 x.counts (base + q * x.nsub + k)).toNat

/-- The place of a receive region's rows of rank q for sub k: region k, after the rows of lower ranks (R132). -/
def Slot.regionRow (x : Slot) (q k : Nat) : Nat := k * x.subcap + ((List.range q).map fun i => x.cnt 0 i k).sum

/-- The place of the send buffer's rows for rank p, sub k (R131). -/
def Slot.sendRow (x : Slot) (p k : Nat) : Nat :=
  ((List.range (p * x.nsub + k)).map fun e => (mapGet 0 x.counts (sendBase + e)).toNat).sum

/-- The rows exchanged with a rank as extents in rows: position, rows; `region` says whether they lie in receive regions. -/
def Slot.extents (x : Slot) (region : Bool) (q : Nat) : List (Nat × Nat) :=
  (List.range x.nsub).map fun k => if region then (x.regionRow q k, x.cnt 0 q k) else (x.sendRow q k, x.cnt sendBase q k)

/-- The extents of rank q at the source, or at the destination. -/
def Slot.srcRows (x : Slot) (q : Nat) : List (Nat × Nat) := x.extents (x.sop = 8) q
/-- Extents at the destination. -/
def Slot.dstRows (x : Slot) (q : Nat) : List (Nat × Nat) := x.extents (x.sop = 7) q

/-- A range of a stream of units cut at the extents it runs over: target unit, units. -/
def cutExtents (n : Nat) : List (Nat × Nat) → Nat → Nat → List (Nat × Nat)
  | [], _, _ => []
  | (row, rows) :: rest, u, len =>
    let here := rows * n
    if len = 0 then []
    else if here ≤ u then cutExtents n rest (u - here) len
    else
      let k := min len (here - u)
      (row * n + u, k) :: cutExtents n rest 0 (len - k)

/-- Source units of an outgoing transfer, as they travel. -/
def State.sourceOf (s : State) (x : Slot) (key : Nat) (t : Transfer) (u n : Nat) : Trial Bytes :=
  if x.ragged then
    (cutExtents x.seg (x.srcRows t.peer) u n).foldl (fun a e => a.andThen fun s1 acc =>
      (s1.readUnits x key e.1 e.2).andThen fun s2 bs => (s2, .ok (acc ++ bs))) (s, .ok [])
  else if x.sop = 6 then s.readUnits x key (t.peer * x.seg + (u - t.first)) n
  else s.readWire x key u n

/-- Bytes of an incoming final transfer written where they belong. -/
def State.sinkOf (s : State) (x : Slot) (key peer u : Nat) (bs : Bytes) : Trial Unit :=
  if x.ragged then
    ((cutExtents x.seg (x.dstRows peer) u (bs.length / 64)).foldl (fun (a : Trial Unit × Nat) e =>
      (a.1.andThen fun s1 _ => s1.writeUnits x key e.1 (slice bs (64 * a.2) (64 * e.2)), a.2 + e.2)) ((s, .ok ()), 0)).1
  else s.writeUnits x key u bs

/-! ### Combining (R266) -/

/-- fp32 patterns of a unit's elements; INT32 as it stands. -/
def Slot.widen (x : Slot) (bs : Bytes) : List Nat :=
  match x.etype with
  | 2 => (chunks 2 bs).map fun w => bf32 (leNat w)
  | 3 => (chunks 2 (bs.take 8192)).map fun w => widen16 (leNat w) (bs.getD 8192 0).toNat
  | _ => (chunks 4 bs).map leNat

/-- Two values combined. -/
def Slot.op (x : Slot) (a b : Nat) : Nat :=
  if x.etype = 4 then
    let p := signed 32 a
    let q := signed 32 b
    match x.rop with
    | 0 => clamp32 (p + q)
    | 1 => if p < q then b else a
    | _ => if q < p then b else a
  else match x.rop with
    | 0 => add32 a b
    | 1 => max32 a b
    | _ => min32 a b

/-- The bucket exponent of R208 and the bucket's bytes with the 64 bytes that carry it. -/
def bucketOf (vs : List Nat) : Bytes :=
  let big := (vs.filter fun v => (f32 v).isFin).foldl (fun a v => max a (v % 2 ^ 31)) 0
  let be : Int := match f32 big with
    | .fin _ m e => if m = 0 then 0 else max (-127) (min 127 (14 - (Nat.log2 m + e)))
    | _ => 0
  (vs.flatMap fun v => toLE (fp16.encode 0 ((f32 v).scale be)) 2) ++ fit [BitVec.ofInt 8 be] 64

/-- Values in the element format. -/
def Slot.narrow (x : Slot) (vs : List Nat) : Bytes :=
  match x.etype with
  | 2 => vs.flatMap fun v => toLE (bf16.encode 0 (f32 v)) 2
  | 3 => bucketOf vs
  | 4 => vs.flatMap fun v => toLE v 4
  | _ => vs.flatMap fun v => toLE (fp32.encode 0 (f32 v)) 4

/-- A partial as it travels. -/
def Slot.partialBytes (x : Slot) (vs : List Nat) : Bytes :=
  if x.wire then (if x.etype = 4 then vs.flatMap fun v => toLE v 4 else vs.flatMap fun v => toLE (fp32.encode 0 (f32 v)) 4)
  else x.narrow vs

/-- A partial's values as received. -/
def Slot.partialVals (x : Slot) (bs : Bytes) : List Nat := if x.wire then (chunks 4 bs).map leNat else x.widen bs

/-- Values times POSTMUL, and in the element format. -/
def Slot.finish (x : Slot) (vs : List Nat) : Bytes :=
  x.narrow (if x.arg ≠ 0 then vs.map fun v => mul32 v x.arg.toNat else vs)

/-- The key of a byte of the working data: transfer number plus 1, or 0 for final data; unit; byte. -/
def workKey (t u b : Nat) : Nat := t * 2 ^ 56 + u * 2 ^ 16 + b

/-- Bytes kept for a unit. -/
def Slot.kept (x : Slot) (t u len : Nat) : Bytes := (List.range len).map fun i => mapGet 0 x.work (workKey t u i)

/-- Bytes kept. -/
def Slot.keep (x : Slot) (t u : Nat) (bs : Bytes) : Slot :=
  { x with work := bs.zipIdx.foldl (fun m e => mapSet 0 m (workKey t u e.2) e.1) x.work }

/-- Bytes of a unit as a message carries it. -/
def Slot.msgUnit (x : Slot) (fin : Bool) : Nat := x.wireUnit fin + if x.carriesBe fin then 64 else 0

/-- Two integers have one residue modulo 255. -/
def sameResidue (a b : Int) : Bool := (a - b) % 255 = 0

/-- The congruences of R268 for an addition of two values and its rounded result: the aligned operands against the exact sum, and the exact
sum against the result, the bits discarded and the rounding increment. -/
def sumOk (a b r : Num) : Bool :=
  match a, b, r with
  | .fin na ma ea, .fin nb mb eb, .fin _ mr er =>
    let e := min (min ea eb) er
    let align (neg : Bool) (m : Nat) (x : Int) : Int := (if neg then -1 else 1) * ((m * 2 ^ (x - e).toNat : Nat) : Int)
    let exact := align na ma ea + align nb mb eb
    let low := exact.natAbs % 2 ^ (er - e).toNat
    let up := if exact.natAbs < mr * 2 ^ (er - e).toNat then 2 ^ (er - e).toNat else 0
    sameResidue (align na (ma % 255) ea + align nb (mb % 255) eb) exact
      && sameResidue exact.natAbs (((mr * 2 ^ (er - e).toNat + low : Nat) : Int) - (up : Nat))
  | _, _, _ => true

/-- The third congruence of R268: the product of the operands' residues against the exact product. -/
def productOk (a b : Num) : Bool :=
  match a, b with
  | .fin _ ma _, .fin _ mb _ => sameResidue ((ma % 255 * (mb % 255) : Nat) : Int) ((ma * mb : Nat) : Int)
  | _, _ => true

/-- What the adder checks of one operation of ROP (R268): residues of a sum; for a maximum or minimum, two comparators, the second of which
takes its operands the other way round. -/
def Slot.opOk (x : Slot) (a b : Nat) : Bool :=
  if x.rop ≠ 0 then x.op a b = x.op b a
  else if x.etype = 4 then sameResidue (signed 32 a % 255 + signed 32 b % 255) (signed 32 a + signed 32 b)
  else sumOk (f32 a) (f32 b) (f32 (x.op a b))

/-- One operation on two operand lists: the results, and whether every check of it holds. -/
def Slot.combine (x : Slot) (acc : List Nat × Bool) (p : List Nat) : List Nat × Bool :=
  let l := if x.alg = 0 then p else acc.1
  let r := if x.alg = 0 then acc.1 else p
  (List.zipWith x.op l r, acc.2 && (List.zipWith x.opOk l r).all id)

/-- RESIDUE_FAIL of a slot (R268, R368): OPK 0 add, 1 product, 2 compare. -/
def State.residueFail (s : State) (x : Slot) (opk : Nat) (injected : Bool) : Trial Unit :=
  (s.raise
    { code := 0xC002, path := some x.tile, part := x.part, stag := some x.stag, injected := injected,
      detail := [0, BitVec.ofNat 8 (dieOf x.tile), BitVec.ofNat 8 opk, 0] ++ toLE x.gid.toNat 2 ++ toLE x.seq.toNat 2 }, .error (halt 0 []))

/-- The checks of some operations of a slot's slice: additions and products are counted (R359), a check that does not hold raises
RESIDUE_FAIL, and an injection of kind 2 on its die makes the next addition report one (R372). -/
def State.residue (s : State) (x : Slot) (opk n : Nat) (ok : Bool) : Trial Unit :=
  if n = 0 then (s, .ok ())
  else
    let s1 := if opk = 2 then s else { s with integ := s.integ.count 8 n }
    if opk = 0 && s.armedFor 2 && dieOf s.integ.armTarget = dieOf x.tile then
      { s1 with integ := { s1.integ with armed := false } }.residueFail x 0 true
    else if !ok then s1.residueFail x opk false
    else (s1, .ok ())

/-- The combined values of a unit at this member: its own contribution and the partials that came, in order (R263, R264), each operation
checked (R268). -/
def State.combined (s : State) (x : Slot) (key u : Nat) : Trial (List Nat) :=
  (s.readWire x key u 1).andThen fun s1 own =>
    let parts := (x.partialsIn u).map fun t => x.partialVals (x.kept (t + 1) u (x.msgUnit false))
    let out := parts.foldl x.combine (x.widen own, true)
    (s1.residue x (if x.rop = 0 then 0 else 2) (parts.length * (x.widen own).length) out.2).andThen fun s2 _ => (s2, .ok out.1)

/-! ### Messages of a slot (R269, R270, R273) -/

/-- A slot's record changed. -/
def State.modSlot (s : State) (key : Nat) (f : Slot → Slot) : State :=
  match mapGet none s.sh.slots key with
  | none => s
  | some x => { s with sh := { s.sh with slots := mapSet none s.sh.slots key (some (f x)) } }

/-- The open slot of a key. -/
def State.slotAt (s : State) (key : Nat) : Option Slot := mapGet none s.sh.slots key

/-- A message of a slot to a rank; with no path the collective ends with reason 4 (R279). -/
def State.slotSend (s : State) (key : Nat) (x : Slot) (mt : BitVec 4) (q : Nat) (slot : BitVec 4) (offset : Nat) (payload : Bytes)
    (done : Nat → State → State) : State :=
  match s.group x.gid with
  | none => s
  | some g =>
    match s.post x.part (keyCtx key) (s.slotMsg g x mt q slot offset payload) with
    | some (port, s') => done port s'
    | none => s.endCollective key 4

/-- W1 of a CTS. -/
def Slot.ctsW1 (x : Slot) : Nat := (x.b0 &&& 0xFF0FF000#32).toNat

/-- A CTS to a rank (R270). -/
def State.sendCts (s : State) (key : Nat) (x : Slot) (q kind first count : Nat) (done : State → State) : State :=
  s.slotSend key x 1 q (BitVec.ofNat 4 key) 0 (words64 [kind, x.ctsW1, x.seg, x.arg.toNat, x.size, first, count]) fun _ s' => done s'

/-- A message that the peer confirms with DONE leaves: the port it leaves by is kept (R286). -/
def State.sendAgainst (s : State) (key : Nat) (x : Slot) (mt : BitVec 4) (q : Nat) (slot : BitVec 4) (offset : Nat) (payload : Bytes)
    (mark : Slot → Slot) : State :=
  s.slotSend key x mt q slot offset payload fun port s' =>
    s'.modSlot key fun y => { mark y with via := (mark y).via ++ [(q, port)] }

/-! ### The steps of an open slot -/

/-- A fault of a slot's memory: a partition fault that names the slot (R261, R285). -/
def State.slotFault (s : State) (key : Nat) (x : Slot) (code : Nat) (det : Bytes) (injected : Bool := false) : State :=
  if code = 0 then s
  else
    s.raise { code := code, path := some x.tile, part := x.part, ctx := key / 16, stag := some x.stag, injected := injected,
              detail := det ++ toLE x.gid.toNat 2 ++ toLE x.seq.toNat 2 ++ [BitVec.ofNat 8 (key % 16)] }

/-- The work of a slot goes on with what a trial gave, or its fault is raised. -/
def State.tried {α : Type} (key : Nat) (x : Slot) (t : Trial α) (f : State → α → State) : State :=
  match t with
  | (s, .ok a) => f s a
  | (s, .error e) => s.slotFault key x e.code e.detail e.injected

/-- Something done with a slot that is still open. -/
def State.withSlot (s : State) (key : Nat) (f : State → Slot → State) : State :=
  match s.slotAt key with
  | some x => f s x
  | none => s

/-- Open grants to a rank: given and not yet received whole (R273). -/
def Slot.openGrants (x : Slot) (q : Nat) : Nat :=
  let ts := x.transfers
  (x.grantsOut.filter fun g =>
    (match ts[g.transfer]? with | some t => t.peer = q | none => false)
      && (List.range g.count).any fun i => !inPiece x.got g.transfer (g.first + i)).length

/-- Units in one grant: at most 1 MiB, but the whole of a transfer of rows (R273, R277). -/
def Slot.grantUnits (x : Slot) (t : Transfer) : Nat := if x.ragged then t.count else 1048576 / x.wireUnit t.fin

/-- A grant for the next units of an incoming transfer, while fewer than two are open to its peer. -/
def State.grantNext (s : State) (key t : Nat) : State :=
  s.withSlot key fun s x =>
    match x.transfers[t]? with
    | none => s
    | some tr =>
      let given := pieceSum x.grantsOut t
      if tr.out || tr.count ≤ given || 2 ≤ x.openGrants tr.peer then s
      else
        let n := min (x.grantUnits tr) (tr.count - given)
        s.sendCts key x tr.peer 1 (tr.first + given) n fun s' =>
          s'.modSlot key fun y => { y with grantsOut := y.grantsOut ++ [⟨t, tr.first + given, n⟩] }

/-- Grants for every incoming transfer, in order; two rounds, since a peer may hold two. -/
def State.grantAll (s : State) (key : Nat) : State :=
  s.withSlot key fun s x =>
    let ts := List.range x.transfers.length
    s.each (ts ++ ts) fun a t => a.grantNext key t

/-- A unit's final value formed, kept and written (R263, R266). -/
def State.formFinal (s : State) (key u : Nat) : State :=
  s.withSlot key fun s x =>
    State.tried key x (s.combined x key u) fun s1 vs =>
      let bs := x.finish vs
      let products := vs.all fun v => productOk (f32 v) (f32 x.arg.toNat)
      let checked := s1.residue x 1 (if x.arg ≠ 0 then vs.length else 0) products
      State.tried key x (checked.andThen fun s2 _ => s2.writeUnits x key (if x.sop = 4 then u - x.rank * x.seg else u) bs) fun s2 _ =>
        s2.modSlot key fun y => { y.keep 0 u bs with final := y.final ++ [(u, 1)] }

/-- Every final value this member can form. -/
def State.formFinals (s : State) (key : Nat) : State :=
  s.withSlot key fun s x =>
    if x.sop = 3 ∨ x.sop = 4 then
      s.each ((List.range x.total).filter fun u => x.holds u && x.combinable u && !x.isFinal u) fun a u => a.formFinal key u
    else s

/-- A run of units of an outgoing transfer can be sent: the values are there (R263 to R265). -/
def Slot.sendable (x : Slot) (t : Transfer) (u : Nat) : Bool :=
  match x.sop with
  | 3 => if t.fin then x.isFinal u else x.combinable u
  | 4 => x.combinable u
  | 2 => x.isFinal u
  | 5 => x.isFinal u
  | _ => true

/-- The bytes of one run of an outgoing transfer. -/
def State.runBytes (s : State) (x : Slot) (key : Nat) (t : Transfer) (u n : Nat) : Trial Bytes :=
  if t.fin then
    (if x.sop = 2 ∨ x.sop = 3 ∨ x.sop = 5 then (s, .ok ((List.range n).flatMap fun i => x.kept 0 (u + i) (x.msgUnit true)))
     else s.sourceOf x key t u n)
  else
    (List.range n).foldl (fun a i => a.andThen fun s1 acc =>
      (s1.combined x key (u + i)).andThen fun s2 vs => (s2, .ok (acc ++ x.partialBytes vs))) (s, .ok [])

/-- One DATA message against a grant (R270, R273). -/
def State.sendRun (s : State) (key t : Nat) (peerSlot : BitVec 4) (u n : Nat) : State :=
  s.withSlot key fun s x =>
    match x.transfers[t]? with
    | none => s
    | some tr =>
      State.tried key x (s.runBytes x key tr u n) fun s1 bs =>
        (s1.countPart (some x.part) 0x2520 3 bs.length).sendAgainst key x 0 tr.peer peerSlot (u * (x.unit / 64)) bs fun y =>
          { y with sent := y.sent ++ [⟨t, u, n⟩] }

/-- Every unit that is granted, there and not yet sent, in the order of the grants. -/
def State.sendAll (s : State) (key : Nat) : State :=
  s.withSlot key fun s x =>
    s.each x.grantsIn fun a g =>
      match x.transfers[g.1.transfer]? with
      | none => a
      | some tr =>
        let us := ((List.range g.1.count).map (g.1.first + ·)).filter fun u => x.sendable tr u && !inPiece x.sent g.1.transfer u
        a.each (runsOf (x.frameUnits tr.fin) us) fun b r => b.sendRun key g.1.transfer g.2 r.1 r.2

/-- The ranks a TOKEN of the barrier may go to: the parent once every child's has come, the children once the parent's has, or at
rank 0 every child's (R264). -/
def Slot.tokenTargets (x : Slot) : List Nat :=
  let kids := treeKids x.rank x.size
  let kidsIn : Bool := kids.all fun q => x.tokens.contains q
  let upIn : Bool := (treeUp x.rank).all fun q => x.tokens.contains q
  (if kidsIn then treeUp x.rank else []) ++ if kidsIn && upIn then kids else []

/-- TOKEN and COUNTS messages against the CTS that ask for them (R264, R273, R277). -/
def State.sendSmall (s : State) (key : Nat) : State :=
  s.withSlot key fun s x =>
    s.each x.ready fun a e =>
      if x.sop = 1 then
        if x.tokenTargets.contains e.1 && !x.tokensTo.contains e.1 then
          a.sendAgainst key x 4 e.1 e.2 0 (zeros 64) fun y => { y with tokensTo := y.tokensTo ++ [e.1] }
        else a
      else if x.sop = 7 && !x.countsTo.contains e.1 then
        let cs := (List.range x.nsub).flatMap fun k => toLE (x.cnt sendBase e.1 k) 4
        a.sendAgainst key x 2 e.1 e.2 0 (fit cs ((cs.length + 63) / 64 * 64)) fun y => { y with countsTo := y.countsTo ++ [e.1] }
      else a

/-- The bytes of a range of counts as words. -/
def Slot.countBytes (x : Slot) (base n : Nat) : Bytes := (List.range n).flatMap fun i => toLE (mapGet 0 x.counts (base + i)).toNat 4

/-- A member's rows for itself, copied inside the Shuttle (R265). -/
def State.copyRows (s : State) (x : Slot) (key : Nat) : Trial Unit :=
  (List.zip (x.srcRows x.rank) (x.dstRows x.rank)).foldl (fun t e => t.andThen fun s1 _ =>
    (s1.readUnits x key (e.1.1 * x.seg) (e.1.2 * x.seg)).andThen fun s2 bs =>
      ((s2.countPart (some x.part) 0x2520 3 bs.length).writeUnits x key (e.2.1 * x.seg) bs)) (s, .ok ())

/-- LAYOUT (R277): with every count held, the regions are checked, the receive counts written, and the member's own rows placed. -/
def State.layOut (s : State) (key : Nat) : State :=
  s.withSlot key fun s x =>
    let all := (List.range x.size).all fun q => x.countsFrom.contains q
    if x.sop ≠ 7 || x.laid || !all then s
    else if (List.range x.nsub).any fun k => x.subcap < ((List.range x.size).map fun q => x.cnt 0 q k).sum then
      s.slotFault key x 0x8704 []
    else
      State.tried key x (s.shWrite x key (bit x.b0 6) false (x.addr 10) (x.countBytes 0 (x.size * x.nsub))) fun s1 _ =>
        (s1.modSlot key fun y => { y with laid := true }).withSlot key fun s2 y =>
          State.tried key y (s2.copyRows y key) fun s3 _ => s3

/-- Units received from a rank, and whether every incoming transfer of it is whole. -/
def Slot.fromPeer (x : Slot) (q : Nat) : Nat × Bool :=
  let ts := x.transfers.zipIdx.filter fun e => !e.1.out && e.1.peer = q
  ((ts.map fun e => pieceSum x.got e.2).sum, ts.all fun e => pieceSum x.got e.2 = e.1.count)

/-- The slot a peer's CTS named. -/
def Slot.peerSlot (x : Slot) (q : Nat) : Option (BitVec 4) :=
  match x.ready.find? fun e => e.1 = q with
  | some e => some e.2
  | none =>
    let ts := x.transfers
    (x.grantsIn.find? fun g => match ts[g.1.transfer]? with | some t => t.peer = q | none => false).map (·.2)

/-- The ranks that have sent all they send, to which DONE is due (R274). -/
def Slot.doneDue (x : Slot) : List Nat :=
  let ins := ((x.transfers.filter fun t => !t.out).map (·.peer)).eraseDups
  let qs := if x.sop = 1 then x.tokens else if x.sop = 7 && !x.laid then [] else ins.filter fun q => (x.fromPeer q).2
  qs.filter fun q => !x.doneTo.contains q

/-- DONE to a rank (R274). -/
def State.sendDone (s : State) (key q : Nat) (slot : BitVec 4) : State :=
  s.withSlot key fun s x =>
    s.slotSend key x 3 q slot 0 (words64 [(x.fromPeer q).1]) fun _ s' =>
      s'.modSlot key fun y => { y with doneTo := y.doneTo ++ [q] }

/-- Every DONE that is due. It names the sender's slot, which a member learns from the sender's CTS and waits for where one will come;
where the sender sends it none, the spec does not say what the DONE names: a free value. -/
def State.sendDones (s : State) (key : Nat) : State :=
  s.withSlot key fun s x =>
    s.each x.doneDue fun a q =>
      match x.peerSlot q with
      | some n => a.sendDone key q n
      | none =>
        if x.sop = 1 || x.sop = 7 || x.transfers.any fun t => t.out && t.peer = q then a
        else
          let (w, a') := a.freeWord
          a'.sendDone key q (BitVec.ofNat 4 w.toNat)

/-- Both conditions of R274. -/
def Slot.complete (x : Slot) : Bool :=
  let ts := x.transfers.zipIdx
  let moved (out : Bool) (ps : List Piece) : Bool := (ts.filter fun e => e.1.out = out).all fun e => pieceSum ps e.2 = e.1.count
  let outs := ((x.transfers.filter fun t => t.out).map (·.peer)).eraseDups
  let counts : Bool := x.sop ≠ 7 || (x.laid && (List.range x.size).all fun q => q = x.rank || x.countsTo.contains q)
  let tree := if x.size ≤ 1 then [] else treeUp x.rank ++ treeKids x.rank x.size
  let tokens : Bool := x.sop ≠ 1 || tree.all fun q => x.tokens.contains q && x.tokensTo.contains q && x.doneFrom.contains q
  let finals : Bool := !(x.sop = 3 || x.sop = 4) || (List.range x.total).all fun u => !x.holds u || x.isFinal u
  moved false x.got && moved true x.sent && counts && tokens && finals && (outs.all fun q => x.doneFrom.contains q)
    && x.doneDue.isEmpty

/-- A slot that is complete by its deadline is freed, and its command may complete (R274, R284). A completion stamped after the deadline comes
too late (R344). -/
def State.completeSlot (s : State) (key : Nat) : State :=
  s.withSlot key fun s x =>
    if x.complete && s.now ≤ x.deadline then
      let s1 := { s with sh := { s.sh with slots := mapSet none s.sh.slots key none } }
      let s2 := (s1.modTile x.tile fun t => t.finish x.cmd).countPart (some x.part) 0x2520 2 1
      s2.trace' (BitVec.ofNat 8 x.part) x.tile 10 (word (x.gid.toNat * 65536 + x.seq.toNat))
    else s

/-- An open slot goes as far as it can. -/
def State.progress (s : State) (key : Nat) : State :=
  let s1 := ((s.layOut key).sendSmall key).grantAll key
  let s2 := (((s1.formFinals key).sendAll key).sendDones key).completeSlot key
  s2

/-! ### CTS (R272, R273) -/

/-- The CTS of a message. -/
def ctsOf (m : Msg) : CtsRec :=
  let w (i : Nat) : Word := word (fieldAt m.payload (4 * i) 4)
  { srank := m.srank.toNat, slot := m.slot, kind := w 0, w1 := w 1, w2 := w 2, w3 := w 3, w4 := w 4, first := (w 5).toNat,
    count := (w 6).toNat }

/-- W1 to W4 agree with the slot's own (R272). -/
def Slot.agrees (x : Slot) (c : CtsRec) : Bool :=
  c.w1.toNat = x.ctsW1 && c.w2.toNat = x.seg && c.w3 = x.arg && c.w4.toNat = x.size

/-- The outgoing transfer a grant fits: the first to that rank that holds the range and has not been granted it. -/
def Slot.fits (x : Slot) (c : CtsRec) : Option Nat :=
  ((x.transfers.zipIdx).find? fun e =>
    e.1.out && e.1.peer = c.srank && e.1.first ≤ c.first && c.first + c.count ≤ e.1.first + e.1.count
      && !(List.range c.count).any fun i => inPiece (x.grantsIn.map (·.1)) e.2 (c.first + i)).map (·.2)

/-- A CTS delivered to an open slot (R272, R273, R277). -/
def State.takeCts (s : State) (key : Nat) (c : CtsRec) : State :=
  s.withSlot key fun s x =>
    if !x.agrees c then s.slotFault key x 0x8705 []
    else if c.kind ≠ 1 then s.modSlot key fun y => { y with ready := y.ready ++ [(c.srank, c.slot)] }
    else if x.ragged && c.count ≠ x.rowsTo c.srank * x.seg then s.slotFault key x 0x8705 []
    else
      match x.fits c with
      | some t => s.modSlot key fun y => { y with grantsIn := y.grantsIn ++ [(⟨t, c.first, c.count⟩, c.slot)] }
      | none => s.strayMsg x.gid

/-- The open slot of a group and sequence number. -/
def State.slotOf (s : State) (g : Group) (seq : BitVec 16) : Option Nat :=
  ((List.range 16).map (g.ctx.toNat * 16 + ·)).find? fun k =>
    match s.slotAt k with
    | some x => x.gid = g.gid && x.seq = seq
    | none => false

/-- The number of early table entries of a context. -/
def State.earlyCount (s : State) (ctx : BitVec 12) : Nat := (s.sh.early.filter fun e => e.1 = ctx).length

/-- A CTS for this module (R272). -/
def State.ctsIn (s : State) (g : Group) (m : Msg) : State :=
  match s.slotOf g m.seq with
  | some k => (s.takeCts k (ctsOf m)).progress k
  | none =>
    if 4096 ≤ s.earlyCount g.ctx then s.strayMsg g.gid
    else { s with sh := { s.sh with early := s.sh.early ++ [(g.ctx, m.gid, m.seq, ctsOf m)] } }.countPart (some g.part.toNat) 0x2520 6 1

/-! ### Opening (R261, R262, R271) -/

/-- The allowed combinations (R262). -/
def Slot.allowed (x : Slot) (v : Bool) : Bool :=
  let lenOk : Bool := x.alg = 0 || x.seg * x.unit ≤ 262144
  let argOk : Bool := x.arg = 0 || (x.rop = 0 && 1 ≤ x.etype && x.etype ≤ 3)
  let ropOk : Bool := x.rop = 0 || x.etype = 1 || x.etype = 2 || x.etype = 4
  lenOk && (x.alg ≠ 2 || v) && match x.sop with
    | 1 => x.etype = 0 && x.rop = 0 && x.alg = 1 && x.seg = 0 && x.arg = 0
    | 2 => x.rop = 0 && x.alg ≤ 1 && bits x.arg 17 15 = 0
    | 3 => 1 ≤ x.etype && ropOk && argOk
    | 4 => 1 ≤ x.etype && ropOk && argOk && x.alg = 0
    | 5 => x.rop = 0 && x.alg = 0 && x.arg = 0
    | 6 => x.etype = 0 && x.rop = 0 && x.alg = 0 && !x.wire && !x.chk && x.size ≤ 256 && x.arg = 0
    | 7 => x.etype = 0 && x.rop = 0 && x.alg = 0 && !x.wire && !x.chk && x.size ≤ 256
    | 8 => x.etype = 0 && x.rop = 0 && x.alg = 0 && !x.wire && !x.chk && x.size ≤ 256
    | _ => false

/-- Rows of the send buffer: the sum of the send counts. -/
def Slot.sentRows (x : Slot) : Nat := ((List.range (x.size * x.nsub)).map fun e => (mapGet 0 x.counts (sendBase + e)).toNat).sum

/-- Units a member reads at its source; none for BARRIER and for a BROADCAST not at its root. -/
def Slot.srcUnits (x : Slot) : Nat :=
  match x.sop with
  | 1 => 0
  | 2 => if x.rank = bits x.arg 0 17 then x.seg else 0
  | 4 => x.size * x.seg
  | 6 => x.size * x.seg
  | 7 => x.sentRows * x.seg
  | 8 => x.nsub * x.subcap * x.seg
  | _ => x.seg

/-- Units a member writes at its destination. -/
def Slot.dstUnits (x : Slot) : Nat :=
  match x.sop with
  | 1 => 0
  | 5 => x.size * x.seg
  | 6 => x.size * x.seg
  | 7 => x.nsub * x.subcap * x.seg
  | 8 => x.sentRows * x.seg
  | _ => x.seg

/-- The regions of a slot: whether it is written, its space, first byte, bytes. -/
def Slot.areas (x : Slot) : List (Bool × Bool × Nat × Nat) :=
  let b (i : Nat) : Bool := bit x.b0 i
  [(false, b 10, x.addr 2, x.srcUnits * x.unit), (true, b 9, x.addr 4, x.dstUnits * x.unit)]
    ++ (if x.etype = 3 then [(false, b 7, x.addr 8, x.srcUnits), (true, b 6, x.addr 10, x.dstUnits)] else [])
    ++ if x.ragged then
        [(false, b 7, x.addr 8, 4 * x.size * x.nsub), (x.sop = 7, b 6, x.addr 10, 4 * x.size * x.nsub)] else []

/-- Address words that an operation does not use: first word of the pair. -/
def Slot.unusedAddrs (x : Slot) : List Nat :=
  (if x.sop = 1 then [2, 4] else [])
    ++ if x.etype = 3 || x.ragged then [] else [8, 10]

/-- Two areas share a byte. -/
def areasMeet (a b : Bool × Bool × Nat × Nat) : Bool :=
  a.2.1 = b.2.1 && a.2.2.1 < b.2.2.1 + b.2.2.2 && b.2.2.1 < a.2.2.1 + a.2.2.2

/-- An ALLREDUCE in place: DST is SRC (R261). -/
def Slot.inPlace (x : Slot) : Bool := x.sop = 3 && bit x.b0 9 = bit x.b0 10 && x.addr 4 = x.addr 2

/-- A destination overlaps a source (R261). DEDUCED (log 122): an ALLREDUCE in place may have its exponent plane in place too. -/
def Slot.overlaps (x : Slot) : Bool :=
  let ar := x.areas.zipIdx
  ar.any fun a => a.1.1 && ar.any fun b =>
    !b.1.1 && areasMeet a.1 b.1
      && !(x.inPlace && ((a.2 = 1 && b.2 = 0) || (a.2 = 3 && b.2 = 2 && bit x.b0 6 = bit x.b0 7 && x.addr 10 = x.addr 8)))

/-- An area lies outside its space, or its address breaks R258, R260 or R261. -/
def Slot.areaBad (x : Slot) (span : Nat) (a : Bool × Bool × Nat × Nat) : Bool :=
  a.2.2.1 % 64 ≠ 0 || (x.chk && a.2.2.1 % 4096 ≠ 0)
    || (if a.2.1 then 0x800000 ≤ a.2.2.1 || span < a.2.2.1 + a.2.2.2 else 2 ^ 52 < a.2.2.1 + a.2.2.2)

/-- SH_BODY (R261). -/
def Slot.bad (x : Slot) (w0 : Word) (span : Nat) : Bool :=
  hdrBody w0 ≠ 3 || bits x.b0 0 6 ≠ 0 || x.sop = 0 || 8 < x.sop || x.alg = 3 || 4 < x.etype || x.rop = 3
    || [3, 5, 9, 11].any (fun i => bits (x.w i) 20 12 ≠ 0) || !x.allowed (hdrV w0)
    || (x.chk && (bit x.b0 10 || bit x.b0 9)) || x.unusedAddrs.any (fun i => x.w i ≠ 0 || x.w (i + 1) ≠ 0)
    || x.areas.any (x.areaBad span) || x.overlaps

/-- A slot for a command, before it opens. -/
def mkSlot (c : Command) (l : Path) (p : Nat) (g : Option Group) (rank : Nat) : Slot :=
  { body := c.body, tile := l, cmd := c.id, stag := c.stag, opened := 0, part := p,
    gid := BitVec.ofNat 16 (bits (c.body.getD 1 0) 16 16), seq := BitVec.ofNat 16 (bits (c.body.getD 1 0) 0 16), rank := rank,
    size := match g with | some g => groupSize g.extent.toNat | none => 1 }

/-- The context and partition of a Shuttle body (R258). -/
def State.shCtx (s : State) (l : Path) (c : Command) : Option (Nat × BitVec 12) :=
  (s.partOf l).bind fun p => (s.slotCtx p (bits (c.body.getD 0 0) 20 4)).map fun x => (p, x)

/-- The group of a body, if it is registered to the context. -/
def State.shGroup (s : State) (ctx : BitVec 12) (c : Command) : Option Group :=
  (s.group (BitVec.ofNat 16 (bits (c.body.getD 1 0) 16 16))).filter fun g => g.ctx = ctx

/-- Counts put into a slot's count map. -/
def Slot.loadCounts (x : Slot) (base : Nat) (bs : Bytes) : Slot :=
  { x with counts := (wordsOf bs).zipIdx.foldl (fun m e => mapSet 0 m (base + e.2) e.1) x.counts }

/-- The send counts of an ALLTOALLV or its reverse as they stand, by which the length of the send buffer is checked. DEDUCED (log 123): R261
checks regions before a slot is taken, and R275 keeps the counts unchanged from then on. -/
def State.peekCounts (s : State) (ctx : BitVec 12) (x : Slot) : Slot :=
  if x.ragged && x.size ≤ 256 then
    let n := 4 * x.size * x.nsub
    x.loadCounts sendBase (if bit x.b0 7 then s.peekLS x.tile (x.addr 8) n else s.peekVA (.slice (dieOf x.tile)) ctx (x.addr 8) n)
  else x

/-- The slot a command would open. -/
def State.slotFor (s : State) (l : Path) (c : Command) : Slot :=
  match s.shCtx l c with
  | none => mkSlot c l 0 none 0
  | some (p, ctx) =>
    let g := s.shGroup ctx c
    s.peekCounts ctx (mkSlot c l p g (match g with | some g => s.rankIn g.base.toNat g.extent.toNat | none => 0))

/-- The event of the check of R261 that a descriptor fails. Under a CSLOT that binds no context no GID is registered. -/
def State.shRefusal (s : State) (l : Path) (c : Command) : Option Nat :=
  let x := s.slotFor l c
  if x.bad c.w0 (s.span l) then some 0x8701
  else
    match s.shCtx l c with
    | none => some 0x8702
    | some (p, ctx) =>
      match s.shGroup ctx c with
      | none => some 0x8702
      | some g =>
        if x.sop = 2 ∧ x.size ≤ bits x.arg 0 17 then some 0x8702
        else if (s.slotOf g x.seq).isSome then some 0x8703
        else if (s.part p).sealedMode && (s.part p).vc = 0xFF && 1 < x.size then some 0x8706
        else none

/-- The lowest free slot of a context (R271). -/
def State.freeSlot (s : State) (ctx : BitVec 12) : Option Nat :=
  ((List.range 16).map (ctx.toNat * 16 + ·)).find? fun k => (s.slotAt k).isNone

/-- What a slot does when it opens: the CTS that ask for counts or tokens, its own counts, the copies to itself (R264, R265, R277,
R278). -/
def State.begin (s : State) (key : Nat) : State :=
  s.withSlot key fun s x =>
    let others := (List.range x.size).filter (· ≠ x.rank)
    let n := x.size * x.nsub
    match x.sop with
    | 1 =>
      if x.size ≤ 1 then s
      else s.each (treeUp x.rank ++ treeKids x.rank x.size) fun a q => a.withSlot key fun a y => a.sendCts key y q 2 0 0 id
    | 7 =>
      State.tried key x (s.shRead x key (bit x.b0 7) false (x.addr 8) (4 * n)) fun s1 bs =>
        let own (y : Slot) : Slot :=
          { y with countsFrom := [y.rank],
                   counts := (List.range y.nsub).foldl (fun m k =>
                     mapSet 0 m (y.rank * y.nsub + k) (mapGet 0 y.counts (sendBase + y.rank * y.nsub + k))) y.counts }
        (s1.modSlot key fun y => own (y.loadCounts sendBase bs)).each others fun a q =>
          a.withSlot key fun a y => a.sendCts key y q 0 0 0 id
    | 8 =>
      State.tried key x (s.shRead x key (bit x.b0 7) false (x.addr 8) (4 * n)) fun s1 sc =>
        State.tried key x (s1.shRead x key (bit x.b0 6) false (x.addr 10) (4 * n)) fun s2 rc =>
          (s2.modSlot key fun y => (y.loadCounts sendBase sc).loadCounts 0 rc).withSlot key fun s3 y =>
            State.tried key y (s3.copyRows y key) fun s4 _ => s4
    | 6 =>
      State.tried key x (s.readUnits x key (x.rank * x.seg) x.seg) fun s1 bs =>
        State.tried key x ((s1.countPart (some x.part) 0x2520 3 bs.length).writeUnits x key (x.rank * x.seg) bs) fun s2 _ => s2
    | 2 =>
      if x.rank = bits x.arg 0 17 then
        State.tried key x (s.readWire x key 0 x.seg) fun s1 bs =>
          State.tried key x ((s1.countPart (some x.part) 0x2520 3 (x.seg * x.unit)).writeUnits x key 0 bs) fun s2 _ =>
            s2.modSlot key fun y =>
              { (chunks (y.msgUnit true) bs).zipIdx.foldl (fun z e => z.keep 0 e.2 e.1) y with final := [(0, y.seg)] }
      else s
    | 5 =>
      State.tried key x (s.readWire x key 0 x.seg) fun s1 bs =>
        State.tried key x ((s1.countPart (some x.part) 0x2520 3 (x.seg * x.unit)).writeUnits x key (x.rank * x.seg) bs) fun s2 _ =>
          s2.modSlot key fun y =>
            { (chunks (y.msgUnit true) bs).zipIdx.foldl (fun z e => z.keep 0 (y.rank * y.seg + e.2) e.1) y with
                final := [(y.rank * y.seg, y.seg)] }
    | _ => s

/-- A slot opens (R271, R272): it takes the early CTS of its collective and goes as far as it can. -/
def State.openSlot (s : State) (key : Nat) (x : Slot) : State :=
  let mine (e : BitVec 12 × BitVec 16 × BitVec 16 × CtsRec) : Bool := e.1 = keyCtx key && e.2.1 = x.gid && e.2.2.1 = x.seq
  let cts := (s.sh.early.filter mine).map fun e => e.2.2.2
  let s1 := { s with sh := { s.sh with early := s.sh.early.filter (fun e => !mine e),
                                       slots := mapSet none s.sh.slots key (some { x with opened := s.now, deadline := s.now + BitVec.ofNat 64 ((s.part x.part).deadline.toNat * 1000) }) } }
  let s2 := s1.trace' (BitVec.ofNat 8 x.part) x.tile 10 (word (x.gid.toNat * 65536 + x.seq.toNat))
  let s3 := if bit x.b0 8 && !bit x.b0 10 then
    s2.prefetch (x.ts key).mover x.part (keyCtx key) (x.addr 2) (x.srcUnits * x.unit) else s2
  ((s3.begin key).each cts fun a c => a.takeCts key c).progress key

/-- SOP of a queued Shuttle body is the row's. -/
def Command.isSop (n : Nat) (c : Command) : Bool := c.top = n

/-- A collective descriptor after dispatch (R261, R271): refused, opened in the lowest free slot, or left waiting at the head of its
queue with its checks passed. -/
def State.shDispatch (s : State) (l : Path) (c : Command) : State :=
  match s.shRefusal l c with
  | some code =>
    let x := s.slotFor l c
    (s.modTile l fun t => t.unqueue c.id).raiseTile l code (some c.stag) (toLE x.gid.toNat 2 ++ toLE x.seq.toNat 2)
  | none =>
    match (s.shCtx l c).bind fun e => s.freeSlot e.2 with
    | some key => (s.launchCmd l c).openSlot key (s.slotFor l c)
    | none =>
      s.modTile l fun t => { t with cmdQ := t.cmdQ.map fun d => if d.id = c.id then { d with checked := true } else d }

/-- No slab a slot's areas lie in is being scrubbed (R165). -/
def State.shReady (s : State) (l : Path) (c : Command) : Bool :=
  match s.shCtx l c with
  | none => true
  | some (_, ctx) =>
    let x := s.slotFor l c
    x.bad c.w0 (s.span l) || x.areas.all fun a => a.2.1 || s.answers (.slice (dieOf l)) ctx a.2.2.1 a.2.2.2

/-- The first UNIT 5 command of a tile, if its SOP is the row's and its wait holds. -/
def State.shRow (s : State) (t : Path) (isOp : Command → Bool) : Out :=
  guardUnit (activePath t)
    (let l := s.lead t
     match (s.tile l).headOf 5 with
     | none => s
     | some c =>
       if s.unitsRun l && !c.isVec && isOp c && (s.tile l).waitOk c && s.shReady l c then s.shDispatch l c else s)

/-- BARRIER (R264). A Shuttle body whose SOP is reserved is dispatched by this row too, and raises SH_BODY. -/
def execBarrier (t : Path) (s : State) : Out :=
  s.shRow t fun c => c.isSop 1 || c.top = 0 || (8 < c.top && c.top < 0xE0) || 0xEF < c.top
/-- BROADCAST (R265). -/
def execBroadcast (t : Path) (s : State) : Out := s.shRow t (Command.isSop 2)
/-- ALLREDUCE (R263, R264). -/
def execAllreduce (t : Path) (s : State) : Out := s.shRow t (Command.isSop 3)
/-- REDUCE_SCATTER (R263). -/
def execReduceScatter (t : Path) (s : State) : Out := s.shRow t (Command.isSop 4)
/-- ALLGATHER (R265). -/
def execAllgather (t : Path) (s : State) : Out := s.shRow t (Command.isSop 5)
/-- ALLTOALL (R265). -/
def execAlltoall (t : Path) (s : State) : Out := s.shRow t (Command.isSop 6)
/-- ALLTOALLV (R277). -/
def execAlltoallv (t : Path) (s : State) : Out := s.shRow t (Command.isSop 7)
/-- ALLTOALLV_REV (R278). -/
def execAlltoallvRev (t : Path) (s : State) : Out := s.shRow t (Command.isSop 8)
/-- SHUTTLE_SLOT_OPEN (R271): a descriptor that waits with its checks passed takes the lowest free slot. -/
def execShuttleSlotOpen (t : Path) (s : State) : Out := s.shRow t fun c => c.checked

/-- COLLECTIVE_DEADLINE (R284, R285): a slot's deadline has passed without its completion. -/
def execCollectiveDeadline (ctx : BitVec 12) (slot : BitVec 4) (s : State) : Out :=
  .next
    (let key := ctx.toNat * 16 + slot.toNat
     match s.slotAt key with
     | none => s
     | some x =>
       if !s.fatal && x.deadline < s.now then s.endCollective key 1 else s)

/-! ### Messages received (R272) -/

/-- A message of a row's type taken from a port; a group that is absent or whose GTAG differs discards it. -/
def State.msgRow (s : State) (p : PortCode) (mt : BitVec 4) (f : State → Group → Msg → State) : Out :=
  .next
    (match s.takeRx p.toNat fun m => m.mt = mt with
     | none => s
     | some (m, s') =>
       match s'.group m.gid with
       | none => s'.strayMsg m.gid
       | some g => if g.gtag = m.gtag then f s' g m else s'.strayMsg m.gid)

/-- A message for an open slot, named by number, GID and SEQ (R272, item 4). -/
def State.slotRow (s : State) (p : PortCode) (mt : BitVec 4) (f : State → Nat → Slot → Msg → State) : Out :=
  s.msgRow p mt fun s g m =>
    let key := g.ctx.toNat * 16 + m.slot.toNat
    match s.slotAt key with
    | some x => if x.gid = m.gid ∧ x.seq = m.seq then (f s key x m).progress key else s.strayMsg m.gid
    | none => s.strayMsg m.gid

/-- CTS (R272). -/
def execMsgCts (p : PortCode) (s : State) : Out := s.msgRow p 1 State.ctsIn

/-- The incoming transfer a DATA message belongs to: the first from its sender that holds the range and has not had it. -/
def Slot.landing (x : Slot) (m : Msg) (u n : Nat → Nat) : Option (Nat × Transfer) :=
  ((x.transfers.zipIdx).find? fun e =>
    let f := u (x.unit / 64)
    let k := n (x.msgUnit e.1.fin)
    !e.1.out && e.1.peer = m.srank.toNat && k ≠ 0 && e.1.first ≤ f && f + k ≤ e.1.first + e.1.count
      && !(List.range k).any fun i => inPiece x.got e.2 (f + i)).map fun e => (e.2, e.1)

/-- A DATA message written or kept (R270). -/
def State.dataIn (s : State) (key : Nat) (x : Slot) (m : Msg) : State :=
  match x.landing m (fun k => m.offset.toNat / k) (fun k => m.payload.length / k) with
  | none => s.strayMsg m.gid
  | some (t, tr) =>
    let u := m.offset.toNat / (x.unit / 64)
    let n := m.payload.length / x.msgUnit tr.fin
    let units (y : Slot) (base : Nat) : Slot :=
      (chunks (x.msgUnit tr.fin) m.payload).zipIdx.foldl (fun z e => z.keep base (u + e.2) e.1) y
    let s1 := s.countPart (some x.part) 0x2520 4 m.payload.length
    let got (y : Slot) : Slot := { y with got := y.got ++ [⟨t, u, n⟩] }
    if tr.fin then
      State.tried key x (s1.sinkOf x key tr.peer u m.payload) fun s2 _ =>
        s2.modSlot key fun y =>
          if y.sop = 2 ∨ y.sop = 3 ∨ y.sop = 5 then { got (units y 0) with final := y.final ++ [(u, n)] } else got y
    else s1.modSlot key fun y => got (units y (t + 1))

/-- DATA (R270). -/
def execMsgData (p : PortCode) (s : State) : Out := s.slotRow p 0 State.dataIn

/-- COUNTS (R277). -/
def execMsgCounts (p : PortCode) (s : State) : Out :=
  s.slotRow p 2 fun s key x m =>
    let q := m.srank.toNat
    if x.sop ≠ 7 || x.countsFrom.contains q || x.size ≤ q then s.strayMsg m.gid
    else
      s.modSlot key fun y =>
        { y with countsFrom := y.countsFrom ++ [q],
                 counts := (List.range y.nsub).foldl (fun c k =>
                   mapSet 0 c (q * y.nsub + k) (word (fieldAt m.payload (4 * k) 4))) y.counts }

/-- The units sent to a rank so far, and all the units that go to it. -/
def Slot.unitsTo (x : Slot) (q : Nat) : Nat × Nat :=
  let ts := x.transfers.zipIdx.filter fun e => e.1.out && e.1.peer = q
  ((ts.map fun e => pieceSum x.sent e.2).sum, (ts.map (·.1.count)).sum)

/-- A DONE is for all that goes to its sender: W0 is the number of units sent, and none are left to send (R274). -/
def Slot.doneAll (x : Slot) (q units : Nat) : Bool := (x.unitsTo q).1 = units && (x.unitsTo q).2 = units

/-- DONE (R274). -/
def execMsgDone (p : PortCode) (s : State) : Out :=
  s.slotRow p 3 fun s key x m =>
    if x.doneAll m.srank.toNat (fieldAt m.payload 0 4) then s.modSlot key fun y => { y with doneFrom := y.doneFrom ++ [m.srank.toNat] } else s

/-- TOKEN (R264). -/
def execMsgToken (p : PortCode) (s : State) : Out :=
  s.slotRow p 4 fun s key x m =>
    if x.sop = 1 && !x.tokens.contains m.srank.toNat then s.modSlot key fun y => { y with tokens := y.tokens ++ [m.srank.toNat] }
    else s.strayMsg m.gid

/-- ABORT (R272, R285): the partition fault of the group's partition, reason 2. -/
def execMsgAbort (p : PortCode) (s : State) : Out :=
  s.msgRow p 5 fun s g m =>
    match s.slotOf g m.seq with
    | some key => s.endCollective key 2
    | none =>
      s.raiseWith { code := 0x8120, part := g.part.toNat, ctx := g.ctx.toNat,
                    detail := toLE m.gid.toNat 2 ++ toLE m.seq.toNat 2 ++ [BitVec.ofNat 8 m.slot.toNat, 2] } (some 2)

end Sys2Proof.Machine
end

