-- ==== Sys2Proof/Machine/Outing.lean ====
section
/-! DEFINITION. Outings (R289 to R314): packing, the exchange and its bitmap, the outer update, and the snapshot fetch. -/

namespace Sys2Proof.Machine

/-! ### Bindings -/

/-- The binding of a group. -/
def State.binding (s : State) (gid : BitVec 16) : Option Binding := s.bindings.find? fun b => b.gid = gid

/-- A binding changed. -/
def State.modBinding (s : State) (gid : BitVec 16) (f : Binding → Binding) : State :=
  { s with bindings := s.bindings.map fun b => if b.gid = gid then f b else b }

/-- Something done with a binding that exists. -/
def State.withBinding (s : State) (gid : BitVec 16) (f : State → Binding → State) : State :=
  match s.binding gid with
  | some b => f s b
  | none => s

/-- ED of a binding's group. -/
def State.sites (s : State) (b : Binding) : Nat :=
  match s.group b.gid with
  | some g => extent g.extent.toNat 3
  | none => 0

/-- This module's rank in a binding's group. -/
def State.ownRank (s : State) (b : Binding) : Nat :=
  match s.group b.gid with
  | some g => s.rankIn g.base.toNat g.extent.toNat
  | none => 0

/-- A of R300. -/
def Binding.a (b : Binding) : Word := b.accepted.outno

/-- The accepted bitmap for an outing, with its stamp. -/
def Binding.bitmapFor (b : Binding) (n : Word) : Option (Bitmap × DWord) := b.bitmaps.find? fun e => e.1.outno = n

/-- The base identity for an outing (R295). -/
def Binding.base (b : Binding) (n : Word) : Option Identity :=
  if b.a + 1 = n then some b.accepted
  else if b.a = n then (b.bitmapFor n).map fun e => e.1.app
  else none

/-- What is known of a rank's contribution to an outing. -/
def Binding.contrib (b : Binding) (n : Word) (r : Nat) : Option Contribution := b.contribs.find? fun c => c.outno = n && c.rank = r

/-- A rank's contribution is held by a stamp (R300, R303). -/
def Binding.holds (b : Binding) (n : Word) (r : Nat) (by' : DWord) : Bool :=
  match b.contrib n r with
  | some c => !c.mixed && (match c.stamp with | some t => t ≤ by' | none => false)
  | none => false

/-- The header identity of a held contribution. -/
def Binding.appOf (b : Binding) (n : Word) (r : Nat) : Option Identity := (b.contrib n r).bind fun c => c.app

/-- A set of ranks as a mask. -/
def rankMask (rs : List Nat) : Byte := BitVec.ofNat 8 (rs.map fun r => 2 ^ r).sum

/-- The ranks of a mask. -/
def ranksOf (m : Byte) : List Nat := (List.range 8).filter fun r => bit m r

/-- Milliseconds in ns. -/
def ms (n : Nat) : Nat := n * 1000000

/-- The slot of a rank's contribution to an outing (R291). -/
def Binding.slotVa (b : Binding) (n : Word) (r : Nat) : Nat := b.xva + n.toNat % 3 * 8 * b.clen + r * b.clen

/-- The memory context of a binding's own work: the die GID mod 4 keeps it (R345). -/
def Binding.ts (b : Binding) : TsCtx :=
  { l := pathOf (b.gid.toNat % 4 * 10) 0, p := b.part.toNat, ctx := b.ctx,
    c := { id := 0, unit := 5, w0 := 0, waitV := 0, mode := 0, stag := 0, work := .desc [] } }

/-! ### Blocks written in part -/

/-- Bytes put into the blocks they touch, each of which gets the check value of its new bytes. -/
def State.putBytes (s : State) (a : TsCtx) : Nat → Nat → Bytes → Trial Unit
  | 0, _, _ => (s, .ok ())
  | fuel + 1, va, bs =>
    if bs.isEmpty then (s, .ok ())
    else
      let lo := va / 4096 * 4096
      let n := min bs.length (4096 - (va - lo))
      match s.xlate a.mover a.ctx lo true with
      | (s', .fault code) => (s', .error (halt code (toLE lo 8)))
      | (s', .ok _ pa) =>
        let old := s'.tierBytes pa 4096
        (s'.tsWrite a lo (old.take (va - lo) ++ bs.take n ++ old.drop (va - lo + n))).andThen fun s2 _ =>
          s2.putBytes a fuel (va + n) (bs.drop n)

/-- Bytes put anywhere. -/
def State.put (s : State) (a : TsCtx) (va : Nat) (bs : Bytes) : Trial Unit := s.putBytes a (bs.length / 4096 + 2) va bs

/-! ### Outing span records (R289) -/

/-- The fields of an outing span record. -/
structure OutSpan where
  at' : Nat
  keep : Nat
  pidx : Nat
  n : Nat
  wva : Nat
  ava : Nat
  ova : Nat
  eva : Nat
  poff : Nat
  plen : Nat
  hva : Nat
  pk : Nat
  id : Identity
  raw : Bytes

/-- A record's 128 bytes. -/
def parseOutSpan (at' : Nat) (b : Bytes) : OutSpan :=
  let f := fieldAt b
  { at' := at', keep := f 0 1, pidx := f 2 2 * 2 ^ 32 + f 4 4, n := f 8 4, wva := f 0x10 8, ava := f 0x18 8, ova := f 0x20 8,
    eva := f 0x28 8, poff := f 0x30 4, plen := f 0x34 4, hva := f 0x38 8, pk := f 0x41 1,
    id := { outno := word (f 0xC 4), b := BitVec.ofNat 8 (f 1 1), l := BitVec.ofNat 8 (f 0x40 1), alpha := word (f 0x44 4) }, raw := b }

/-- The record breaks a field rule of R289. -/
def OutSpan.bad (x : OutSpan) (clen : Nat) : Bool :=
  let vas := [x.wva, x.ava, x.ova, x.eva]
  x.keep = 0 || 64 < x.keep || x.n = 0 || x.n % 16384 ≠ 0 || 2 ^ 31 < x.n || vas.any (fun v => v % 4096 ≠ 0 || 2 ^ 52 ≤ v)
    || x.poff % 4096 ≠ 0 || x.plen ≠ x.n / 16384 * (16 + 144 * x.keep) || clen < x.poff + x.plen || x.hva % 64 ≠ 0 || 2 ^ 52 ≤ x.hva
    || fieldAt x.raw 0x42 2 ≠ 0 || (x.raw.drop 0x48).any (· ≠ 0)
    || anyMeet [(x.hva / 4096 * 4096, 4096), (x.wva, 2 * x.n), (x.ava, 2 * x.n), (x.ova, 2 * x.n), (x.eva, 4 * x.n)]

/-- Bytes of a chunk record (R297). -/
def OutSpan.rec' (x : OutSpan) : Nat := 16 + 144 * x.keep

/-- The fields the device writes: identity and PK. -/
def State.markSpan (s : State) (a : TsCtx) (x : OutSpan) (id : Identity) (pk : Nat) : Trial Unit :=
  let b := setByte x.raw 1 id.b
  let b := b.take 0xC ++ toLE id.outno.toNat 4 ++ b.drop 0x10
  let b := b.take 0x40 ++ [id.l, BitVec.ofNat 8 pk] ++ b.drop 0x42
  s.tsPatch a x.at' (b.take 0x44 ++ toLE id.alpha.toNat 4 ++ b.drop 0x48) (x.at' / 4096 * 4096 + 4096)

/-! ### OUT_PACK (R295 to R297) -/

/-- The blocks of a chunk that are kept: the largest norms, equal ones by lower number (R296). -/
def keptBlocks (keep : Nat) (norms : List Nat) : List Nat :=
  let beats (a b : Nat × Nat) : Bool := (f32 b.1).lt (f32 a.1) || (!(f32 a.1).lt (f32 b.1) && a.2 < b.2)
  let xs := norms.zipIdx
  (xs.filter fun e => (xs.filter fun f => beats f e).length < keep).map (·.2)

/-- A kept block: its 144 bytes and its values as sent (R297). -/
def packBlock (ds : List Nat) : Bytes × List Nat :=
  let runs := y4Runs (fun _ => none) 16 0 (ds.map f32)
  let value (scale : Nat) (e : Nat) : Nat := fp32.encode 0 ((e2m1.decode e).mul (e4m3.decode scale))
  (packElems 2 (runs.flatMap (·.2)) ++ runs.map (fun r => BitVec.ofNat 8 r.1), runs.flatMap fun r => r.2.map (value r.1))

/-- A chunk packed: its record and its new residuals; none where a difference is not finite (R296). -/
def packChunk (keep : Nat) (w a e : List Nat) : Option (Bytes × List Nat) :=
  let d := List.zipWith add32 (List.zipWith sub32 w a) e
  if anyWild d then none
  else
    let blocks := (List.range 64).map fun b => (d.drop (256 * b)).take 256
    let kept := keptBlocks keep (blocks.map fun ds => redFold 2 0 (ds.map f32))
    let packed := kept.map fun b => (b, packBlock (blocks.getD b []))
    let rest (b : Nat) (ds : List Nat) : List Nat :=
      match packed.find? fun p => p.1 = b with
      | some p => List.zipWith sub32 ds p.2.2
      | none => ds
    some (toLE ((kept.map fun b => 2 ^ b).sum) 8 ++ zeros 8 ++ packed.flatMap (fun p => p.2.1),
      blocks.zipIdx.flatMap fun x => rest x.2 x.1)

/-- bf16 patterns as fp32. -/
def bf16s (bs : Bytes) : List Nat := (chunks 2 bs).map fun w => bf32 (leNat w)

/-- fp32 patterns. -/
def f32s (bs : Bytes) : List Nat := (chunks 4 bs).map leNat

/-- One chunk of OUT_PACK; `acc` holds the bytes of the region's current block so far. -/
def State.packStep (s : State) (a : TsCtx) (x : OutSpan) (slot : Nat) (acc : Bytes) (c : Nat) : Trial Bytes :=
  (s.tsRead a (x.wva + 32768 * c) 32768).andThen fun s w =>
  (s.tsRead a (x.ava + 32768 * c) 32768).andThen fun s an =>
  (s.tsRead a (x.eva + 65536 * c) 65536).andThen fun s e =>
    match packChunk x.keep (bf16s w) (bf16s an) (f32s e) with
    | none => (s, .error (halt 0x8804 []))
    | some (r, e') =>
      let at' := x.poff + c * x.rec'
      let all := acc ++ r
      (s.tsWrites a (x.eva + 65536 * c) (e'.flatMap fun v => toLE v 4)).andThen fun s _ =>
      (s.tsWrites a (slot + at' / 4096 * 4096) (fit all ((all.length + 4095) / 4096 * 4096))).andThen fun s _ =>
        (s, .ok (all.drop (all.length / 4096 * 4096)))

/-- What an outing command works with beside its memory context. -/
structure OutCmd where
  n : Word
  gid : BitVec 16
  addr : Nat
  peer : Nat
  sidx : Nat
  waitAll : Bool

/-- The fields of an outing body (R293). -/
def outCmd (c : Command) : OutCmd :=
  let b (i : Nat) : Word := c.body.getD i 0
  { n := b 1, gid := BitVec.ofNat 16 (bits (b 4) 16 16), addr := tsAddr c.body, peer := bits (b 0) 16 3, sidx := bits (b 0) 0 16,
    waitAll := bit (b 0) 19 }

/-- The record read and checked. -/
def State.readOut (s : State) (a : TsCtx) (b : Binding) (va : Nat) : Trial OutSpan :=
  (s.tsRead a va 128).andThen fun s r =>
    if (parseOutSpan va r).bad b.clen then (s, .error (halt 0x8801 [])) else (s, .ok (parseOutSpan va r))

/-- OUT_SEQUENCE of OUT_PACK (R295). -/
def State.packOut (s : State) (b : Binding) (x : OutSpan) (n : Word) : Bool :=
  let p := s.part b.part.toNat
  p.step ≠ (n + 1) * p.period.setWidth 32 || x.id.outno ≠ n - 1 || (b.a ≠ n - 1 && b.a ≠ n) || some x.id ≠ b.base n || x.pk = 1

/-- OUT_PACK (R295 to R297). -/
def State.outPack (s : State) (a : TsCtx) (b : Binding) (d : OutCmd) : Trial Unit :=
  (s.readOut a b d.addr).andThen fun s x =>
    if s.packOut b x d.n then (s, .error (halt 0x8803 []))
    else
      let slot := b.slotVa d.n (s.ownRank b)
      ((List.range (x.n / 16384)).foldl (fun (t : Trial Bytes) c => t.andThen fun s acc => s.packStep a x slot acc c) (s, .ok [])).andThen
        fun s _ => s.markSpan a x x.id 1

/-! ### Messages (R298, R299) -/

/-- The outing header of a message. -/
def State.outHeader (s : State) (b : Binding) (n : Word) (app : Identity) (flags sidx : Nat) : Bytes :=
  fit (toLE n.toNat 4 ++ toLE app.outno.toNat 4 ++ toLE app.alpha.toNat 4 ++ [app.b, app.l, BitVec.ofNat 8 (s.sites b), BitVec.ofNat 8 flags]
    ++ toLE (s.part b.part.toNat).step.toNat 4 ++ toLE b.clen 4 ++ toLE sidx 2) 64

/-- The identity a header carries. -/
def headerApp (h : Bytes) : Identity :=
  { outno := word (fieldAt h 4 4), alpha := word (fieldAt h 8 4), b := BitVec.ofNat 8 (fieldAt h 12 1), l := BitVec.ofNat 8 (fieldAt h 13 1) }

/-- An outing message to a rank; one without a path is lost (R312). -/
def State.outSend (s : State) (b : Binding) (mt : BitVec 4) (n : Word) (q offset : Nat) (payload : Bytes) : State :=
  match s.group b.gid with
  | none => s
  | some g =>
    let m : Msg := { gid := b.gid, seq := n.setWidth 16, mt := mt, slot := 0, srank := BitVec.ofNat 17 (s.ownRank b), offset := word offset,
                     dest := BitVec.ofNat 17 (s.rankCoord g.base.toNat g.extent.toNat q), gtag := g.gtag, payload := payload }
    match s.post b.part.toNat b.ctx m with
    | some (_, s') => s'
    | none => s

/-- The other members. -/
def State.others (s : State) (b : Binding) : List Nat := (List.range (s.sites b)).filter (· ≠ s.ownRank b)

/-- Bytes sent in messages of up to 255 units behind a header. -/
def State.outStream (s : State) (b : Binding) (mt : BitVec 4) (n : Word) (q : Nat) (header bs : Bytes) : State :=
  s.each ((chunks 16320 bs).zipIdx) fun a e => a.outSend b mt n q (255 * e.2) (header ++ e.1)

/-- A record of an outing event (R294, R314). -/
def outDetail (gid : BitVec 16) (n : Word) : Bytes := toLE gid.toNat 2 ++ [0, 0] ++ toLE n.toNat 4

/-- An outing event of class 0x1. -/
def State.outEvent (s : State) (b : Binding) (code : Nat) (n : Word) (more : Bytes) : State :=
  s.raise { code := code, part := b.part.toNat, ctx := b.ctx.toNat, detail := outDetail b.gid n ++ more }

/-! ### Receipts -/

/-- CUR for an outing by a stamp. -/
def State.curOf (s : State) (b : Binding) (n : Word) (by' : DWord) : Byte :=
  rankMask ((List.range (s.sites b)).filter fun r => b.holds n r by')

/-- B of the accepted bitmap for the outing before n: of the accepted identity, or, once the bitmap for n is accepted, of the identity
before it. -/
def Binding.priorB (b : Binding) (n : Word) : Byte :=
  if b.a + 1 = n then b.accepted.b
  else match b.bitmapFor n with
    | some (m, _) => m.app.b
    | none => 0

/-- LATE for an outing by a stamp (R299). -/
def State.lateOf (s : State) (b : Binding) (n : Word) (by' : DWord) : Byte :=
  rankMask ((List.range (s.sites b)).filter fun r => b.holds (n - 1) r by' && !bit (b.priorB n) r)

/-- The open OUT_EXCHANGE of a binding whose status is not fixed yet. -/
def Binding.waiting (b : Binding) : Option Exchange := b.exch.filter fun x => x.status.isNone

/-- A RECEIPT to every member when CUR or LATE has changed and the exchange of the next outing is open (R301). -/
def State.sendReceipt (s : State) (gid : BitVec 16) : State :=
  s.withBinding gid fun s b =>
    match b.waiting with
    | some x =>
      let cur := s.curOf b x.outno s.now
      let late := s.lateOf b x.outno s.now
      if b.a + 1 = x.outno ∧ x.sentRcpt ≠ some (cur, late) then
        (s.modBinding gid fun c => { c with exch := some { x with sentRcpt := some (cur, late) } }).each (s.others b) fun a q =>
          a.outSend b 9 x.outno q 0 (s.outHeader b x.outno b.accepted 0 0 ++ fit [cur, late] 64)
      else s
    | none => s

/-! ### The deadline and the bitmap (R302 to R305) -/

/-- The candidates (R302). -/
def State.candidates (s : State) (b : Binding) : List Nat :=
  if b.accepted.outno = 0xFFFFFFFF || b.accepted.b = 0 then List.range (s.sites b)
  else (List.range (s.sites b)).filter fun r => bit b.accepted.b r

/-- OPEN for an outing. -/
def Binding.openStamp (b : Binding) (n : Word) : Option DWord := (b.openAt.find? fun e => e.1 = n).map (·.2)

/-- OPEN recorded: the earlier stamp stays (R301). -/
def Binding.noteOpen (b : Binding) (n : Word) (now : DWord) : Binding :=
  match b.openStamp n with
  | some _ => b
  | none => { b with openAt := (n, now) :: b.openAt.take 3 }

/-- D_j for an outing. -/
def State.deadlineOf (s : State) (b : Binding) (n : Word) (j : Nat) : Option DWord :=
  let p := s.part b.part.toNat
  (b.openStamp n).map fun t => t + BitVec.ofNat 64 (ms p.window.toNat + j * ms p.takeover.toNat)

/-- The latest receipt of a rank by a stamp. -/
def Binding.receiptBy (b : Binding) (n : Word) (r : Nat) (by' : DWord) : Option Receipt :=
  b.receipts.find? fun e => e.outno = n && e.rank = r && e.stamp ≤ by'

/-- What rank r says it holds: its latest receipt, or what this module holds itself. -/
def State.saysCur (s : State) (b : Binding) (n : Word) (r : Nat) (by' : DWord) : Byte :=
  if r = s.ownRank b then s.curOf b n by'
  else match b.receiptBy n r by' with
    | some e => e.cur
    | none => 0

/-- What rank r says of late contributions. -/
def State.saysLate (s : State) (b : Binding) (n : Word) (r : Nat) (by' : DWord) : Byte :=
  if r = s.ownRank b then s.lateOf b n by'
  else match b.receiptBy n r by' with
    | some e => e.late
    | none => 0

/-- The sets b and l a publisher forms (R303). -/
def State.formSets (s : State) (bd : Binding) (n : Word) (by' : DWord) : Byte × Byte :=
  let ranks := List.range (s.sites bd)
  let c := ranks.filter fun r => bd.holds n r by' && bd.appOf n r = some bd.accepted
  let b := c.filter fun r => c.all fun q => bit (s.saysCur bd n q by') r
  let l :=
    if (s.part bd.part.toNat).alpha = 0 then []
    else match bd.bitmapFor (n - 1) with
      | none => []
      | some (bm, _) =>
        ranks.filter fun r => !bit bd.accepted.b r && bd.holds (n - 1) r by' && bd.appOf (n - 1) r = some bm.app
          && c.all fun q => bit (s.saysLate bd n q by') r
  (rankMask b, rankMask l)

/-- The 64 bytes of a bitmap record (R304). -/
def Bitmap.bytes (m : Bitmap) : Bytes :=
  fit (toLE m.outno.toNat 4 ++ toLE m.alpha.toNat 4 ++ [m.b, m.l, m.pub, m.s] ++ toLE m.app.outno.toNat 4 ++ toLE m.app.alpha.toNat 4
    ++ [m.app.b, m.app.l, 0, 0] ++ toLE m.deadline.toNat 8 ++ toLE m.pubAt.toNat 8) 64

/-- A bitmap record read. -/
def parseBitmap (b : Bytes) : Bitmap :=
  let f := fieldAt b
  { outno := word (f 0 4), alpha := word (f 4 4), b := BitVec.ofNat 8 (f 8 1), l := BitVec.ofNat 8 (f 9 1), pub := BitVec.ofNat 8 (f 10 1),
    s := BitVec.ofNat 8 (f 11 1),
    app := { outno := word (f 12 4), alpha := word (f 16 4), b := BitVec.ofNat 8 (f 20 1), l := BitVec.ofNat 8 (f 21 1) },
    deadline := BitVec.ofNat 64 (f 0x18 8), pubAt := BitVec.ofNat 64 (f 0x20 8) }

/-- The record sent to every other member. -/
def State.sendBitmap (s : State) (b : Binding) (m : Bitmap) : State :=
  s.each (s.others b) fun a q => a.outSend b 10 m.outno q 0 (a.outHeader b m.outno b.accepted 0 0 ++ m.bytes)

/-! ### Status (R306) -/

/-- The result block written (R306, R311). -/
def State.writeResult (s : State) (b : Binding) (a : TsCtx) (r : Bytes) : Trial Unit :=
  (s.modBinding b.gid fun c => { c with result := r }).tsWrite a (b.xva + 24 * b.clen) (fit r 4096)

/-- An outing command ends with a memory fault. -/
def State.outFault (s : State) (b : Binding) (t : Path) (cmd : Nat) (stag n : Word) (e : Halt) : State :=
  (s.modTile t fun x => x.dropFlight cmd).raise
    { code := e.code, path := some t, part := b.part.toNat, ctx := b.ctx.toNat, stag := some stag, injected := e.injected,
      detail := e.detail ++ outDetail b.gid n }

/-- Counters of an exchange that has completed (R313). -/
def State.countStatus (s : State) (b : Binding) (st : Nat) : State :=
  let p := some b.part.toNat
  let s1 := if st = 2 then s.countPart p 0x2600 8 1 else s.countPart p 0x2600 5 1
  if st = 1 then s1.countPart p 0x2600 7 1 else s1

/-- A message of a type and group of this module's own waits at a port's transmitter. -/
def State.queued (s : State) (gid : BitVec 16) (mt : BitVec 4) (test : Msg → Bool) : Bool :=
  s.ports.any fun e => e.2.txQ.any fun m => m.part.isSome && m.msg.gid = gid && m.msg.mt = mt && test m.msg

/-- An exchange whose status is fixed completes once its last CONTRIB has been sent (R301). -/
def State.endExchange (s : State) (gid : BitVec 16) : State :=
  s.withBinding gid fun s b =>
    match b.exch with
    | none => s
    | some x =>
      match x.status with
      | none => s
      | some st =>
        if s.queued gid 8 fun m => m.seq = x.outno.setWidth 16 then s
        else ((s.countStatus b st).modBinding gid fun c => { c with exch := none }).modTile x.tile fun t => t.finish x.cmd

/-- Every exchange that can complete does. -/
def State.endExchangesSent (s : State) : State := s.each (s.bindings.map (·.gid)) State.endExchange

/-- The status of an open exchange is fixed: record, event, result block, and completion when it is due (R301, R306, R308). -/
def State.fixStatus (s : State) (gid : BitVec 16) (st reason : Nat) : State :=
  s.withBinding gid fun s b =>
    match b.waiting with
    | none => s
    | some x =>
      let n := x.outno
      let bm := b.bitmapFor n
      let late := [(n, st == 1)] ++ b.ownLate.filter fun e => e.1 = n - 1
      let s2 := s.modBinding gid fun c =>
        { c with exch := some { x with status := some st }, ownLate := late, statuses := ((n, st) :: c.statuses.filter fun e => e.1 ≠ n).take 2 }
      let s3 := if st = 1 then s2.outEvent b 0x1801 n [] else if st = 2 then s2.outEvent b 0x1803 n [BitVec.ofNat 8 reason] else s2
      let r := (match bm with | some e => e.1.bytes | none => zeros 64) ++ toLE st 4 ++ [s.curOf b n s.now, s.lateOf b n s.now, 0, 0]
        ++ slice b.result 0x48 4
      let a : TsCtx := { b.ts with l := x.tile }
      match s3.writeResult b a r with
      | (s4, .ok ()) => s4.endExchange gid
      | (s4, .error e) => (s4.modBinding gid fun c => { c with exch := none }).outFault b x.tile x.cmd x.stag n e

/-- Every contribution of the bitmap's B and L is held. -/
def Binding.hasAll (b : Binding) (m : Bitmap) (now : DWord) : Bool :=
  (ranksOf m.b).all (fun r => b.holds m.outno r now) && (ranksOf m.l).all fun r => b.holds (m.outno - 1) r now

/-- Status 0 or 1 where its condition holds. -/
def State.tryStatus (s : State) (gid : BitVec 16) : State :=
  s.withBinding gid fun s b =>
    match b.waiting with
    | none => s
    | some x =>
      match b.bitmapFor x.outno with
      | some (m, _) => if b.hasAll m s.now then s.fixStatus gid (if bit m.b (s.ownRank b) then 0 else 1) 0 else s
      | none => s

/-- A bitmap accepted (R305). -/
def State.acceptBitmap (s : State) (gid : BitVec 16) (m : Bitmap) : State :=
  (s.modBinding gid fun b =>
    { b with accepted := { outno := m.outno, b := m.b, l := m.l, alpha := m.alpha }, bitmaps := ((m, s.now) :: b.bitmaps).take 2,
             receipts := [], contribs := b.contribs.filter fun c => c.outno = m.outno + 1 || c.outno = m.outno || c.outno = m.outno - 1 }).tryStatus gid

/-- A bitmap published (R302 to R304): sent, accepted, and OUT_TAKEOVER where the publisher is not the coordinator. -/
def State.publish (s : State) (gid : BitVec 16) (n : Word) (j : Nat) (d by' : DWord) : State :=
  s.withBinding gid fun s b =>
    let (bs, ls) := s.formSets b n by'
    let m : Bitmap :=
      { outno := n, alpha := if ls = 0 then 0 else (s.part b.part.toNat).alpha, b := bs, l := ls, pub := BitVec.ofNat 8 (s.ownRank b),
        s := BitVec.ofNat 8 (s.sites b), app := b.accepted, deadline := d, pubAt := s.now }
    let s1 := (s.sendBitmap b m).acceptBitmap gid m
    if j = 0 then s1 else (s1.countPart (some b.part.toNat) 0x2600 0xA 1).outEvent b 0x1802 n []

/-- The position of this module among the candidates. -/
def State.position (s : State) (b : Binding) : Option Nat := (s.candidates b).findIdx? (· = s.ownRank b)

/-- Publication before the deadline: a coordinator that holds everything everyone holds (R302), or a WAITALL candidate with a full
bitmap and no late ranks (R305). Only what arrived by the publisher's deadline counts (R303). -/
def State.tryPublish (s : State) (gid : BitVec 16) : State :=
  s.withBinding gid fun s b =>
    match b.waiting, s.position b with
    | some x, some j =>
      match s.deadlineOf b x.outno j with
      | none => s
      | some d =>
        let full := rankMask (List.range (s.sites b))
        if b.a + 1 ≠ x.outno then s
        else if x.waitAll then
          (let st := s.formSets b x.outno d
           if st.1 = full && st.2 = 0 then s.publish gid x.outno j d d else s)
        else if j = 0 && (List.range (s.sites b)).all fun r => s.saysCur b x.outno r d = full then
          s.publish gid x.outno j d d
        else s
    | _, _ => s

/-- What follows when a binding has learned something: receipts, publication, status. -/
def State.outStep (s : State) (gid : BitVec 16) : State := ((s.sendReceipt gid).tryPublish gid).tryStatus gid

/-! ### OUT_EXCHANGE (R301) -/

/-- The identity an exchange's CONTRIB messages carry (R298). Where no bitmap for the outing is kept, as after a fetch, R295 gives no base
identity: a free value. -/
def State.contribBase (s : State) (b : Binding) (n : Word) : Identity × State :=
  match b.base n with
  | some i => (i, s)
  | none =>
    let (o, s1) := s.freeWord
    let (al, s2) := s1.freeWord
    let (bl, s3) := s2.freeWord
    ({ outno := o, alpha := al, b := bl.setWidth 8, l := (bl >>> 8).setWidth 8 }, s3)

/-- OUT_EXCHANGE opened: its contribution sent to every other member, its own held, its receipt. -/
def State.outExchange (s : State) (a : TsCtx) (b : Binding) (d : OutCmd) : State :=
  let n := d.n
  let own := s.ownRank b
  let (base, s0) := s.contribBase b n
  match s0.tsRead a (b.slotVa n own) b.clen with
  | (s1, .error e) => s1.outFault b a.l a.c.id a.c.stag n e
  | (s1, .ok bs) =>
    let mine : Contribution :=
      { outno := n, rank := own, units := [(0, b.clen / 64)], app := some base, mixed := false, step := (s.part b.part.toNat).step,
        stamp := some s.now }
    let x : Exchange := { outno := n, tile := a.l, cmd := a.c.id, stag := a.c.stag, waitAll := d.waitAll }
    let s2 := s1.modBinding b.gid fun c =>
      { c.noteOpen n s.now with exch := some x, contribs := mine :: c.contribs.filter fun e => !(e.outno = n && e.rank = own) }
    let s3 := s2.each (s2.others b) fun z q => z.outStream b 8 n q (z.outHeader b n base 0 0) bs
    s3.outStep b.gid

/-! ### OUT_APPLY (R307, R308) -/

/-- The 256 values of a block in a chunk record; none where the block is not kept. -/
def recordBlock (r : Bytes) (b : Nat) : Option (List Nat) :=
  let mask := fieldAt r 0 8
  if mask / 2 ^ b % 2 = 0 then none
  else
    let k := ((List.range b).filter fun i => mask / 2 ^ i % 2 = 1).length
    let els := slice r (16 + 144 * k) 128
    let scs := slice r (144 + 144 * k) 16
    some ((List.range 256).map fun i =>
      let nib := (els.getD (i / 2) 0).toNat / 16 ^ (i % 2) % 16
      fp32.encode 0 ((e2m1.decode nib).mul (e4m3.decode (scs.getD (i / 16) 0).toNat)))

/-- The 16,384 values of a chunk record, +0 in blocks that are not kept. -/
def recordValues (r : Bytes) : List Nat := (List.range 64).flatMap fun b => (recordBlock r b).getD (List.replicate 256 0)

/-- Chunk c of a rank's contribution to an outing. -/
def State.readRecord (s : State) (a : TsCtx) (b : Binding) (x : OutSpan) (n : Word) (r c : Nat) : Trial (List Nat) :=
  (s.tsRead a (b.slotVa n r + x.poff + c * x.rec') x.rec').andThen fun s bs => (s, .ok (recordValues bs))

/-- The sum over the contributions of a set, folded with an operation. -/
def State.foldRecords (s : State) (a : TsCtx) (b : Binding) (x : OutSpan) (n : Word) (c : Nat) (rs : List Nat)
    (op : Nat → Nat → Nat) (acc : List Nat) : Trial (List Nat) :=
  rs.foldl (fun t r => t.andThen fun s acc => (s.readRecord a b x n r c).andThen fun s v => (s, .ok (List.zipWith op acc v))) (s, .ok acc)

/-- One chunk of OUT_APPLY. -/
def State.applyChunk (s : State) (a : TsCtx) (b : Binding) (x : OutSpan) (m : Bitmap) (eta mu : Nat) (restore : Bool) (c : Nat) : Trial Unit :=
  let n := m.outno
  let alpha := m.alpha.toNat
  (s.foldRecords a b x n c (ranksOf m.b) add32 (List.replicate 16384 0)).andThen fun s acc =>
  (s.foldRecords a b x (n - 1) c (ranksOf m.l) (fun acc v => fma32 alpha v acc) acc).andThen fun s acc =>
  let nb := add32 (ofNat32 (ranksOf m.b).length) (mul32 alpha (ofNat32 (ranksOf m.l).length))
  let update : Trial Unit :=
    if (f32 nb).isZero then (s, .ok ())
    else
      (s.tsRead a (x.ava + 32768 * c) 32768).andThen fun s an =>
      (s.tsRead a (x.ova + 32768 * c) 32768).andThen fun s mo =>
      let new := ((acc.zip (bf16s an)).zip (bf16s mo)).zipIdx.map fun e =>
        let r := ycg64 (s.part a.p).seed n 2 (x.pidx + 16384 * c + e.2)
        let m1 := bf16.sr (bits r 0 16) (f32 (fma32 mu e.1.2 (div32 e.1.1.1 nb)))
        (m1, bf16.sr (bits r 16 16) (f32 (fma32 eta (bf32 m1) e.1.1.2)))
      let w := new.flatMap fun e => toLE e.2 2
      (s.tsWrites a (x.ova + 32768 * c) (new.flatMap fun e => toLE e.1 2)).andThen fun s _ =>
      (s.tsWrites a (x.ava + 32768 * c) w).andThen fun s _ => s.tsWrites a (x.wva + 32768 * c) w
  update.andThen fun s _ =>
    if restore then
      (s.readRecord a b x (n - 1) (s.ownRank b) c).andThen fun s v =>
      (s.tsRead a (x.eva + 65536 * c) 65536).andThen fun s e =>
        s.tsWrites a (x.eva + 65536 * c) ((List.zipWith add32 (f32s e) v).flatMap fun w => toLE w 4)
    else (s, .ok ())

/-- The contributions that an outing folds in through L are counted when its first OUT_APPLY has applied them (R313). DESIGN CHOICE (log 124):
once for an outing, however many spans it applies to. -/
def State.countFolds (s : State) (b : Binding) (m : Bitmap) : State :=
  if b.folded = some m.outno then s
  else
    (s.modBinding b.gid fun c => { c with folded := some m.outno }).countPart (some b.part.toNat) 0x2600 9 (ranksOf m.l).length

/-- OUT_APPLY (R307, R308). -/
def State.outApply (s : State) (a : TsCtx) (b : Binding) (d : OutCmd) : Trial Unit :=
  (s.readOut a b d.addr).andThen fun s x =>
    match b.bitmapFor d.n with
    | none => (s, .error (halt 0x8803 []))
    | some (m, _) =>
      if !(b.statuses.any fun e => e.1 = d.n && e.2 ≤ 1) || x.id ≠ m.app then (s, .error (halt 0x8803 []))
      else
        let restore := (b.ownLate.any fun e => e.1 = d.n - 1 && e.2) && !bit m.l (s.ownRank b)
        (s.tsRead a x.hva 64).andThen fun s h =>
        ((List.range (x.n / 16384)).foldl (fun (t : Trial Unit) c => t.andThen fun s _ =>
          s.applyChunk a b x m (fieldAt h 0 4) (fieldAt h 4 4) restore c) (s, .ok ())).andThen fun s _ =>
          (s.countFolds b m).markSpan a x { outno := m.outno, b := m.b, l := m.l, alpha := m.alpha } 0

/-! ### OUT_SNAPFETCH (R310, R311) -/

/-- SNAPREQ to the peer. -/
def State.sendSnapreq (s : State) (b : Binding) (f : Fetch) (x : OutSpan) : State :=
  s.outSend b 11 f.outno f.peer 0 (s.outHeader b f.outno b.accepted 0 f.sidx.toNat
    ++ fit (toLE (x.pidx % 2 ^ 32) 4 ++ toLE (x.pidx / 2 ^ 32) 2 ++ [0, 0] ++ toLE x.n 4) 64)

/-- OUT_SNAPFETCH begun. -/
def State.outSnapfetch (s : State) (a : TsCtx) (b : Binding) (d : OutCmd) : State :=
  (s.readOut a b d.addr).andEnd (fun s1 e => s1.outFault b a.l a.c.id a.c.stag d.n e) fun s1 x =>
    let f : Fetch := { tile := a.l, cmd := a.c.id, stag := a.c.stag, outno := d.n, span := d.addr, sidx := BitVec.ofNat 16 d.sidx,
                       peer := d.peer, began := s.now, asked := s.now }
    (s1.modBinding b.gid fun c => { c with fetch := some f }).sendSnapreq b f x

/-- A fetch ends (R310, R311). -/
def State.endFetch (s : State) (b : Binding) (f : Fetch) (res : Nat) : State :=
  let a : TsCtx := { b.ts with l := f.tile }
  let r := slice b.result 0 0x48 ++ toLE res 4
  let app := f.app.getD {}
  let work : Trial Unit :=
    (s.readOut a b f.span).andThen fun s x =>
      let marked : Trial Unit :=
        if res = 0 then
          (s.tsWrites a x.eva (zeros (4 * x.n))).andThen fun s _ => s.markSpan a x app 0
        else s.markSpan a x { x.id with outno := 0xFFFFFFFF } x.pk
      marked.andThen fun s _ => s.writeResult b a r
  work.andEnd (fun s1 e => (s1.modBinding b.gid fun c => { c with fetch := none }).outFault b f.tile f.cmd f.stag f.outno e) fun s1 _ =>
    (s1.modBinding b.gid fun c =>
      if res = 0 then
        { c with fetch := none, accepted := app, ownLate := [], receipts := c.receipts.filter fun e => e.outno = app.outno + 1 }
      else { c with fetch := none }).modTile f.tile fun t => t.finish f.cmd

/-! ### Dispatch (R293, R294) -/

/-- OUT_BODY of the body's own fields, a reserved TOP among them (R294). -/
def outBad (c : Command) : Bool :=
  let b (i : Nat) : Word := c.body.getD i 0
  hdrBody c.w0 ≠ 2 || 0xE7 < c.top || bits (b 3) 20 12 ≠ 0 || bits (b 4) 0 16 ≠ 0 || b 5 ≠ 0 || b 6 ≠ 0 || b 7 ≠ 0
    || (c.top ≠ 0xE7 && bits (b 0) 0 19 ≠ 0) || (c.top ≠ 0xE5 && bit (b 0) 19)
    || (if c.top = 0xE5 then tsAddr c.body ≠ 0 || (!bit (b 0) 19 && !hdrV c.w0) else tsAddr c.body % 128 ≠ 0)

/-- An outing command after dispatch. -/
def State.outDispatch (s : State) (work : State → TsCtx → Binding → OutCmd → State) (l : Path) (c : Command) : State :=
  let d := outCmd c
  let fail (code : Nat) : State := s.failCmd l c code (outDetail d.gid d.n)
  if outBad c then fail 0x8801
  else
    match s.binding d.gid, s.tsCtx l c with
    | none, _ => fail 0x8802
    | some _, none => fail 0x8404
    | some b, some a => if b.ctx ≠ a.ctx then fail 0x8802 else work s a b d

/-- A command whose work ends at once. -/
def State.outAtOnce (work : State → TsCtx → Binding → OutCmd → Trial Unit) (s : State) (a : TsCtx) (b : Binding) (d : OutCmd) : State :=
  match work s a b d with
  | (s1, .ok ()) => s1.engineChecks.finish a.l a.c
  | (s1, .error e) => s1.engineChecks.outFault b a.l a.c.id a.c.stag d.n e

/-- A binding's span index of a record's address. -/
def Binding.spanAt (b : Binding) (addr : Nat) : Nat := (addr - b.stva) / 128

/-- A stream of a span waits at a port's transmitter (R310). -/
def State.streaming (s : State) (b : Binding) (sidx : Nat) : Bool := s.queued b.gid 12 fun m => fieldAt m.payload 0x18 2 = sidx

/-- An OUT_APPLY of a span runs: from its dispatch to its completion. -/
def State.applying (s : State) (b : Binding) (sidx : Nat) : Bool :=
  s.tiles.any fun e => e.2.flights.any fun f =>
    f.cmd.unit = 5 && f.cmd.top = 0xE6 && (outCmd f.cmd).gid = b.gid && b.spanAt (outCmd f.cmd).addr = sidx

/-- An outing command may start: its memory answers (R165), the engine has room (R211), no stream of a span to be applied is still being
sent (R310), and no other fetch of its binding runs. -/
def State.outReady (s : State) (t : Path) (c : Command) : Bool :=
  let d := outCmd c
  s.engineFree t && (outBad c || (match s.binding d.gid, s.tsCtx (s.lead t) c with
    | some b, some a =>
      let x := parseOutSpan 0 (s.peekVA a.mover a.ctx d.addr 128)
      let ans (r : Nat × Nat) : Bool := s.answers a.mover a.ctx r.1 r.2
      ans (b.xva, 24 * b.clen + 4096)
        && (c.top = 0xE5 || x.bad b.clen || [(x.wva, 2 * x.n), (x.ava, 2 * x.n), (x.ova, 2 * x.n), (x.eva, 4 * x.n), (x.hva, 64)].all ans)
        && !(c.top = 0xE6 && s.streaming b (b.spanAt d.addr)) && !(c.top = 0xE7 && b.fetch.isSome)
    | _, _ => true))

/-- One outing row. -/
def State.outRow (s : State) (t : Path) (isTop : Nat → Bool) (work : State → TsCtx → Binding → OutCmd → State) : Out :=
  s.dispatch t 5 (fun c => isTop c.top && s.outReady t c) fun s l c => s.outDispatch work l c

/-- OUT_PACK (R295 to R297). A command whose TOP is reserved (0xE8 to 0xEF) is dispatched by this row too, and raises OUT_BODY (R294). -/
def execOutPack (t : Path) (s : State) : Out :=
  s.outRow t (fun op => op = 0xE4 || (0xE8 ≤ op && op ≤ 0xEF)) (State.outAtOnce State.outPack)
/-- OUT_EXCHANGE (R301): out of sequence, or opened. -/
def execOutExchange (t : Path) (s : State) : Out :=
  s.outRow t (fun op => op = 0xE5) fun s a b d =>
    if (d.n ≠ b.a && d.n ≠ b.a + 1) || b.exch.isSome then s.outFault b a.l a.c.id a.c.stag d.n (halt 0x8803 []) else s.outExchange a b d
/-- OUT_APPLY (R307, R308). -/
def execOutApply (t : Path) (s : State) : Out := s.outRow t (fun op => op = 0xE6) (State.outAtOnce State.outApply)
/-- OUT_SNAPFETCH (R310). One fetch of a binding runs at a time; a second waits at the head of its queue. -/
def execOutSnapfetch (t : Path) (s : State) : Out := s.outRow t (fun op => op = 0xE7) State.outSnapfetch

/-! ### Sending (R301) -/

/-- DATA_FRAME_SEND (R238, R239, R282, R283): a port's next data frame leaves; an exchange whose last CONTRIB it was completes (R301). -/
def execDataFrameSend (p : PortCode) (s : State) : Out := .next (s.sendFrame p.toNat).endExchangesSent

/-! ### Arriving messages (R300) -/

/-- An outing message discarded (R300). -/
def State.outStray (s : State) (b : Binding) (n : Word) : State :=
  let s1 := s.countPart (some b.part.toNat) 0x2520 5 1
  let due := match b.lastStray with
    | none => true
    | some t => t + 1000000000 ≤ s.island
  if due then (s1.modBinding b.gid fun c => { c with lastStray := some s.island }).outEvent b 0x1804 n [] else s1

/-- A message of a row's type for a bound group. -/
def State.outMsgRow (s : State) (p : PortCode) (mt : BitVec 4) (f : State → Binding → Msg → State) : Out :=
  s.msgRow p mt fun s g m =>
    match s.binding g.gid with
    | none => s.strayMsg m.gid
    | some b => f s b m

/-- OUTNO of a message. -/
def Msg.outno (m : Msg) : Word := word (fieldAt m.payload 0 4)

/-- A fault of memory that a binding's own work meets. -/
def State.bindingFault (s : State) (b : Binding) (n : Word) (e : Halt) : State :=
  s.raise { code := e.code, part := b.part.toNat, ctx := b.ctx.toNat, injected := e.injected, detail := e.detail ++ outDetail b.gid n }

/-- Ranges of units cover the first n. -/
def covered (n : Nat) (us : List (Nat × Nat)) : Bool := (List.range n).all fun u => us.any fun r => r.1 ≤ u && u < r.1 + r.2

/-- A contribution's record with one more piece. -/
def Binding.addPiece (b : Binding) (n : Word) (r : Nat) (u k : Nat) (app : Identity) (step : Word) (now : DWord) : Binding :=
  let old := (b.contrib n r).getD { outno := n, rank := r, units := [], app := some app, mixed := false, step := step, stamp := none }
  let units := if old.units.contains (u, k) then old.units else (u, k) :: old.units
  let new := { old with units := units, mixed := old.mixed || old.app ≠ some app,
                        stamp := if old.stamp.isSome then old.stamp else if covered (b.clen / 64) units then some now else none }
  { b.noteOpen n now with contribs := new :: b.contribs.filter fun c => !(c.outno = n && c.rank = r) }

/-- CONTRIB (R300). -/
def execMsgContrib (p : PortCode) (s : State) : Out :=
  s.outMsgRow p 8 fun s b m =>
    let h := m.payload.take 64
    let data := m.payload.drop 64
    let n := m.outno
    let r := m.srank.toNat
    let at' := m.offset.toNat * 64
    if (n ≠ b.a + 1 && n ≠ b.a) || fieldAt h 0xE 1 ≠ s.sites b || fieldAt h 0x14 4 ≠ b.clen || s.sites b ≤ r || b.clen < at' + data.length
    then s.outStray b n
    else
      match s.put b.ts (b.slotVa n r + at') data with
      | (s1, .error e) => s1.bindingFault b n e
      | (s1, .ok ()) =>
        (s1.modBinding b.gid fun c =>
          c.addPiece n r m.offset.toNat (data.length / 64) (headerApp h) (word (fieldAt h 0x10 4)) s.now).outStep b.gid

/-- RECEIPT (R300). -/
def execMsgReceipt (p : PortCode) (s : State) : Out :=
  s.outMsgRow p 9 fun s b m =>
    if m.outno ≠ b.a + 1 then s.outStray b m.outno
    else
      let e : Receipt := { outno := m.outno, rank := m.srank.toNat, cur := m.payload.getD 64 0, late := m.payload.getD 65 0, stamp := s.now }
      (s.modBinding b.gid fun c => { c with receipts := e :: c.receipts }).outStep b.gid

/-- BITMAP (R305). -/
def execMsgBitmap (p : PortCode) (s : State) : Out :=
  s.outMsgRow p 10 fun s b m =>
    let bm := parseBitmap (slice m.payload 64 64)
    if bm.outno ≠ b.a + 1 then s
    else if bm.app ≠ b.accepted then
      (match b.waiting with
        | some x => if x.outno = bm.outno then s.fixStatus b.gid 2 2 else s
        | none => s)
    else if !(s.candidates b).contains bm.pub.toNat then s
    else (s.sendBitmap { b with accepted := { outno := bm.outno, b := bm.b, l := bm.l, alpha := bm.alpha } } bm).acceptBitmap b.gid bm

/-- SNAPREQ (R310): answered with the span's stream, MISMATCH, or BUSY while an OUT_APPLY of the span runs. -/
def execMsgSnapreq (p : PortCode) (s : State) : Out :=
  s.outMsgRow p 11 fun s b m =>
    let sidx := fieldAt m.payload 0x18 2
    let r := slice m.payload 64 64
    let n := m.outno
    let q := m.srank.toNat
    let answer (flags : Nat) (s : State) : State := s.outSend b 12 n q 0 (s.outHeader b n b.accepted flags sidx)
    let refuse := answer 2
    if b.nspan ≤ sidx then refuse s
    else
      match s.tsRead b.ts (b.stva + 128 * sidx) 128 with
      | (s1, .error e) => s1.bindingFault b n e
      | (s1, .ok raw) =>
        let x := parseOutSpan (b.stva + 128 * sidx) raw
        if x.pidx ≠ fieldAt r 4 2 * 2 ^ 32 + fieldAt r 0 4 || x.n ≠ fieldAt r 8 4 || x.id.outno = 0xFFFFFFFF then refuse s1
        else if s1.applying b sidx then answer 1 s1
        else
          match (s1.tsRead b.ts x.ava (2 * x.n)).andThen fun s2 an =>
              (s2.tsRead b.ts x.ova (2 * x.n)).andThen fun s3 mo => (s3, .ok (an ++ mo)) with
          | (s2, .error e) => s2.bindingFault b n e
          | (s2, .ok bs) => (s2.outStream b 12 n q (s2.outHeader b n x.id 0 sidx) bs).countPart (some b.part.toNat) 0x2600 0xB 1

/-- Bytes of a stream put where they belong: the anchor's twice, the momentum's once (R310). -/
def State.putSnap (s : State) (a : TsCtx) (x : OutSpan) (at' : Nat) (bs : Bytes) : Trial Unit :=
  let k := min bs.length (2 * x.n - at')
  (s.put a (x.ava + at') (bs.take k)).andThen fun s _ =>
  (s.put a (x.wva + at') (bs.take k)).andThen fun s _ => s.put a (x.ova + (at' + k - 2 * x.n)) (bs.drop k)

/-- SNAPDATA (R310, R311). -/
def execMsgSnapdata (p : PortCode) (s : State) : Out :=
  s.outMsgRow p 12 fun s b m =>
    match b.fetch with
    | none => s.outStray b m.outno
    | some f =>
      let h := m.payload.take 64
      let data := m.payload.drop 64
      let flags := fieldAt h 0xF 1
      let app := headerApp h
      if m.srank.toNat ≠ f.peer || m.outno ≠ f.outno || fieldAt h 0x18 2 ≠ f.sidx.toNat then s.outStray b m.outno
      else if flags / 2 % 2 = 1 then s.endFetch b f 3
      else if flags % 2 = 1 then
        s.modBinding b.gid fun c => { c with fetch := some { f with busyAt := some (f.busyAt.getD s.now) } }
      else if f.app.isSome && f.app ≠ some app then s.endFetch b f 3
      else
        let a : TsCtx := { b.ts with l := f.tile }
        match s.readOut a b f.span with
        | (s1, .error e) => (s1.modBinding b.gid fun c => { c with fetch := none }).outFault b f.tile f.cmd f.stag f.outno e
        | (s1, .ok x) =>
          if 4 * x.n < m.offset.toNat * 64 + data.length then s1.outStray b m.outno
          else
            match s1.putSnap a x (m.offset.toNat * 64) data with
            | (s2, .error e) => (s2.modBinding b.gid fun c => { c with fetch := none }).outFault b f.tile f.cmd f.stag f.outno e
            | (s2, .ok ()) =>
              let g := { f with app := some app, busyAt := none, asked := s.now, units := (m.offset.toNat, data.length / 64) :: f.units }
              if covered (4 * x.n / 64) g.units then s2.endFetch b g 0
              else s2.modBinding b.gid fun c => { c with fetch := some g }

/-! ### Times (R302, R305, R306, R310, R311) -/

/-- SNAPFETCH_RETRY (R310): after BUSY, every 1 ms. -/
def execSnapfetchRetry (gid : BitVec 16) (s : State) : Out :=
  .next
    (s.withBinding gid fun s b =>
      match b.fetch with
      | none => s
      | some f =>
        if s.fatal || f.busyAt.isNone || s.now.toNat < f.asked.toNat + ms 1 then s
        else
          let a : TsCtx := { b.ts with l := f.tile }
          match s.readOut a b f.span with
          | (s1, .error e) => (s1.modBinding gid fun c => { c with fetch := none }).outFault b f.tile f.cmd f.stag f.outno e
          | (s1, .ok x) => (s1.modBinding gid fun c => { c with fetch := some { f with asked := s.now } }).sendSnapreq b f x)

/-- SNAPFETCH_TIMEOUT (R311): BUSY for TAKEOVER, or no SNAPDATA for it. -/
def execSnapfetchTimeout (gid : BitVec 16) (s : State) : Out :=
  .next
    (s.withBinding gid fun s b =>
      match b.fetch with
      | none => s
      | some f =>
        let limit := ms (s.part b.part.toNat).takeover.toNat
        if s.fatal then s
        else match f.busyAt with
          | some t => if t.toNat + limit < s.now.toNat then s.endFetch b f 1 else s
          | none => if f.asked.toNat + limit < s.now.toNat then s.endFetch b f 2 else s)

/-- OUT_DEADLINE (R302, R303): a candidate's deadline has passed with its exchange open and no bitmap accepted. -/
def execOutDeadline (gid : BitVec 16) (s : State) : Out :=
  .next
    (s.withBinding gid fun s b =>
      match b.waiting, s.position b with
      | some x, some j =>
        (match s.deadlineOf b x.outno j with
          | some d => if !s.fatal && b.a + 1 = x.outno && !x.waitAll && d < s.now then s.publish gid x.outno j d d else s
          | none => s)
      | _, _ => s)

/-- OUT_STATUS_LIMIT (R306): status 2 for want of a contribution (reason 3) or of a bitmap (reason 1). -/
def execOutStatusLimit (gid : BitVec 16) (s : State) : Out :=
  .next
    (s.withBinding gid fun s b =>
      match b.waiting with
      | none => s
      | some x =>
        let take := ms (s.part b.part.toNat).takeover.toNat
        if s.fatal then s
        else match b.bitmapFor x.outno with
          | some (_, t) => if t.toNat + take < s.now.toNat then s.fixStatus gid 2 3 else s
          | none =>
            match s.deadlineOf b x.outno ((s.candidates b).length + 1) with
            | some d => if !x.waitAll && d < s.now then s.fixStatus gid 2 1 else s
            | none => s)

/-- OUT_INCOMPLETE (R305): a WAITALL exchange without a bitmap; the partition is stopped. -/
def execOutIncomplete (gid : BitVec 16) (s : State) : Out :=
  .next
    (s.withBinding gid fun s b =>
      match b.waiting with
      | none => s
      | some x =>
        match s.deadlineOf b x.outno (s.candidates b).length with
        | some d =>
          if !s.fatal && x.waitAll && (b.bitmapFor x.outno).isNone && d < s.now then
            s.raise { code := 0x8805, path := some x.tile, part := b.part.toNat, ctx := b.ctx.toNat, stag := some x.stag,
                      detail := outDetail gid x.outno }
          else s
        | none => s)

end Sys2Proof.Machine
end

