-- ==== Sys2Proof/Machine/Panel.lean ====
section
/-! DEFINITION. Panel layouts (R106 to R108): when a layout may be written, and what forming and dissolving panels does. -/

namespace Sys2Proof.Machine

/-- The layout code of group g. -/
def layoutCode (layout : BitVec 16) (g : Nat) : Nat := bits layout (2 * g) 2

/-- A tile is in STATE 0 with its queues empty. -/
def State.tileIdle (s : State) (t : Path) : Bool :=
  let x := s.tile (s.lead t)
  s.tileState t = 0 && x.cmdQ.isEmpty && x.loadQ.isEmpty && x.storeQ.isEmpty

/-- A tile is idle with empty queues and nothing in flight (R413, R470). -/
def State.tileQuiet (s : State) (t : Path) : Bool := s.tileIdle t && (s.tile (s.lead t)).flights.isEmpty

/-- A tile is idle with empty queues and no array, vector or access command in flight (R107). -/
def State.layoutQuiet (s : State) (t : Path) : Bool :=
  s.tileIdle t && (s.tile (s.lead t)).flights.all fun f => !([0, 1, 3, 4].contains f.cmd.unit.toNat)

/-- The groups whose layout a write changes. -/
def State.layoutGroups (s : State) (k : Nat) (layout : BitVec 16) : List Nat :=
  numbers 8 fun g => layoutCode layout g ≠ layoutCode (s.cluster k).layout g

/-- The condition of R107 that a layout fails, by its position in the list. -/
def State.layoutRefusal (s : State) (k : Nat) (owned : Bool) (layout : BitVec 16) : Option Nat :=
  if !owned then some 1
  else if (List.range 8).any fun g => layoutCode layout g = 3 then some 2
  else if (s.layoutGroups k layout).any fun g => (List.range 4).any fun i => !s.layoutQuiet (pathOf k (4 * g + i)) then some 3
  else none

/-- Every tile of a list takes a ticket file. -/
def State.setTickets (s : State) (ts : List Path) (tk : SMap Word) : State :=
  s.each ts fun a t => a.modTile t fun x => { x with tickets := tk }

/-- The ticket file a group's tile has once its panel is formed: that of the lowest member, as it was shown (R108). -/
def State.shownTickets (s : State) (t : Path) : SMap Word := (s.tile (s.lead t)).tickets

/-- Width of a panel under a layout code. -/
def codeWidth (code : Nat) : Nat :=
  match code with
  | 1 => 2
  | 2 => 4
  | _ => 1

/-- A cluster takes a layout (R108). -/
def State.applyLayout (s : State) (k : Nat) (layout : BitVec 16) : State :=
  let changed := s.layoutGroups k layout
  let s1 := s.each changed fun a g =>
    let w := codeWidth (layoutCode layout g)
    a.each (List.range 4) fun b i => b.setTickets [pathOf k (4 * g + i)] (s.shownTickets (pathOf k (4 * g + i / w * w)))
  s1.modCluster k fun c => { c with layout := layout }

end Sys2Proof.Machine
end

