-- ==== Sys2Proof/Machine/Jobs.lean ====
section
/-! DEFINITION. What sets up a job: panel layouts (R107), groups (R255 to R257), bindings for outings (R291, R292), and the admission
of a plan (R324 to R328). -/

namespace Sys2Proof.Machine

/-! ### Panel layouts -/

/-- A write to 0x2120:02. -/
def State.putLayout (s : State) (ses : Ses) (r : Role) (layout : BitVec 16) : Put :=
  let t : Path := BitVec.ofNat 16 (s.select ses 0x2120 1 0)
  let k := clusterOf t
  let owned := validPath t && tileNo t = 0 && match s.ownerOf k with
    | some p => s.asOwner r p
    | none => false
  match s.layoutRefusal k owned layout with
  | some cond => .refused 0x4001 cond
  | none => .ok (s.applyLayout k layout)

/-- PANEL_LAYOUT_WRITE (R107, R108). -/
def execPanelLayoutWrite (ses : Ses) (layout : BitVec 16) (s : State) : Out :=
  s.putRow { ses := ses, idx := 0x2120, sub := 2, bytes := toLE layout.toNat 2 } fun s r => s.putLayout ses r layout

/-! ### Request records -/

/-- A request record with its OP byte set, as the row that names the operation writes it. -/
def withOp (bs : Bytes) (op : Nat) : Bytes := setByte bs 0 (BitVec.ofNat 8 op)

/-- The bytes from lo to hi of a record are all 0: reserved. -/
def allZero (bs : Bytes) (lo hi : Nat) : Bool := (slice bs lo (hi - lo)).all (· = 0)

/-- The writer owns a partition that may be absent. -/
def State.owns (s : State) (r : Role) (p : Option Nat) : Bool :=
  match p with
  | some q => s.asOwner r q
  | none => false

/-! ### Groups (R255 to R257) -/

/-- The groups of a partition. -/
def State.groupsOf (s : State) (p : Nat) : List Group := s.sh.groups.filter fun g => g.part.toNat = p

/-- A collective of a group is open. -/
def State.groupOpen (s : State) (gid : Nat) : Bool :=
  s.sh.slots.any fun e => match e.2 with | some x => x.gid.toNat = gid | none => false

/-- A GID lies in a partition's range (R412, R414). -/
def State.gidInRange (s : State) (p gid : Nat) : Bool :=
  let x := s.part p
  x.gidBase.toNat ≤ gid && gid < x.gidBase.toNat + x.gidCount.toNat

/-- The extents of a request break R256. -/
def State.extentsBad (s : State) (axes ext : Nat) : Bool :=
  axes = 0 || (List.range 4).any fun x =>
    if axes / 2 ^ x % 2 = 1 then extent ext x = 0 || extent s.sh.rings.toNat x < extent ext x else extent ext x ≠ 1

/-- The condition of R414 (1, 2) or R256 (1 to 6) that a group request fails, by its position; p is the partition of CTX. -/
def State.groupRefusal (s : State) (b : Bytes) (owned : Bool) (p : Nat) : Option Nat :=
  let op := fieldAt b 0 1
  let gid := fieldAt b 2 2
  let base := fieldAt b 8 4
  let ext := fieldAt b 0xC 4
  let known := (s.groupsOf p).any fun g => g.gid.toNat = gid
  if !owned then some 1
  else if op = 0 || 2 < op || 16 ≤ fieldAt b 1 1 || 4096 ≤ fieldAt b 4 2 || 32768 ≤ fieldAt b 6 2 || 2 ^ 17 ≤ base
      || 2 ^ 21 ≤ ext || !allZero b 0x10 0x20 then some 2
  else if op = 1 then
    if !s.gidInRange p gid || (s.part p).groupQuota.toNat ≤ (s.groupsOf p).length then some 1
    else if (s.group (BitVec.ofNat 16 gid)).isSome || 1024 ≤ s.sh.groups.length then some 3
    else if s.extentsBad (fieldAt b 1 1) ext then some 4
    else if !s.inGroup base ext then some 5
    else none
  else if !known || s.groupOpen gid then some 6
  else none

/-- An accepted group request. -/
def State.groupDo (s : State) (b : Bytes) (p : Nat) : State :=
  let gid : BitVec 16 := BitVec.ofNat 16 (fieldAt b 2 2)
  let base := fieldAt b 8 4
  let ext := fieldAt b 0xC 4
  if fieldAt b 0 1 = 1 then
    let g : Group := { gid := gid, gtag := BitVec.ofNat 15 (fieldAt b 6 2), axes := BitVec.ofNat 4 (fieldAt b 1 1),
                       ctx := BitVec.ofNat 12 (fieldAt b 4 2), base := BitVec.ofNat 17 base, extent := word ext,
                       part := BitVec.ofNat 8 p }
    ({ s with sh := { s.sh with groups := s.sh.groups ++ [g] } }).modPart p fun x =>
      { x.hold 0x2510 with grpResult := 1, rank := word (s.rankIn base ext) }
  else
    ({ s with sh := { s.sh with groups := s.sh.groups.filter (fun g => g.gid ≠ gid),
                                early := s.sh.early.filter fun e => e.2.1 ≠ gid } }).modPart p fun x => { x.hold 0x2510 with grpResult := 1 }

/-- A write to 0x2510:01: accepted, or refused in Result of the writer's slot (R421, R423, R506). -/
def State.putGroup (s : State) (w : WriteReq) (r : Role) : Put :=
  let p := w.part.getD 40
  let refuse (code cond : Nat) : Put :=
    .ok (s.requestRefused w 1 code cond (slotPart r w.part) fun x => { x with grpResult := BitVec.ofNat 16 code })
  match s.groupRefusal w.bytes (s.owns r w.part) p with
  | some cond => refuse 0x4001 cond
  | none => if s.slotBusy p 0x2510 then refuse 0x4010 0 else .ok (s.groupDo w.bytes p)

/-- The write request of a group record. -/
def State.groupWrite (s : State) (ses : Ses) (b : Bytes) : WriteReq :=
  let c := fieldAt b 4 2 % 4096
  { ses := ses, idx := 0x2510, sub := 1, bytes := b, ctx := some c, part := s.ctxPart c }

/-- REGISTER (R255, R256). -/
def execRegister (ses : Ses) (rec' : BitVec 256) (s : State) : Out :=
  let w := s.groupWrite ses (withOp (toLE rec'.toNat 32) 1)
  s.putRow w fun s r => s.putGroup w r
/-- RELEASE (R255, R256). -/
def execRelease (ses : Ses) (rec' : BitVec 256) (s : State) : Out :=
  let w := s.groupWrite ses (withOp (toLE rec'.toNat 32) 2)
  s.putRow w fun s r => s.putGroup w r

/-! ### Bindings for outings (R291, R292) -/

/-- A command is an outing command of a group (R293). -/
def Command.outingOf (c : Command) (gid : BitVec 16) : Bool :=
  c.unit = 5 && 0xE4 ≤ c.top && c.top ≤ 0xE7 && (outCmd c).gid = gid

/-- An outing command of a group is queued or running. -/
def State.outingBusy (s : State) (gid : BitVec 16) : Bool :=
  s.tiles.any fun e => e.2.cmdQ.any (·.outingOf gid) || e.2.flights.any fun f => f.cmd.outingOf gid

/-- The fields of a BIND break R291. -/
def bindFieldsBad (b : Bytes) : Bool :=
  let clen := fieldAt b 4 4
  clen = 0 || clen % 4096 ≠ 0 || fieldAt b 8 8 % 4096 ≠ 0 || fieldAt b 0x10 8 % 128 ≠ 0 || fieldAt b 0x18 2 = 0

/-- The condition of R292 (1 to 5) or R414 (2) that a binding request fails, by its position; p is the partition of the group. -/
def State.bindRefusal (s : State) (b : Bytes) (owned : Bool) (p : Nat) : Option Nat :=
  let op := fieldAt b 0 1
  let gid : BitVec 16 := BitVec.ofNat 16 (fieldAt b 2 2)
  if !owned then some 1
  else if op = 0 || 2 < op || fieldAt b 1 1 ≠ 0 || !allZero b 0x1A 0x20 then some 2
  else if op = 1 then
    match s.group gid with
    | none => some 3
    | some g =>
      if (s.part p).bindQuota.toNat ≤ (s.bindings.filter fun x => x.part.toNat = p).length then some 2
      else if g.axes ≠ 8 || extent g.extent.toNat 3 < 2 || (s.binding gid).isSome || 64 ≤ s.bindings.length then some 3
      else if bindFieldsBad b then some 4
      else none
  else if (s.binding gid).isNone || s.outingBusy gid then some 5
  else none

/-- An accepted binding request. -/
def State.bindDo (s : State) (b : Bytes) (p : Nat) : State :=
  let gid : BitVec 16 := BitVec.ofNat 16 (fieldAt b 2 2)
  let s1 : State :=
    if fieldAt b 0 1 = 1 then
      let x : Binding := { gid := gid, part := BitVec.ofNat 8 p, ctx := ((s.group gid).map (·.ctx)).getD 0, clen := fieldAt b 4 4,
                           xva := fieldAt b 8 8, stva := fieldAt b 0x10 8, nspan := fieldAt b 0x18 2 }
      { s with bindings := s.bindings ++ [x] }
    else { s with bindings := s.bindings.filter fun x => x.gid ≠ gid }
  s1.modPart p fun x => { x.hold 0x2610 with bindResult := 1 }

/-- A write to 0x2610:01. -/
def State.putBind (s : State) (w : WriteReq) (r : Role) : Put :=
  let p := w.part.getD 40
  let refuse (code cond : Nat) : Put :=
    .ok (s.requestRefused w 1 code cond (slotPart r w.part) fun x => { x with bindResult := BitVec.ofNat 16 code })
  match s.bindRefusal w.bytes (s.owns r w.part) p with
  | some cond => refuse 0x4001 cond
  | none => if s.slotBusy p 0x2610 then refuse 0x4010 0 else .ok (s.bindDo w.bytes p)

/-- The write request of a binding record: it carries a GID and no CTX. -/
def State.bindWrite (s : State) (ses : Ses) (b : Bytes) : WriteReq :=
  { ses := ses, idx := 0x2610, sub := 1, bytes := b,
    part := (s.group (BitVec.ofNat 16 (fieldAt b 2 2))).map fun g => g.part.toNat }

/-- BIND (R291, R292). -/
def execBind (ses : Ses) (rec' : BitVec 256) (s : State) : Out :=
  let w := s.bindWrite ses (withOp (toLE rec'.toNat 32) 1)
  s.putRow w fun s r => s.putBind w r
/-- UNBIND (R292). -/
def execUnbind (ses : Ses) (rec' : BitVec 256) (s : State) : Out :=
  let w := s.bindWrite ses (withOp (toLE rec'.toNat 32) 2)
  s.putRow w fun s r => s.putBind w r

/-! ### Admission (R324 to R328) -/

/-- No context maps any part of a 2 MiB frame, and it is not retired. -/
def State.frameFree (s : State) (pa : Nat) : Bool :=
  !s.mem.retired.contains (pa / 0x200000) && !s.mem.maps.any fun m => m.pa < pa + 0x200000 && pa < m.pa + m.size

/-- The free 2 MiB frames of a GiB. -/
def State.freeIn (s : State) (pa : Nat) : Nat := ((List.range 512).filter fun i => s.frameFree (pa + i * 0x200000)).length

/-- The GiBs of a partition's slabs of one tier that are in state 0 (R326). -/
def State.tierGiBs (s : State) (p tier : Nat) : List Nat :=
  ((if tier = 1 then List.range 128 else (List.range 512).map (· + 128)).filter fun n =>
      (s.slab n).owner.toNat = p && (s.slab n).state = 0).flatMap fun n =>
    (List.range 3).map fun i => slabBase n + i * 0x40000000

/-- F1 and F2 of R326. -/
def State.freeFrames (s : State) (p tier : Nat) : Nat × Nat :=
  let fs := (s.tierGiBs p tier).map s.freeIn
  ((fs.filter (· = 512)).length, fs.sum)

/-- The shortfall of R326. -/
def shortfall (g m f1 f2 : Nat) : Nat :=
  let p1 := min g f1
  (g - p1) * 0x40000000 + (m - (f2 - 512 * p1)) * 0x200000

/-- Context slots of a partition that are free. -/
def State.freeSlots (s : State) (p : Nat) : Nat := (numbers 16 fun n => (s.slotCtx p n).isNone).length

/-- The request breaks a form rule of R325 (R327). -/
def admitFormBad (b : Bytes) : Bool :=
  let op := fieldAt b 0 1
  op = 0 || 2 < op || fieldAt b 1 1 ≠ 0 || !allZero b 0x17 0x20 || fieldAt b 2 2 = 0xFFFF

/-- The outcome of ADMIT from its second case on (R327): refusal code, case and shortfalls, or none where it is admitted. -/
def State.admitRefusal (s : State) (p : Nat) (b : Bytes) : Option (Nat × Nat × Option (Nat × Nat)) :=
  let f (off : Nat) := fieldAt b off 4
  let (f1, f2) := s.freeFrames p 1
  let (e1, e2) := s.freeFrames p 2
  let a := shortfall (f 4) (f 8) f1 f2
  let c := shortfall (f 0xC) (f 0x10) e1 e2
  if (s.part p).plan ≠ 0xFFFF then some (0x4001, 2, none)
  else if s.slotBusy p 0x2010 then some (0x4010, 0, none)
  else if (s.part p).groupQuota.toNat < (s.groupsOf p).length + fieldAt b 0x14 2 || s.freeSlots p < fieldAt b 0x16 1 then
    some (0x4020, 3, some (0, 0))
  else if a ≠ 0 ∨ c ≠ 0 then some (0x4020, 4, some (a, c))
  else none

/-- An accepted admission or withdrawal: the plan it leaves is in force when its outcome is written. -/
def Part.holdPlan (x : Part) (plan : Nat) : Part := { x.hold 0x2010 with admResult := 1, planHeld := some (BitVec.ofNat 16 plan) }

/-- A write to 0x2010:02 (R327, R506). -/
def State.putAdmit (s : State) (w : WriteReq) (r : Role) : Put :=
  let p := s.select w.ses 0x2010 1 0
  let b := w.bytes
  let refuse (code cond : Nat) (short : Option (Nat × Nat)) : Put :=
    .ok (s.requestRefused w 1 code cond (slotPart r (some p)) fun x =>
      { x with admResult := BitVec.ofNat 16 code,
               short1 := (short.map fun q => BitVec.ofNat 64 q.1).getD x.short1,
               short2 := (short.map fun q => BitVec.ofNat 64 q.2).getD x.short2 })
  if !s.asOwner r p || admitFormBad b then refuse 0x4001 1 none
  else if fieldAt b 0 1 = 1 then
    match s.admitRefusal p b with
    | some (code, cond, short) => refuse code cond short
    | none => .ok (s.modPart p fun x => { x.holdPlan (fieldAt b 2 2) with short1 := 0, short2 := 0 })
  else if fieldAt b 2 2 ≠ (s.part p).plan.toNat then refuse 0x4001 0 none
  else if s.slotBusy p 0x2010 then refuse 0x4010 0 none
  else .ok (s.modPart p fun x => x.holdPlan 0xFFFF)

/-- The write request of an admission record. -/
def admitWrite (ses : Ses) (b : Bytes) : WriteReq := { ses := ses, idx := 0x2010, sub := 2, bytes := b }

/-- ADMIT (R327). -/
def execPlanAdmit (ses : Ses) (rec' : BitVec 256) (s : State) : Out :=
  let w := admitWrite ses (withOp (toLE rec'.toNat 32) 1)
  s.putRow w fun s r => s.putAdmit w r
/-- WITHDRAW (R327). -/
def execWithdraw (ses : Ses) (rec' : BitVec 256) (s : State) : Out :=
  let w := admitWrite ses (withOp (toLE rec'.toNat 32) 2)
  s.putRow w fun s r => s.putAdmit w r

end Sys2Proof.Machine
end

