-- ==== Sys2Proof/Machine/Time.lean ====
section
/-! DEFINITION. The global counter and its discipline (R235, R248, R335 to R343), readiness bits (R466), and launches (R346 to
R348). -/

namespace Sys2Proof.Machine

/-! ### Readiness (R466) -/

/-- A bit of 0x1200:01 set or cleared; its rise raises FUNCTION_READY. -/
def State.setReady (s : State) (b : Nat) (on : Bool) : State :=
  let old := s.pwr.functions
  let new := if on then old ||| word (2 ^ b) else old &&& ~~~word (2 ^ b)
  let s1 := { s with pwr := { s.pwr with functions := new } }
  if on && !bit old b then s1.raise { code := 0x1F01, part := 0xFE, detail := [1, BitVec.ofNat 8 b] } else s1

/-! ### DISC (R339) -/

/-- PRIO of W6. -/
def discPrio (w : Word) : Nat := bits w 24 8
/-- DHOPS of W6. -/
def discDhops (w : Word) : Nat := bits w 16 8
/-- SHOPS of W6. -/
def discShops (w : Word) : Nat := bits w 8 8
/-- ROLE of W6 names a site root. -/
def discSiteRoot (w : Word) : Bool := bits w 2 2 = 1

/-- A root as a number: lower is better (R339). -/
def rootKey (prio : Nat) (serial : BitVec 128) : Nat := prio * 2 ^ 128 + serial.toNat

/-- The serial number as a number in the order of its bytes. -/
def ownSerial : BitVec 128 := Config.serial

/-- This module as a root. -/
def State.ownRoot (s : State) : Nat := rootKey s.time.priority.toNat ownSerial

/-- This module is the campus root. -/
def State.isRoot (s : State) : Bool := s.time.role = 1 && s.time.parent = 0xFF && s.time.dhops = 0

/-- W6 to W11 of a TS frame sent on a port. -/
def State.discWords (s : State) (c : Nat) : List Nat :=
  let t := s.time
  (t.prio.toNat * 2 ^ 24 + t.dhops.toNat * 2 ^ 16 + t.shops.toNat * 2 ^ 8 + t.dstate.toNat % 16 * 16 + t.role.toNat % 4 * 4
      + (if t.parent.toNat = c then 1 else 0))
    :: (List.range 4).map (fun i => fieldAt (toBE t.rootSerial.toNat 16) (4 * i) 4)
    ++ [min s.uncNow 65535 * 65536 + min s.suncNow 65535]

/-- TIME_BUDGET at each crossing upward (R353). -/
def State.timeBudget (s : State) : State :=
  let u : Bool := 20000 < s.uncNow
  let v : Bool := 4000 < s.suncNow
  let s1 := { s with time := { s.time with uncHigh := u, suncHigh := v } }
  if (u && !s.time.uncHigh) || (v && !s.time.suncHigh) then s1.raise { code := 0x1B02, part := 0xFE } else s1

/-! ### States and the parent (R340, R341) -/

/-- The counter enters LOCKED. -/
def State.enterLocked (s : State) : State :=
  if s.time.dstate = 2 then s
  else (({ s with time := { s.time with dstate := 2, everLocked := true, holdSince := none } }).setReady 22 true).raise
    { code := 0x1B01, part := 0xFE }

/-- A new root is followed; TIME_ROOT where it differs from the last. -/
def State.setRoot (s : State) (prio : BitVec 8) (serial : BitVec 128) : State :=
  let s1 := { s with time := { s.time with prio := prio, rootSerial := serial } }
  if serial = s.time.rootSerial then s1
  else s1.raise { code := 0x1B04, part := 0xFE, detail := toBE serial.toNat 16 ++ toLE s.time.offset.toNat 4 }

/-- A port's tolerance in ps (R343). -/
def State.toleranceOf (s : State) (c : Nat) : Nat :=
  match (s.port c).tolerance with
  | some t => t.toNat
  | none => if siteMode c then 10000 else 0

/-- A port is a candidate for parent: UP, DISC within the last 100 µs, and the sender neither this module's child nor outside the
row of R340. -/
def State.parentCandidate (s : State) (c : Nat) : Bool :=
  match (s.port c).disc with
  | none => false
  | some (w, _, _, at') =>
    s.portUp c && s.island ≤ at' + 100000 && !bit w 0
      && (if s.time.role = 1 then siteMode c && discSiteRoot w && discDhops w < 255 else !siteMode c && discShops w < 255)

/-- A candidate's place in the order of R340: root, hops, uncertainty, port code. -/
def State.parentKey (s : State) (c : Nat) : Nat :=
  match (s.port c).disc with
  | none => 0
  | some (w, root, u, _) =>
    let (hops, unc) := if s.time.role = 1 then (discDhops w, bits u 16 16) else (discShops w, bits u 0 16)
    ((rootKey (discPrio w) root * 256 + hops) * 65536 + unc) * 16 + c

/-- The port to follow. The campus root follows only a better root. -/
def State.bestParent (s : State) : Option Nat :=
  let better (c : Nat) : Bool := !s.isRoot || s.parentKey c / (256 * 65536 * 16) < s.ownRoot
  (((List.range 16).filter fun c => s.parentCandidate c && better c).map fun c => (s.parentKey c, c)).foldl
    (fun best e => match best with
      | none => some e
      | some b => if e.1 < b.1 then some e else some b) none |>.map (·.2)

/-- Own fields taken from a parent (R340). The first parent of a counter that is FREE begins acquisition (R341). -/
def State.follow (s : State) (c : Nat) : State :=
  match (s.port c).disc with
  | none => s
  | some (w, root, u, _) =>
    let t := s.time
    let tol := s.toleranceOf c
    let fresh : Bool := t.parent.toNat ≠ c
    let t1 : TimeSys :=
      if t.role = 1 then
        { t with shops := 0, sunc := 0, dhops := BitVec.ofNat 8 (discDhops w + 1), unc := bits u 16 16 + 250 + tol }
      else
        { t with shops := BitVec.ofNat 8 (discShops w + 1), dhops := BitVec.ofNat 8 (discDhops w), sunc := bits u 0 16 + 50 + tol,
                 unc := bits u 16 16 + 50 + tol }
    ({ s with time := { t1 with
        parent := BitVec.ofNat 8 c, holdSince := none, dstate := if t.dstate = 0 then 1 else t.dstate,
        thetas := if fresh then [] else t.thetas, withinSince := if fresh then none else t.withinSince } }).setRoot
      (BitVec.ofNat 8 (discPrio w)) root

/-- A module without a parent and without a claim (R340, R341): HOLDOVER after a LOCKED state, else FREE at the
nominal rate. -/
def State.orphan (s : State) : State :=
  let t := s.time
  let hold := t.everLocked
  let s1 := { s with time := { t with
    parent := 0xFF, prio := 255, dhops := 255, shops := 255, thetas := [], withinSince := none,
    dstate := if hold then 3 else 0,
    rate := if hold then t.rate else 0,
    holdSince := if hold then some (t.holdSince.getD s.island) else none } }
  let s2 := s1.setReady 22 false
  if hold ∧ t.dstate ≠ 3 then s2.raise { code := 0x1B03, part := 0xFE } else s2

/-- The parent is chosen anew. -/
def State.chooseParent (s : State) : State :=
  match s.bestParent with
  | some c => s.follow c
  | none => if s.isRoot || s.time.parent = 0xFF then s else s.orphan

/-! ### Stamps and steering (R235, R248, R337) -/

/-- A stamp now, with its fraction (R335). -/
def State.stampNow (s : State) (frac : BitVec 4) : Nat := (s.now.toNat * 16 + frac.toNat) % 2 ^ 64

/-- (b - a) and (d - c) of R248 in 1/16 ns, where all four values are held. -/
def Port.exchange (x : Port) (f : Bytes) : Option (Int × Int) :=
  let w0 := ctlWord f 0
  let find (m : List (BitVec 16 × Nat)) (n : BitVec 16) : Option Nat := (m.find? fun e => e.1 = n).map (·.2)
  let mine := find x.txStamps (BitVec.ofNat 16 (bits (ctlWord f 3) 0 16))
  let last := find x.rxStamps (BitVec.ofNat 16 (bits w0 0 16) - 1)
  match mine, last with
  | some a, some d =>
    if bit w0 16 && bit w0 17 then
      some (signed 64 (fieldAt f 16 8 + (2 ^ 64 - a)), signed 64 (d + (2 ^ 64 - fieldAt f 4 8)))
    else none
  | _, _ => none

/-- A deadline's stamp moved with a step. -/
def moved (by' : DWord) (t : DWord) : DWord := t + by'

/-- The stamps a binding measures its deadlines from, moved with a step. -/
def Binding.moveStamps (m : DWord) (b : Binding) : Binding :=
  { b with bitmaps := b.bitmaps.map (fun e => (e.1, moved m e.2)),
           contribs := b.contribs.map (fun c => { c with stamp := c.stamp.map (moved m) }),
           receipts := b.receipts.map (fun r => { r with stamp := moved m r.stamp }),
           openAt := b.openAt.map (fun e => (e.1, moved m e.2)),
           fetch := b.fetch.map fun f => { f with began := moved m f.began, asked := moved m f.asked, busyAt := f.busyAt.map (moved m) } }

/-- The one step before the first LOCKED: the counter and every pending deadline move together (R337). -/
def State.stepCounter (s : State) (by' : Int) : State :=
  let m : DWord := BitVec.ofInt 64 by'
  { s with now := s.now + m,
           time := { s.time with stepped := true, thetas := [], withinSince := none },
           sh := { s.sh with slots := s.sh.slots.map fun e => (e.1, e.2.map fun x => { x with opened := moved m x.opened, deadline := moved m x.deadline }) },
           bindings := s.bindings.map (Binding.moveStamps m),
           ports := s.ports.map fun e => (e.1, { e.2 with txStamps := [], rxStamps := [] }) }

/-- The mean of the estimates in ps. -/
def meanPs (ts : List Int) : Int := ts.sum / (4 * ts.length)

/-- A pair of the parent's port: the one step at acquisition, else an estimate that steers the counter. The rate the loop then sets
is a free value within ±200 ppm, since R340 gives no constants. -/
def State.steer (s : State) (theta : Int) : State :=
  let t := s.time
  if t.dstate = 1 ∧ !t.stepped ∧ !t.everLocked then s.stepCounter ((theta + 2000) / 4000)
  else
    let (w, s1) := s.freeWord
    let ts := (theta :: t.thetas).take 64
    let m := meanPs ts
    { s1 with time := { t with
        thetas := ts, offset := BitVec.ofInt 32 m,
        rate := BitVec.ofInt 32 ((w.toNat % 400001 : Nat) - 200000),
        withinSince := if -2000 ≤ m ∧ m ≤ 2000 then some (t.withinSince.getD s.island) else none } }

/-- A root heard on a D port is remembered for a second, whatever this module's role and priority are then (R340). -/
def State.hear (s : State) (c : Nat) (w : Word) (root : BitVec 128) : State :=
  let key := rootKey (discPrio w) root
  if siteMode c && discSiteRoot w && discDhops w < 255 then
    { s with time := { s.time with
        heard := (key, s.island) :: s.time.heard.filter fun e => e.1 ≠ key && s.island < e.2 + 1000000000 } }
  else s

/-- A TS frame that passed R236. -/
def State.rxTs (s : State) (c : Nat) (f : Bytes) (stamp : Nat) : State :=
  let x := s.port c
  let w6 := ctlWord f 6
  let root : BitVec 128 := BitVec.ofNat 128 (beNat (slice f 28 16))
  let pair := x.exchange f
  let s1 := s.modPort c fun y =>
    { y with rxStamps := ((BitVec.ofNat 16 (bits (ctlWord f 0) 0 16), stamp) :: y.rxStamps).take 2,
             disc := some (w6, root, ctlWord f 11, s.island),
             delays := match pair with
               | some (u, v) => ((u + v).toNat :: y.delays).take 64
               | none => y.delays,
             sampled := if pair.isSome then y.sampled + 1 else y.sampled }
  let s2 := ((s1.tryUp c).hear c w6 root).chooseParent
  let s3 := match pair with
    | some (u, v) =>
      if s2.portUp c ∧ s2.time.parent.toNat = c then s2.steer ((u - v) * 125 - 4 * x.asym.toInt) else s2
    | none => s2
  s3.timeBudget

/-- A TS frame that was received at a stamp. -/
def State.tsIn (s : State) (c : Nat) (f : Bytes) (stamp : Nat) : State := s.rxControl c 10 f stamp fun a => a.rxTs c f stamp

/-- TS (R248, R340): a TS frame arrives; frac is the fraction of its receive stamp. -/
def execTs (p : PortCode) (frame : Bytes) (frac : BitVec 4) (s : State) : Out :=
  .next (s.tsIn p.toNat frame (s.stampNow frac))

/-- W0 to W11 of the next TS frame of a port. -/
def State.tsWords (s : State) (c : Nat) : List Nat :=
  let x := s.port c
  let prev := x.txStamps.find? fun e => e.1 = x.tseq - 1
  let last := x.rxStamps.head?
  let t := (prev.map (·.2)).getD 0
  let r := (last.map (·.2)).getD 0
  [0xA * 2 ^ 28 + (if last.isSome then 2 ^ 17 else 0) + (if prev.isSome then 2 ^ 16 else 0) + x.tseq.toNat, t % 2 ^ 32, t / 2 ^ 32,
    (last.map (·.1.toNat)).getD 0, r % 2 ^ 32, r / 2 ^ 32] ++ s.discWords c

/-- TS_SEND (R235, R240, R244): a port that is UP, or trains with its lanes up, sends a TS frame and keeps its stamp. -/
def execTsSend (p : PortCode) (frac : BitVec 4) (s : State) : Out :=
  .next
    (let c := p.toNat
     let x := s.port c
     if s.fatal || !(x.state = .up || (x.state = .training && x.lanes = 0xFFFF)) || !s.controlOpen c then s
     else
       ((s.sendControl c (s.tsWords c)).modPort c fun y =>
         { y with txStamps := ((y.tseq, s.stampNow frac) :: y.txStamps).take 16, tseq := y.tseq + 1, lastTs := some s.island }).timeBudget)

/-! ### ROOT_CLAIM, COUNTER_LOCK, PARENT_LOSS -/

/-- No root for which a test holds was heard within the last second. -/
def State.quietFor (s : State) (root : Nat → Bool) : Bool :=
  s.time.listenFrom + 1000000000 ≤ s.island && s.time.heard.all fun e => !root e.1 || e.2 + 1000000000 ≤ s.island

/-- ROOT_CLAIM (R340). -/
def execRootClaim (s : State) : Out :=
  .next
    (let t := s.time
     if t.role = 1 && t.priority ≠ 255 && !s.isRoot && s.pwr.bridge && !s.fatal
         && s.quietFor (fun root => !t.everLocked || root < s.ownRoot) then
       (({ s with time := { t with parent := 0xFF, dhops := 0, shops := 0, unc := 0, sunc := 0, holdSince := none, thetas := [],
                                   withinSince := none } }).setRoot t.priority ownSerial).enterLocked
     else s)

/-- COUNTER_LOCK (R341). -/
def execCounterLock (s : State) : Out :=
  .next
    (match s.time.withinSince with
     | some t =>
       if s.time.parent ≠ 0xFF && s.time.dstate ≠ 2 && (s.time.stepped || s.time.everLocked) && t + 1000000 ≤ s.island then s.enterLocked
       else s
     | none => s)

/-- PARENT_LOSS (R340, R341): a parent silent for 100 µs, or no longer UP. -/
def execParentLoss (s : State) : Out :=
  .next
    (if s.time.parent ≠ 0xFF && !s.parentCandidate s.time.parent.toNat then s.chooseParent.timeBudget else s)

/-! ### Launches (R346 to R348) -/

/-- The partition owns the unit whose window stands at WINDOW. -/
def State.launchWindow (s : State) (p win : Nat) : Bool :=
  win < 2 ^ 20 && match s.unitAt (BitVec.ofNat 20 win) with
    | some u => s.unitOwner u = some p
    | none => false

/-- The first row of R347. -/
def State.launchDenied (s : State) (p : Nat) (b : Bytes) : Bool :=
  let op := fieldAt b 0 1
  let armed : Bool := (s.part p).launchStatus = 1
  op = 0 || 2 < op || fieldAt b 1 1 ≠ 0 || 4096 ≤ fieldAt b 2 2 || !allZero b 0x18 0x20 || !s.launchWindow p (fieldAt b 4 4)
    || fieldAt b 8 8 / 2 ^ 44 % 4096 ≠ fieldAt b 2 2 || (op = 1 && armed) || (op = 2 && (!armed || fieldAt b 0x10 8 ≠ 0))

/-- The armed doorbell is written (R348). -/
def State.fireLaunch (s : State) (p : Nat) : State :=
  let x := s.part p
  let win : WinAddr := x.launchWin.setWidth 20
  let v := x.launchBell
  let s1 := (s.modPart p fun x => { x with launchStatus := 2, firedCount := x.launchCount }).doorbell win (bits v 56 8) (BitVec.ofNat 12 (bits v 44 12))
    (BitVec.ofNat 4 (bits v 40 4)) (BitVec.ofNat 40 (bits v 0 40))
  s1.raise { code := 0x1B05, part := p, ctx := bits v 44 12,
             detail := toLE x.launchCount.toNat 8 ++ [(s1.win win).result.setWidth 8] }

/-- A launch whose count has passed fires before what reaches the ordering point after it (R344, R348). -/
def State.launchDue (s : State) (p : Nat) : State :=
  if (s.part p).launchStatus = 1 ∧ (s.part p).launchCount < s.now then s.fireLaunch p else s

/-- A write to 0x2920:02 (R347): refused in the Result of the writer's slot, or done at once. -/
def State.putLaunch (s : State) (w : WriteReq) (r : Role) : Put :=
  let p := s.select w.ses 0x2920 1 0
  let b := w.bytes
  let refuse (code cond : Nat) : Put :=
    .ok (s.requestRefused w 1 code cond (slotPart r (some p)) fun x => { x with launchResult := BitVec.ofNat 16 code })
  if !s.asOwner r p || s.launchDenied p b then refuse 0x4001 1
  else if fieldAt b 0 1 = 1 then
    if s.time.dstate ≠ 2 then refuse 0x4010 2
    else if fieldAt b 0x10 8 < s.now.toNat + 10000 then refuse 0x4B01 3
    else
      .ok (s.modPart p fun x =>
        { x with launchResult := 0, launchStatus := 1, launchCount := BitVec.ofNat 64 (fieldAt b 0x10 8),
                 launchWin := word (fieldAt b 4 4), launchBell := BitVec.ofNat 64 (fieldAt b 8 8) })
  else .ok (s.modPart p fun x => { x.cancelLaunch with launchResult := 0 })

/-- The write request of a launch record. -/
def launchWrite (ses : Ses) (b : Bytes) : WriteReq :=
  { ses := ses, idx := 0x2920, sub := 2, bytes := b, ctx := some (fieldAt b 2 2 % 4096) }

/-- ARM (R347). -/
def execArm (ses : Ses) (rec' : BitVec 256) (s : State) : Out :=
  let w := launchWrite ses (withOp (toLE rec'.toNat 32) 1)
  s.putRow w fun s r => (s.launchDue (s.select ses 0x2920 1 0)).putLaunch w r
/-- CANCEL (R347). -/
def execCancel (ses : Ses) (rec' : BitVec 256) (s : State) : Out :=
  let w := launchWrite ses (withOp (toLE rec'.toNat 32) 2)
  s.putRow w fun s r => (s.launchDue (s.select ses 0x2920 1 0)).putLaunch w r

/-- LAUNCH_FIRE (R348): the count has passed the launch count. -/
def execLaunchFire (part : BitVec 8) (s : State) : Out :=
  guardUnit (decide (part.toNat < 40))
    (s.launchDue part.toNat)

end Sys2Proof.Machine
end

