-- ==== Sys2Proof/Machine/Integrity.lean ====
section
/-! DEFINITION. The checkers (R355 to R359), hardware errors (R354, R366), error injection (R372) and the fatal slot (R369). -/

namespace Sys2Proof.Machine

/-! ### Re-execution (R358) -/

/-- Result components of one cell of D: two where values are complex. -/
def Capture.cx (c : Capture) : Nat := if c.kind = 0 ∧ c.op = 6 then 2 else 1

/-- The end accumulators that re-execution gives. -/
def Capture.reEnds (c : Capture) : List Word :=
  match c.kind with
  | 0 => List.zipWith (fun a ts => foldTerms c.op c.int c.glen a ts) c.start c.terms
  | 3 => List.zipWith (fun a ts => word (redFold c.op a.toNat ts)) c.start c.terms
  | _ => []

/-- A list of words cut into pieces of n; fuel bounds their number. -/
def wordRows (n : Nat) : Nat → List Word → List (List Word)
  | 0, _ => []
  | fuel + 1, ws => if ws.isEmpty then [] else ws.take n :: wordRows n fuel (ws.drop n)

/-- The written elements and scales that re-execution gives, from its own end accumulators. -/
def Capture.reOut (c : Capture) (ends : List Word) : List Nat × List Nat :=
  let rnd (i : Nat) := streamRnd (modeSr c.mode) c.seed c.step (c.base + i * c.pitch)
  if !c.last then ([], [])
  else match c.kind with
    | 0 =>
      let rows := ((wordRows c.cols ends.length ends).zipIdx).map fun r => convertRow c.fmt c.shift (rnd r.2) r.1
      (rows.flatMap (·.1), rows.flatMap (·.2))
    | 1 => (c.terms.flatMap segBits, [])
    | 2 => convertRow 2 0 (rnd 0) ((c.terms.flatten).map fun x => word (fp32.encode 0 x))
    | _ => (ends.map (·.toNat), [])

/-- The values of a capture in the order of comparison: WHAT, ELEM and the value. -/
def Capture.values (c : Capture) (ends : List Nat) (out : List Nat × List Nat) : List (Nat × Nat × Nat) :=
  let w := if c.kind = 0 then c.cols else 4096
  let cell (i : Nat) : Nat := if c.kind = 0 then i / w * 32 + i % w / c.cx else i
  let run (i : Nat) : Nat := cell (i / ((w + 15) / 16) * w + i % ((w + 15) / 16) * 16)
  ends.zipIdx.map (fun e => (0, cell e.2, e.1)) ++ out.1.zipIdx.map (fun e => (1, cell e.2, e.1))
    ++ out.2.zipIdx.map fun e => (1, run e.2, e.1)

/-- What re-execution gives. -/
def Capture.expect (c : Capture) : List (Nat × Nat × Nat) := c.values (c.reEnds.map (·.toNat)) (c.reOut c.reEnds)

/-- What was captured; an injection of kind 1 inverts bit 0 of the first value compared (R372). -/
def Capture.seen (c : Capture) (inverted : Bool) : List (Nat × Nat × Nat) :=
  match c.values (c.ends.map (·.toNat)) (c.written, c.scales) with
  | [] => []
  | (w, e, v) :: rest => (w, e, if inverted then v ^^^ 1 else v) :: rest

/-- The first difference: WHAT, ELEM, EXPECT, SEEN. -/
def firstDiff (a b : List (Nat × Nat × Nat)) : Option (Nat × Nat × Nat × Nat) :=
  ((a.zip b).find? fun p => p.1.2.2 ≠ p.2.2.2).map fun p => (p.1.1, p.1.2.1, p.1.2.2, p.2.2.2)

/-- DETAIL of CHECK_MISMATCH (R368). -/
def mismatchDetail (k : Nat) (c : Capture) (d : Nat × Nat × Nat × Nat) : Bytes :=
  toLE (pathOf k 32).toNat 2 ++ [BitVec.ofNat 8 c.kind, BitVec.ofNat 8 c.pass] ++ toLE c.row 2 ++ toLE c.col 2 ++ toLE c.span 2
    ++ toLE d.2.1 2 ++ [BitVec.ofNat 8 d.1, 0, 0, 0] ++ toLE d.2.2.1 4 ++ toLE d.2.2.2 4

/-- A compared capture leaves the backlog and the fences that waited for it (R359). -/
def State.captureDone (s : State) (k : Nat) (c : Capture) : State :=
  let s1 := s.modCluster k fun x => { x with chk := { x.chk with backlog := x.chk.backlog.drop 1, used := x.chk.used - c.bytes } }
  let s2 := { s1 with integ := s1.integ.count 2 1 }
  s2.each (List.range 40) fun a p =>
    if (a.part p).fenceWait.contains c.id then
      a.modPart p fun x =>
        let left := x.fenceWait.filter (· ≠ c.id)
        { x with fenceWait := left, fence := if x.fence = 1 && left.isEmpty then 2 else x.fence }
    else a

/-- An injection of kind 1 acts on the comparisons of a cluster. -/
def State.injectCompare (s : State) (k : Nat) : Bool :=
  s.armedFor 1 && clusterOf s.integ.armTarget = k

/-- The oldest capture re-executed and compared. -/
def State.compare (s : State) (k : Nat) (c : Capture) : State :=
  let inj := s.injectCompare k
  let s1 := s.captureDone k c
  let s2 := if inj then { s1 with integ := { s1.integ with armed := false } } else s1
  let s3 := if c.kind = 0 then s2.arrayPulse (pathOf k 32) else s2
  match firstDiff c.expect (c.seen inj) with
  | none => s3
  | some d =>
    s3.raise { code := 0xC001, path := some c.path, part := c.part.toNat, ctx := ((s.ownCtx c.path).getD 0).toNat,
               stag := some c.stag, injected := inj, detail := mismatchDetail k c d }

/-- CHECKER_COMPARE (R358): the checker takes the oldest capture of its backlog. -/
def execCheckerCompare (k : BitVec 6) (s : State) : Out :=
  guardUnit (decide (k.toNat < 40))
    (match (s.cluster k.toNat).chk.backlog with
     | c :: _ => if s.fatal || s.poweredDown k.toNat then s else s.compare k.toNat c
     | [] => s)

/-- CHECKER_RESEED (R356), a second after the last seed: from the DRBG once it is ready, else seed 0. -/
def execCheckerReseed (k : BitVec 6) (s : State) : Out :=
  guardUnit (decide (k.toNat < 40))
    (if s.fatal || s.poweredDown k.toNat || s.island < (s.cluster k.toNat).chk.seededAt + 1000000000 then s
     else s.seedChecker k.toNat)

/-! ### The fence (R359) -/

/-- A write to 0x3001:02. -/
def State.putFence (s : State) (ses : Ses) (r : Role) (v : Nat) : Put :=
  let p := s.select ses 0x3001 1 0
  let ids := (s.partClusters p).flatMap fun k => (s.cluster k).chk.backlog.map (·.id)
  Put.deny (!s.asOwner r p || v ≠ 1 || (s.part p).fence = 1) 0
    (.ok (s.modPart p fun x => { x with fence := if ids.isEmpty then 2 else 1, fenceWait := ids }))

/-- CHECKER_FENCE (R359). -/
def execCheckerFence (ses : Ses) (s : State) : Out :=
  s.putRow { ses := ses, idx := 0x3001, sub := 2, bytes := [1] } fun s r => s.putFence ses r 1

/-! ### Injection (R372) -/

/-- The states in which 0x3020 can be written, by the role R442 and R443 name: Manufacture and Field-Debug. -/
def State.injectOpen (s : State) (r : Role) : Bool := s.asOperator r && (s.lifeCycle = 1 || s.lifeCycle = 4)

/-- The condition under which an arm write of 1 is refused, by its position. -/
def State.armRefusal (s : State) : Option Nat :=
  let t := s.integ.injTarget
  if s.integ.injKind = 0 then some 1
  else if !validPath t then some 2
  else if s.lifeCycle = 4 && (s.partOf t).isSome then some 3
  else none

/-- An injection armed: kinds 4 and 5 act at once on the word's correct value. -/
def State.armInjection (s : State) : State :=
  let k := s.integ.injKind.toNat
  if k = 4 ∨ k = 5 then
    { s.modTile s.integ.injTarget fun x => { x with lsErr := mapSet 0 x.lsErr 0 (if k = 4 then 1 else 3) } with
        integ := { s.integ with armed := false } }
  else { s with integ := { s.integ with armed := true, armKind := s.integ.injKind, armTarget := s.integ.injTarget } }

/-- A write to 0x3020:03. -/
def State.putArm (s : State) (r : Role) (v : Nat) : Put :=
  Put.deny (!s.injectOpen r || 1 < v) 0
    (if v = 0 then .ok { s with integ := { s.integ with armed := false } }
     else match s.armRefusal with
       | some cond => .refused 0x4001 cond
       | none => .ok s.armInjection)

/-- INJECTION_ARM (R372). -/
def execInjectionArm (ses : Ses) (s : State) : Out :=
  s.putRow { ses := ses, idx := 0x3020, sub := 3, bytes := [1] } fun s r => s.putArm r 1
/-- INJECTION_CANCEL (R372). -/
def execInjectionCancel (ses : Ses) (s : State) : Out :=
  s.putRow { ses := ses, idx := 0x3020, sub := 3, bytes := [0] } fun s r => s.putArm r 0

/-! ### Hardware errors (R354) and the fault ring (R366) -/

/-- An event of a tile's own hardware. -/
def State.tileError (s : State) (t : Path) (code : Nat) (detail : Bytes) : State := s.raiseTile t code none detail

/-- An event of the device. -/
def State.deviceError (s : State) (code : Nat) (detail : Bytes) : State := s.raise { code := code, part := 0xFE, detail := detail }

/-- The site exists. -/
def siteOk : ParitySite → Bool
  | .localStore t a => validPath t && a.toNat < 0x200000
  | .array t => validPath t
  | .vector t => validPath t
  | .codec t => validPath t
  | .expander t _ => validPath t
  | .tierMemory pa => (slabOf pa.toNat).isSome
  | .packageNet a b => a.toNat ≤ 4 && b.toNat ≤ 4
  | .checker k => k.toNat < 40
  | _ => true

/-- DETAIL of a CKPT event (R393). -/
def ckDetail (ckid sidx reason chunk hoff : Nat) : Bytes :=
  toLE ckid 4 ++ toLE sidx 4 ++ [BitVec.ofNat 8 reason, 0, 0, 0] ++ toLE chunk 4 ++ toLE hoff 8

/-- The detail of an error in the hamper (R393, R396): CKID of the open request whose turn comes next. DESIGN CHOICE (log 129): 0 where
none is open. -/
def State.hamperDetail (s : State) : Bytes :=
  let open' := ((List.range 40).map fun i => (s.part ((s.sec.hamTurn + i) % 40)).ham).findSome? id
  ckDetail ((open'.map fun j => fieldAt j.req 4 4).getD 0) 0xFFFFFFFF 0 0 0

/-- The event of an error at a site (R115, R157, R159, R183, R203, R227, R253, R288, R314, R353, R368, R373, R396, R431). -/
def State.siteError (s : State) (x : ParitySite) : State :=
  match x with
  | .localStore t a => s.tileError t 0xC401 (toLE (a.toNat / 8 * 8) 4)
  | .array t => s.tileError t 0xC301 []
  | .vector t => s.tileError t 0xC310 []
  | .codec t => s.tileError t 0xC501 []
  | .expander t flip => s.modTile t fun x => { x with expSlip := flip }
  | .tierMemory pa => s.memoryUe pa.toNat
  | .packageNet a b => s.deviceError 0xCC03 [a.setWidth 8, b.setWidth 8]
  | .link p => s.linkEvent p.toNat 0xC602 0xFE []
  | .shuttle _ => s.deviceError 0xC701 []
  | .shuttleResidue d gid seq opk =>
    s.deviceError 0xC002 ([0, d.setWidth 8, opk, 0] ++ toLE gid.toNat 2 ++ toLE seq.toNat 2)
  | .engineResidue d top opk => s.deviceError 0xC002 [1, d.setWidth 8, opk, 0, 0, 0, 0, 0, top]
  | .outing _ gid outno => s.deviceError 0xC801 (outDetail gid outno)
  | .training _ => s.deviceError 0xC901 []
  | .hamper => s.deviceError 0xCA01 s.hamperDetail
  | .counter => s.deviceError 0xCB01 []
  | .followerLag _ => s.deviceError 0xCB01 []
  | .checker k => s.tileError (pathOf k.toNat 32) 0xCC01 []
  | .cipher => s.deviceError 0xCD02 []

/-- PARITY_ERROR (R354, R373): every event of this row is device-fatal; an expander's error shows at the next block it decodes (R200).
Without the converters there is nothing to fail. -/
def execParityError (site : ParitySite) (s : State) : Out :=
  guardUnit (siteOk site) (if s.pwr.converters then s.siteError site else s)

/-- FAULT_RING_HEARTBEAT (R366): what the controller hears of one collector: a frame with a bad CRC, or so many heartbeats missed in a
row. -/
def execFaultRingHeartbeat (collector : BitVec 3) (crcBad : Bool) (missed : Nat) (s : State) : Out :=
  guardUnit (decide (collector.toNat ≤ 4))
    (if !s.pwr.converters then s
     else
       let s1 := { s with integ := { s.integ with ringMissed := mapSet 0 s.integ.ringMissed collector.toNat missed } }
       if crcBad || 4 ≤ missed then s1.deviceError 0xCC02 [] else s1)

/-! ### The fatal slot (R365, R369) -/

/-- A write to 0x3010:07. -/
def State.putFatalAck (s : State) (r : Role) (v : Nat) : Put :=
  Put.deny (!s.asOperator r || v ≠ 1) 0 (.ok { s with integ := { s.integ with fatalRec := none } })

/-- FATAL_ACKNOWLEDGE (R369). -/
def execFatalAcknowledge (ses : Ses) (s : State) : Out :=
  s.putRow { ses := ses, idx := 0x3010, sub := 7, bytes := [1] } fun s r => s.putFatalAck r 1

end Sys2Proof.Machine
end

