-- ==== Sys2Proof/Machine/Settings.lean ====
section
/-! DEFINITION. The settings of a partition that a checkpoint carries (R384): their values, and the rules under which each is written
(R226, R284, R313, R349). -/

namespace Sys2Proof.Machine

/-- A command of a partition's tiles, queued or running, for which a test holds. -/
def State.anyCommand (s : State) (p : Nat) (f : Command → Bool) : Bool :=
  (s.partTiles p).any fun t => (s.tile t).cmdQ.any f || (s.tile t).flights.any fun x => f x.cmd

/-- A training-state command of a partition is queued or running (R226). -/
def State.trainBusy (s : State) (p : Nat) : Bool := s.anyCommand p fun c => c.unit = 5 && 0xE0 ≤ c.top && c.top ≤ 0xE3

/-- An outing command of a partition is queued or running (R313). -/
def State.outBusy (s : State) (p : Nat) : Bool := s.anyCommand p fun c => c.unit = 5 && 0xE4 ≤ c.top && c.top ≤ 0xE7

/-- Every tile of a partition is in STATE 0 with its queues empty. -/
def State.partQuiet (s : State) (p : Nat) : Bool := (s.partTiles p).all s.tileIdle

/-- No collective, outing command or launch of a partition is open, queued or armed. -/
def State.partClear (s : State) (p : Nat) : Bool :=
  (s.slotsOf p).isEmpty && !s.outBusy p && (s.part p).launchStatus ≠ 1

/-- The value and length of a partition's setting. -/
def Part.setting (x : Part) (idx sub : Nat) : Option (Nat × Nat) :=
  match idx, sub with
  | 0x2700, 2 => some (x.seed.toNat, 8)
  | 0x2700, 3 => some (x.step.toNat, 4)
  | 0x2700, 4 => some (x.applied.toNat, 4)
  | 0x2700, 5 => some (x.consec.toNat, 2)
  | 0x2700, 6 => some (x.skipLimit.toNat, 1)
  | 0x2600, 2 => some (x.window.toNat, 4)
  | 0x2600, 3 => some (x.takeover.toNat, 4)
  | 0x2600, 4 => some (x.alpha.toNat, 4)
  | 0x2600, 6 => some (x.period.toNat, 2)
  | 0x2501, 2 => some (x.deadline.toNat, 4)
  | 0x2501, 3 => some (x.weight.toNat, 1)
  | 0x2910, 2 => some (if x.repro then 1 else 0, 1)
  | _, _ => none

/-- A partition with a setting written. -/
def Part.withSetting (x : Part) (idx sub v : Nat) : Part :=
  match idx, sub with
  | 0x2700, 2 => { x with seed := BitVec.ofNat 64 v }
  | 0x2700, 3 => { x with step := word v }
  | 0x2700, 4 => { x with applied := word v }
  | 0x2700, 5 => { x with consec := BitVec.ofNat 16 v }
  | 0x2700, 6 => { x with skipLimit := BitVec.ofNat 8 v }
  | 0x2600, 2 => { x with window := word v }
  | 0x2600, 3 => { x with takeover := word v }
  | 0x2600, 4 => { x with alpha := word v }
  | 0x2600, 6 => { x with period := BitVec.ofNat 16 v }
  | 0x2501, 2 => { x with deadline := word v }
  | 0x2501, 3 => { x with weight := BitVec.ofNat 8 v }
  | 0x2910, 2 => { x with repro := v = 1 }
  | _, _ => x

/-- A setting's value is allowed. -/
def settingOk (idx sub v : Nat) : Bool :=
  match idx, sub with
  | 0x2700, 6 => v ≠ 0
  | 0x2600, 2 => 1 ≤ v && v ≤ 3600000
  | 0x2600, 3 => 1 ≤ v && v ≤ 60000
  | 0x2600, 4 => v ≤ 0x3F800000
  | 0x2600, 6 => v ≠ 0
  | 0x2501, 2 => 100 ≤ v && v ≤ 60000000
  | 0x2501, 3 => v ≠ 0
  | 0x2910, 2 => v ≤ 1
  | _, _ => true

/-- A partition's state lets a setting be written. -/
def State.settingFree (s : State) (p idx : Nat) : Bool :=
  match idx with
  | 0x2700 => !s.trainBusy p
  | 0x2600 => !s.outBusy p
  | 0x2910 => s.partQuiet p && s.partClear p
  | _ => true

/-- A write to a setting of a partition. -/
def State.putSetting (s : State) (r : Role) (p idx sub v : Nat) : Put :=
  Put.deny (!s.asOwner r p || !settingOk idx sub v || !s.settingFree p idx) 0 (.ok (s.modPart p fun x => x.withSetting idx sub v))

end Sys2Proof.Machine
end

