-- ==== Sys2Proof/Machine/Checkpoint.lean ====
section
/-! DEFINITION. The hamper (R374 to R396): requests, shard tables, control items, manifests, WRITE, RESTORE and VERIFY. An accepted
request stays open; the tick moves the open requests of all partitions on, in turns of one chunk (R394). -/

namespace Sys2Proof.Machine

/-! ### The request (R375, R377) -/

/-- The fields of a hamper request. -/
structure HamReq where
  op : Nat
  enc : Bool
  ctx : BitVec 12
  ckid : Nat
  stva : Nat
  nshard : Nat
  nctl : Nat
  planid : Nat
  ctlva : Nat
  maddr : Nat
  ctloff : Nat
  keyid : Nat
  nman : Nat

/-- The fields in 64 bytes. -/
def hamReq (b : Bytes) : HamReq :=
  let f := fieldAt b
  { op := f 0 1, enc := f 1 1 = 1, ctx := BitVec.ofNat 12 (f 2 2), ckid := f 4 4, stva := f 8 8, nshard := f 0x10 4, nctl := f 0x14 2,
    planid := f 0x16 2, ctlva := f 0x18 8, maddr := f 0x20 8, ctloff := f 0x28 8, keyid := f 0x30 4, nman := f 0x34 1 }

/-- A reserved field is not 0, or a field is used outside its operation or its range (R375). -/
def hamFormBad (b : Bytes) : Bool :=
  let q := hamReq b
  let flags := fieldAt b 1 1
  q.op = 0 || 3 < q.op || 1 < flags || 4096 ≤ fieldAt b 2 2 || !allZero b 0x35 0x40
    || q.stva % 4096 ≠ 0 || q.ctlva % 4096 ≠ 0
    || (if q.op = 1 then q.nman ≠ 0 || 4096 < q.nctl || (!q.enc && q.keyid ≠ 0)
        else flags ≠ 0 || q.nctl ≠ 0 || q.ctlva ≠ 0 || q.ctloff ≠ 0 || q.nman = 0 || q.maddr % 4096 ≠ 0)
    || (if q.op = 3 then q.stva ≠ 0 || q.nshard ≠ 0 || q.planid ≠ 0 else q.nshard = 0 || 65536 < q.nshard)

/-- A checkpoint key of a partition (R403). -/
def State.ckptKey (s : State) (p keyid : Nat) : Option Key :=
  if keyid / 2 ^ 24 = 3 ∧ keyid / 2 ^ 16 % 256 = p then s.key keyid else none

/-! ### Shards (R376) -/

/-- An entry of the shard table. -/
structure Shard where
  sidx : Nat
  cls : Nat
  etype : Nat
  rc : Nat
  ridx : Nat
  va : Nat
  len : Nat
  hoff : Nat
  pidx : Nat
  reservedBad : Bool

/-- The fields of an entry. -/
def parseShard (b : Bytes) : Shard :=
  let f := fieldAt b
  { sidx := f 0 4, cls := f 4 1, etype := f 5 1, rc := f 6 1, ridx := f 7 1, va := f 8 8, len := f 0x10 8, hoff := f 0x18 8,
    pidx := f 0x20 8, reservedBad := !allZero b 0x28 0x40 }

/-- An entry breaks R376. -/
def Shard.bad (x : Shard) : Bool :=
  x.reservedBad || 0xFFFFE ≤ x.sidx || 5 < x.cls || 5 < x.etype || x.rc = 0 || x.rc ≤ x.ridx || x.va % 4096 ≠ 0 || x.len % 4096 ≠ 0
    || 2 ^ 36 < x.len || (x.cls = 4 && 2 ^ 20 < x.len) || x.hoff % 4096 ≠ 0 || 2 ^ 48 ≤ x.pidx || (4 ≤ x.cls && x.pidx ≠ 0)

/-- This module writes the shard's image (R378). -/
def Shard.mine (x : Shard) : Bool := x.sidx % x.rc = x.ridx

/-- Bytes of a chunk of an image. -/
def chunkBytes : Nat := 1048576

/-- Length of the image of so many bytes (R380). -/
def imageLen (enc : Bool) (len : Nat) : Nat := if enc then len + 16 * ((len + chunkBytes - 1) / chunkBytes) else len

/-- Two ranges share a byte. -/
def rangesMeet (a b : Nat × Nat) : Bool := a.1 < b.1 + b.2 && b.1 < a.1 + a.2

/-- Two ranges of a list share a byte. -/
def rangesOverlap : List (Nat × Nat) → Bool
  | [] => false
  | a :: rest => rest.any (rangesMeet a) || rangesOverlap rest

/-! ### Encryption (R380) -/

/-- SIDX of the control section. -/
def sidxControl : Nat := 0xFFFFE
/-- SIDX of a manifest. -/
def sidxManifest : Nat := 0xFFFFF

/-- The IV of a chunk. -/
def ckIv (ckid coord sidx chunk : Nat) : Bytes := toLE ckid 4 ++ toLE (coord * 2 ^ 47 + sidx * 2 ^ 27 + chunk) 8

/-- The additional data of a chunk. -/
def ckAad (sidx chunk len : Nat) : Bytes := toLE sidx 4 ++ toLE chunk 4 ++ toLE len 8

/-- Ciphertext followed by its tag. -/
def sealBytes (k : Key) (iv aad plain : Bytes) : Bytes :=
  let rk := roundKeys k.bytes
  let ct := gcmCrypt rk iv plain
  ct ++ gcmTag rk iv aad ct

/-- The plaintext of a sealed string whose tag passes. -/
def unsealBytes (k : Key) (iv aad img : Bytes) : Option Bytes :=
  let rk := roundKeys k.bytes
  let ct := img.take (img.length - 16)
  if gcmTag rk iv aad ct = img.drop (img.length - 16) then some (gcmCrypt rk iv ct) else none

/-! ### The host window -/

/-- A range lies in a partition's window. -/
def State.inWindow (s : State) (p off len : Nat) : Bool := off + len ≤ (s.part p).winLen.toNat

/-- Bytes of the host window. -/
def State.hostRead (s : State) (p off len : Nat) : Bytes := readCells s.host ((s.part p).winBase.toNat + off) len

/-- Bytes written to the host window. -/
def State.hostWrite (s : State) (p off : Nat) (bs : Bytes) : State :=
  { s with host := writeCells s.host ((s.part p).winBase.toNat + off) bs }

/-- A request to the window is answered without an error: the PCIe link is up, and the completion reports none, which is the host's and
free (R379). -/
def State.viaPcie (s : State) (ckid hoff : Nat) : Trial Unit :=
  let s' := { s with free := s.free + 1 }
  if s.pwr.pcieUp && !Config.windowError s.free then (s', .ok ()) else (s', .error (halt 0x8A01 (ckDetail ckid 0xFFFFFFFF 3 0 hoff)))

/-- Blocks read with verification, as reader 3 of R368. -/
def State.hamRead (s : State) (p : Nat) (ctx : BitVec 12) (va n : Nat) : Trial Bytes :=
  match s.readBlocks .bridge 3 p ctx va n with
  | (s', _, _, some e) => (s', .error { code := e.1, detail := e.2.1, injected := e.2.2 })
  | (s', _, .fault code at', none) => (s', .error (halt code (toLE at' 8)))
  | (s', bs, .ok, none) => (s', .ok bs)

/-- A table of so many bytes, in whole blocks. -/
def State.hamTable (s : State) (p : Nat) (ctx : BitVec 12) (va len : Nat) : Trial Bytes :=
  (s.hamRead p ctx va ((len + 4095) / 4096)).andThen fun s' bs => (s', .ok (bs.take len))

/-- Bytes of shard data moved (0x2800:04). -/
def State.hamMoved (s : State) (p n : Nat) : State := s.modPart p fun x => { x with progress := satAdd64 x.progress n }

/-- A check of a request's fields. -/
def demand (s : State) (ok : Bool) (code : Nat) (detail : Bytes) : Trial Unit := if ok then (s, .ok ()) else (s, .error (halt code detail))

/-- Something done for each element in turn; the first error ends it. -/
def forEach {α : Type} (s : State) (xs : List α) (f : State → α → Trial Unit) : Trial Unit :=
  xs.foldl (fun (t : Trial Unit) x => t.andThen fun s' _ => f s' x) (s, .ok ())

/-! ### Control items (R383, R384) -/

/-- The first shard that does not follow its predecessor. -/
def unordered : List Shard → Option Shard
  | x :: y :: rest => if x.sidx < y.sidx then unordered (y :: rest) else some y
  | _ => none

/-- The shard table read and checked. -/
def State.shardTable (s : State) (p : Nat) (q : HamReq) : Trial (List Shard) :=
  (s.hamTable p q.ctx q.stva (64 * q.nshard)).andThen fun s1 bs =>
    let xs := (chunks 64 bs).map parseShard
    match (xs.find? Shard.bad).orElse fun _ => unordered xs with
    | some x => (s1, .error (halt 0x8A01 (ckDetail q.ckid x.sidx 1 0 x.hoff)))
    | none => (s1, .ok xs)

/-- KIND of an item. -/
def itemKind (b : Bytes) : Nat := fieldAt b 0 1
/-- INDEX of an item. -/
def itemIndex (b : Bytes) : Nat := fieldAt b 2 2
/-- SUB of an item. -/
def itemSub (b : Bytes) : Nat := fieldAt b 4 1

/-- A binding of the partition by GID. -/
def State.boundHere (s : State) (p gid : Nat) : Option Binding :=
  s.bindings.find? fun x => x.gid.toNat = gid && x.part.toNat = p

/-- The sixteen bytes an item's VALUE takes at capture; none where the item names nothing that may be captured. -/
def State.itemValue (s : State) (p : Nat) (b : Bytes) : Option Bytes :=
  if itemKind b = 1 then
    match (s.part p).setting (itemIndex b) (itemSub b) with
    | some (v, n) => if fieldAt b 5 1 = n then some (toLE v 16) else none
    | none => none
  else if itemKind b = 2 ∧ itemSub b = 0 ∧ fieldAt b 5 1 = 16 then
    (s.boundHere p (itemIndex b)).map fun x =>
      fit (toLE x.accepted.outno.toNat 4 ++ toLE x.accepted.alpha.toNat 4 ++ [x.accepted.b, x.accepted.l]) 16
  else none

/-- The first eight bytes of an item. -/
def itemHead (kind index sub len : Nat) : Bytes := [BitVec.ofNat 8 kind, 0] ++ toLE index 2 ++ [BitVec.ofNat 8 sub, BitVec.ofNat 8 len, 0, 0]

/-- The settings an OBJECT item may name (R384). -/
def settingNames : List (Nat × Nat) :=
  [(0x2700, 2), (0x2700, 3), (0x2700, 4), (0x2700, 5), (0x2700, 6), (0x2600, 2), (0x2600, 3), (0x2600, 4), (0x2600, 6), (0x2501, 2),
    (0x2501, 3), (0x2910, 2)]

/-- Every item that may be captured in a partition, with its value: its settings and its bindings (R383, R384). -/
def State.capturable (s : State) (p : Nat) : List (Bytes × Bytes) :=
  let heads := settingNames.map (fun n => itemHead 1 n.1 n.2 ((((s.part p).setting n.1 n.2).map (·.2)).getD 0))
    ++ (s.bindings.filter fun x => x.part.toNat = p).map fun x => itemHead 2 x.gid.toNat 0 16
  heads.filterMap fun h => (s.itemValue p h).map fun v => (h, v)

/-- The control section: every item of the list with the value held since the request was ordered (R378, R383). -/
def State.fillItems (s : State) (ckid : Nat) (held : List (Bytes × Bytes)) : Nat → List Bytes → Trial Bytes
  | _, [] => (s, .ok [])
  | i, b :: rest =>
    match held.find? fun e => e.1 = b.take 8 && allZero b 8 32 with
    | some e => (s.fillItems ckid held (i + 1) rest).andThen fun s1 more => (s1, .ok (b.take 8 ++ e.2 ++ zeros 8 ++ more))
    | none => (s, .error (halt 0x8A01 (ckDetail ckid sidxControl 1 i 0)))

/-! ### WRITE (R378 to R382) -/

/-- The image of so many plain bytes, chunk by chunk, from chunk i on. -/
def imageOf (k : Option Key) (ckid coord sidx len : Nat) : Nat → List Bytes → Bytes
  | _, [] => []
  | i, c :: cs =>
    (match k with
      | some key => sealBytes key (ckIv ckid coord sidx i) (ckAad sidx i len) c
      | none => c) ++ imageOf k ckid coord sidx len (i + 1) cs

/-- Bytes an image's chunk takes in the window. -/
def imageStride (enc : Bool) : Nat := if enc then chunkBytes + 16 else chunkBytes

/-- The image of a shard in this module's manifest (R381); another replica's has nothing to be moved. -/
def Shard.image (x : Shard) : Image :=
  { sidx := x.sidx, cls := x.cls, va := x.va, len := if x.mine then x.len else 0, off := x.hoff,
    entry := toLE x.sidx 4 ++ [BitVec.ofNat 8 x.cls, BitVec.ofNat 8 x.etype, BitVec.ofNat 8 x.rc, if x.mine then 1 else 0]
      ++ toLE x.len 8 ++ toLE x.hoff 8 ++ toLE x.pidx 8 }

/-- The header of a manifest. -/
def HamJob.header (j : HamJob) : Bytes :=
  let q := hamReq j.req
  toLE 0x4D4B4359 4 ++ toLE 1 2 ++ toLE (if q.enc then 1 else 0) 2 ++ toLE q.ckid 4 ++ toLE (j.entries.length / 64) 4
    ++ toBE Config.serial.toNat 16 ++ toLE j.coord.toNat 4 ++ toLE j.rings.toNat 4 ++ toLE q.planid 2 ++ toLE q.nctl 2
    ++ toLE q.keyid 4 ++ toLE j.step.toNat 4 ++ zeros 4 ++ toLE j.time.toNat 8 ++ toLE q.ctloff 8 ++ zeros 8
    ++ Sys2Proof.Machine.sha256 j.control ++ zeros 16

/-- A manifest as it stands in the window: with ENC, what follows byte 0x4F is sealed in place. -/
def manifestImage (k : Option Key) (ckid coord : Nat) (plain : Bytes) : Bytes :=
  match k with
  | some key => plain.take 0x50 ++ sealBytes key (ckIv ckid coord sidxManifest 0) (plain.take 0x50) (plain.drop 0x50)
  | none => plain

/-- Bytes of a manifest of so many entries. -/
def manifestLen (enc : Bool) (nent : Nat) : Nat := 128 + 64 * nent + if enc then 16 else 0

/-- What a WRITE puts in the window, in order: the images, the control section, the manifest; each with its SIDX. -/
def writeRanges (q : HamReq) (xs : List Shard) : List (Nat × Nat × Nat) :=
  (xs.filter Shard.mine).map (fun x => (x.sidx, x.hoff, imageLen q.enc x.len))
    ++ [(sidxControl, q.ctloff, imageLen q.enc (32 * q.nctl)), (sidxManifest, q.maddr, manifestLen q.enc xs.length)]

/-- The first range that leaves the window or meets one before it (R379). -/
def State.badRange (s : State) (p : Nat) : List (Nat × Nat × Nat) → List (Nat × Nat) → Option (Nat × Nat)
  | [], _ => none
  | (sidx, off, len) :: rest, before =>
    if !s.inWindow p off len || before.any (rangesMeet (off, len)) then some (sidx, off) else s.badRange p rest ((off, len) :: before)

/-- CKPT_BODY, reason 2 (R379). -/
def State.rangeTest (s : State) (q : HamReq) (bad : Option (Nat × Nat)) : Trial Unit :=
  match bad with
  | some (sidx, off) => (s, .error (halt 0x8A01 (ckDetail q.ckid sidx 2 0 off)))
  | none => (s, .ok ())

/-- A WRITE begins: MAGIC's place is zeroed, the shard table and the control list are read and checked. -/
def State.beginWrite (s : State) (p : Nat) (q : HamReq) (j : HamJob) : Trial HamJob :=
  (s.rangeTest q (s.badRange p [(sidxManifest, q.maddr, 128)] [])).andThen fun s1 _ =>
  ((s1.hostWrite p q.maddr (zeros 4)).shardTable p q).andThen fun s2 xs =>
  (s2.hamTable p q.ctx q.ctlva (32 * q.nctl)).andThen fun s3 list =>
  (s3.fillItems q.ckid j.held 0 (chunks 32 list)).andThen fun s4 ctl =>
  (demand s4 (!q.enc || manifestLen true xs.length ≤ chunkBytes) 0x8A01 (ckDetail q.ckid sidxManifest 1 0 q.maddr)).andThen fun s5 _ =>
  (s5.rangeTest q (s5.badRange p (writeRanges q xs) [])).andThen fun s6 _ =>
    (s6, .ok { j with begun := true, control := ctl, todo := xs.map Shard.image })

/-- One chunk of a shard read and written to the window. -/
def State.writeChunk (s : State) (p : Nat) (q : HamReq) (k : Option Key) (j : HamJob) (x : Image) : Trial Bytes :=
  let n := min chunkBytes (x.len - j.chunk * chunkBytes)
  (s.hamRead p q.ctx (x.va + j.chunk * chunkBytes) (n / 4096)).andThen fun s1 bs =>
    ((s1.hostWrite p (x.off + j.chunk * imageStride q.enc) (imageOf k q.ckid j.coord.toNat x.sidx x.len j.chunk [bs])).hamMoved p n,
      .ok bs)

/-- The end of a WRITE: the control section, the manifest with MAGIC last, Last CKID and CKPT_WRITTEN. -/
def State.endWrite (s : State) (p : Nat) (q : HamReq) (k : Option Key) (j : HamJob) : State :=
  let coord := j.coord.toNat
  let s1 := s.hostWrite p q.ctloff (imageOf k q.ckid coord sidxControl j.control.length 0 (chunks chunkBytes j.control))
  let m := manifestImage k q.ckid coord (j.header ++ j.entries)
  let s2 := (s1.hostWrite p (q.maddr + 4) (m.drop 4)).hostWrite p q.maddr (m.take 4)
  (s2.modPart p fun x => { x with lastCkid := word q.ckid }).raise
    { code := 0x1A01, part := p, ctx := q.ctx.toNat, detail := ckDetail q.ckid 0xFFFFFFFF 0 0 q.maddr }

/-! ### Manifests read back (R388 to R390) -/

/-- ENC of a manifest. -/
def Manifest.enc (m : Manifest) : Bool := fieldAt m.raw 6 2 % 2 = 1
/-- CKID of a manifest. -/
def Manifest.ckid (m : Manifest) : Nat := fieldAt m.raw 8 4
/-- NENT of a manifest. -/
def Manifest.nent (m : Manifest) : Nat := fieldAt m.raw 0xC 4
/-- COORD of a manifest. -/
def Manifest.coord (m : Manifest) : Nat := fieldAt m.raw 0x20 4
/-- NCTL of a manifest. -/
def Manifest.nctl (m : Manifest) : Nat := fieldAt m.raw 0x2A 2
/-- CTLOFF with BIAS. -/
def Manifest.ctloff (m : Manifest) : Nat := (fieldAt m.raw 0x40 8 + m.bias) % 2 ^ 64
/-- The entries. -/
def Manifest.entries (m : Manifest) : List Bytes := chunks 64 (m.raw.drop 128)

/-- WRITTEN of an entry. -/
def entWritten (e : Bytes) : Bool := fieldAt e 7 1 % 2 = 1
/-- SIDX of an entry. -/
def entSidx (e : Bytes) : Nat := fieldAt e 0 4
/-- LEN of an entry. -/
def entLen (e : Bytes) : Nat := fieldAt e 8 8
/-- HOFF of an entry with its manifest's BIAS. -/
def Manifest.hoff (m : Manifest) (e : Bytes) : Nat := (fieldAt e 0x10 8 + m.bias) % 2 ^ 64
/-- The entry fields that agree between manifests: all but EFLAGS, DIGEST and HOFF. -/
def entKey (e : Bytes) : Bytes := e.take 7 ++ slice e 8 8 ++ slice e 0x18 8
/-- The header fields that agree between manifests. -/
def Manifest.key (m : Manifest) : Bytes × Bool :=
  (slice m.raw 8 8 ++ slice m.raw 0x28 12, m.enc)

/-- CKPT_MANIFEST (R390). -/
def manifestFault (ckid sidx reason hoff : Nat) : Halt := halt 0x8A04 (ckDetail ckid sidx reason 0 hoff)

/-- A reserved field, MAGIC or VERSION of a manifest is wrong. -/
def Manifest.bad (m : Manifest) : Bool :=
  let h := m.raw
  fieldAt h 0 4 ≠ 0x4D4B4359 || fieldAt h 4 2 ≠ 1 || 3 < fieldAt h 6 2 || fieldAt h 0x34 4 ≠ 0 || fieldAt h 0x48 8 ≠ 0
    || !allZero h 0x70 0x80 || m.entries.any fun x => 1 < fieldAt x 7 1

/-- A manifest read whole from the window; where it is encrypted its tag is verified before any field is judged, but for ENC and NENT,
which say what is to be read (R389). -/
def State.readManifest (s : State) (p : Nat) (q : HamReq) (k : Option Key) (e : Bytes) : Except Halt Manifest :=
  let off := fieldAt e 0 8
  let h := s.hostRead p off 0x50
  let enc : Bool := fieldAt h 6 2 % 2 = 1
  let len := manifestLen enc (fieldAt h 0xC 4)
  let fault (reason : Nat) : Except Halt Manifest := .error (manifestFault q.ckid sidxManifest reason off)
  if !s.inWindow p off 0x80 then fault 6
  else if !enc && fieldAt h 0 4 ≠ 0x4D4B4359 then fault 1
  else if !s.inWindow p off len then fault 6
  else if enc && chunkBytes < len then fault 1
  else
    let rest := s.hostRead p (off + 0x50) (len - 0x50)
    let plain := if enc then k.bind fun key => unsealBytes key (ckIv (fieldAt h 8 4) (fieldAt h 0x20 4) sidxManifest 0) h rest else some rest
    match plain with
    | none => fault 2
    | some r =>
      let m : Manifest := { off := off, bias := fieldAt e 8 8, raw := h ++ r }
      if m.bad then fault 1 else .ok m

/-- Every manifest of a list. -/
def State.readManifests (s : State) (p : Nat) (q : HamReq) (k : Option Key) : List Bytes → Except Halt (List Manifest)
  | [] => .ok []
  | e :: es =>
    match s.readManifest p q k e with
    | .error x => .error x
    | .ok m =>
      match s.readManifests p q k es with
      | .error x => .error x
      | .ok ms => .ok (m :: ms)

/-- Reason 3: the first manifest that differs from the list's first. -/
def manifestOdd : List Manifest → Option Manifest
  | [] => none
  | m :: rest => rest.find? fun n => n.key ≠ m.key || n.entries.map entKey ≠ m.entries.map entKey

/-- What of a manifest lies outside the window: an image it marks WRITTEN, or its control section; SIDX and host offset. -/
def State.outside (s : State) (p : Nat) (m : Manifest) : Option (Nat × Nat) :=
  match m.entries.find? fun e => entWritten e && !s.inWindow p (m.hoff e) (imageLen m.enc (entLen e)) with
  | some e => some (entSidx e, m.hoff e)
  | none => if s.inWindow p m.ctloff (imageLen m.enc (32 * m.nctl)) then none else some (sidxControl, m.ctloff)

/-- The entry of a table's shard. -/
def Shard.matches' (x : Shard) (e : Bytes) : Bool :=
  entSidx e = x.sidx && fieldAt e 4 1 = x.cls && fieldAt e 5 1 = x.etype && fieldAt e 6 1 = x.rc && entLen e = x.len
    && fieldAt e 0x18 8 = x.pidx

/-- The first manifest of a list that marks a shard WRITTEN, with the entry. -/
def sourceEntry (ms : List Manifest) (x : Shard) : Option (Manifest × Bytes) :=
  ms.findSome? fun m => (m.entries.find? fun e => entSidx e = x.sidx && entWritten e).map fun e => (m, e)

/-- Reason 4: the checkpoint is not the one asked for, or holds no entry for a shard; reason 5: a shard is WRITTEN in no manifest. -/
def tableOdd (q : HamReq) (xs : List Shard) (ms : List Manifest) (m : Manifest) : Option Halt :=
  if m.ckid ≠ q.ckid || fieldAt m.raw 0x28 2 ≠ q.planid then some (manifestFault q.ckid sidxManifest 4 m.off)
  else match xs.find? fun x => !m.entries.any x.matches' with
    | some x => some (manifestFault q.ckid x.sidx 4 m.off)
    | none => (xs.find? fun x => (sourceEntry ms x).isNone).map fun x => manifestFault q.ckid x.sidx 5 m.off

/-- Reasons 3 to 6 of R390; a VERIFY has no table, and reasons 4 and 5 are not asked (R392). -/
def State.manifestsBad (s : State) (p : Nat) (q : HamReq) (xs : List Shard) (ms : List Manifest) : Option Halt :=
  match manifestOdd ms with
  | some m => some (manifestFault q.ckid sidxManifest 3 m.off)
  | none =>
    match if q.op = 2 then ms.head?.bind (tableOdd q xs ms) else none with
    | some e => some e
    | none => (ms.findSome? (s.outside p)).map fun x => manifestFault q.ckid x.1 6 x.2

/-! ### Images read back (R389, R391) -/

/-- Chunk i of an image: its plain bytes, or none where its tag fails. -/
def State.imageChunk (s : State) (p : Nat) (k : Option Key) (m : Manifest) (sidx off len i : Nat) : Option Bytes :=
  let n := min chunkBytes (len - i * chunkBytes)
  if m.enc then
    k.bind fun key => unsealBytes key (ckIv m.ckid m.coord sidx i) (ckAad sidx i len)
      (s.hostRead p (off + i * imageStride true) (n + 16))
  else some (s.hostRead p (off + i * chunkBytes) n)

/-- Blocks written as a store with CHK = 1 writes them. -/
def State.hamStore (s : State) (p : Nat) (ctx : BitVec 12) (va : Nat) (bs : Bytes) : Trial Unit :=
  forEach s (chunks 4096 bs).zipIdx fun s1 b =>
    match s1.writeBlock .bridge hamperEngine p ctx (va + 4096 * b.2) b.1 with
    | (s2, .ok) => (s2, .ok ())
    | (s2, .fault code at') => (s2, .error (halt code (toLE at' 8)))

/-- The control section of a manifest as an image. -/
def Manifest.controlImage (m : Manifest) : Image :=
  { sidx := sidxControl, len := 32 * m.nctl, off := m.ctloff, src := some m, digest := slice m.raw 0x50 32 }

/-- The image of an entry, to be written at an address of a class. -/
def Manifest.shardImage (m : Manifest) (e : Bytes) (cls va : Nat) : Image :=
  { sidx := entSidx e, cls := cls, va := va, len := entLen e, off := m.hoff e, src := some m, digest := slice e 0x20 32 }

/-- The images of a RESTORE: each table shard from its source, then the control section of the first manifest (R389). -/
def restoreImages (xs : List Shard) (ms : List Manifest) : List Image :=
  xs.filterMap (fun x => (sourceEntry ms x).map fun e => e.1.shardImage e.2 x.cls x.va) ++ (ms.take 1).map Manifest.controlImage

/-- The images of a VERIFY: every WRITTEN image and every control section (R392). -/
def verifyImages (ms : List Manifest) : List Image :=
  ms.flatMap fun m => (m.entries.filter entWritten).map (fun e => m.shardImage e 5 0) ++ [m.controlImage]

/-- A RESTORE or a VERIFY begins: the shard table, the manifest list and the manifests are read and checked. -/
def State.beginRead (s : State) (p : Nat) (q : HamReq) (k : Option Key) (j : HamJob) : Trial HamJob :=
  (if q.op = 2 then s.shardTable p q else (s, .ok [])).andThen fun s1 xs =>
  (s1.hamTable p q.ctx q.maddr (16 * q.nman)).andThen fun s2 list =>
    match s2.readManifests p q k (chunks 16 list) with
    | .error e => (s2, .error e)
    | .ok ms =>
      match s2.manifestsBad p q xs ms with
      | some e => (s2, .error e)
      | none => (s2, .ok { j with begun := true, mans := ms, todo := if q.op = 2 then restoreImages xs ms else verifyImages ms })

/-- One chunk of an image read from the window and verified; a RESTORE writes a shard's chunk at its address. -/
def State.takeChunk (s : State) (p : Nat) (q : HamReq) (k : Option Key) (j : HamJob) (x : Image) (m : Manifest) : Trial Bytes :=
  match s.imageChunk p k m x.sidx x.off x.len j.chunk with
  | none =>
    let at' := x.off + j.chunk * imageStride m.enc
    (s, .error (halt 0x8A02 (ckDetail q.ckid x.sidx (if x.sidx = sidxControl then 3 else 1) j.chunk at')))
  | some bs =>
    if x.sidx = sidxControl then (s, .ok bs)
    else (if q.op = 2 then s.hamStore p q.ctx (x.va + j.chunk * chunkBytes) bs else (s, .ok ())).andThen fun s2 _ =>
      (s2.hamMoved p bs.length, .ok bs)

/-- A control item written under its object's rules; a BINDING sets the accepted identity (R389). An item of a reserved KIND writes
nothing. -/
def State.applyItem (s : State) (p : Nat) (r : Role) (b : Bytes) : State :=
  if itemKind b = 1 then
    match s.putSetting r p (itemIndex b) (itemSub b) (fieldAt b 8 (fieldAt b 5 1)) with
    | .ok s' => s'
    | .refused .. => s
  else if itemKind b = 2 then
    s.modBinding (BitVec.ofNat 16 (itemIndex b)) fun x =>
      if x.part.toNat = p then
        { x with accepted := { outno := word (fieldAt b 8 4), alpha := word (fieldAt b 12 4), b := BitVec.ofNat 8 (fieldAt b 16 1),
                               l := BitVec.ofNat 8 (fieldAt b 17 1) },
                 contribs := [], receipts := [], ownLate := [] }
      else x
  else s

/-- The items of a control section applied in order, and each read back. -/
def State.applyItems (s : State) (p ckid : Nat) (r : Role) : Nat → List Bytes → Trial Unit
  | _, [] => (s, .ok ())
  | i, b :: rest =>
    let s1 := s.applyItem p r b
    if s1.itemValue p b = some (slice b 8 16) then s1.applyItems p ckid r (i + 1) rest
    else (s1, .error (halt 0x8A03 (ckDetail ckid sidxControl 0 i 0)))

/-- An image of which every chunk has been taken: its digest is compared; a RESTORE reads a class-4 region back, and applies the control
section (R389, R391). -/
def State.imageTaken (s : State) (p : Nat) (q : HamReq) (j : HamJob) (x : Image) (bs : Bytes) : Trial Unit :=
  if Sys2Proof.Machine.sha256 bs ≠ x.digest then
    (s, .error (halt 0x8A02 (ckDetail q.ckid x.sidx (if x.sidx = sidxControl then 3 else 2) 0 x.off)))
  else if q.op = 3 then (s, .ok ())
  else if x.sidx = sidxControl then s.applyItems p q.ckid j.role 0 (chunks 32 bs)
  else if x.cls = 4 then
    (s.hamRead p q.ctx x.va (x.len / 4096)).andThen fun s1 back =>
      demand s1 (back = bs) 0x8A03 (ckDetail q.ckid x.sidx 0 0 x.off)
  else (s, .ok ())

/-! ### A turn (R394) -/

/-- The next chunk of an image moved. -/
def State.moveChunk (s : State) (p : Nat) (q : HamReq) (k : Option Key) (j : HamJob) (x : Image) : Trial Bytes :=
  if x.len ≤ j.chunk * chunkBytes then (s, .ok [])
  else match x.src with
    | none => s.writeChunk p q k j x
    | some m => s.takeChunk p q k j x m

/-- An image of which every chunk has been moved: a WRITE notes its entry, the others check it. -/
def State.imageDone (s : State) (p : Nat) (q : HamReq) (j : HamJob) (x : Image) (bs : Bytes) : Trial HamJob :=
  match x.src with
  | none =>
    (s, .ok { j with entries := j.entries ++ x.entry ++ if entWritten x.entry then Sys2Proof.Machine.sha256 bs else zeros 32 })
  | some _ => (s.imageTaken p q j x bs).andThen fun s1 _ => (s1, .ok j)

/-- One turn of an open request: its tables, or the next chunk of an image, and with an image's last chunk what follows it. -/
def State.hamStep (s : State) (p : Nat) (q : HamReq) (k : Option Key) (j : HamJob) : Trial HamJob :=
  if !j.begun then (if q.op = 1 then s.beginWrite p q j else s.beginRead p q k j)
  else match j.todo with
    | [] => (s, .ok j)
    | x :: rest =>
      (s.moveChunk p q k j x).andThen fun s1 bs =>
        let all := j.moved ++ bs
        if x.len ≤ (j.chunk + 1) * chunkBytes then
          (s1.imageDone p q j x all).andThen fun s2 j' => (s2, .ok { j' with todo := rest, chunk := 0, moved := [] })
        else (s1, .ok { j with chunk := j.chunk + 1, moved := all })

/-- The host offset a request's next access to the window concerns. -/
def HamJob.offset (j : HamJob) : Nat :=
  match j.todo with
  | x :: _ => x.off
  | [] => if (hamReq j.req).op = 1 then (hamReq j.req).maddr else 0

/-- A turn with its access to the window. -/
def State.hamServe (s : State) (p : Nat) (q : HamReq) (k : Option Key) (j : HamJob) : Trial HamJob :=
  (s.viaPcie q.ckid j.offset).andThen fun s1 _ => s1.hamStep p q k j

/-- The request of a partition is closed, with its outcome in Result. -/
def State.hamClose (s : State) (p code : Nat) : State := s.modPart p fun x => { x with ham := none, hamResult := BitVec.ofNat 16 code }

/-- A request ends with a failure: Result, and the event of the failure. VERIFY raises none of its own (R392); a device-fatal error is
raised all the same. -/
def State.hamFail (s : State) (p : Nat) (q : HamReq) (e : Halt) : State :=
  let s1 := s.hamClose p e.code
  if q.op = 3 ∧ e.code / 4096 ≠ 0xC then s1
  else s1.raise { code := e.code, part := p, ctx := q.ctx.toNat, injected := e.injected, detail := e.detail }

/-- A request all of whose images have been moved ends: a WRITE writes its manifest, a RESTORE raises CKPT_RESTORED (R378, R389). -/
def State.hamDone (s : State) (p : Nat) (q : HamReq) (k : Option Key) (j : HamJob) : State :=
  let s1 := s.hamClose p 0
  match q.op with
  | 1 => s1.endWrite p q k j
  | 2 =>
    s1.raise { code := 0x1A02, part := p, ctx := q.ctx.toNat,
               detail := ckDetail q.ckid 0xFFFFFFFF 0 0 ((j.mans.head?.map (·.off)).getD 0) }
  | _ => s1

/-- The key of an open request that uses encryption. -/
def State.hamKey (s : State) (p : Nat) (j : HamJob) : Option Key := if j.enc then s.ckptKey p (hamReq j.req).keyid else none

/-- An open request has its turn. It ends once nothing is left to be moved. -/
def State.hamTurn (s : State) (p : Nat) (j : HamJob) : State :=
  let q := hamReq j.req
  let k := s.hamKey p j
  (s.hamServe p q k j).andEnd (fun s1 e => s1.hamFail p q e) fun s1 j' =>
    if j'.begun && j'.todo.isEmpty then s1.hamDone p q k j' else s1.modPart p fun x => { x with ham := some j' }

/-- The memory of a partition answers: no slab of it is being scrubbed (R165). -/
def State.partAnswers (s : State) (p : Nat) : Bool :=
  s.pwr.tiersTrained && !s.mem.slabs.any fun e => e.2.owner.toNat = p && e.2.state = 1

/-- The cipher engine's masking seed is not older than 4 µs (R401). -/
def State.cipherFresh (s : State) : Bool := s.sec.drbg ≠ 0 && s.island ≤ mapGet 0 s.sec.maskAt 0 + 4000

/-- The partition a turn falls to: while a sealed partition exists the turns cycle over all 40 numbers, else over those with a request
open (R394). -/
def State.turnPart (s : State) (turn : Nat) (opened : Nat → Bool) : Option Nat :=
  if (List.range 40).any fun q => s.formed q && (s.part q).sealedMode then some (turn % 40)
  else ((List.range 40).map fun i => (turn + i) % 40).find? opened

/-- One turn of the hamper. A turn whose partition has no chunk ready stays empty. -/
def State.hamperTurn (s : State) : State :=
  match s.turnPart s.sec.hamTurn fun p => (s.part p).ham.isSome with
  | none => s
  | some p =>
    let s1 := { s with sec := { s.sec with hamTurn := (p + 1) % 40 } }
    match (s.part p).ham with
    | none => s1
    | some j => if s.partAnswers p && (!j.enc || s.cipherFresh) then s1.hamTurn p j else s1

/-! ### The rows -/

/-- The manifest list of a RESTORE or VERIFY as it stands; empty where it cannot be read. -/
def State.peekList (s : State) (p : Nat) (q : HamReq) : List Bytes :=
  match (s.hamTable p q.ctx q.maddr (16 * q.nman)).2 with
  | .ok list => chunks 16 list
  | .error _ => []

/-- The request uses encryption: ENC, or a manifest of its list is encrypted (R377). -/
def State.hamEncrypts (s : State) (p : Nat) (q : HamReq) : Bool :=
  if q.op = 1 then q.enc
  else (s.peekList p q).any fun e => s.inWindow p (fieldAt e 0 8) 0x80 && fieldAt (s.hostRead p (fieldAt e 0 8) 8) 6 2 % 2 = 1

/-- Every group that a BINDING item of a checkpoint names is bound in the partition (R387); nothing is known of a checkpoint that
cannot be read. -/
def State.itemsBound (s : State) (p : Nat) (q : HamReq) (k : Option Key) : Bool :=
  match s.readManifests p q k (s.peekList p q) with
  | .ok (m :: _) =>
    (chunks 32 ((s.imageChunk p k m sidxControl m.ctloff (32 * m.nctl) 0).getD [])).all fun b =>
      itemKind b ≠ 2 || (s.boundHere p (itemIndex b)).isSome
  | _ => true

/-- A partition is quiescent for RESTORE (R387). -/
def State.quiescent (s : State) (p : Nat) (q : HamReq) (k : Option Key) : Bool :=
  s.partQuiet p && s.partClear p && !s.trainBusy p && s.itemsBound p q k

/-- The row of R377 under which a request is refused: code and position. The rows that refuse with DENIED come first (R506). -/
def State.hamRefusal (s : State) (r : Role) (p : Nat) (b : Bytes) : Option (Nat × Nat) :=
  let q := hamReq b
  let k := s.ckptKey p q.keyid
  let old : Bool := match k with
    | some key => q.ckid ≤ key.ckid.toNat
    | none => false
  if !s.asOwner r p || hamFormBad b || s.ctxPart q.ctx.toNat ≠ some p || (q.op ≠ 3 && q.planid ≠ (s.part p).plan.toNat) then
    some (0x4001, 1)
  else if (s.part p).winLen = 0 then some (0x4001, 2)
  else if q.op = 1 && q.enc && old then some (0x4001, 3)
  else if q.op = 2 && !s.quiescent p q k then some (0x4001, 4)
  else if (s.part p).ham.isSome then some (0x4010, 5)
  else if s.hamEncrypts p q && (!bit s.pwr.functions 6 || k.isNone) then some (0x4010, 6)
  else none

/-- The CKID record of the key an encrypted WRITE uses is raised when it is accepted (R405). -/
def State.noteCkid (s : State) (q : HamReq) : State :=
  match s.key q.keyid with
  | some key => { s with sec := { s.sec with keys := mapSet none s.sec.keys q.keyid (some { key with ckid := word q.ckid }) } }
  | none => s

/-- A request that was accepted is open: its control items are captured as it is ordered (R378), and Result reads 1. -/
def State.hamOpen (s : State) (p : Nat) (r : Role) (b : Bytes) : State :=
  let q := hamReq b
  let j : HamJob := { req := b, role := r, enc := s.hamEncrypts p q, coord := s.sh.coords, rings := s.sh.rings, step := (s.part p).step,
                      time := s.now, held := s.capturable p }
  (if q.op = 1 && q.enc then s.noteCkid q else s).modPart p fun x => { x with ham := some j, hamResult := 1, progress := 0 }

/-- A write to 0x2800:02 (R377). -/
def State.putHamper (s : State) (w : WriteReq) (r : Role) : Put :=
  let p := s.select w.ses 0x2800 1 0
  match s.hamRefusal r p w.bytes with
  | some (code, cond) =>
    .ok (s.requestRefused w 1 code cond (slotPart r (some p)) fun x => { x with hamResult := BitVec.ofNat 16 code })
  | none => .ok (s.hamOpen p r w.bytes)

/-- The write request of a hamper record. -/
def hamWrite' (ses : Ses) (b : Bytes) : WriteReq :=
  { ses := ses, idx := 0x2800, sub := 2, bytes := b, ctx := some (fieldAt b 2 2 % 4096) }

/-- WRITE (R378). -/
def execWrite (ses : Ses) (rec' : BitVec 512) (s : State) : Out :=
  let w := hamWrite' ses (withOp (toLE rec'.toNat 64) 1)
  s.putRow w fun s r => s.putHamper w r
/-- RESTORE (R389). -/
def execRestore (ses : Ses) (rec' : BitVec 512) (s : State) : Out :=
  let w := hamWrite' ses (withOp (toLE rec'.toNat 64) 2)
  s.putRow w fun s r => s.putHamper w r
/-- VERIFY (R392). -/
def execVerify (ses : Ses) (rec' : BitVec 512) (s : State) : Out :=
  let w := hamWrite' ses (withOp (toLE rec'.toNat 64) 3)
  s.putRow w fun s r => s.putHamper w r

end Sys2Proof.Machine
end

