-- ==== Sys2Proof/Machine/Reset.lean ====
section
/-! DEFINITION. What a device reset and the loss of the 48 V converters leave (R243, R450, R451, R461, R462), the closing of sessions
(R440) and the release of the tag lock that goes with it (R456). -/

namespace Sys2Proof.Machine

/-! ### Sessions -/

/-- The tag lock and a waiting take leave a session that closes; a lock released is published (R456). -/
def Tag.forget (t : Tag) (n : Nat) : Tag :=
  { t with holder := match t.holder with
             | some (.session m) => if m.toNat = n then some .publishing else t.holder
             | h => h,
           waiting := match t.waiting with
             | some m => if m.toNat = n then none else t.waiting
             | none => none }

/-- A session closes (R440): its number is free, its selects return to their defaults. -/
def State.closeSession (s : State) (n : Nat) : State :=
  { s with mgmt := { s.mgmt with sessions := mapSet none s.mgmt.sessions n none,
                                 selects := s.mgmt.selects.filter fun e => e.1 / 2 ^ 24 ≠ n },
           tag := s.tag.forget n }

/-- The numbers of the open sessions for which a test holds. -/
def State.sessionsWhere (s : State) (f : Session → Bool) : List Nat :=
  (s.mgmt.sessions.map (·.1)).filter fun n => match mapGet none s.mgmt.sessions n with | some x => f x | none => false

/-- Every session for which a test holds closes. -/
def State.closeWhere (s : State) (f : Session → Bool) : State := s.each (s.sessionsWhere f) State.closeSession

/-- A session of an owner role. -/
def Session.isOwner (x : Session) : Bool :=
  match x.role with
  | .owner _ => true
  | _ => false

/-- The credential of partition p is erased and its sessions close (R440, R441). -/
def State.dropOwner (s : State) (p : Nat) : State :=
  let s1 := s.closeWhere fun x => x.role = .owner (BitVec.ofNat 8 p)
  { s1 with mgmt := { s1.mgmt with ownerCreds := mapSet none s1.mgmt.ownerCreds p none } }

/-! ### What a reset keeps (R402, R450, R462, R485) -/

/-- Replay records lie in the island. -/
def Part.afterReset (x : Part) : Part := { replay := x.replay }

/-- Frame counts belong to the installed keys (R245); what is on the fibre stays there. -/
def Port.afterReset (x : Port) : Port :=
  { fcnt := x.fcnt, txKs := x.txKs, txCseq := x.txCseq, rxCseq := x.rxCseq, lastTx := x.lastTx }

/-- Contents stay until the scrub of step 9; retired pages stay retired (R184). -/
def MemSys.afterReset (m : MemSys) : MemSys := { tier := m.tier, blocks := m.blocks, retired := m.retired }

/-- The event log and the fatal slot stay. -/
def Integ.afterReset (x : Integ) : Integ :=
  { log := x.log, nextSeq := x.nextSeq, fatalRec := x.fatalRec, notifyMask := x.notifyMask }

/-- The key store, the fuses, Field-Debug and the life-cycle requests stay. -/
def Security.afterReset (x : Security) : Security :=
  { keys := x.keys, lc := x.lc, fieldDebug := x.fieldDebug, challenge := x.challenge, lcResult := x.lcResult,
    returns := x.returns }

/-- The mailbox and the notification ring start empty (R463). -/
def Mgmt.clearMirror (m : Mgmt) : Mgmt :=
  { m with frameQ := m.frameQ.filter (fun e => e.1 ≠ .mirror), mbxReq := [], mbxBusy := false, mbxReady := false, mbxRsp := [], ntfHead := 0, ntfTail := 0, ntfRing := [], msix0 := 0,
           msix1 := 0 }

/-- The controller's own state stays; selects of objects outside the island return to their defaults. -/
def Mgmt.afterReset (m : Mgmt) : Mgmt :=
  { m.clearMirror with ownerCreds := [], selects := m.selects.filter fun e => islandObject (e.1 / 256 % 65536) }

/-- Thermal limits return to their defaults; what the sensors have seen stays. -/
def Sensor.afterReset (x : Sensor) : Sensor := { x with warn := none, throttle := none }

/-- Readiness and the settings outside the island return to their defaults; the counter master runs on. -/
def Power.afterReset (p : Power) : Power :=
  { p with functions := 1, lclk := 0, pcieUp := false, tiersTrained := false, powerCap := 2400, enginePower := 0xFF,
           holdTime := 2000, underlayCycles := 0, rampCycles := 0, underlayRest := 0, rampRest := 0, crashCount := 0,
           sensors := mapEach ({} : Sensor) p.sensors Sensor.afterReset }

/-- Every domain outside the island, held in reset (R462). -/
def State.resetDomains (s : State) : State :=
  { s with fatal := false, tiles := [], wins := [], clusters := [], dies := [],
           parts := mapEach ({} : Part) s.parts Part.afterReset,
           mem := s.mem.afterReset,
           ports := mapEach ({} : Port) s.ports Port.afterReset,
           sh := {}, bindings := [], time := { listenFrom := s.island },
           integ := s.integ.afterReset, sec := s.sec.afterReset, mgmt := s.mgmt.afterReset, pwr := s.pwr.afterReset }

/-- The controller has performed an action (0x1140:06). -/
def State.acted (s : State) : State := { s with mgmt := { s.mgmt with actions := s.mgmt.actions + 1 } }

/-- Every UP port closes with CRSN 0 (R243). -/
def State.closeAll (s : State) : State := s.each (List.range 16) fun a c => if a.portUp c then a.closePort c else a

/-- A device reset (R450, R462): ports close, partitions dissolve, every domain outside the island returns to its defaults, and an
unfrozen trace resumes with START (R482). With the converters off it resets nothing and is counted. -/
def State.deviceReset (s : State) : State :=
  if !s.pwr.converters then s.acted
  else
    let s1 := if s.isWedged then s else s.closeAll
    let s2 := ((s1.closeWhere Session.isOwner).resetDomains).acted
    if s2.trace.frozen then s2 else s2.startTrace

/-! ### The converters (R451, R460, R461, R476) -/

/-- The converters supplied from the 48 V input turn off: nothing is left outside the island, and the trace unit and the counter lose
their contents. A fatal event stays in effect until the next start. -/
def State.convertersOff (s : State) : State :=
  let s1 := (s.closeWhere Session.isOwner).resetDomains
  { s1 with fatal := s.fatal, now := 0,
            mem := { s1.mem with tier := [], blocks := [] },
            trace := { s1.trace with regions := [] },
            pwr := { s1.pwr with converters := false, bridge := false, draw := [] } }

/-- The converters turn on: every domain outside the island starts anew, so no class-0xC event is in effect. -/
def State.convertersOn (s : State) : State :=
  { s with fatal := false, pwr := { s.pwr with converters := true } }

end Sys2Proof.Machine
end

