-- ==== Sys2Proof/Machine/Keys.lean ====
section
/-! DEFINITION. Noise source, DRBG and masking (R397 to R401), the key store (R402 to R406). -/

namespace Sys2Proof.Machine

/-! ### Noise source and DRBG -/

/-- The noise source has failed (R399). -/
def State.noiseFailed (s : State) : State :=
  ({ s with sec := { s.sec with noise := 3 } }).raise { code := 0xCD01, part := 0xFE }

/-- The repetition count test (SP 800-90B) over a window: the last sample, how many equal samples it ends, and whether a run has
reached the cutoff of 41. -/
def repetition (last : Bool) (run : Nat) (w : List Bool) : Bool × Nat × Bool :=
  w.foldl (fun (acc : Bool × Nat × Bool) x =>
    let n := if 0 < acc.2.1 ∧ x = acc.1 then acc.2.1 + 1 else 1
    (x, n, acc.2.2 || 41 ≤ n)) (last, run, false)

/-- The adaptive proportion test over a window: its first sample's value occurs 624 times. -/
def proportionBad : List Bool → Bool
  | [] => false
  | x :: rest => 624 ≤ 1 + rest.count x

/-- A window of a start-up test (4,096 samples) or of the continuous tests (1,024) fails (R397). DESIGN CHOICE (log 126): the start-up
test is the two continuous tests over its samples, and a run of equal samples goes on from window to window. -/
def Security.windowBad (x : Security) (w : List Bool) : Bool :=
  (repetition x.runBit x.runLen w).2.2 || (List.range (w.length / 1024)).any fun i => proportionBad ((w.drop (1024 * i)).take 1024)

/-- The run of equal samples after a window. -/
def Security.ran (x : Security) (w : List Bool) : Security :=
  let r := repetition x.runBit x.runLen w
  { x with runBit := r.1, runLen := r.2.1 }

/-- Healthy samples are kept for the next seed; the 2,048 newest serve. -/
def Security.keep (x : Security) (w : List Bool) : Security :=
  let all := x.samples ++ w
  { x with samples := all.drop (all.length - 2048) }

/-- A window of the start-up test ends; twice failed in succession it is fatal (R399). -/
def State.startupWindow (s : State) (bad : Bool) (w : List Bool) : State :=
  if !bad then { s with sec := { (s.sec.ran w).keep w with noise := 2, startFails := 0 } }
  else
    let s1 := { s with sec := { s.sec with startFails := s.sec.startFails + 1, runLen := 0 } }
    if 2 ≤ s1.sec.startFails then s1.noiseFailed else s1

/-- A window of the continuous tests ends: a failed one is counted and contributes nothing, and more than three within 1 s are fatal
(R397, R399). -/
def State.steadyWindow (s : State) (bad : Bool) (w : List Bool) : State :=
  if !bad then { s with sec := (s.sec.ran w).keep w }
  else
    let times := (s.island :: s.sec.failTimes).filter fun t => s.island < t + 1000000000
    let s1 := { s with sec := { s.sec.ran w with failures := s.sec.failures + 1, failTimes := times.take 4 } }
    if 3 < times.length then s1.noiseFailed else s1

/-- NOISE_HEALTH_WINDOW (R397, R399): a window of the start-up test or of the continuous tests ends, with its raw samples. -/
def execNoiseHealthWindow (startup : Bool) (samples : List Bool) (s : State) : Out :=
  let bad := s.sec.windowBad samples
  .next
    (if !s.pwr.bridge || s.fatal || s.sec.noise ≠ (if startup then 1 else 2)
        || samples.length ≠ (if startup then 4096 else 1024) then s
     else if startup then s.startupWindow bad samples
     else s.steadyWindow bad samples)

/-- The samples of a seed as bytes. DESIGN CHOICE (log 126): eight samples to a byte, the first in bit 0. -/
def sampleBytes (w : List Bool) : Bytes :=
  toLE (w.foldr (fun x acc => 2 * acc + x.toNat) 0) ((w.length + 7) / 8)

/-- 2,048 healthy samples are at hand. -/
def State.seedReady (s : State) : Bool := s.sec.noise = 2 && s.sec.samples.length = 2048

/-- The DRBG takes Key and V and may generate. -/
def State.seeded (s : State) (kv : BitVec 256 × BitVec 128) : State :=
  (({ s with sec := { s.sec with drbg := 1, drbgKey := kv.1, drbgV := kv.2, samples := [], sinceReseed := 0,
                                 reseedAt := s.island } }).setReady 5 true).setReady 6 true

/-- DRBG_INSTANTIATE (R398, R400). -/
def execDrbgInstantiate (s : State) : Out :=
  .next
    (if !s.pwr.bridge || s.fatal || !s.seedReady || s.sec.drbg ≠ 0 then s
     else s.seeded (drbgUpdate 0 0 (drbgDerive (sampleBytes s.sec.samples ++ Config.drbgNonce))))

/-- A reseed is due: after 2^20 generate requests or 100 ms, or because the last one failed (R398). -/
def State.reseedDue (s : State) : Bool :=
  s.sec.drbg = 2 || (s.sec.drbg = 1 && (2 ^ 20 ≤ s.sec.sinceReseed || s.sec.reseedAt + 100000000 ≤ s.island))

/-- DRBG_RESEED (R398): without 2,048 healthy samples, or while the source is failing a test in the window that is open, the DRBG
generates nothing until a reseed succeeds. -/
def execDrbgReseed (healthy : Bool) (s : State) : Out :=
  .next
    (if !s.pwr.bridge || s.fatal || !s.reseedDue then s
     else if s.seedReady && healthy then
       ({ s with sec := { s.sec with reseeds := satAdd64 s.sec.reseeds 1 } }).seeded
         (drbgUpdate s.sec.drbgKey s.sec.drbgV (drbgDerive (sampleBytes s.sec.samples)))
     else (({ s with sec := { s.sec with drbg := 2 } }).setReady 5 false).setReady 6 false)

/-- A frame that has waited for the engine of its port is taken. -/
def State.takeStalled (s : State) (c : Nat) (x : Bytes × Nat) : State :=
  if 64 < x.1.length then s.frameIn c x.1
  else match bits (ctlWord x.1 0) 28 4 with
    | 0x8 => s.helloIn c x.1
    | 0xA => s.tsIn c x.1 x.2
    | _ => s.creditIn c x.1

/-- A D port's engine runs again: the frames that have waited are taken in order. -/
def State.unstall (s : State) (c : Nat) : State :=
  (s.modPort c fun x => { x with stalled := [] }).each (s.port c).stalled fun a x => a.takeStalled c x

/-- MASK_RESEED (R401): 256 bits from the DRBG for one engine. -/
def execMaskReseed (engine : BitVec 3) (s : State) : Out :=
  guardUnit (decide (engine.toNat ≤ 4))
    (if !s.pwr.bridge || s.fatal || !s.drbgReady then s
     else
       let g := s.generate 32
       let s1 := { g.2 with sec := { g.2.sec with maskAt := mapSet 0 g.2.sec.maskAt engine.toNat s.island,
                                                  maskSeed := mapSet 0 g.2.sec.maskSeed engine.toNat (BitVec.ofNat 256 (leNat g.1)) } }
       if engine = 0 then s1 else s1.unstall (11 + engine.toNat))

/-! ### The key store -/

/-- Class, partition and number of a KEYID (R403). -/
def keyClass (id : Nat) : Nat := id / 2 ^ 24 % 256
/-- Bits 23:16 of a KEYID. -/
def keyPart (id : Nat) : Nat := id / 2 ^ 16 % 256
/-- Bits 15:0 of a KEYID. -/
def keyNumber (id : Nat) : Nat := id % 2 ^ 16

/-- KEYID of the customer root key. -/
def crkId : Nat := 0x00FF0001
/-- KEYID of the root key of a partition. -/
def rootKeyId (p : Nat) : Nat := 2 * 2 ^ 24 + p * 2 ^ 16

/-- A KEYID names a key that R403 lets be installed. -/
def keyNamed (id : Nat) : Bool :=
  match keyClass id with
  | 0 => keyPart id = 0xFF && keyNumber id = 1
  | 1 => keyPart id = 0xFF && keyNumber id < 16
  | 2 => keyPart id < 40 && keyNumber id = 0
  | 3 => keyPart id < 40 && keyNumber id < 4
  | 4 => keyPart id < 40 && keyNumber id < 16
  | _ => false

/-- A role may install and erase a key (R403). -/
def State.mayInstall (s : State) (r : Role) (id : Nat) : Bool :=
  match keyClass id with
  | 0 => s.asOperator r && s.lifeCycle = 2
  | 1 => s.asOperator r
  | 2 => s.asOperator r
  | _ => s.asOwner r (keyPart id)

/-- The key a KEYID is wrapped under (R403). -/
def State.wrappingKey (s : State) (id : Nat) : Option Bytes :=
  match keyClass id with
  | 0 => some (toBE Config.dtk.toNat 32)
  | 1 => (s.key crkId).map Key.bytes
  | 2 => (s.key crkId).map Key.bytes
  | _ => (s.key (rootKeyId (keyPart id))).map Key.bytes

/-- Port code of a link key: bits 1:0 of the code of a D port. -/
def linkPort (id : Nat) : Nat := 12 + id / 4 % 4
/-- A link key's slot. -/
def linkSlot (id : Nat) : Nat := id % 2
/-- A link key is for transmitting. -/
def linkTransmit (id : Nat) : Bool := id / 2 % 2 = 0

/-- The replay buffer of a port holds a frame encrypted under a transmit slot (R247). -/
def State.slotInUse (s : State) (id : Nat) : Bool :=
  linkTransmit id && (s.port (linkPort id)).buffer.any fun f => f.ks = (linkSlot id = 1)

/-- Class-3 and class-4 keys of a partition are installed. -/
def State.hasDerived (s : State) (p : Nat) : Bool :=
  s.sec.keys.any fun e => e.2.isSome && (keyClass e.1 = 3 || keyClass e.1 = 4) && keyPart e.1 = p

/-- The reserved fields of a key record are 0 (R404). -/
def keyRecordBad (b : Bytes) : Bool :=
  let id := fieldAt b 4 4
  let op := fieldAt b 0 1
  op = 0 || 2 < op || fieldAt b 1 3 ≠ 0 || (keyClass id ≠ 3 && fieldAt b 8 4 ≠ 0) || !allZero b 0xC 0x20
    || (op = 2 && !allZero b 0x20 0x50)

/-- The key a record unwraps to, with the bytes that follow it. -/
def State.unwrapped (s : State) (b : Bytes) : Option Bytes :=
  (s.wrappingKey (fieldAt b 4 4)).bind fun kek => kwUnwrap kek (slice b 0x20 48)

/-- What follows the key in an unwrapped record is wrong for its class: SALT outside class 1, or the last four bytes. -/
def unwrappedBad (id : Nat) (plain : Bytes) : Bool :=
  (keyClass id ≠ 1 && fieldAt plain 32 4 ≠ 0) || fieldAt plain 36 4 ≠ 0

/-- KEYID of a job record (R408). -/
def jobKeyId (rec' : BitVec 512) : Nat := fieldAt (toLE rec'.toNat 64) 4 4

/-- An open cipher job or hamper request uses a key (R404). -/
def State.keyInUse (s : State) (id : Nat) : Bool :=
  (List.range 40).any fun p =>
    (s.part p).ham.any (fun j => j.enc && (hamReq j.req).keyid = id) || (s.part p).job.any fun j => jobKeyId j = id

/-- The code and position under which a key request is refused (R400, R404). -/
def State.keyRefusal (s : State) (r : Role) (b : Bytes) : Option (Nat × Nat) :=
  let id := fieldAt b 4 4
  let install := fieldAt b 0 1 = 1
  if !keyNamed id || !s.mayInstall r id then some (0x4001, 1)
  else if install && ((s.unwrapped b).isNone || (keyClass id ≠ 1 && (s.key id).isSome)) then some (0x4001, 2)
  else if install && keyClass id = 1 && s.slotInUse id then some (0x4001, 3)
  else if fieldAt b 0 1 = 2 && ((s.key id).isNone || (keyClass id = 2 && s.hasDerived (keyPart id)) || s.keyInUse id) then
    some (0x4001, 4)
  else if keyRecordBad b || (install && unwrappedBad id ((s.unwrapped b).getD [])) then some (0x4001, 5)
  else if install && !s.drbgReady then some (0x4010, 0)
  else none

/-- A key slot written or emptied. -/
def State.setKey (s : State) (id : Nat) (k : Option Key) : State :=
  { s with sec := { s.sec with keys := mapSet none s.sec.keys id k } }

/-- A link key takes its slot: its count of frames begins at 0, and a transmit slot becomes the active one (R245, R247). -/
def Port.rekeyed (x : Port) (id : Nat) : Port :=
  if linkTransmit id then { x with fcnt := mapSet 0 x.fcnt (linkSlot id) 0, txKs := linkSlot id = 1 }
  else { x with fcnt := mapSet 0 x.fcnt (2 + linkSlot id) 0 }

/-- An accepted key request (R404, R405). -/
def State.keyDo (s : State) (b : Bytes) : State :=
  let id := fieldAt b 4 4
  if fieldAt b 0 1 = 1 then
    let plain := (s.unwrapped b).getD []
    let k : Key := { val := BitVec.ofNat 256 (beNat (plain.take 32)), salt := word (fieldAt plain 32 4),
                     ckid := word (fieldAt b 8 4) }
    let s1 := s.setKey id (some k)
    if keyClass id = 1 then s1.modPort (linkPort id) fun x => x.rekeyed id else s1
  else s.setKey id none

/-- A write to 0x3110:02. -/
def State.putKey (s : State) (r : Role) (b : Bytes) : Put :=
  match s.keyRefusal r b with
  | some (code, cond) => .refused code cond
  | none => .ok (s.keyDo b)

/-- The write request of a key record. -/
def keyWrite (ses : Ses) (b : Bytes) : WriteReq := { ses := ses, idx := 0x3110, sub := 2, bytes := b }

/-- KEY_INSTALL (R404). -/
def execKeyInstall (ses : Ses) (rec' : BitVec 640) (s : State) : Out :=
  let b := withOp (toLE rec'.toNat 80) 1
  s.putRow (keyWrite ses b) fun s r => s.putKey r b
/-- KEY_ERASE (R404). -/
def execKeyErase (ses : Ses) (rec' : BitVec 640) (s : State) : Out :=
  let b := withOp (toLE rec'.toNat 80) 2
  s.putRow (keyWrite ses b) fun s r => s.putKey r b

/-! ### Zeroisation (R406) -/

/-- A D port that is UP loses its keys: DOWN with reason 11, and no CLOSE. -/
def State.keyLost (s : State) (c : Nat) : State := if s.portUp c then s.portLost c .down 11 fun a => a else s

/-- An open hamper request that uses encryption ends with CKPT_BODY, reason 4. -/
def State.endEncrypted (s : State) (p : Nat) : State :=
  match (s.part p).ham with
  | some j =>
    let q := hamReq j.req
    if j.enc then s.hamFail p q (halt 0x8A01 (ckDetail q.ckid 0xFFFFFFFF 4 0 0)) else s
  | none => s

/-- A cipher job that fails: Result and the partition fault. -/
def State.jobFail (s : State) (p : Nat) (ctx : BitVec 12) (e : Halt) : State :=
  (s.modPart p fun x => { x with job := none, cipherResult := BitVec.ofNat 16 e.code }).raise
    { code := e.code, part := p, ctx := ctx.toNat, injected := e.injected, detail := e.detail }

/-- An open cipher job ends with CIPHER_BODY and releases nothing. -/
def State.endJob (s : State) (p : Nat) : State :=
  match (s.part p).job with
  | some j => s.jobFail p (BitVec.ofNat 12 (fieldAt (toLE j.toNat 64) 2 2)) (halt 0x8D01 [])
  | none => s

/-- Every key but the DTK is erased, with cause 0 to 3, and the DRBG is to be instantiated again. -/
def State.zeroiseAll (s : State) (cause : Nat) : State :=
  let s1 := { s with sec := { s.sec with keys := [], drbg := 0, drbgKey := 0, drbgV := 0 } }
  let s2 := (s1.setReady 5 false).setReady 6 false
  let s3 := s2.each [12, 13, 14, 15] State.keyLost
  let s4 := s3.each (List.range 40) fun a p => (a.endEncrypted p).endJob p
  s4.raise { code := 0x1D02, part := 0xFE, detail := [BitVec.ofNat 8 cause] }

/-- A write to 0x3130:01 (R406, R449). -/
def State.putZeroise (s : State) (r : Role) (v : Nat) : Put :=
  Put.deny (!s.asOperator r || v ≠ 1) 0 (.ok (s.zeroiseAll (if s.isWedged then 1 else 0)))

/-- ZEROISE (R406). -/
def execZeroise (ses : Ses) (s : State) : Out :=
  s.putRow { ses := ses, idx := 0x3130, sub := 1, bytes := [1] } fun s r => s.putZeroise r 1

end Sys2Proof.Machine
end

