-- ==== Sys2Proof/Machine/Cipher.lean ====
section
/-! DEFINITION. Cipher jobs (R407 to R410). An accepted job stays open; the tick runs the open jobs of all partitions in turns. -/

namespace Sys2Proof.Machine

/-- The fields of a job record (R408). -/
structure Job where
  mode : Nat
  dir : Nat
  ctx : BitVec 12
  keyid : Nat
  src : Nat
  dst : Nat
  len : Nat
  alen : Nat
  aad : Nat
  iva : Nat
  tlen : Nat
  nlen : Nat
  tagva : Nat

/-- The fields in 64 bytes. -/
def parseJob (b : Bytes) : Job :=
  let f := fieldAt b
  { mode := f 0 1, dir := f 1 1, ctx := BitVec.ofNat 12 (f 2 2), keyid := f 4 4, src := f 8 8, dst := f 0x10 8,
    len := f 0x18 4 + 2 ^ 32 * f 0x32 2, alen := f 0x1C 4, aad := f 0x20 8, iva := f 0x28 8, tlen := f 0x30 1, nlen := f 0x31 1,
    tagva := f 0x38 8 }

/-- A reserved field is not 0: also one that R408 gives no use in the record's mode. -/
def jobReservedBad (b : Bytes) : Bool :=
  let j := parseJob b
  j.mode = 0 || 7 < j.mode || 1 < j.dir || 4096 ≤ fieldAt b 2 2 || fieldAt b 0x34 4 ≠ 0
    || (j.mode ≠ 4 && j.mode ≠ 5 && j.alen ≠ 0) || (j.mode ≠ 5 && j.nlen ≠ 0) || (j.mode = 6 && j.dst ≠ 0)

/-- The job key of a record, where the partition has it. -/
def State.jobKey (s : State) (p : Nat) (j : Job) : Option Key :=
  if keyClass j.keyid = 4 ∧ keyPart j.keyid = p then s.key j.keyid else none

/-- The code and position under which R409 refuses a record. -/
def State.jobRefusal (s : State) (r : Role) (p : Nat) (b : Bytes) : Option (Nat × Nat) :=
  let j := parseJob b
  if !s.asOwner r p then some (0x4001, 1)
  else if s.ctxPart (fieldAt b 2 2 % 4096) ≠ some p then some (0x4001, 2)
  else if (if j.mode = 7 then j.keyid ≠ 0 else (s.jobKey p j).isNone) then some (0x4001, 3)
  else if jobReservedBad b then some (0x4001, 4)
  else if (s.part p).job.isSome || !s.drbgReady then some (0x4010, 0)
  else none

/-- The record breaks a limit of R407. -/
def Job.beyond (j : Job) : Bool :=
  match j.mode with
  | 1 => j.dir = 1 && (j.len % 16 ≠ 0 || j.len < 16 || 2 ^ 20 < j.len)
  | 2 => 2 ^ 36 < j.len
  | 3 => 2 ^ 36 < j.len
  | 4 => (if j.dir = 1 then 2 ^ 20 < j.len else 2 ^ 36 < j.len) || j.tlen < 12 || 16 < j.tlen || 2 ^ 20 < j.alen
  | 5 => (if j.dir = 1 then 2 ^ 20 < j.len else 2 ^ 36 < j.len) || j.tlen < 4 || 16 < j.tlen || j.tlen % 2 = 1 || j.nlen < 7
      || 13 < j.nlen || 2 ^ 20 < j.alen || 256 ^ (15 - j.nlen) ≤ j.len
  | 6 => 2 ^ 36 < j.len || j.tlen < 8 || 16 < j.tlen
  | _ => j.dir = 1 || 2 ^ 40 < j.len

/-- Bytes of the IV or nonce. -/
def Job.ivLen (j : Job) : Nat :=
  match j.mode with
  | 1 => 16
  | 2 => 16
  | 3 => 16
  | 4 => 12
  | 5 => j.nlen
  | _ => 0

/-- A tag is read for comparison. -/
def Job.reads (j : Job) : Bool := j.dir = 1 && 4 ≤ j.mode && j.mode ≤ 6

/-- What a job releases: bytes for DST and bytes for TAGVA; none where the tag or the padding fails. -/
abbrev Release := Option (Bytes × Bytes)

/-- CBC padding. -/
def padCbc (msg : Bytes) : Bytes :=
  let n := 16 - msg.length % 16
  msg ++ List.replicate n (BitVec.ofNat 8 n)

/-- A decrypted message without its CBC padding. -/
def unpadCbc (plain : Bytes) : Option Bytes :=
  let n := (plain.getLastD 0).toNat
  let body := plain.take (plain.length - n)
  if 1 ≤ n ∧ n ≤ 16 ∧ n ≤ plain.length ∧ plain.drop (plain.length - n) = List.replicate n (BitVec.ofNat 8 n) then some body
  else none

/-- What a job computes from its key, IV, additional data, message and, for a verification, the tag read. -/
def Job.run (j : Job) (key iv aad msg tag : Bytes) : Release :=
  let rk := roundKeys key
  match j.mode with
  | 1 =>
    if j.dir = 0 then some ((cbcEnc rk iv (chunks 16 (padCbc msg))).flatten, [])
    else (unpadCbc (cbcDec rk iv (chunks 16 msg)).flatten).map fun p => (p, [])
  | 2 => some (ctrMode rk iv msg, [])
  | 3 => some (((if j.dir = 0 then cfbEnc rk iv (chunks 16 msg) else cfbDec rk iv (chunks 16 msg))).flatten, [])
  | 4 =>
    let out := gcmCrypt rk iv msg
    if j.dir = 0 then some (out, (gcmTag rk iv aad out).take j.tlen)
    else if (gcmTag rk iv aad msg).take j.tlen = tag then some (out, []) else none
  | 5 =>
    let out := ccmCrypt rk iv msg
    if j.dir = 0 then some (out, ccmTag rk iv aad msg j.tlen)
    else if ccmTag rk iv aad out j.tlen = tag then some (out, []) else none
  | 6 =>
    let t := (cmac key msg).take j.tlen
    if j.dir = 0 then some ([], t) else if t = tag then some ([], []) else none
  | _ => some (Sys2Proof.Machine.sha256 msg, [])

/-- Bytes a job reads through its context, as a load with CHK = 0. -/
def State.jobRead (s : State) (p : Nat) (ctx : BitVec 12) (va len : Nat) : Trial Bytes :=
  match s.readVA .bridge p ctx va len with
  | (s', bs, .ok) => (s', .ok bs)
  | (s', _, .fault code at') => (s', .error (halt code (toLE at' 8)))

/-- Bytes a job writes through its context, as a store with CHK = 0. -/
def State.jobWrite (s : State) (p : Nat) (ctx : BitVec 12) (va : Nat) (bs : Bytes) : Trial Unit :=
  match s.writeVA .bridge p ctx va bs with
  | (s', .ok) => (s', .ok ())
  | (s', .fault code at') => (s', .error (halt code (toLE at' 8)))

/-- The steps of a job (R408, R410). -/
def State.jobSteps (s : State) (p : Nat) (j : Job) (key : Bytes) : Trial Unit :=
  (demand s (!j.beyond) 0x8D01 []).andThen fun s0 _ =>
  (s0.jobRead p j.ctx j.iva j.ivLen).andThen fun s1 iv =>
  (s1.jobRead p j.ctx j.aad j.alen).andThen fun s2 aad =>
  (s2.jobRead p j.ctx j.src j.len).andThen fun s3 msg =>
  (s3.jobRead p j.ctx j.tagva (if j.reads then j.tlen else 0)).andThen fun s4 tag =>
    match j.run key iv aad msg tag with
    | none => (s4, .error (halt 0x8101 []))
    | some (out, t) => (s4.jobWrite p j.ctx j.dst out).andThen fun s5 _ => s5.jobWrite p j.ctx j.tagva t

/-- A job's outcome in Result, and the partition fault of one that failed. -/
def State.jobEnd (p : Nat) (j : Job) : Trial Unit → State
  | (s, .ok _) => s.modPart p fun x => { x.count 0x3120 4 1 with job := none, cipherResult := 0 }
  | (s, .error e) => s.jobFail p j.ctx e

/-- An open job runs. -/
def State.jobRun (s : State) (p : Nat) (j : Job) : State :=
  State.jobEnd p j (s.jobSteps p j (((s.jobKey p j).map Key.bytes).getD (zeros 32)))

/-- One turn of the cipher engine, under the rule of R394. DESIGN CHOICE (log 127): a turn takes a whole job; it stays empty while a slab
of the partition is being scrubbed, and, for a mode with a key, while the masking seed is stale (R401). -/
def State.cipherTurn (s : State) : State :=
  match s.turnPart s.sec.jobTurn fun p => (s.part p).job.isSome with
  | none => s
  | some p =>
    let s1 := { s with sec := { s.sec with jobTurn := (p + 1) % 40 } }
    match (s.part p).job with
    | none => s1
    | some b =>
      let j := parseJob (toLE b.toNat 64)
      if s.partAnswers p && (j.mode = 7 || s.cipherFresh) then s1.jobRun p j else s1

/-- A write to 0x3120:02. -/
def State.putJob (s : State) (w : WriteReq) (r : Role) : Put :=
  let p := s.select w.ses 0x3120 1 0
  match s.jobRefusal r p w.bytes with
  | some (code, cond) =>
    .ok (s.requestRefused w 1 code cond (slotPart r (some p)) fun x => { x with cipherResult := BitVec.ofNat 16 code })
  | none => .ok (s.modPart p fun x => { x with job := some (BitVec.ofNat 512 (leNat w.bytes)), cipherResult := 1 })

/-- The write request of a job record. -/
def jobWrite' (ses : Ses) (b : Bytes) : WriteReq :=
  { ses := ses, idx := 0x3120, sub := 2, bytes := b, ctx := some (fieldAt b 2 2 % 4096) }

/-- A job record with a mode written. -/
def State.jobRow (s : State) (ses : Ses) (mode : Nat) (rec' : BitVec 512) : Out :=
  let w := jobWrite' ses (withOp (toLE rec'.toNat 64) mode)
  s.putRow w fun s r => s.putJob w r

/-- CBC (R407). -/
def execCbc (ses : Ses) (rec' : BitVec 512) (s : State) : Out := s.jobRow ses 1 rec'
/-- CTR (R407). -/
def execCtr (ses : Ses) (rec' : BitVec 512) (s : State) : Out := s.jobRow ses 2 rec'
/-- CFB (R407). -/
def execCfb (ses : Ses) (rec' : BitVec 512) (s : State) : Out := s.jobRow ses 3 rec'
/-- GCM (R407). -/
def execGcm (ses : Ses) (rec' : BitVec 512) (s : State) : Out := s.jobRow ses 4 rec'
/-- CCM (R407). -/
def execCcm (ses : Ses) (rec' : BitVec 512) (s : State) : Out := s.jobRow ses 5 rec'
/-- CMAC (R407). -/
def execCmac (ses : Ses) (rec' : BitVec 512) (s : State) : Out := s.jobRow ses 6 rec'
/-- SHA_256 (R407). -/
def execSha256 (ses : Ses) (rec' : BitVec 512) (s : State) : Out := s.jobRow ses 7 rec'

end Sys2Proof.Machine
end

