-- ==== Sys2Proof/Machine/Life.lean ====
section
/-! DEFINITION. Partitions formed and dissolved (R411 to R414), and the life cycle (R426 to R430). -/

namespace Sys2Proof.Machine

/-! ### FORM and DISSOLVE -/

/-- Two ranges of GIDs, each a base and a count, share one. -/
def gidsMeet (a b : Part) : Bool :=
  a.gidBase.toNat < b.gidBase.toNat + b.gidCount.toNat && b.gidBase.toNat < a.gidBase.toNat + a.gidCount.toNat

/-- The formed partitions other than p. -/
def State.othersFormed (s : State) (p : Nat) : List Nat := numbers 40 fun q => q ≠ p && s.formed q

/-- The code and position under which R412 refuses FORM. -/
def State.formRefusal (s : State) (p : Nat) : Option (Nat × Nat) :=
  let x := s.part p
  let others := (s.othersFormed p).map s.part
  if x.clusters = 0 then some (0x4001, 1)
  else if others.any fun y => x.clusters &&& y.clusters ≠ 0 then some (0x4001, 2)
  else if others.any (gidsMeet x) then some (0x4001, 3)
  else if 1024 < x.groupQuota.toNat + (others.map fun y => y.groupQuota.toNat).sum then some (0x4001, 4)
  else if 64 < x.bindQuota.toNat + (others.map fun y => y.bindQuota.toNat).sum then some (0x4001, 5)
  else if (s.partClusters p).any fun k => !s.clusterUp k then some (0x4010, 0)
  else none

/-- Every tile of a cluster, the checker tile included. -/
def clusterAll (k : Nat) : List Path := (List.range 33).map (pathOf k)

/-- A tile whose local store is zeroed (R159). -/
def Tile.zeroStore (x : Tile) : Tile := { x with ls := [], lsErr := [] }

/-- A tile as formation leaves it: local store, tickets and vector state cleared (R412). -/
def Tile.formed (x : Tile) : Tile := { x.zeroStore with tickets := [], vregs := [], masks := [], vsrb := 0 }

/-- Every tile of a partition's clusters changed. -/
def State.eachTile (s : State) (p : Nat) (f : Tile → Tile) : State :=
  s.each ((s.partClusters p).flatMap clusterAll) fun a t => a.modTile t f

/-- A partition's settings and counters at their defaults, but for those it is formed with (R411, R412). -/
def Part.fresh (x : Part) : Part :=
  { clusters := x.clusters, sealedMode := x.sealedMode, gidBase := x.gidBase, gidCount := x.gidCount, groupQuota := x.groupQuota,
    bindQuota := x.bindQuota, state := 1 }

/-- An accepted FORM; the partition's trace region is zeroed (R477) and its replay records are cleared (R485). -/
def State.formDo (s : State) (p : Nat) : State :=
  let s1 := s.eachTile p Tile.formed
  let s2 := s1.each (s1.partClusters p) fun a k => a.modCluster k fun c => { c with layout := 0 }
  { s2.modPart p Part.fresh with trace := { s2.trace with regions := mapSet {} s2.trace.regions p {} } }

/-- The position at which R413 refuses DISSOLVE; a command still in flight refuses it too (R420). -/
def State.dissolveRefusal (s : State) (p : Nat) : Option Nat :=
  if s.formed p && !(s.partTiles p).all s.tileQuiet then some 1
  else if s.mem.ctxs.any fun e => e.2.any fun b => b.part.toNat = p then some 2
  else if s.mem.slabs.any fun e => e.2.owner.toNat = p then some 3
  else if (s.part p).winLen ≠ 0 then some 4
  else if (s.part p).plan ≠ 0xFFFF then some 5
  else none

/-- An accepted DISSOLVE: stores zeroed, the owner's credential erased and its sessions closed (R440, R441), the groups and bindings
it held given back (R414). A free partition has no tiles. -/
def State.dissolveDo (s : State) (p : Nat) : State :=
  let s1 := if s.formed p then s.eachTile p Tile.zeroStore else s
  let s2 := (s1.modPart p fun x => { x with state := 0, result := 0 }).dropOwner p
  { s2 with sh := { s2.sh with groups := s2.sh.groups.filter fun g => g.part.toNat ≠ p },
            bindings := s2.bindings.filter fun b => b.part.toNat ≠ p }

/-- A write to 0x2000:05: the outcome of a command goes to Result of the selected partition. -/
def State.putCommand (s : State) (w : WriteReq) (r : Role) (v : Nat) : Put :=
  let p := s.select w.ses 0x2000 1 0
  let refuse (code cond : Nat) : Put :=
    .ok (s.requestRefused w 1 code cond (some p) fun x => { x with result := BitVec.ofNat 16 code })
  if !s.asOperator r then .refused 0x4001 0
  else if v = 1 then
    match s.formRefusal p with
    | some (code, cond) => refuse code cond
    | none => .ok (s.formDo p)
  else if v = 2 then
    match s.dissolveRefusal p with
    | some cond => refuse 0x4001 cond
    | none => .ok (s.dissolveDo p)
  else .refused 0x4001 0

/-- The write request of a partition command. -/
def commandWrite (ses : Ses) (v : Nat) : WriteReq := { ses := ses, idx := 0x2000, sub := 5, bytes := toLE v 1 }

/-- FORM (R412). -/
def execForm (ses : Ses) (s : State) : Out := s.putRow (commandWrite ses 1) fun s r => s.putCommand (commandWrite ses 1) r 1
/-- DISSOLVE (R413). -/
def execDissolve (ses : Ses) (s : State) : Out := s.putRow (commandWrite ses 2) fun s r => s.putCommand (commandWrite ses 2) r 2

/-! ### The life-cycle challenge (R430) -/

/-- A read of 0x1010:01 by a role: 16 new bytes replace the challenge; 0 while the DRBG is not ready, and to a role that may not
read. -/
def State.readChallenge (s : State) (r : Role) : BitVec 128 × State :=
  if !s.mayRead r 0x1010 1 || !s.drbgReady then (0, s)
  else
    let g := s.generate 16
    let c : BitVec 128 := BitVec.ofNat 128 (leNat g.1)
    (c, { g.2 with sec := { g.2.sec with challenge := some c } })

/-- LC_CHALLENGE_READ (R430). -/
def execLcChallengeRead (ses : Ses) (s : State) : Out := .next (if s.pwr.aux then (s.readChallenge (s.role ses)).2 else s)

/-! ### Transitions (R427, R428) -/

/-- The maker token for a challenge and a target (R430). -/
def makerToken (challenge : BitVec 128) (target : Nat) : Bytes :=
  cmac (toBE Config.makerKey.toNat 32)
    (toBE Config.serial.toNat 16 ++ toLE challenge.toNat 16 ++ [BitVec.ofNat 8 target] ++ zeros 7)

/-- A transition R427 names; Return to Manufacture only while returns are left, Provisioned to Field only with a CRK. -/
def State.lcEdge (s : State) (target : Nat) : Bool :=
  match s.lifeCycle, target with
  | 1, 2 => true
  | 2, 3 => (s.key crkId).isSome
  | 3, 4 => true
  | 4, 3 => true
  | 2, 5 => true
  | 3, 5 => true
  | 4, 5 => true
  | 5, 1 => s.sec.returns ≠ 0
  | a, 6 => a ≠ 6
  | _, _ => false

/-- A maker token is what authorises a role's transition (R427). -/
def needsToken (r : Role) (target : Nat) : Bool :=
  if target = 6 then r ≠ .operator else target = 2 || target = 5 || target = 1

/-- A role may ask for a transition. -/
def lcRole (r : Role) (token : Bool) : Bool :=
  match r with
  | .operator => true
  | .maker => token
  | _ => false

/-- The code and position under which R430 refuses a request. -/
def State.lcRefusal (s : State) (r : Role) (target : Nat) (token : Bytes) : Option (Nat × Nat) :=
  let need := needsToken r target
  let good : Bool := match s.sec.challenge with
    | some c => token = makerToken c target
    | none => false
  if !s.lcEdge target then some (0x4001, 1)
  else if !lcRole r need then some (0x4001, 2)
  else if need && !s.drbgReady then some (0x4010, 0)
  else if need && s.sec.challenge.isNone then some (0x4001, 4)
  else if (if need then !good else token ≠ zeros 16) then some (0x4001, 3)
  else none

/-- A record of class 0x1, 0x4 or 0x8 that belongs to a partition loses its CTX, STAG and DETAIL (R428, step 5). -/
def EventRec.blank (r : EventRec) : EventRec :=
  if r.part.toNat < 40 ∧ r.code.toNat / 4096 ≠ 0xC then { r with ctx := 0, stag := 0, detail := 0 } else r

/-- Every slab and every local store is scrubbed (R427). -/
def State.scrubAll (s : State) : State :=
  let s1 := s.each (List.range 640) fun a n => a.beginScrub n (a.slab n).owner
  { s1 with tiles := mapEach ({} : Tile) s1.tiles Tile.zeroStore }

/-- The fuses and the flag as a target leaves them (R426). -/
def Security.enter (x : Security) (target : Nat) : Security :=
  if target = 4 then { x with fieldDebug := true }
  else { x with fieldDebug := false, lc := BitVec.ofNat 8 target, returns := if target = 1 then x.returns - 1 else x.returns }

/-- The state is written: LC_CHANGED with the old and the new state; every session but a maker's closes (R440). -/
def State.lcEnter (s : State) (target : Nat) : State :=
  let old := s.lifeCycle
  let s1 := { s with sec := { s.sec.enter target with lcResult := 0 } }
  (s1.closeWhere fun x => x.role ≠ .maker).raise
    { code := 0x1D01, part := 0xFE, detail := [BitVec.ofNat 8 old, BitVec.ofNat 8 target] }

/-- Steps 1 to 5 of R428. A hamper request or a cipher job that the zeroisation has not ended is dropped with its partition. -/
def State.eraseAll (s : State) (cause : Nat) : State :=
  let s1 := if s.fatal then s.deviceReset else s
  let s2 := (s1.closeAll).zeroiseAll cause
  let s3 := s2.closeWhere fun x => x.role ≠ .maker
  { s3 with mgmt := { s3.mgmt with operatorCred := none, ownerCreds := [] },
            integ := { s3.integ with log := s3.integ.log.map EventRec.blank },
            mem := { s3.mem with tier := [], blocks := [] },
            parts := [] }

/-- An accepted transition. -/
def State.lcDo (s : State) (target : Nat) : State :=
  match target with
  | 2 => (s.scrubAll).lcEnter 2
  | 5 => ((s.eraseAll 2).lcEnter 5).deviceReset
  | 6 => ((s.eraseAll 3).lcEnter 6).deviceReset
  | 1 => let s1 := s.lcEnter 1
         { s1 with mem := { s1.mem with retired := [] } }
  | t => s.lcEnter t

/-- A write to 0x1010:02. Every request consumes the challenge; the outcome goes to Result, a refusal's record has SOURCE 4. -/
def State.putLife (s : State) (w : WriteReq) (r : Role) : Put :=
  let target := fieldAt w.bytes 0 1
  let token := slice w.bytes 8 16
  let used : State := { s with sec := { s.sec with challenge := none } }
  let refuse (code cond : Nat) : Put :=
    let s1 := used.refuseWrite w 4 code cond
    .ok { s1 with sec := { s1.sec with lcResult := BitVec.ofNat 16 code } }
  match s.lcRefusal r target token with
  | some (code, cond) => refuse code cond
  | none => if !allZero w.bytes 1 8 then refuse 0x4001 0 else .ok (used.lcDo target)

/-- The write request of a transition. -/
def lifeWrite (ses : Ses) (target : Nat) (token : BitVec 128) : WriteReq :=
  { ses := ses, idx := 0x1010, sub := 2, bytes := toLE target 1 ++ zeros 7 ++ toLE token.toNat 16 }

/-- A transition asked for. -/
def State.lifeRow (s : State) (ses : Ses) (target : Nat) (token : BitVec 128) : Out :=
  let w := lifeWrite ses target token
  s.putRow w fun s r => s.putLife w r

/-- LC_TO_PROVISIONED (R427). -/
def execLcToProvisioned (ses : Ses) (token : BitVec 128) (s : State) : Out := s.lifeRow ses 2 token
/-- LC_TO_FIELD (R427). -/
def execLcToField (ses : Ses) (token : BitVec 128) (s : State) : Out := s.lifeRow ses 3 token
/-- LC_TO_FIELD_DEBUG (R427). -/
def execLcToFieldDebug (ses : Ses) (token : BitVec 128) (s : State) : Out := s.lifeRow ses 4 token
/-- LC_TO_RETURN (R427, R428). -/
def execLcToReturn (ses : Ses) (token : BitVec 128) (s : State) : Out := s.lifeRow ses 5 token
/-- LC_TO_MANUFACTURE (R427). -/
def execLcToManufacture (ses : Ses) (token : BitVec 128) (s : State) : Out := s.lifeRow ses 1 token
/-- LC_TO_RETIRED (R427, R428). -/
def execLcToRetired (ses : Ses) (token : BitVec 128) (s : State) : Out := s.lifeRow ses 6 token

end Sys2Proof.Machine
end

