-- ==== Sys2Proof/Machine/Tag.lean ====
section
/-! DEFINITION. The vicinity tag (R453 to R458): what RF commands answer, the lock of the wired side, publication, the identity and
status pages. -/

namespace Sys2Proof.Machine

/-! ### RF commands (R453); the form of requests and answers is that of ISO/IEC 15693-3 -/

/-- Blocks of four bytes. -/
def tagBlocks : Nat := 2048

/-- First block of the user area (R454). -/
def userBlock : Nat := 0x700

/-- The bank RF reads. -/
def Tag.bank (t : Tag) : List Host.Cell := if t.pointer then t.bank1 else t.bank0

/-- A request in addressed or selected mode, or to every tag that is not quiet, reaches this tag. -/
def Tag.hears (t : Tag) (flags : BitVec 8) (uid : BitVec 64) : Bool :=
  if bit flags 5 then uid = Config.tagUid
  else if bit flags 4 then t.mode = .selected
  else t.mode ≠ .quiet

/-- An answer put on the field. -/
def State.tagAnswer (s : State) (bs : Bytes) : State := { s with tag := { s.tag with rsp := bs } }

/-- An error answer. -/
def tagError (code : BitVec 8) : Bytes := [1, code]

/-- A request that is answered, with the field present, if it reaches the tag. -/
def State.tagServe (s : State) (flags : BitVec 8) (uid : BitVec 64) (f : State → State) : Out :=
  .next (if s.tag.rfField && s.tag.hears flags uid then f s else s)

/-- The UID as it is sent. -/
def uidBytes : Bytes := toLE Config.tagUid.toNat 8

/-- INVENTORY (R453): a tag that is not quiet and whose UID agrees with the mask answers DSFID 0 and its UID. -/
def execInventory (flags maskLen : BitVec 8) (mask : BitVec 64) (s : State) : Out :=
  .next
    (if s.tag.rfField && s.tag.mode ≠ .quiet && bit flags 2
        && mask.toNat % 2 ^ maskLen.toNat = Config.tagUid.toNat % 2 ^ maskLen.toNat
     then s.tagAnswer ([0, 0] ++ uidBytes)
     else s)

/-- A tag in a mode. -/
def State.tagMode (s : State) (m : TagMode) : State := { s with tag := { s.tag with mode := m } }

/-- STAY QUIET (R453): addressed only, and not answered. -/
def execStayQuiet (flags : BitVec 8) (uid : BitVec 64) (s : State) : Out :=
  .next (if s.tag.rfField && bit flags 5 && uid = Config.tagUid then s.tagMode .quiet else s)

/-- SELECT (R453): addressed only; another tag's UID leaves the selected state. -/
def execTagSelect (flags : BitVec 8) (uid : BitVec 64) (s : State) : Out :=
  .next
    (if !s.tag.rfField || !bit flags 5 then s
     else if uid = Config.tagUid then (s.tagMode .selected).tagAnswer [0]
     else if s.tag.mode = .selected then s.tagMode .ready
     else s)

/-- RESET TO READY (R453). -/
def execResetToReady (flags : BitVec 8) (uid : BitVec 64) (s : State) : Out :=
  s.tagServe flags uid fun s => (s.tagMode .ready).tagAnswer [0]

/-- GET SYSTEM INFORMATION (R453): the number of blocks does not fit its size field, so no optional field is sent. -/
def execGetSystemInformation (flags : BitVec 8) (uid : BitVec 64) (s : State) : Out :=
  s.tagServe flags uid fun s => s.tagAnswer ([0, 0] ++ uidBytes)

/-- EXTENDED GET SYSTEM INFORMATION (R453): the memory size, where it is asked for, in 16-bit form. -/
def execExtendedGetSystemInformation (flags : BitVec 8) (uid : BitVec 64) (params : BitVec 8) (s : State) : Out :=
  s.tagServe flags uid fun s =>
    s.tagAnswer (if bit params 2 then [0, 4] ++ uidBytes ++ toLE (tagBlocks - 1) 2 ++ [3] else [0, 0] ++ uidBytes)

/-- One block as it is sent, with its security status where the option flag asks for it. -/
def Tag.blockBytes (t : Tag) (flags : BitVec 8) (n : Nat) : Bytes :=
  (if bit flags 6 then [0] else []) ++ readCells t.bank (4 * n) 4

/-- A run of blocks read. -/
def State.tagRead (s : State) (flags : BitVec 8) (first count : Nat) : State :=
  s.tagAnswer
    (if first + count ≤ tagBlocks then 0 :: (List.range count).flatMap fun i => s.tag.blockBytes flags (first + i)
     else tagError 0x10)

/-- READ SINGLE BLOCK (R453). -/
def execReadSingleBlock (flags : BitVec 8) (uid : BitVec 64) (blk : BitVec 8) (s : State) : Out :=
  s.tagServe flags uid fun s => s.tagRead flags blk.toNat 1
/-- READ MULTIPLE BLOCKS (R453): the count field is one less than the number of blocks. -/
def execReadMultipleBlocks (flags : BitVec 8) (uid : BitVec 64) (blk count : BitVec 8) (s : State) : Out :=
  s.tagServe flags uid fun s => s.tagRead flags blk.toNat (count.toNat + 1)
/-- EXTENDED READ SINGLE BLOCK (R453). -/
def execExtendedReadSingleBlock (flags : BitVec 8) (uid : BitVec 64) (blk : BitVec 16) (s : State) : Out :=
  s.tagServe flags uid fun s => s.tagRead flags blk.toNat 1
/-- EXTENDED READ MULTIPLE BLOCKS (R453). -/
def execExtendedReadMultipleBlocks (flags : BitVec 8) (uid : BitVec 64) (blk count : BitVec 16) (s : State) : Out :=
  s.tagServe flags uid fun s => s.tagRead flags blk.toNat (count.toNat + 1)

/-- A tag event at most once a second, with the count since the last (R457); the time of the last and the count not yet reported. -/
def State.tagEvent (s : State) (code : Nat) (last : Option Nat) (count : Nat) : State × Option Nat × Nat :=
  let due := match last with
    | none => true
    | some t => t + 1000000000 ≤ s.island
  if due then (s.raise { code := code, part := 0xFE, detail := toLE count 4 }, some s.island, 0) else (s, last, count)

/-- An RF write counted (R457); without the auxiliary rail nothing is counted. -/
def State.countRfWrite (s : State) : State :=
  if !s.pwr.aux then s
  else
    let (s1, at', n) := s.tagEvent 0x1E01 s.tag.writeAt (s.tag.sinceWrite + 1)
    { s1 with tag := { s1.tag with rfWrites := s1.tag.rfWrites + 1, writeAt := at', sinceWrite := n } }

/-- An RF write refused under the lock, counted (R457). -/
def State.countRfRefused (s : State) : State :=
  if !s.pwr.aux then s
  else
    let (s1, at', n) := s.tagEvent 0x1E02 s.tag.refuseAt (s.tag.sinceRefuse + 1)
    { s1 with tag := { s1.tag with rfRefused := s1.tag.rfRefused + 1, refuseAt := at', sinceRefuse := n } }

/-- One block written in both banks and, where the controller holds one, its working copy. -/
def Tag.writeBlock (t : Tag) (n : Nat) (data : Word) : Tag :=
  let bs := toLE data.toNat 4
  { t with bank0 := writeCells t.bank0 (4 * n) bs, bank1 := writeCells t.bank1 (4 * n) bs,
           working := writeCells t.working (4 * n) bs }

/-- An RF write (R457). -/
def State.tagWrite (s : State) (n : Nat) (data : Word) : State :=
  if n < userBlock ∨ tagBlocks ≤ n then s.tagAnswer (tagError 0x12)
  else if s.tag.holder.isSome then (s.countRfRefused).tagAnswer (tagError 0xA1)
  else (({ s with tag := s.tag.writeBlock n data }).countRfWrite).tagAnswer [0]

/-- WRITE SINGLE BLOCK (R453, R457). -/
def execWriteSingleBlock (flags : BitVec 8) (uid : BitVec 64) (blk : BitVec 8) (data : BitVec 32) (s : State) : Out :=
  s.tagServe flags uid fun s => s.tagWrite blk.toNat data
/-- EXTENDED WRITE SINGLE BLOCK (R453, R457). -/
def execExtendedWriteSingleBlock (flags : BitVec 8) (uid : BitVec 64) (blk : BitVec 16) (data : BitVec 32) (s : State) : Out :=
  s.tagServe flags uid fun s => s.tagWrite blk.toNat data

/-- Any other command (R453). -/
def execTagUnsupportedCommand (flags : BitVec 8) (uid : BitVec 64) (_code : BitVec 8) (s : State) : Out :=
  s.tagServe flags uid fun s => s.tagAnswer (tagError 0x01)

/-- RF_FIELD (R453, R458): a field appears or leaves; a tag without a field loses its mode. -/
def execRfField (present : Bool) (s : State) : Out :=
  .next { s with tag := { s.tag with rfField := present, mode := if present then s.tag.mode else .ready } }

/-! ### The lock (R456) -/

/-- A write to 0x3300:03. -/
def State.putLock (s : State) (ses : Ses) (v : Nat) : Put :=
  let take (h : TagHolder) : State := { s with tag := { s.tag with holder := some h, lastWrite := s.island } }
  if v = 1 then
    match s.tag.holder with
    | none => .ok (take (.session ses))
    | some (.session n) => if n = ses then .ok s else .refused 0x4001 0
    | some _ => Put.deny (s.tag.waiting.any fun n => n ≠ ses) 0 (.ok { s with tag := { s.tag with waiting := some ses } })
  else if v = 0 then
    Put.deny (s.tag.holder ≠ some (.session ses)) 0 (.ok { s with tag := { s.tag with holder := some .publishing } })
  else .refused 0x4001 0

/-- TAG_LOCK_TAKE (R456). -/
def execTagLockTake (ses : Ses) (s : State) : Out :=
  s.putRow { ses := ses, idx := 0x3300, sub := 3, bytes := [1] } fun s _ => s.putLock ses 1
/-- TAG_LOCK_RELEASE (R456). -/
def execTagLockRelease (ses : Ses) (s : State) : Out :=
  s.putRow { ses := ses, idx := 0x3300, sub := 3, bytes := [0] } fun s _ => s.putLock ses 0

/-- A role may write 64 bytes of the tag at an offset (R442, R458). -/
def State.tagArea (s : State) (r : Role) (off : Nat) : Bool :=
  match r with
  | .operator => 0xC00 ≤ off
  | .maker => s.makerOpen || (s.sec.lc = 6 && 0xC00 ≤ off)
  | _ => false

/-- A write to 0x3300:02. -/
def State.putTagData (s : State) (ses : Ses) (r : Role) (data : Bytes) : Put :=
  let off := s.select ses 0x3300 1 0
  Put.deny (s.tag.holder ≠ some (.session ses) || !s.tagArea r off) 0
    (.ok { s with tag := { s.tag with working := writeCells s.tag.working off (fit data 64), lastWrite := s.island } })

/-- TAG_DATA_WRITE (R456, R458). -/
def execTagDataWrite (ses : Ses) (data : BitVec 512) (s : State) : Out :=
  s.putRow { ses := ses, idx := 0x3300, sub := 2, bytes := toLE data.toNat 64 } fun s r => s.putTagData ses r (toLE data.toNat 64)

/-- TAG_LOCK_TIMEOUT (R456): 1 s after the holder's last write. -/
def execTagLockTimeout (s : State) : Out :=
  .next
    (match s.tag.holder with
     | some (.session _) =>
       if s.pwr.aux && s.tag.lastWrite + 1000000000 ≤ s.island then { s with tag := { s.tag with holder := some .publishing } } else s
     | _ => s)

/-! ### Publication (R454, R455) -/

/-- The working copy with GEN one higher and CHECK over it. -/
def Tag.stamped (t : Tag) : List Host.Cell :=
  let gen := leNat (readCells t.working 0x3F8 4) + 1
  let w := writeCells t.working 0x3F8 (toLE gen 4)
  writeCells w 0x3FC (toLE (crc32c (readCells w 0 0x3FC ++ readCells w 0x400 0x1800)).toNat 4)

/-- A publication ends: the other bank equals the working copy and the pointer flips; a waiting take is granted. -/
def Tag.publish (t : Tag) (now : Nat) : Tag :=
  let w := t.stamped
  { t with working := w, bank0 := if t.pointer then w else t.bank0, bank1 := if t.pointer then t.bank1 else w,
           pointer := !t.pointer, holder := t.waiting.map TagHolder.session, waiting := none, lastWrite := now }

/-- TAG_PUBLISH_DONE (R455). -/
def execTagPublishDone (s : State) : Out :=
  .next
    (match s.tag.holder with
     | some .publishing => if s.pwr.aux then { s with tag := s.tag.publish s.island } else s
     | some .controller => if s.pwr.aux then { s with tag := s.tag.publish s.island } else s
     | _ => s)

/-- A record as a role sees it (R370): in full, with its detail withheld, or not at all. -/
def EventRec.view (r : EventRec) (role : Role) : Bytes :=
  let withheld : EventRec := { r with ctx := 0, stag := 0, detail := 0, flags := r.flags ||| 8 }
  match role with
  | .maker => r.bytes
  | .owner p => if r.part = p then r.bytes else zeros 64
  | .operator => if r.part.toNat < 40 then withheld.bytes else r.bytes
  | .anonymous => zeros 64

/-- The ordering code of 0x1000:01. -/
def orderingCode : Bytes := [0x48, 0x4C, 0x4B, 0x2D, 0x59, 0x54, 0x31, 0x32, 0x38, 0x30, 0x2D, 0x4C]

/-- The identity page up to GEN (R454). -/
def State.identityPage (s : State) : Bytes :=
  fit (toLE 0x31544159 4 ++ zeros 12 ++ fit orderingCode 16 ++ toBE Config.serial.toNat 16 ++ toLE Config.revision.toNat 2
    ++ [BitVec.ofNat 8 s.lifeCycle, 0] ++ toBE Config.macAddress.toNat 6) 0x3F8

/-- The status page (R454). -/
def State.statusPage (s : State) : Bytes :=
  let head := fit (toLE s.deviceView 4 ++ toLE (s.integ.nextSeq - 1).toNat 4 ++ toLE s.now.toNat 8) 64
  let fatals := s.integ.log.filter fun r => r.code.toNat / 4096 = 0xC
  let recs := (s.integ.fatalRec.map fun r => r.view .operator).getD (zeros 64)
    ++ (fatals.drop (fatals.length - 16)).flatMap fun r => r.view .operator
  fit (head ++ if s.tag.publishRecords then recs else []) 0x800

/-- TAG_STATUS_UPDATE (R456): the controller takes the lock, at most once a second, and publishes both pages. -/
def execTagStatusUpdate (s : State) : Out :=
  .next
    (let due := match s.tag.statusAt with
       | none => true
       | some t => t + 1000000000 ≤ s.island
     if !s.pwr.aux || s.tag.holder.isSome || !due then s
     else
       { s with tag := { s.tag with working := writeCells (writeCells s.tag.working 0 s.identityPage) 0x400 s.statusPage,
                                    holder := some .controller, statusAt := some s.island } })

end Sys2Proof.Machine
end

