-- ==== Sys2Proof/Machine/Mgmt.lean ====
section
/-! DEFINITION. The management controller (R432 to R452): link state, notifications, session challenges and time-outs, credentials, the
mirror's mailbox, the wedge probe, reset, power, trace freeze and the fatal capture's acknowledgement. -/

namespace Sys2Proof.Machine

/-! ### The management port (R434) -/

/-- Link state when the segment is heard: CSMA/CD, or PLCA as follower or coordinator; PLCA does not start without a node ID. -/
def Mgmt.linkUp (m : Mgmt) : BitVec 8 :=
  if !m.plca || m.nodeId = 0xFF then 1 else if m.nodeId = 0 then 3 else 2

/-- Link state under settings just written: a link that is up takes the mode they give, and a port that becomes a follower waits for a
BEACON from now on. -/
def Mgmt.relink (m : Mgmt) (now : Nat) : Mgmt :=
  if m.link = 0 || m.link = m.linkUp then m else { m with link := m.linkUp, beaconAt := now }

/-- PLCA_BEACON (R434). -/
def execPlcaBeacon (s : State) : Out :=
  .next (if s.pwr.aux then { s with mgmt := { s.mgmt with link := s.mgmt.linkUp, beaconAt := s.island } } else s)

/-- Link state falls to 0. -/
def State.linkDown (s : State) : State :=
  ({ s with mgmt := { s.mgmt with link := 0 } }).raise { code := 0x1E03, part := 0xFE }

/-- BEACON_TIMEOUT (R434): a follower has seen no BEACON for 100 ms. -/
def execBeaconTimeout (s : State) : Out :=
  .next (if s.pwr.aux && s.mgmt.link = 2 && s.mgmt.beaconAt + 100000000 ≤ s.island then s.linkDown else s)

/-- JABBER (R434). -/
def execJabber (s : State) : Out := .next (if s.pwr.aux && s.mgmt.link ≠ 0 then s.linkDown else s)

/-! ### Notifications (R445) -/

/-- The sixteen bytes of an AOA header (R435). -/
def aoaHeader (type session seq index sub status plen : Nat) : Bytes :=
  [1, BitVec.ofNat 8 type] ++ toLE session 2 ++ toLE seq 4 ++ toLE index 2 ++ [BitVec.ofNat 8 sub, 0] ++ toLE status 2 ++ toLE plen 2

/-- A NOTIFY frame of a record. -/
def State.notifyFrame (s : State) (r : EventRec) : Bytes :=
  let body := aoaHeader 5 0 r.seqno.toNat 0x3010 0 0 16 ++ r.note s.mgmt.notifyLost
  body ++ match s.mgmt.operatorCred with
    | some k => (cmac (toBE k.toNat 32) body).take 8
    | none => zeros 8

/-- NOTIFY (R445): the oldest queued notification is sent; with no destination set none is. -/
def execNotify (s : State) : Out :=
  .next
    (match s.mgmt.notifyQ with
     | [] => s
     | r :: rest =>
       if !s.pwr.aux || s.mgmt.link = 0 then s
       else if s.mgmt.notifyDst.toNat % 2 ^ 48 = 0 then { s with mgmt := { s.mgmt with notifyQ := rest } }
       else { s with mgmt := { s.mgmt with notifyQ := rest, notifyLost := false, portTx := s.notifyFrame r } })

/-! ### Session challenges (R439) -/

/-- The key a challenge is bound to: the source's MAC address, or the mirror. -/
def srcKey : Source → Nat
  | .port mac => mac.toNat + 1
  | .mirror => 0

/-- A path to the controller is open: the auxiliary rail, and for the mirror the PCIe link (R444). -/
def State.pathOpen (s : State) : Source → Bool
  | .port _ => s.pwr.aux
  | .mirror => s.pwr.aux && s.pwr.pcieUp

/-- A read of 0x3140:01: the next challenge, bound to its reader. -/
def State.newChallenge (s : State) (src : Source) : BitVec 128 × State :=
  let n := s.mgmt.challengeCtr
  let c : BitVec 128 := BitVec.ofNat 128 (beNat (cmac (toBE Config.challengeKey.toNat 32) (toLE n.toNat 8)))
  let others := s.mgmt.challenges.filter fun e => e.1 ≠ srcKey src
  (c, { s with mgmt := { s.mgmt with challengeCtr := n + 1, challenges := (srcKey src, c, s.island) :: others } })

/-- SESSION_CHALLENGE_READ (R439). -/
def execSessionChallengeRead (src : Source) (s : State) : Out := .next (if s.pathOpen src then (s.newChallenge src).2 else s)

/-- SESSION_TIMEOUT (R440): 60 s after the last accepted request. -/
def execSessionTimeout (ses : Ses) (s : State) : Out :=
  .next
    (match s.session ses with
     | some x => if x.lastAt + 60000000000 ≤ s.island then s.closeSession ses.toNat else s
     | none => s)

/-! ### Credentials (R441) -/

/-- The writer may act on a credential under the table of R441. -/
def State.mayCredential (s : State) (r : Role) (op role p : Nat) : Bool :=
  if role = 1 then
    if op = 1 then
      2 ≤ s.lifeCycle && s.lifeCycle ≤ 4 && (s.mgmt.operatorCred.isNone || s.asOperator r)
    else s.asOperator r
  else if role = 2 then
    if op = 1 then s.formed p && (s.asOperator r || s.asOwner r p) else p < 40 && s.asOperator r
  else false

/-- The key a credential is wrapped under. -/
def State.credentialKey (s : State) (role p : Nat) : Option Bytes :=
  if role = 1 then some (toBE Config.dtk.toNat 32) else (s.key (rootKeyId p)).map Key.bytes

/-- The position at which a credential request is refused. -/
def State.credentialRefusal (s : State) (r : Role) (b : Bytes) : Option Nat :=
  let op := fieldAt b 0 1
  let role := fieldAt b 1 1
  let p := fieldAt b 2 1
  if !s.mayCredential r op role p then some 1
  else if op = 1 && (s.credentialKey role p).isNone then some 2
  else if op = 1 && ((s.credentialKey role p).bind fun k => kwUnwrap k (slice b 8 40)).isNone then some 3
  else if op = 0 || 2 < op || !allZero b 3 8 || (op = 2 && !allZero b 8 48) then some 4
  else none

/-- An accepted credential request: the sessions under the credential it replaces or erases close (R440). -/
def State.credentialDo (s : State) (b : Bytes) : State :=
  let role := fieldAt b 1 1
  let p := fieldAt b 2 1
  let cred : Option (BitVec 256) :=
    if fieldAt b 0 1 = 1 then
      ((s.credentialKey role p).bind fun k => kwUnwrap k (slice b 8 40)).map fun x => BitVec.ofNat 256 (beNat x)
    else none
  let s1 := s.closeWhere fun x => x.role = (if role = 1 then Role.operator else .owner (BitVec.ofNat 8 p))
  { s1 with mgmt :=
      if role = 1 then { s1.mgmt with operatorCred := cred, credResult := 0 }
      else { s1.mgmt with ownerCreds := mapSet none s1.mgmt.ownerCreds p cred, credResult := 0 } }

/-- A write to 0x3140:03. -/
def State.putCredential (s : State) (w : WriteReq) (r : Role) : Put :=
  match s.credentialRefusal r w.bytes with
  | some cond =>
    let s1 := s.refuseWrite w 1 0x4001 cond
    .ok { s1 with mgmt := { s1.mgmt with credResult := 0x4001 } }
  | none => .ok (s.credentialDo w.bytes)

/-- The write request of a credential record. -/
def credentialWrite (ses : Ses) (b : Bytes) : WriteReq := { ses := ses, idx := 0x3140, sub := 3, bytes := b }

/-- CREDENTIAL_INSTALL (R441). -/
def execCredentialInstall (ses : Ses) (rec' : BitVec 384) (s : State) : Out :=
  let w := credentialWrite ses (withOp (toLE rec'.toNat 48) 1)
  s.putRow w fun s r => s.putCredential w r
/-- CREDENTIAL_ERASE (R441). -/
def execCredentialErase (ses : Ses) (rec' : BitVec 384) (s : State) : Out :=
  let w := credentialWrite ses (withOp (toLE rec'.toNat 48) 2)
  s.putRow w fun s r => s.putCredential w r

/-! ### The mailbox (R444) -/

/-- MBX_DOOR (R444): the host has written a frame to MBX_REQ and posts so many of its bytes. -/
def execMbxDoor (frame : Bytes) (len : BitVec 11) (s : State) : Out :=
  .next
    (if !s.pathOpen .mirror || s.mgmt.mbxBusy then s
     else { s with mgmt := { s.mgmt with mbxReq := (fit frame 1536).take len.toNat, mbxBusy := true, mbxReady := false } })

/-! ### Actions on the device (R448 to R452) -/

/-- WEDGE_PROBE (R448): one probe of the controller. -/
def execWedgeProbe (answered : Bool) (s : State) : Out :=
  .next
    (if !s.pwr.aux then s
     else if answered then
       { s with mgmt := { s.mgmt with misses := 0, wedged := if s.fatal then s.mgmt.wedged else false } }
     else
       { s with mgmt := { s.mgmt with misses := min (s.mgmt.misses + 1) 3,
                                      wedged := s.mgmt.wedged || decide (2 ≤ s.mgmt.misses) } })

/-- A write to 0x1140:02. -/
def State.putReset (s : State) (r : Role) (v : Nat) : Put := Put.deny (!s.asOperator r || v ≠ 1) 0 (.ok s.deviceReset)

/-- DEVICE_RESET (R450). -/
def execDeviceReset (ses : Ses) (s : State) : Out :=
  s.putRow { ses := ses, idx := 0x1140, sub := 2, bytes := [1] } fun s r => s.putReset r 1

/-- The power setting 0x1140:03. -/
def State.setPower (s : State) (v : BitVec 8) : State := { s with mgmt := { s.mgmt with powerSetting := v } }

/-- The converters turned on by a write (R451): at once where the 48 V input is in range, else when it comes (R460, step 3). -/
def State.powerOn (s : State) : State :=
  let s1 := s.setPower 1
  if s1.pwr.converters || !s1.pwr.main then s1 else (s1.acted).convertersOn

/-- The converters turned off by a write (R451): after a reset in the orderly mode, unless the device is fatal or wedged. -/
def State.powerOff (s : State) : State :=
  let s1 := s.setPower 0
  if !s1.pwr.converters then s1
  else
    let s2 := if s1.mgmt.shutMode = 0 ∧ !s1.isWedged then s1.deviceReset else s1
    (s2.acted).convertersOff

/-- A write to 0x1140:03. -/
def State.putPower (s : State) (r : Role) (v : Nat) : Put :=
  Put.deny (!s.asOperator r || 1 < v) 0 (.ok (if v = 1 then s.powerOn else s.powerOff))

/-- POWER_ON (R451). -/
def execPowerOn (ses : Ses) (s : State) : Out :=
  s.putRow { ses := ses, idx := 0x1140, sub := 3, bytes := [1] } fun s r => s.putPower r 1
/-- POWER_OFF (R451). -/
def execPowerOff (ses : Ses) (s : State) : Out :=
  s.putRow { ses := ses, idx := 0x1140, sub := 3, bytes := [0] } fun s r => s.putPower r 0

/-- A write to 0x1140:05 (R449, R482). -/
def State.putFreeze (s : State) (r : Role) (v : Nat) : Put :=
  Put.deny (!s.asOperator r || 1 < v) 0
    (.ok (if v = 1 then (if s.trace.frozen then s else (s.freezeTrace 0).acted)
          else if s.trace.frozen then s.startTrace else s))

/-- TRACE_FREEZE (R482). -/
def execTraceFreeze (ses : Ses) (s : State) : Out :=
  s.putRow { ses := ses, idx := 0x1140, sub := 5, bytes := [1] } fun s r => s.putFreeze r 1
/-- TRACE_UNFREEZE (R482). -/
def execTraceUnfreeze (ses : Ses) (s : State) : Out :=
  s.putRow { ses := ses, idx := 0x1140, sub := 5, bytes := [0] } fun s r => s.putFreeze r 0

/-- A write to 0x3030:04: the operator role, and the maker in every state (R442, R452). -/
def State.putCaptureAck (s : State) (r : Role) (v : Nat) : Put :=
  Put.deny (!(s.asOperator r || r = .maker) || v ≠ 1) 0 (.ok { s with mgmt := { s.mgmt with capState := 0, capture := [] } })

/-- CAPTURE_ACKNOWLEDGE (R452). -/
def execCaptureAcknowledge (ses : Ses) (s : State) : Out :=
  s.putRow { ses := ses, idx := 0x3030, sub := 4, bytes := [1] } fun s r => s.putCaptureAck r 1

end Sys2Proof.Machine
end

