-- ==== Sys2Proof/Machine/Bringup.lean ====
section
/-! DEFINITION. Bring-up (R460, R461, R464 to R467), resets from PCIe (R462, R463), thermal and supply limits (R474 to R476), clocks (R468,
R469). -/

namespace Sys2Proof.Machine

/-! ### Rails and clocks coming up (R460) -/

/-- AUX_RAIL_RISE (R460, step 1): the controller starts; the tag's working copy is its published bank. -/
def execAuxRailRise (s : State) : Out :=
  .next
    (if s.pwr.aux then s
     else
       let s1 := { s with pwr := { s.pwr with aux := true, functions := 1 }, tag := { s.tag with working := s.tag.bank } }
       if s1.pwr.main && s1.mgmt.powerSetting = 1 then s1.convertersOn else s1)

/-- What the tag keeps without the auxiliary rail: its banks, the pointer, and what the field powers (R453, R455). -/
def Tag.afterFall (t : Tag) : Tag :=
  { bank0 := t.bank0, bank1 := t.bank1, pointer := t.pointer, rfField := t.rfField, mode := t.mode, rsp := t.rsp }

/-- AUX_RAIL_FALL (R402, R426, R441, R476): only fuses, non-volatile stores and what lies outside the module remain. -/
def execAuxRailFall (s : State) : Out :=
  .next
    (if !s.pwr.aux then s
     else
       { pending := s.pending, free := s.free, host := s.host, tag := s.tag.afterFall,
         sec := { lc := s.sec.lc, returns := s.sec.returns },
         mgmt := { operatorCred := s.mgmt.operatorCred, challengeCtr := s.mgmt.challengeCtr },
         mem := { retired := s.mem.retired },
         pwr := { aux := false, main := s.pwr.main, perst := s.pwr.perst, functions := 0 } })

/-- MAIN_INPUT_IN_RANGE (R460, step 3). -/
def execMainInputInRange (s : State) : Out :=
  .next
    (let s1 := { s with pwr := { s.pwr with main := true } }
     if s1.pwr.aux && s1.mgmt.powerSetting = 1 && !s1.pwr.converters then s1.convertersOn else s1)

/-- LCLK: half its rate while tier 2 is throttled (R474). -/
def lclkFor (throttled : Bool) : BitVec 16 := if throttled then 500 else 1000

/-- A sensor (R474). -/
def State.sensor (s : State) (n : Nat) : Sensor := mapGet {} s.pwr.sensors n

/-- The bridge's clocks lock: the counter master starts at 0 where it was stopped (R461), the discipline enters FREE, and the noise
source begins its start-up test (R397). -/
def State.bridgeClocks (s : State) (pcieRef : Bool) : State :=
  { s with now := if s.pwr.bridge then s.now else 0,
           time := { listenFrom := s.island },
           sec := { s.sec with noise := 1, startFails := 0, samples := [], runLen := 0 },
           pwr := { s.pwr with bridge := true, pcieRef := pcieRef, lclk := lclkFor (s.sensor 25).throttled } }

/-- BRIDGE_RAILS_GOOD (R460, steps 4 and 5): the counter, the package network, the hamper and the trace unit become usable. -/
def execBridgeRailsGood (pcieRef : Bool) (s : State) : Out :=
  .next
    (if !s.pwr.converters || bit s.pwr.functions 21 then s
     else
       let first := !s.pwr.bridge
       let s1 := s.bridgeClocks pcieRef
       let s2 := if first && !s1.trace.frozen then s1.startTrace else s1
       s2.each [21, 1, 7, 20] fun a b => a.setReady b true)

/-- A tier-1 stack of die d is throttled (R474). -/
def State.stackThrottled (s : State) (d : Nat) : Bool := (List.range 3).any fun i => (s.sensor (5 + 3 * d + i)).throttled

/-- MCLK of a die. -/
def State.mclkFor (s : State) (d : Nat) : BitVec 16 := if s.stackThrottled d then 662 else 1325

/-- DIE_RAILS_GOOD (R460, steps 6 and 7): the die's clocks lock, its Shuttle slice, training-state engine and powered optical engines
start, and the start-up test of its clusters begins. -/
def execDieRailsGood (die : BitVec 2) (s : State) : Out :=
  .next
    (let d := die.toNat
     if !s.pwr.converters || (s.die d).railsGood then s
     else
       let s1 := s.modDie d fun x => { x with railsGood := true, tclk := x.tclkLimit, mclk := s.mclkFor d }
       let s2 := s1.each (List.range 10) fun a c => a.modCluster (d * 10 + c) fun x => { x with testing := true }
       let engines := [2 * d, 2 * d + 1].filter fun e => bit s2.pwr.enginePower e
       (s2.setReady (8 + d) true).each engines fun a e => a.setReady (12 + e) true)

/-- A cluster's bit of 0x1200:02 set or cleared; its rise raises FUNCTION_READY (R466). -/
def State.setClusterReady (s : State) (k : Nat) (on : Bool) : State :=
  let old := (s.cluster k).ready
  let s1 := s.modCluster k fun c => { c with ready := on }
  if on && !old then s1.raise { code := 0x1F01, part := 0xFE, detail := [2, BitVec.ofNat 8 k] } else s1

/-- A passed start-up test: local stores zeroed, the bit set; a cluster that leaves Sleep becomes Active (R464, R472). -/
def State.testPassed (s : State) (k : Nat) : State :=
  let s1 := s.each (clusterAll k) fun a t => a.modTile t Tile.zeroStore
  let s2 := ((s1.modCluster k fun c => { c with testing := false }).setClusterReady k true).seedChecker k
  if (s2.cluster k).current = 5 then s2.setCurrent k 0 else s2

/-- A failed stage (R465). -/
def State.testFailed (s : State) (k tile : Nat) (stage : BitVec 8) : State :=
  let s1 := { s with pwr := { s.pwr with testFailures := s.pwr.testFailures + 1 } }
  s1.raise { code := 0xCF03, path := some (pathOf k tile), part := 0xFE, detail := [stage] }

/-- A result names a tile and a stage that exist. -/
def selfTestOk : SelfTest → Bool
  | .pass => true
  | .fail tile stage => tile.toNat ≤ 32 && 1 ≤ stage.toNat && stage.toNat ≤ 6

/-- CLUSTER_SELF_TEST (R464, R465). -/
def execClusterSelfTest (k : BitVec 6) (result : SelfTest) (s : State) : Out :=
  guardUnit (decide (k.toNat < 40) && selfTestOk result)
    (let x := s.cluster k.toNat
     if s.fatal || !x.testing || !(s.die (k.toNat / 10)).railsGood || !bit s.pwr.functions 1 then s
     else match result with
       | .pass => s.testPassed k.toNat
       | .fail tile stage => s.testFailed k.toNat tile.toNat stage)

/-- PCIE_LINK_TRAINING (R460, step 8): the reset is deasserted and the link reaches DL_Active. -/
def execPcieLinkTraining (s : State) : Out :=
  .next
    (if !s.pwr.bridge || !s.pwr.pcieRef || s.pwr.pcieUp then s
     else ({ s with pwr := { s.pwr with perst := false, pcieUp := true } }).setReady 2 true)

/-- PCIE_LINK_DOWN (R444, R466). -/
def execPcieLinkDown (s : State) : Out :=
  .next (if s.pwr.pcieUp then ({ s with pwr := { s.pwr with pcieUp := false } }).setReady 2 false else s)

/-- TIER_TRAINING_DONE (R460, step 9): both tiers are usable, and every slab gets a fresh key and is scrubbed (R165). -/
def execTierTrainingDone (s : State) : Out :=
  .next
    (if s.pwr.tiersTrained || !s.pwr.bridge || s.fatal || !s.drbgReady || !(List.range 4).all fun d => (s.die d).railsGood then s
     else
       let s1 := ({ s with pwr := { s.pwr with tiersTrained := true } }).setReady 3 true
       (s1.setReady 4 true).each (List.range 640) fun a n => a.beginScrub n (a.slab n).owner)

/-! ### Resets from PCIe -/

/-- PCIE_CONVENTIONAL_RESET (R462). -/
def execPcieConventionalReset (s : State) : Out :=
  .next
    (let s1 := { s with pwr := { s.pwr with perst := true } }
     if s1.pwr.converters then s1.deviceReset else s1)

/-- The PCIe requests in flight fail: an open hamper request ends with CKPT_BODY, reason 3 (R379, R463). -/
def State.pcieFails (s : State) : State :=
  s.each (List.range 40) fun a p =>
    match (a.part p).ham with
    | some j =>
      let q := hamReq j.req
      a.hamFail p q (halt 0x8A01 (ckDetail q.ckid 0xFFFFFFFF 3 0 j.offset))
    | none => a

/-- The endpoint and the mirror reset (R463). -/
def State.resetMirror (s : State) : State := ({ s with mgmt := s.mgmt.clearMirror }).pcieFails

/-- PCIE_HOT_RESET (R463). -/
def execPcieHotReset (s : State) : Out := .next (if s.pwr.converters then s.resetMirror else s)
/-- FUNCTION_LEVEL_RESET (R463). -/
def execFunctionLevelReset (s : State) : Out := .next (if s.pwr.converters && s.pwr.pcieUp then s.resetMirror else s)

/-! ### Supply faults (R476) -/

/-- POWER_FAULT: the converters are off when the record is made, so no port sends CLOSE and no unit answers the capture; Power
reads 0. -/
def State.powerFault (s : State) : State :=
  let s1 := { s with ports := mapEach ({} : Port) s.ports Port.afterReset, pwr := { s.pwr with converters := false, pcieUp := false } }
  ((s1.raise { code := 0xCF02, part := 0xFE }).convertersOff).setPower 0

/-- INPUT_OUT_OF_RANGE (R476). -/
def execInputOutOfRange (s : State) : Out :=
  .next
    (let s1 := { s with pwr := { s.pwr with main := false } }
     if s.pwr.main && s.pwr.aux then s1.powerFault else s1)

/-- CONVERTER_FAULT (R476). -/
def execConverterFault (s : State) : Out := .next (if s.pwr.converters then s.powerFault else s)

/-! ### Temperatures (R474, R475) -/

/-- Default warn, throttle and trip values in m°C; 0 for no throttle. -/
def thermalTable (n : Nat) : Int × Int × Int :=
  if n ≤ 4 then (95000, 100000, 110000)
  else if n ≤ 16 then (85000, 95000, 105000)
  else if n ≤ 24 then (70000, 0, 85000)
  else if n = 25 then (85000, 95000, 105000)
  else if n = 26 then (40000, 45000, 50000)
  else (60000, 65000, 70000)

/-- The warn value of a sensor. -/
def State.warnAt (s : State) (n : Nat) : Int := ((s.sensor n).warn.map BitVec.toInt).getD (thermalTable n).1
/-- The throttle value of a sensor. -/
def State.throttleAt (s : State) (n : Nat) : Int := ((s.sensor n).throttle.map BitVec.toInt).getD (thermalTable n).2.1
/-- A sensor throttles at all. -/
def hasThrottle (n : Nat) : Bool := (thermalTable n).2.1 ≠ 0

/-- TCLK of a die is to step down for a temperature. -/
def State.dieThrottled (s : State) (d : Nat) : Bool := [d, 4, 26, 27].any fun n => (s.sensor n).throttled

/-- Limit cause of a die (R468); `cap` says that the power cap holds it. -/
def State.causeOf (s : State) (d : Nat) (cap : Bool) : BitVec 8 :=
  BitVec.ofNat 8 ((if (s.die d).tclkLimit.toNat < 1650 then 1 else 0) + (if cap then 2 else 0)
    + (if s.dieThrottled d then 4 else 0) + (if s.stackThrottled d then 8 else 0))

/-- A CLOCK packet (R479). -/
def State.clockPacket (s : State) (mhz unit cause : Nat) : State := s.trace' 0xFE 0 9 (word (mhz * 65536 + unit * 256 + cause))

/-- MCLK and limit cause of a die as the throttles leave them. -/
def State.dieClocks (s : State) (d : Nat) : State :=
  let x := s.die d
  if !x.railsGood then s
  else
    let s1 := s.modDie d fun y => { y with mclk := s.mclkFor d, cause := s.causeOf d (bit y.cause 1) }
    if x.mclk = s.mclkFor d then s1 else s1.clockPacket (s.mclkFor d).toNat d (s1.die d).cause.toNat

/-- LCLK as tier 2's throttle leaves it. -/
def State.linkClock (s : State) : State :=
  let f := lclkFor (s.sensor 25).throttled
  if !s.pwr.bridge || s.pwr.lclk = f then s
  else ({ s with pwr := { s.pwr with lclk := f } }).clockPacket f.toNat 0xFF (if (s.sensor 25).throttled then 4 else 0)

/-- The memory and link clocks follow the throttles. -/
def State.followThrottles (s : State) : State := (s.each (List.range 4) State.dieClocks).linkClock

/-- A sensor changed by a function. -/
def State.modSensor (s : State) (n : Nat) (f : Sensor → Sensor) : State :=
  { s with pwr := { s.pwr with sensors := mapSet {} s.pwr.sensors n (f (s.sensor n)) } }

/-- A sensor takes a temperature. -/
def Sensor.take (x : Sensor) (temp : Word) (throttle : Bool) (cool : Bool) (now : Nat) : Sensor :=
  { x with temp := temp, highest := if x.highest.toInt < temp.toInt then temp else x.highest,
           throttled := x.throttled || throttle,
           belowSince := if cool then some (x.belowSince.getD now) else none }

/-- THERMAL_WARN (R475). -/
def State.thermalWarn (s : State) (n level : Nat) : State :=
  s.raise { code := 0x1F03, part := 0xFE, detail := [BitVec.ofNat 8 n, BitVec.ofNat 8 level] }

/-- A trip (R474, R475): a tripped optical engine fails its ports with reason 6; the converters turn off 10 ms later. -/
def State.tripped (s : State) (n : Nat) : State :=
  let failing := if 17 ≤ n ∧ n ≤ 24 then (List.range 16).filter fun c => portEngine c = n - 17 && s.portUp c else []
  let s1 := s.each failing fun a c => if a.portUp c then a.failPort c 6 else a
  let s2 := s1.raise { code := 0xCF01, part := 0xFE }
  { s2 with pwr := { s2.pwr with tripAt := some (s2.pwr.tripAt.getD s2.island) } }

/-- A temperature is measured: warn, throttle and trip values crossed upward take effect. -/
def State.sense (s : State) (n : Nat) (temp : Word) : State :=
  let old := (s.sensor n).temp.toInt
  let new := temp.toInt
  let crossed (v : Int) : Bool := old < v && v ≤ new
  let throttle := hasThrottle n && crossed (s.throttleAt n)
  let s1 := s.modSensor n fun x => x.take temp throttle (hasThrottle n && decide (new ≤ s.throttleAt n - 2000)) s.island
  let s2 := if crossed (s.warnAt n) then s1.thermalWarn n 1 else s1
  let s3 := if throttle then (s2.thermalWarn n 2).followThrottles else s2
  if crossed (thermalTable n).2.2 then s3.tripped n else s3

/-- THERMAL_CROSSING (R475). -/
def execThermalCrossing (sensor : BitVec 5) (milliC : BitVec 32) (s : State) : Out :=
  guardUnit (decide (sensor.toNat ≤ 27)) (if s.pwr.aux then s.sense sensor.toNat milliC else s)

/-- THERMAL_TRIP (R475). -/
def execThermalTrip (sensor : BitVec 5) (milliC : BitVec 32) (s : State) : Out :=
  guardUnit (decide (sensor.toNat ≤ 27)) (if s.pwr.aux then s.sense sensor.toNat milliC else s)

/-- THROTTLE_END (R475): 100 ms at least 2 °C below the throttle value. -/
def execThrottleEnd (sensor : BitVec 5) (s : State) : Out :=
  guardUnit (decide (sensor.toNat ≤ 27))
    (let x := s.sensor sensor.toNat
     match x.belowSince with
     | none => s
     | some t =>
       if s.pwr.aux && x.throttled && t + 100000000 ≤ s.island then
         (s.modSensor sensor.toNat fun x => { x with throttled := false }).followThrottles
       else s)

/-- TRIP_SHUTDOWN (R475): 10 ms after the trip's stamp. -/
def execTripShutdown (s : State) : Out :=
  .next
    (match s.pwr.tripAt with
     | none => s
     | some t =>
       if t + 10000000 ≤ s.island then
         let s1 := if s.pwr.converters then s.convertersOff else s
         { s1.setPower 0 with pwr := { s1.pwr with tripAt := none } }
       else s)

/-! ### TCLK (R468, R469) -/

/-- A write to 0x1100:02. -/
def State.putTclkLimit (s : State) (ses : Ses) (r : Role) (mhz : Nat) : Put :=
  let d := s.select ses 0x1100 1 0
  Put.deny (!s.asOperator r || mhz < 400 || 1650 < mhz || mhz % 25 ≠ 0) 0
    (.ok ((s.modDie d fun x => { x with tclkLimit := BitVec.ofNat 16 mhz }).dieClocks d))

/-- TCLK_LIMIT_WRITE (R468). -/
def execTclkLimitWrite (ses : Ses) (mhz : BitVec 16) (s : State) : Out :=
  s.putRow { ses := ses, idx := 0x1100, sub := 2, bytes := toLE mhz.toNat 2 } fun s r => s.putTclkLimit ses r mhz.toNat

/-- The values of 0x1120 are measured: the spec gives no draw, so each is a free value. -/
def State.measure (s : State) : State :=
  s.each [1, 2, 3, 4, 5, 6, 7] fun a i =>
    let (w, a1) := a.freeWord
    { a1 with pwr := { a1.pwr with draw := mapSet 0 a1.pwr.draw i w } }

/-- The next TCLK of a die, if it steps: down for its limit, a throttle or the cap, up when the draw is below 95% of the cap. -/
def State.nextTclk (s : State) (d : Nat) : Option Nat :=
  let x := s.die d
  let f := x.tclk.toNat
  let mean := (mapGet 0 s.pwr.draw 7).toNat
  let cap := s.pwr.powerCap.toNat * 1000
  let waited (n : Nat) : Bool := match x.lastStep with
    | none => true
    | some t => t + n ≤ s.island
  if 400 < f && ((waited 10000 && (x.tclkLimit.toNat < f || s.dieThrottled d)) || (waited 100000 && cap < mean)) then some (f - 25)
  else if f < x.tclkLimit.toNat && !s.dieThrottled d && mean * 100 < cap * 95 && waited 1000000 then some (f + 25)
  else none

/-- CLOCK_STEP (R469). -/
def execClockStep (die : BitVec 2) (s : State) : Out :=
  .next
    (let d := die.toNat
     if !(s.die d).railsGood then s
     else
       let s1 := s.measure
       let mean := (mapGet 0 s1.pwr.draw 7).toNat
       let cap := s1.pwr.powerCap.toNat * 1000
       let held := decide (cap < mean) || (bit (s1.die d).cause 1 && !decide (mean * 100 < cap * 95))
       let s2 := s1.modDie d fun x => { x with cause := s1.causeOf d held }
       match s2.nextTclk d with
       | none => s2
       | some f =>
         (s2.modDie d fun x => { x with tclk := BitVec.ofNat 16 f, lastStep := some s2.island }).clockPacket f d (s2.die d).cause.toNat)

end Sys2Proof.Machine
end

