-- ==== Sys2Proof/Machine/Power.lean ====
section
/-! DEFINITION. Power states of clusters (R470 to R473, R481), optical engine power (R471), replay captures (R483 to R485), and debug access
(R429). -/

namespace Sys2Proof.Machine

/-! ### Power states -/

/-- Every array of a cluster, the checker's included, is at level 0. -/
def State.arraysQuiet (s : State) (k : Nat) : Bool := (clusterAll k).all fun t => (s.tile t).arr.level = 0

/-- IDLE_CLOCKED_ENTER (R470): the microsecond of idleness has passed. -/
def execIdleClockedEnter (k : BitVec 6) (s : State) : Out :=
  guardUnit (decide (k.toNat < 40))
    (let c := s.cluster k.toNat
     if c.ready && c.current = 0 && (clusterTiles k.toNat).all s.tileQuiet && s.arraysQuiet k.toNat then s.setCurrent k.toNat 1 else s)

/-- The role that may write 0x1110:02 for a cluster. -/
def State.mayPower (s : State) (r : Role) (k : Nat) : Bool :=
  match s.ownerOf k with
  | some p => s.asOwner r p
  | none => s.asOperator r

/-- A cluster is in the way of Retention or Sleep (R472): a tile in another STATE, a queue not empty, a command in flight. -/
def State.powerBusy (s : State) (k : Nat) : Bool :=
  (clusterTiles k).any fun t =>
    let x := s.tile (s.lead t)
    (s.tileState t ≠ 0 && s.tileState t ≠ 2) || !x.cmdQ.isEmpty || !x.loadQ.isEmpty || !x.storeQ.isEmpty || !x.flights.isEmpty

/-- A cluster asked to leave Active or Idle-clocked. -/
def State.powerDown (s : State) (k : Nat) (v : BitVec 8) : State :=
  ((s.modCluster k fun c => { c with requested := v, target := v }).setClusterReady k false).setCurrent k 4

/-- A cluster asked to be Active: supply and TCLK return (RESYNC). -/
def State.powerUp (s : State) (k : Nat) : State :=
  let c := s.cluster k
  let s1 := s.modCluster k fun c => { c with requested := 0 }
  if c.current = 2 ∨ c.current = 3 then (s1.modCluster k fun x => { x with target := c.current }).setCurrent k 5 else s1

/-- A write to 0x1110:02. -/
def State.putPowerState (s : State) (ses : Ses) (r : Role) (v : BitVec 8) : Put :=
  let k := s.select ses 0x1110 1 0
  let c := s.cluster k
  let moving : Bool := c.current = 4 || c.current = 5
  if !s.mayPower r k || (v ≠ 0 && v ≠ 2 && v ≠ 3) then .refused 0x4001 0
  else if moving then .refused 0x4010 0
  else if v = 0 then .ok (s.powerUp k)
  else Put.deny (s.powerBusy k) 0 (.ok (s.powerDown k v))

/-- POWER_REQUEST_ACTIVE (R472). -/
def execPowerRequestActive (ses : Ses) (s : State) : Out :=
  s.putRow { ses := ses, idx := 0x1110, sub := 2, bytes := [0] } fun s r => s.putPowerState ses r 0
/-- POWER_REQUEST_RETENTION (R472). -/
def execPowerRequestRetention (ses : Ses) (s : State) : Out :=
  s.putRow { ses := ses, idx := 0x1110, sub := 2, bytes := [2] } fun s r => s.putPowerState ses r 2
/-- POWER_REQUEST_SLEEP (R472). -/
def execPowerRequestSleep (ses : Ses) (s : State) : Out :=
  s.putRow { ses := ses, idx := 0x1110, sub := 2, bytes := [3] } fun s r => s.putPowerState ses r 3

/-- What a tile keeps in Sleep: its crash frame and fault fields (R470). -/
def Tile.asleep (x : Tile) : Tile := { crash := x.crash, fault := x.fault }

/-- MARKER is written and the cluster takes its state (R472, step 3, R481). -/
def State.settleCluster (s : State) (k : Nat) : State :=
  let c := s.cluster k
  let s1 := s.tilePacket (pathOf k 0) 6 (word (c.packets.toNat * 65536 + k * 256))
  let s2 := s1.modCluster k fun x => { x with marked := true }
  let s3 := if c.target = 3 then
      (s2.each (clusterAll k) fun a t => a.modTile t Tile.asleep).modCluster k fun x => { x with chk := {} }
    else s2
  s3.setCurrent k c.target

/-- POWER_STATE_SETTLE (R472): every array at level 0 and the checker's backlog empty. -/
def execPowerStateSettle (k : BitVec 6) (s : State) : Out :=
  guardUnit (decide (k.toNat < 40))
    (let c := s.cluster k.toNat
     if !s.fatal && c.current = 4 && s.arraysQuiet k.toNat && c.chk.backlog.isEmpty then s.settleCluster k.toNat else s)

/-- RESYNC (R472, R481): TCLK runs again; a cluster that comes from Sleep runs its start-up test before it is Active. -/
def execResync (k : BitVec 6) (s : State) : Out :=
  guardUnit (decide (k.toNat < 40))
    (let c := s.cluster k.toNat
     if s.fatal || c.current ≠ 5 || c.testing then s
     else
       let s1 := s.modCluster k.toNat fun x => { x with marked := false }
       let s2 := (s1.tilePacket (pathOf k.toNat 0) 7 (word (k.toNat * 256))).modCluster k.toNat fun x => { x with packets := 0 }
       if c.target = 3 then s2.modCluster k.toNat fun x => { x with testing := true }
       else (s2.setClusterReady k.toNat true).setCurrent k.toNat 0)

/-! ### Optical engines (R471) -/

/-- A write to 0x1110:05. -/
def State.putEngines (s : State) (r : Role) (v : BitVec 8) : Put :=
  let old := s.pwr.enginePower
  let cleared (e : Nat) : Bool := bit old e && !bit v e
  Put.deny (!s.asOperator r || (List.range 16).any fun c => cleared (portEngine c) && (s.port c).state ≠ .off) 0
    (.ok (({ s with pwr := { s.pwr with enginePower := v } }).each (List.range 8) fun a e =>
      if bit v e then (if (a.die (e / 2)).railsGood then a.setReady (12 + e) true else a) else a.setReady (12 + e) false))

/-- ENGINE_POWER_WRITE (R471). -/
def execEnginePowerWrite (ses : Ses) (bits : BitVec 8) (s : State) : Out :=
  s.putRow { ses := ses, idx := 0x1110, sub := 5, bytes := [bits] } fun s r => s.putEngines r bits

/-! ### Replay captures -/

/-- The record of a capture (R484). -/
def State.replayRecord (s : State) (p : Nat) (b : Bytes) : Bytes :=
  let x := s.part p
  toLE 0x31505259 4 ++ [BitVec.ofNat 8 p, if x.repro then 1 else 0, 0, 0] ++ toLE (fieldAt b 4 4) 4 ++ toLE x.plan.toNat 2 ++ zeros 2
    ++ toLE x.seed.toNat 8 ++ toLE x.step.toNat 4 ++ toLE x.applied.toNat 4 ++ toLE x.launchCount.toNat 8 ++ toLE s.now.toNat 8
    ++ toBE Config.serial.toNat 16 ++ toLE s.sh.coords.toNat 4 ++ toLE s.sh.rings.toNat 4 ++ zeros 8 ++ slice b 16 32 ++ zeros 16

/-- The code and position under which R483 refuses a request. -/
def State.replayRefusal (s : State) (r : Role) (p : Nat) (b : Bytes) : Option (Nat × Nat) :=
  let op := fieldAt b 0 1
  let hoff := fieldAt b 8 8
  if !s.asOwner r p || op = 0 || 2 < op || 3 < fieldAt b 1 1 || fieldAt b 2 2 ≠ 0 then some (0x4001, 1)
  else if op = 2 then none
  else if fieldAt b 4 4 ≠ (s.part p).lastCkid.toNat then some (0x4001, 2)
  else if hoff % 128 ≠ 0 || (s.part p).winLen = 0 || !s.inWindow p hoff 128 then some (0x4001, 3)
  else if (s.part p).ham.isSome then some (0x4010, 0)
  else none

/-- A record kept in an island slot. -/
def Part.keepReplay (x : Part) (slot : Nat) (rec' : BitVec 1024) : Part :=
  { x with replay := mapSet 0 x.replay slot rec', replayResult := 0 }

/-- An accepted request: CAPTURE writes the record into its slot and, where the PCIe link is up, to the host window, and raises
REPLAY_CAPTURED (R484); CLEAR empties the slot (R485). -/
def State.replayDo (s : State) (p : Nat) (b : Bytes) : State :=
  let slot := fieldAt b 1 1
  if fieldAt b 0 1 = 2 then s.modPart p fun x => x.keepReplay slot 0
  else
    let r := s.replayRecord p b
    let s1 := s.modPart p fun x => x.keepReplay slot (BitVec.ofNat 1024 (leNat r))
    let s2 := if s1.pwr.pcieUp then s1.hostWrite p (fieldAt b 8 8) r else s1
    s2.raise { code := 0x1F05, part := p, ctx := ((s.slotCtx p 0).getD 0).toNat,
               detail := toLE (fieldAt b 4 4) 4 ++ [BitVec.ofNat 8 slot] }

/-- A write to 0x3210:02. -/
def State.putReplay (s : State) (w : WriteReq) (r : Role) : Put :=
  let p := s.select w.ses 0x3210 1 0
  match s.replayRefusal r p w.bytes with
  | some (code, cond) =>
    .ok (s.requestRefused w 1 code cond (slotPart r (some p)) fun x => { x with replayResult := BitVec.ofNat 16 code })
  | none => .ok (s.replayDo p w.bytes)

/-- The write request of a replay record. -/
def replayWrite (ses : Ses) (b : Bytes) : WriteReq := { ses := ses, idx := 0x3210, sub := 2, bytes := b }

/-- REPLAY_CAPTURE (R484). -/
def execReplayCapture (ses : Ses) (rec' : BitVec 384) (s : State) : Out :=
  let w := replayWrite ses (withOp (toLE rec'.toNat 48) 1)
  s.putRow w fun s r => s.putReplay w r
/-- REPLAY_CLEAR (R483, R485). -/
def execReplayClear (ses : Ses) (rec' : BitVec 384) (s : State) : Out :=
  let w := replayWrite ses (withOp (toLE rec'.toNat 48) 2)
  s.putRow w fun s r => s.putReplay w r

end Sys2Proof.Machine
end

