-- ==== Sys2Proof/Machine/Tick.lean ====
section
/-! DEFINITION. What passes by itself: a nanosecond of the global counter and of the island, and one packet slot of the
trace unit. -/

namespace Sys2Proof.Machine

/-- The packets a region holds (R477): 1 MiB for the device, 384 KiB for a partition. -/
def regionSize (r : Nat) : Nat := if r = 254 then 65536 else 24576

/-- A region's turn (R477, R479): the oldest queued packet is written over the oldest place; then, if packets were dropped,
LOST takes the free place of the queue. -/
def Region.turn (r : Nat) (now : DWord) (x : Region) : Region :=
  match x.queue with
  | [] => x
  | p :: rest =>
    let lost : List Packet :=
      if x.dropped = 0 then []
      else [{ kind := 8, part := BitVec.ofNat 8 r, path := 0, data := x.dropped, stamp := now }]
    { x with packets := (x.packets ++ [p]).drop (x.packets.length + 1 - regionSize r),
             written := satAdd64 x.written 1,
             queue := rest ++ lost,
             dropped := 0 }

/-- Eighths of the cycles of a tile's array that carry an underlay operation (R111, R112): its level, while no real operation runs. -/
def State.underlaid (s : State) (t : Path) : Nat :=
  let a := (s.tile t).arr
  if !a.rising || (s.tile (s.lead t)).underlayRuns then a.level else 0

/-- Eighths of the cycles in which a ready real operation waits under the rising rule (R111). -/
def State.rampHeld (s : State) (t : Path) : Nat :=
  let a := (s.tile t).arr
  let x := s.tile (s.lead t)
  if a.rising && !x.underlayRuns && x.flights.any (fun f => f.cmd.unit = 0) then 8 - a.level else 0

/-- One nanosecond of the counts of R114: a cycle of TCLK is 1000 / TCLK ns, so eighths of cycles are counted in 1/8000 cycle. -/
def State.countUnderlay (s : State) : State :=
  let sum (f : Path → Nat) : Nat := (s.tiles.map fun e =>
    let t : Path := BitVec.ofNat 16 e.1
    (s.die (dieOf t)).tclk.toNat * f t).sum
  let u := s.pwr.underlayRest + sum s.underlaid
  let r := s.pwr.rampRest + sum s.rampHeld
  { s with pwr := { s.pwr with underlayCycles := s.pwr.underlayCycles + BitVec.ofNat 64 (u / 8000), underlayRest := u % 8000,
                               rampCycles := s.pwr.rampCycles + BitVec.ofNat 64 (r / 8000), rampRest := r % 8000 } }

/-- One nanosecond: the island's time, the counter where GCLK runs (R35, R335), and the turn of one trace region. -/
def State.tick (s : State) : State :=
  let r := if s.island % 41 = 40 then 254 else s.island % 41
  let s' := if s.pwr.converters then s.modRegion r (Region.turn r s.now) else s
  { s' with island := s.island + 1, now := if s.pwr.bridge then s.now + 1 else s.now }

end Sys2Proof.Machine
end

