-- ==== Sys2Proof/Machine/ObjectRead.lean ====
section
/-! DEFINITION. The object dictionary as it is read (R446): the length of every subindex, and the value a reader of a role gets
(R33, R370, R424, R438, R442, and the read rule of each object). A value is the number its bytes spell, little-endian. -/

namespace Sys2Proof.Machine

/-! ### The dictionary (R446) -/

/-- Lengths in bytes of the subindices of the objects 0x1000 to 0x2160, from subindex 00 on. -/
def dictionaryLow : SMap (List Nat) :=
  [(0x1000, [1, 12, 16, 2, 1]), (0x1010, [1, 16, 24, 2, 1]), (0x1020, [1, 8, 1, 1, 1, 8, 8, 8, 1]), (0x1100, [1, 1, 2, 2, 2, 1, 2, 2]),
   (0x1110, [1, 1, 1, 1, 4, 1]), (0x1120, [1, 4, 4, 4, 4, 4, 4, 4]), (0x1130, [1, 1, 4, 4, 4, 4, 4]), (0x1140, [1, 4, 1, 1, 1, 1, 4]),
   (0x1200, [1, 4, 8, 2, 4]), (0x2000, [1, 1, 8, 1, 1, 1, 2, 2, 2, 2, 2, 1]), (0x2010, [1, 1, 32, 2, 8, 8, 2, 8, 8]),
   (0x2110, [1, 2, 64, 4]), (0x2120, [1, 2, 2]), (0x2130, [1, 2, 2, 8, 8]), (0x2140, [1, 1, 8, 8, 8, 8, 8]),
   (0x2150, [1, 1, 8, 8, 8, 8]), (0x2160, [1, 4, 128, 8])]

/-- Of the objects 0x2200 to 0x2520. -/
def dictionaryMid : SMap (List Nat) :=
  [(0x2200, [1, 8, 8, 8, 8, 2, 2]), (0x2201, [1, 2, 1, 1]), (0x2210, [1, 32, 2, 4]), (0x2220, [1, 16, 2]), (0x2230, [1, 2, 1, 1, 1, 4]),
   (0x2240, [1, 2, 2, 2, 2, 4]), (0x2250, [1, 8, 8, 8, 2, 8, 4]), (0x2260, [1, 8, 8, 8]), (0x2270, [1, 1, 1, 8]),
   (0x2300, [1, 1, 8, 8, 8, 8, 8, 8, 8]), (0x2400, [1, 1, 1, 1, 1, 1, 16, 1, 4, 4, 1, 8]), (0x2401, [1, 1, 8, 8, 8, 8, 8, 8, 8, 8, 8]),
   (0x2402, [1, 4, 4, 4, 4, 4, 4, 4, 4]), (0x2500, [1, 4, 4, 1]), (0x2501, [1, 1, 4, 1, 1]), (0x2510, [1, 32, 2, 2, 4]),
   (0x2520, [1, 1, 8, 8, 8, 8, 8, 8])]

/-- Of the objects 0x2600 to 0x3300. -/
def dictionaryHigh : SMap (List Nat) :=
  [(0x2600, [1, 1, 4, 4, 4, 8, 2, 8, 8, 8, 8, 8]), (0x2610, [1, 32, 2, 2, 4, 2]), (0x2700, [1, 1, 8, 4, 4, 2, 1, 1, 4, 4, 8]),
   (0x2800, [1, 1, 64, 2, 8, 4, 8, 8]), (0x2900, [1, 8, 1, 1, 1, 1, 4, 4, 4, 16, 4, 2]), (0x2901, [1, 1, 4]), (0x2910, [1, 1, 1]),
   (0x2920, [1, 1, 32, 2, 1, 8]), (0x3000, [1, 1, 8, 8, 8, 4, 8, 8, 8]), (0x3001, [1, 1, 1, 1]), (0x3010, [1, 4, 4, 4, 64, 1, 64, 1]),
   (0x3020, [1, 2, 1, 1]), (0x3030, [1, 1, 1, 1024, 1]), (0x3100, [1, 1, 1, 4, 8]), (0x3110, [1, 4, 80, 1]), (0x3120, [1, 1, 64, 2, 8]),
   (0x3130, [1, 1]), (0x3140, [1, 16, 1, 48, 2]), (0x3200, [1, 1, 2, 4, 1024, 8, 8]), (0x3210, [1, 1, 48, 2, 1, 128]),
   (0x3300, [1, 2, 64, 1, 4, 4, 4, 8, 1, 1])]

/-- The lengths of an object's subindices; none for an index that the dictionary does not hold. -/
def objectLengths (idx : Nat) : List Nat := mapGet [] (dictionaryLow ++ dictionaryMid ++ dictionaryHigh) idx

/-- The length of a subindex; none where the dictionary does not hold it. -/
def objectLength (idx sub : Nat) : Option Nat := (objectLengths idx)[sub]?

/-! ### Who reads -/

/-- The reader holds only an owner role, to which what counts the activity of several partitions reads 0 (R424). -/
def Role.onlyOwner : Role → Bool
  | .owner _ => true
  | _ => false

/-- The partition in whose request slot a reader's requests are served (R423). -/
def Role.slot : Role → Option Nat
  | .owner p => some p.toNat
  | _ => none

/-- A value, or 0 to a reader that may not see it. -/
def shown (may : Bool) (v : Nat) : Nat := if may then v else 0

/-- The owner of a partition, or the operator. -/
def State.ownerOrOperator (s : State) (r : Role) (p : Nat) : Bool := s.asOwner r p || s.asOperator r

/-- The owner of the partition a cluster belongs to. -/
def State.ownsCluster (s : State) (r : Role) (k : Nat) : Bool :=
  match s.ownerOf k with
  | some p => s.asOwner r p
  | none => false

/-! ### The values, object by object -/

/-- 0x1000, identity (R3). -/
def State.read1000 (s : State) (sub : Nat) : Nat :=
  match sub with
  | 1 => leNat orderingCode
  | 2 => leNat (toBE Config.serial.toNat 16)
  | 3 => Config.revision.toNat
  | 4 => s.lifeCycle
  | _ => 0

/-- 0x1010, life-cycle requests (R430); the challenge is drawn by the read itself. -/
def State.read1010 (s : State) (sub : Nat) : Nat :=
  match sub with
  | 3 => s.sec.lcResult.toNat
  | 4 => s.sec.returns.toNat
  | _ => 0

/-- 0x1020, the management port (R434). -/
def State.read1020 (s : State) (sub : Nat) : Nat :=
  match sub with
  | 1 => Config.macAddress.toNat
  | 2 => s.mgmt.plca.toNat
  | 3 => s.mgmt.nodeId.toNat
  | 4 => s.mgmt.nodeCount.toNat
  | 5 => s.mgmt.notifyDst.toNat
  | 6 => s.mgmt.framesRx.toNat
  | 7 => s.mgmt.framesDisc.toNat
  | 8 => s.mgmt.link.toNat
  | _ => 0

/-- 0x1100, clocks (R468). -/
def State.read1100 (s : State) (ses : Ses) (sub : Nat) : Nat :=
  let d := s.die (s.select ses 0x1100 1 0)
  match sub with
  | 1 => s.select ses 0x1100 1 0
  | 2 => d.tclkLimit.toNat
  | 3 => d.tclk.toNat
  | 4 => d.mclk.toNat
  | 5 => d.cause.toNat
  | 6 => s.pwr.powerCap.toNat
  | 7 => s.pwr.lclk.toNat
  | _ => 0

/-- 0x1110, power states (R471). -/
def State.read1110 (s : State) (ses : Ses) (r : Role) (sub : Nat) : Nat :=
  let k := s.select ses 0x1110 1 0
  let may := s.ownsCluster r k || s.asOperator r
  match sub with
  | 1 => k
  | 2 => (s.cluster k).requested.toNat
  | 3 => shown may (s.cluster k).current.toNat
  | 4 => shown may (s.cluster k).transitions.toNat
  | 5 => s.pwr.enginePower.toNat
  | _ => 0

/-- 0x1130, temperatures (R474). -/
def State.read1130 (s : State) (ses : Ses) (sub : Nat) : Nat :=
  let n := s.select ses 0x1130 1 0
  let s32 (v : Int) : Nat := (v % 2 ^ 32).toNat
  match sub with
  | 1 => n
  | 2 => (s.sensor n).temp.toNat
  | 3 => s32 (s.warnAt n)
  | 4 => s32 (s.throttleAt n)
  | 5 => s32 (thermalTable n).2.2
  | 6 => (s.sensor n).highest.toNat
  | _ => 0

/-- 0x1140, the controller's actions (R448 to R451). -/
def State.read1140 (s : State) (sub : Nat) : Nat :=
  match sub with
  | 1 => s.deviceView
  | 3 => s.mgmt.powerSetting.toNat
  | 4 => s.mgmt.shutMode.toNat
  | 5 => s.trace.frozen.toNat
  | 6 => s.mgmt.actions.toNat
  | _ => 0

/-- The number whose bit i is set where a test holds, for i below n. -/
def bitsWhere (n : Nat) (f : Nat → Bool) : Nat := ((numbers n f).map fun i => 2 ^ i).sum

/-- 0x1200, readiness (R466). -/
def State.read1200 (s : State) (sub : Nat) : Nat :=
  match sub with
  | 1 => s.pwr.functions.toNat
  | 2 => bitsWhere 40 s.clusterUp
  | 3 => bitsWhere 16 s.portUp
  | 4 => s.pwr.testFailures.toNat
  | _ => 0

/-- 0x2000, partitions (R411). -/
def State.read2000 (s : State) (ses : Ses) (r : Role) (sub : Nat) : Nat :=
  let p := s.select ses 0x2000 1 0
  let x := s.part p
  let may := s.ownerOrOperator r p
  match sub with
  | 1 => p
  | 2 => shown may x.clusters.toNat
  | 3 => shown may x.sealedMode.toNat
  | 4 => shown may x.state.toNat
  | 6 => shown may x.result.toNat
  | 7 => shown may (102 * p)
  | 8 => shown may x.gidBase.toNat
  | 9 => shown may x.gidCount.toNat
  | 10 => shown may x.groupQuota.toNat
  | 11 => shown may x.bindQuota.toNat
  | _ => 0

/-- 0x2010, admission (R324). -/
def State.read2010 (s : State) (ses : Ses) (r : Role) (sub : Nat) : Nat :=
  let p := s.select ses 0x2010 1 0
  let x := s.part p
  let may := s.asOwner r p
  match sub with
  | 1 => p
  | 3 => shown may x.admResult.toNat
  | 4 => shown may x.short1.toNat
  | 5 => shown may x.short2.toNat
  | 6 => shown may x.plan.toNat
  | 7 => if may then (s.freeFrames p 1).2 * 0x200000 else 0
  | 8 => if may then (s.freeFrames p 2).2 * 0x200000 else 0
  | _ => 0

/-- The crash frame's reader: the owner, the maker where it reads every object, and the operator for a tile of no partition (R84). -/
def State.seesTile (s : State) (r : Role) (t : Path) : Bool :=
  match s.partOf t with
  | some p => s.asOwner r p
  | none => s.asOperator r

/-- The sixteen words of a tile's own crash frame, as bytes (R84, R86). -/
def State.crashBytes (s : State) (t : Path) : Bytes := (List.range 16).flatMap fun i => toLE (mapGet 0 (s.tile t).crash i).toNat 4

/-- 0x2110, crash frames (R88). -/
def State.read2110 (s : State) (ses : Ses) (r : Role) (sub : Nat) : Nat :=
  let t : Path := BitVec.ofNat 16 (s.select ses 0x2110 1 0)
  match sub with
  | 1 => t.toNat
  | 2 => shown (validPath t && s.seesTile r t) (leNat (s.crashBytes t))
  | 3 => shown (!r.onlyOwner) s.pwr.crashCount.toNat
  | _ => 0

/-- 0x2120, panel layouts (R107). -/
def State.read2120 (s : State) (ses : Ses) (r : Role) (sub : Nat) : Nat :=
  let t : Path := BitVec.ofNat 16 (s.select ses 0x2120 1 0)
  let k := clusterOf t
  match sub with
  | 1 => t.toNat
  | 2 => shown (validPath t && tileNo t = 0 && (s.ownsCluster r k || s.asOperator r)) (s.cluster k).layout.toNat
  | _ => 0

/-- 0x2130, underlay (R114). -/
def State.read2130 (s : State) (r : Role) (sub : Nat) : Nat :=
  match sub with
  | 1 => s.pwr.holdTime.toNat
  | 2 => 2500
  | 3 => shown (!r.onlyOwner) s.pwr.underlayCycles.toNat
  | 4 => shown (!r.onlyOwner) s.pwr.rampCycles.toNat
  | _ => 0

/-- Counters of the selected partition, shown to its owner: 0x2140, 0x2150, 0x2300, 0x2520. -/
def State.readCounters (s : State) (ses : Ses) (r : Role) (idx sub : Nat) : Nat :=
  let p := s.select ses idx 1 0
  if sub = 1 then p else shown (s.asOwner r p) ((s.part p).counter idx sub).toNat

/-- A window as a role reads it (R33, R444): the operator every one, an owner with the context in its slot 0. -/
def State.windowFor (s : State) (r : Role) (a : Nat) : Bytes :=
  let w : WinAddr := BitVec.ofNat 20 a
  if 2 ^ 20 ≤ a then zeros 128
  else if s.asOperator r then s.windowRead .controller w
  else
    match r with
    | .owner p => s.windowRead (.owner p.toNat) w
    | _ => zeros 128

/-- 0x2160, window access (R447). -/
def State.read2160 (s : State) (ses : Ses) (r : Role) (sub : Nat) : Nat :=
  let a := s.select ses 0x2160 1 0
  match sub with
  | 1 => a
  | 2 => leNat (s.windowFor r a)
  | _ => 0

/-- 0x2200, memory (R160). -/
def read2200 (sub : Nat) : Nat :=
  match sub with
  | 1 => 0x006000000000
  | 2 => 0x018000000000
  | 3 => 0x0000C0000000
  | 4 => 0x0000C0000000
  | 5 => 384
  | 6 => 48
  | _ => 0

/-- 0x2201, contexts (R168). -/
def State.read2201 (s : State) (ses : Ses) (r : Role) (sub : Nat) : Nat :=
  let c := s.select ses 0x2201 1 0
  let mine : Option CtxBind := (s.ctxBind c).filter fun b => s.asOwner r b.part.toNat
  match sub with
  | 1 => c
  | 2 => match mine with
    | some b => b.part.toNat
    | none => 0xFF
  | 3 => match mine with
    | some b => b.slot.toNat
    | none => s.select ses 0x2201 3 0
  | _ => 0

/-- The request slots 0x2210, 0x2220, 0x2510 and 0x2610, read in the slot of the reader's own partition (R423). -/
def State.readSlot (s : State) (r : Role) (f : Part → Nat) : Nat :=
  match r.slot with
  | some p => f (s.part p)
  | none => 0

/-- 0x2230, slabs (R165). -/
def State.read2230 (s : State) (ses : Ses) (sub : Nat) : Nat :=
  let n := s.select ses 0x2230 1 0
  match sub with
  | 1 => n
  | 2 => (s.slab n).owner.toNat
  | 3 => (s.slab n).state.toNat
  | 5 => (s.slab n).scrubs.toNat
  | _ => 0

/-- 0x2240, imbalance (R167). -/
def State.read2240 (s : State) (r : Role) (sub : Nat) : Nat :=
  match sub with
  | 1 => s.mem.imbThreshold.toNat
  | 2 => s.mem.imbPersist.toNat
  | 3 => shown (!r.onlyOwner) s.mem.imbRatio.toNat
  | 4 => shown (!r.onlyOwner) s.mem.imbBusiest.toNat
  | 5 => shown (!r.onlyOwner) s.mem.imbEvents.toNat
  | _ => 0

/-- 0x2250, corrections and retired pages (R184). -/
def State.read2250 (s : State) (r : Role) (sub : Nat) : Nat :=
  match sub with
  | 1 => shown (!r.onlyOwner) s.mem.lsCorr.toNat
  | 2 => shown (!r.onlyOwner) s.mem.t1Corr.toNat
  | 3 => shown (!r.onlyOwner) s.mem.t2Corr.toNat
  | 4 => s.mem.scrubPeriod.toNat
  | 6 => s.mem.retired.length
  | _ => 0

/-- 0x2260, read-ahead (R181). -/
def State.read2260 (s : State) (r : Role) (sub : Nat) : Nat :=
  match sub with
  | 1 => shown (!r.onlyOwner) s.mem.raHits.toNat
  | 2 => shown (!r.onlyOwner) s.mem.raDiscarded.toNat
  | 3 => shown (!r.onlyOwner) s.mem.raExpired.toNat
  | _ => 0

/-- 0x2270, the memory weight (R333). -/
def State.read2270 (s : State) (ses : Ses) (r : Role) (sub : Nat) : Nat :=
  let p := s.select ses 0x2270 1 0
  match sub with
  | 1 => p
  | 2 => (s.part p).memWeight.toNat
  | 3 => shown (s.ownerOrOperator r p) ((s.part p).counter 0x2270 3).toNat
  | _ => 0

/-- 0x2400, ports (R250). -/
def State.read2400 (s : State) (ses : Ses) (r : Role) (sub : Nat) : Nat :=
  let c := s.select ses 0x2400 1 0
  let x := s.port c
  match sub with
  | 1 => c
  | 2 => x.enable.toNat
  | 3 => (siteMode c).toNat
  | 4 => x.state.code
  | 5 => x.reason.toNat
  | 6 => shown (x.state = .up) (leNat (toBE x.peerSerial.toNat 16))
  | 7 => if x.state = .up then x.peerPort.toNat else 0xFF
  | 8 => x.meanDelay
  | 9 => x.asym.toNat
  | 10 => bitsWhere 8 s.vcSealed
  | 11 => shown (siteMode c && !r.onlyOwner) (mapGet 0 x.fcnt x.txKs.toNat).toNat
  | _ => 0

/-- 0x2401, port counters (R251), for the operator role. -/
def State.read2401 (s : State) (ses : Ses) (r : Role) (sub : Nat) : Nat :=
  let c := s.select ses 0x2401 1 0
  if sub = 1 then c else shown (s.asOperator r) (mapGet 0 (s.port c).ctr sub).toNat

/-- 0x2402, the link's limits (R240). -/
def read2402 (sub : Nat) : Nat := [0, 8000, 24000, 500, 10000, 16, 4, 520, 10000].getD sub 0

/-- 0x2500, the module's place in the torus (R254). -/
def State.read2500 (s : State) (sub : Nat) : Nat :=
  match sub with
  | 1 => s.sh.coords.toNat
  | 2 => s.sh.rings.toNat
  | 3 => s.sh.pathMode.toNat
  | _ => 0

/-- 0x2501, Shuttle settings (R284). -/
def State.read2501 (s : State) (ses : Ses) (sub : Nat) : Nat :=
  let p := s.select ses 0x2501 1 0
  match sub with
  | 1 => p
  | 2 => (s.part p).deadline.toNat
  | 3 => (s.part p).weight.toNat
  | 4 => (s.part p).vc.toNat
  | _ => 0

/-- 0x2510, groups (R255, R423, R424). -/
def State.read2510 (s : State) (r : Role) (sub : Nat) : Nat :=
  match sub with
  | 2 => s.readSlot r fun x => x.grpResult.toNat
  | 3 => shown (!r.onlyOwner) s.sh.groups.length
  | 4 => s.readSlot r fun x => x.rank.toNat
  | _ => 0

/-- 0x2600, outings (R313). -/
def State.read2600 (s : State) (ses : Ses) (r : Role) (sub : Nat) : Nat :=
  let p := s.select ses 0x2600 1 0
  let x := s.part p
  let v : Nat := match sub with
    | 2 => x.window.toNat
    | 3 => x.takeover.toNat
    | 4 => x.alpha.toNat
    | 6 => x.period.toNat
    | _ => (x.counter 0x2600 sub).toNat
  if sub = 1 then p else shown (s.asOwner r p) v

/-- 0x2610, bindings (R291): what the selected group's binding accepted last, for its owner. -/
def State.read2610 (s : State) (ses : Ses) (r : Role) (sub : Nat) : Nat :=
  let gid := s.select ses 0x2610 3 0
  let b := (s.binding (BitVec.ofNat 16 gid)).filter fun b => s.asOwner r b.part.toNat
  match sub with
  | 2 => s.readSlot r fun x => x.bindResult.toNat
  | 3 => gid
  | 4 => match b with
    | some b => b.accepted.outno.toNat
    | none => 0xFFFFFFFF
  | 5 => match b with
    | some b => b.accepted.l.toNat * 256 + b.accepted.b.toNat
    | none => 0
  | _ => 0

/-- 0x2700, training registers (R226). -/
def State.read2700 (s : State) (ses : Ses) (r : Role) (sub : Nat) : Nat :=
  let p := s.select ses 0x2700 1 0
  let x := s.part p
  let v : Nat := match sub with
    | 2 => x.seed.toNat
    | 3 => x.step.toNat
    | 4 => x.applied.toNat
    | 5 => x.consec.toNat
    | 6 => x.skipLimit.toNat
    | 7 => x.lastVerdict.toNat
    | 8 => x.verdictStep.toNat
    | 9 => x.lastSum.toNat
    | 10 => x.skips.toNat
    | _ => 0
  if sub = 1 then p else shown (s.asOwner r p) v

/-- 0x2800, the hamper (R374). -/
def State.read2800 (s : State) (ses : Ses) (r : Role) (sub : Nat) : Nat :=
  let p := s.select ses 0x2800 1 0
  let x := s.part p
  let may := s.ownerOrOperator r p
  match sub with
  | 1 => p
  | 3 => shown may x.hamResult.toNat
  | 4 => shown may x.progress.toNat
  | 5 => shown may x.lastCkid.toNat
  | 6 => x.winBase.toNat
  | 7 => x.winLen.toNat
  | _ => 0

/-- 0x2900, the counter (R343). -/
def State.read2900 (s : State) (sub : Nat) : Nat :=
  match sub with
  | 1 => s.now.toNat
  | 2 => s.time.dstate.toNat
  | 3 => s.time.role.toNat
  | 4 => s.time.priority.toNat
  | 5 => s.time.parent.toNat
  | 6 => s.time.offset.toNat
  | 7 => s.uncNow
  | 8 => s.suncNow
  | 9 => leNat (toBE s.time.rootSerial.toNat 16)
  | 10 => s.time.rate.toNat
  | 11 => s.time.dhops.toNat * 256 + s.time.shops.toNat
  | _ => 0

/-- 0x2901, tolerances (R343). -/
def State.read2901 (s : State) (ses : Ses) (sub : Nat) : Nat :=
  let c := s.select ses 0x2901 1 0
  match sub with
  | 1 => c
  | 2 => s.toleranceOf c
  | _ => 0

/-- 0x2910, reproducible mode (R349). -/
def State.read2910 (s : State) (ses : Ses) (r : Role) (sub : Nat) : Nat :=
  let p := s.select ses 0x2910 1 0
  match sub with
  | 1 => p
  | 2 => shown (s.asOwner r p) (s.part p).repro.toNat
  | _ => 0

/-- 0x2920, launch (R346). -/
def State.read2920 (s : State) (ses : Ses) (r : Role) (sub : Nat) : Nat :=
  let p := s.select ses 0x2920 1 0
  let may := s.asOwner r p
  match sub with
  | 1 => p
  | 3 => shown may (s.part p).launchResult.toNat
  | 4 => shown may (s.part p).launchStatus.toNat
  | 5 => shown may (s.part p).launchCount.toNat
  | _ => 0

/-- 0x3000, sampling and verification (R359). -/
def State.read3000 (s : State) (r : Role) (sub : Nat) : Nat :=
  let v : Nat := if sub = 5 then s.integ.highMark.toNat else (mapGet 0 s.integ.ctr sub).toNat
  if sub = 1 then s.integ.sampleExp.toNat else shown (!r.onlyOwner) v

/-- 0x3001, the fence (R359). -/
def State.read3001 (s : State) (ses : Ses) (r : Role) (sub : Nat) : Nat :=
  let p := s.select ses 0x3001 1 0
  match sub with
  | 1 => p
  | 3 => shown (s.asOwner r p) (s.part p).fence.toNat
  | _ => 0

/-- 0x3010, the event log (R369, R370). Its oldest and newest SEQNO count every partition's records (R424). -/
def State.read3010 (s : State) (ses : Ses) (r : Role) (sub : Nat) : Nat :=
  let seqno := s.select ses 0x3010 3 0
  match sub with
  | 1 => shown (!r.onlyOwner) (((s.integ.log.head?).map fun e => e.seqno.toNat).getD 0)
  | 2 => shown (!r.onlyOwner) (s.integ.nextSeq - 1).toNat
  | 3 => seqno
  | 4 => leNat (((s.integ.log.find? fun e => e.seqno.toNat = seqno).map fun e => e.view r).getD [])
  | 5 => s.integ.notifyMask.toNat
  | 6 => leNat ((s.integ.fatalRec.map fun e => e.view r).getD [])
  | _ => 0

/-- 0x3020, injection (R372). -/
def State.read3020 (s : State) (sub : Nat) : Nat :=
  match sub with
  | 1 => s.integ.injTarget.toNat
  | 2 => s.integ.injKind.toNat
  | 3 => s.integ.armed.toNat
  | _ => 0

/-- The operator and the maker, in every state in which R442 lets them read. -/
def Role.staff (r : Role) : Bool := r = .operator || r = .maker

/-- A record of 64 bytes in the operator's view (R370): one of a partition has CTX, STAG and DETAIL 0, and FLAGS bit 3. -/
def operatorView (b : Bytes) : Bytes :=
  if fieldAt b 0 2 ≠ 0 ∧ (b.getD 16 0).toNat < 40 then setByte (b.take 18) 17 (b.getD 17 0 ||| 8) ++ zeros 46 else b

/-- A segment of the fatal capture as a role sees it: the maker in full, the operator with the records of partitions cut (R370, R417). -/
def State.segment (s : State) (r : Role) (seg : Nat) : Bytes :=
  let b := s.mgmt.capture.getD seg []
  if r = .operator ∧ 24 ≤ seg then (chunks 64 b).flatMap operatorView else b

/-- 0x3030, the fatal capture (R452). -/
def State.read3030 (s : State) (ses : Ses) (r : Role) (sub : Nat) : Nat :=
  let seg := s.select ses 0x3030 2 0
  match sub with
  | 1 => s.mgmt.capState.toNat
  | 2 => seg
  | 3 => shown r.staff (leNat (s.segment r seg))
  | _ => 0

/-- 0x3100, noise and DRBG (R400). -/
def State.read3100 (s : State) (sub : Nat) : Nat :=
  match sub with
  | 1 => s.sec.noise.toNat
  | 2 => s.sec.drbg.toNat
  | 3 => s.sec.failures.toNat
  | 4 => s.sec.reseeds.toNat
  | _ => 0

/-- 0x3110, key presence (R404). -/
def State.read3110 (s : State) (ses : Ses) (r : Role) (sub : Nat) : Nat :=
  let id := s.select ses 0x3110 1 0
  match sub with
  | 1 => id
  | 3 => shown (s.mayInstall r id) (s.key id).isSome.toNat
  | _ => 0

/-- 0x3120, cipher jobs (R409). -/
def State.read3120 (s : State) (ses : Ses) (r : Role) (sub : Nat) : Nat :=
  let p := s.select ses 0x3120 1 0
  match sub with
  | 1 => p
  | 3 => shown (s.asOwner r p) (s.part p).cipherResult.toNat
  | 4 => shown (s.asOwner r p) ((s.part p).counter 0x3120 4).toNat
  | _ => 0

/-- 0x3140, sessions (R439, R441); the challenge is formed by the read itself. -/
def State.read3140 (s : State) (r : Role) (sub : Nat) : Nat :=
  match sub with
  | 2 => shown r.staff s.mgmt.sessions.length
  | 4 => s.mgmt.credResult.toNat
  | _ => 0

/-- A packet's sixteen bytes (R478). -/
def Packet.bytes (x : Packet) : Bytes := [x.kind, x.part] ++ toLE x.path.toNat 2 ++ toLE x.data.toNat 4 ++ toLE x.stamp.toNat 8

/-- The sixteen bytes at a packet place of a region: those of the last packet written there, or zero (R477, R478). -/
def Region.place (x : Region) (size i : Nat) : Bytes :=
  let first := x.written.toNat - x.packets.length
  match x.packets[(i + size - first % size) % size]? with
  | some p => p.bytes
  | none => zeros 16

/-- A region's 1,024 bytes at its read offset. -/
def State.regionBytes (s : State) (n : Nat) : Bytes :=
  let x := s.region n
  (List.range 64).flatMap fun i => x.place (regionSize n) (x.readOff.toNat / 16 + i)

/-- A region is shown to its partition's owner and to the maker, the device region to the operator and the maker (R480). -/
def State.seesRegion (s : State) (r : Role) (n : Nat) : Bool :=
  r = .maker || (if n = 254 then s.asOperator r else s.asOwner r n)

/-- 0x3200, trace (R480). -/
def State.read3200 (s : State) (ses : Ses) (r : Role) (sub : Nat) : Nat :=
  let n := s.select ses 0x3200 1 0xFE
  let x := s.region n
  let may := s.seesRegion r n
  match sub with
  | 1 => n
  | 2 => x.enable.toNat
  | 3 => shown may x.readOff.toNat
  | 4 => if may then leNat (s.regionBytes n) else 0
  | 5 => shown may x.written.toNat
  | 6 => shown may x.lost.toNat
  | _ => 0

/-- A replay record as the operator reads it: SEED and DATAREF are 0 (R484, R485). -/
def hideReplay (b : Bytes) : Bytes := slice b 0 16 ++ zeros 8 ++ slice b 24 56 ++ zeros 32 ++ slice b 112 16

/-- 0x3210, replay captures (R483, R485). -/
def State.read3210 (s : State) (ses : Ses) (r : Role) (sub : Nat) : Nat :=
  let p := s.select ses 0x3210 1 0
  let b := toLE (mapGet 0 (s.part p).replay (s.select ses 0x3210 4 0)).toNat 128
  match sub with
  | 1 => p
  | 3 => (s.part p).replayResult.toNat
  | 4 => s.select ses 0x3210 4 0
  | 5 => if s.asOwner r p || r = .maker then leNat b else if s.asOperator r then leNat (hideReplay b) else 0
  | _ => 0

/-- 0x3300, the tag (R456 to R458). -/
def State.read3300 (s : State) (ses : Ses) (sub : Nat) : Nat :=
  let off := s.select ses 0x3300 1 0
  let mine : Bool := s.tag.holder = some (.session ses)
  match sub with
  | 1 => off
  | 2 => leNat (readCells (if mine then s.tag.working else s.tag.bank) off 64)
  | 3 => s.tag.holder.isSome.toNat
  | 4 => leNat (readCells s.tag.bank 0x3F8 4)
  | 5 => s.tag.rfWrites.toNat
  | 6 => s.tag.rfRefused.toNat
  | 7 => Config.tagUid.toNat
  | 8 => s.tag.rfField.toNat
  | 9 => s.tag.publishRecords.toNat
  | _ => 0

/-! ### The dictionary's reader -/

/-- The objects below 0x2200. -/
def State.readLow (s : State) (ses : Ses) (r : Role) (idx sub : Nat) : Nat :=
  match idx with
  | 0x1000 => s.read1000 sub
  | 0x1010 => s.read1010 sub
  | 0x1020 => s.read1020 sub
  | 0x1100 => s.read1100 ses sub
  | 0x1110 => s.read1110 ses r sub
  | 0x1120 => shown (!r.onlyOwner) (mapGet 0 s.pwr.draw sub).toNat
  | 0x1130 => s.read1130 ses sub
  | 0x1140 => s.read1140 sub
  | 0x1200 => s.read1200 sub
  | 0x2000 => s.read2000 ses r sub
  | 0x2010 => s.read2010 ses r sub
  | 0x2110 => s.read2110 ses r sub
  | 0x2120 => s.read2120 ses r sub
  | 0x2130 => s.read2130 r sub
  | 0x2140 => s.readCounters ses r 0x2140 sub
  | 0x2150 => s.readCounters ses r 0x2150 sub
  | 0x2160 => s.read2160 ses r sub
  | _ => 0

/-- The objects 0x2200 to 0x25FF. -/
def State.readMid (s : State) (ses : Ses) (r : Role) (idx sub : Nat) : Nat :=
  match idx with
  | 0x2200 => read2200 sub
  | 0x2201 => s.read2201 ses r sub
  | 0x2210 => s.readSlot r fun x => if sub = 2 then x.mapResult.toNat else if sub = 3 then x.mapCount.toNat else 0
  | 0x2220 => s.readSlot r fun x => if sub = 2 then x.loadResult.toNat else 0
  | 0x2230 => s.read2230 ses sub
  | 0x2240 => s.read2240 r sub
  | 0x2250 => s.read2250 r sub
  | 0x2260 => s.read2260 r sub
  | 0x2270 => s.read2270 ses r sub
  | 0x2300 => s.readCounters ses r 0x2300 sub
  | 0x2400 => s.read2400 ses r sub
  | 0x2401 => s.read2401 ses r sub
  | 0x2402 => read2402 sub
  | 0x2500 => s.read2500 sub
  | 0x2501 => s.read2501 ses sub
  | 0x2510 => s.read2510 r sub
  | 0x2520 => s.readCounters ses r 0x2520 sub
  | _ => 0

/-- The objects from 0x2600 on. -/
def State.readHigh (s : State) (ses : Ses) (r : Role) (idx sub : Nat) : Nat :=
  match idx with
  | 0x2600 => s.read2600 ses r sub
  | 0x2610 => s.read2610 ses r sub
  | 0x2700 => s.read2700 ses r sub
  | 0x2800 => s.read2800 ses r sub
  | 0x2900 => s.read2900 sub
  | 0x2901 => s.read2901 ses sub
  | 0x2910 => s.read2910 ses r sub
  | 0x2920 => s.read2920 ses r sub
  | 0x3000 => s.read3000 r sub
  | 0x3001 => s.read3001 ses r sub
  | 0x3010 => s.read3010 ses r sub
  | 0x3020 => s.read3020 sub
  | 0x3030 => s.read3030 ses r sub
  | 0x3100 => s.read3100 sub
  | 0x3110 => s.read3110 ses r sub
  | 0x3120 => s.read3120 ses r sub
  | 0x3140 => s.read3140 r sub
  | 0x3200 => s.read3200 ses r sub
  | 0x3210 => s.read3210 ses r sub
  | 0x3300 => s.read3300 ses sub
  | _ => 0

/-- A string that is empty now: a peer's serial number while the port is not UP, the root's where none is followed (R250, R343). -/
def State.emptyString (s : State) (ses : Ses) (idx sub : Nat) : Bool :=
  (idx = 0x2400 && sub = 6 && (s.port (s.select ses 0x2400 1 0)).state ≠ .up)
    || (idx = 0x2900 && sub = 9 && s.time.rootSerial = 0)

/-- The bytes a read returns, in the subindex's length; 0 to a reader that may not read (R33, R438, R442). -/
def State.readObject (s : State) (ses : Ses) (r : Role) (idx sub : Nat) : Bytes :=
  let len := (objectLength idx sub).getD 0
  if !s.mayRead r idx sub then zeros len
  else if sub = 0 then toLE ((objectLengths idx).length - 1) 1
  else if s.emptyString ses idx sub then []
  else
    toLE (if idx < 0x2200 then s.readLow ses r idx sub else if idx < 0x2600 then s.readMid ses r idx sub
          else s.readHigh ses r idx sub) len

end Sys2Proof.Machine
end

