-- ==== Sys2Proof/Machine/Objects.lean ====
section
/-! DEFINITION. The object dictionary as it is written (R438, R442, R443): select subindices, the settings that have no command of
their own, and every object's write brought to its one rule. -/

namespace Sys2Proof.Machine

/-! ### Select subindices (R443) -/

/-- Subindex 01 of the objects that select a partition. -/
def selectsPartition : List Nat :=
  [0x2000, 0x2010, 0x2140, 0x2150, 0x2270, 0x2300, 0x2501, 0x2520, 0x2600, 0x2700, 0x2800, 0x2910, 0x2920, 0x3001, 0x3120, 0x3210]

/-- A value may stand in a select subindex; none where the subindex is no select. -/
def selectTest (idx sub v : Nat) : Option Bool :=
  if sub = 1 ∧ selectsPartition.contains idx then some (v < 40)
  else
    match idx, sub with
    | 0x1100, 1 => some (v < 4)
    | 0x1110, 1 => some (v < 40)
    | 0x1130, 1 => some (v < 28)
    | 0x2110, 1 => some true
    | 0x2120, 1 => some true
    | 0x2160, 1 => some true
    | 0x2201, 1 => some (v < 0xFFF)
    | 0x2201, 3 => some (v < 16)
    | 0x2230, 1 => some (v < 640)
    | 0x2400, 1 => some (v < 16)
    | 0x2401, 1 => some (v < 16)
    | 0x2610, 3 => some true
    | 0x2901, 1 => some (v < 16)
    | 0x3010, 3 => some true
    | 0x3030, 2 => some (v < 32)
    | 0x3110, 1 => some true
    | 0x3200, 1 => some (v < 40 || v = 0xFE)
    | 0x3210, 4 => some (v < 4)
    | 0x3300, 1 => some (v % 64 = 0 && v ≤ 0x1FC0)
    | _, _ => none

/-- A select's value as it is kept: bits 3:0 of a path register are reserved, ignored and read 0 (R7, R22). -/
def selectKept (idx v : Nat) : Nat := if idx = 0x2110 ∨ idx = 0x2120 then v / 16 * 16 else v

/-- The default of an object's select subindices. -/
def selectDefault (idx : Nat) : Nat := if idx = 0x3200 then 0xFE else 0

/-! ### Settings without a command of their own -/

/-- A setting of the operator role: refused to other roles and for a value its row does not allow. -/
def State.operatorSets (s : State) (r : Role) (ok : Bool) (s' : State) : Put := Put.deny (!s.asOperator r || !ok) 0 (.ok s')

/-- 0x1020:02 to 05 (R434). -/
def State.write1020 (s : State) (r : Role) (sub v : Nat) : Put :=
  match sub with
  | 2 => s.operatorSets r (v < 2) { s with mgmt := { s.mgmt with plca := v = 1 }.relink s.island }
  | 3 => s.operatorSets r true { s with mgmt := { s.mgmt with nodeId := BitVec.ofNat 8 v }.relink s.island }
  | 4 => s.operatorSets r (v ≠ 0) { s with mgmt := { s.mgmt with nodeCount := BitVec.ofNat 8 v } }
  | 5 => s.operatorSets r true { s with mgmt := { s.mgmt with notifyDst := BitVec.ofNat 64 (v % 2 ^ 48) } }
  | _ => .refused 0x4001 0

/-- 0x1130:03 and 04 (R474): warn at most the throttle value, throttle at most its default. -/
def State.write1130 (s : State) (ses : Ses) (r : Role) (sub v : Nat) : Put :=
  let n := s.select ses 0x1130 1 0
  let x := signed 32 v
  match sub with
  | 3 =>
    let top := if hasThrottle n then s.throttleAt n else (thermalTable n).2.2
    s.operatorSets r (x ≤ top) (s.modSensor n fun y => { y with warn := some (word v) })
  | 4 =>
    if hasThrottle n then
      s.operatorSets r (x ≤ (thermalTable n).2.1) (s.modSensor n fun y => { y with throttle := some (word v) })
    else s.operatorSets r (v = 0) s
  | _ => .refused 0x4001 0

/-- 0x2000:02, 03 and 08 to 0B (R411): by the operator, while the partition is free. -/
def State.write2000 (s : State) (ses : Ses) (r : Role) (sub v : Nat) : Put :=
  let p := s.select ses 0x2000 1 0
  let x := s.part p
  let set (ok : Bool) (y : Part) : Put := s.operatorSets r (ok && x.state = 0) (s.modPart p fun _ => y)
  match sub with
  | 2 => set true { x with clusters := BitVec.ofNat 64 (v % 2 ^ 40) }
  | 3 => set (v < 2) { x with sealedMode := v = 1 }
  | 8 => set (v + x.gidCount.toNat ≤ 65536) { x with gidBase := BitVec.ofNat 16 v }
  | 9 => set (x.gidBase.toNat + v ≤ 65536) { x with gidCount := BitVec.ofNat 16 v }
  | 10 => set true { x with groupQuota := BitVec.ofNat 16 v }
  | 11 => set true { x with bindQuota := BitVec.ofNat 8 v }
  | _ => .refused 0x4001 0

/-- 0x2130:01 (R114), in Manufacture and Provisioned. -/
def State.write2130 (s : State) (r : Role) (v : Nat) : Put :=
  s.operatorSets r (500 ≤ v && v ≤ 2000 && (s.lifeCycle = 1 || s.lifeCycle = 2))
    { s with pwr := { s.pwr with holdTime := BitVec.ofNat 16 v } }

/-- 0x2160:03 (R447): a doorbell whose CTX is the slot-0 context of the owner that writes it. -/
def State.write2160 (s : State) (ses : Ses) (r : Role) (v : Nat) : Put :=
  let a := s.select ses 0x2160 1 0
  let ctx := v / 2 ^ 44 % 4096
  let own : Bool := match s.ctxBind ctx with
    | some b => b.slot = 0 && s.asOwner r b.part.toNat
    | none => false
  Put.deny (!own) 0
    (.ok (if a < 2 ^ 20 then
        s.doorbell (BitVec.ofNat 20 a) (v / 2 ^ 56) (BitVec.ofNat 12 ctx) (BitVec.ofNat 4 (v / 2 ^ 40)) (BitVec.ofNat 40 v)
      else s))

/-- 0x2240:01 and 02 (R167). -/
def State.write2240 (s : State) (r : Role) (sub v : Nat) : Put :=
  match sub with
  | 1 => s.operatorSets r (288 ≤ v && v ≤ 4096) { s with mem := { s.mem with imbThreshold := BitVec.ofNat 16 v } }
  | 2 => s.operatorSets r (v ≠ 0) { s with mem := { s.mem with imbPersist := BitVec.ofNat 16 v } }
  | _ => .refused 0x4001 0

/-- Coordinates and ring lengths fit (R254): every ring length in its range, every coordinate below it. -/
def placeOk (coords rings : Nat) : Bool :=
  let len := extent rings
  1 ≤ len 0 && len 0 ≤ 8 && 1 ≤ len 1 && len 1 ≤ 16 && 1 ≤ len 2 && len 2 ≤ 128 && 1 ≤ len 3 && len 3 ≤ 8
    && (List.range 4).all fun x => coord coords x < len x

/-- 0x2500 (R254). -/
def State.write2500 (s : State) (r : Role) (sub v : Nat) : Put :=
  let c := v % 2 ^ 17
  let g := v % 2 ^ 21
  match sub with
  | 1 => s.operatorSets r (s.sh.groups.isEmpty && placeOk c s.sh.rings.toNat) { s with sh := { s.sh with coords := word c } }
  | 2 => s.operatorSets r (s.sh.groups.isEmpty && placeOk s.sh.coords.toNat g) { s with sh := { s.sh with rings := word g } }
  | 3 => s.operatorSets r (v < 2) { s with sh := { s.sh with pathMode := BitVec.ofNat 8 v } }
  | _ => .refused 0x4001 0

/-- A VC is held by a formed partition other than p (R284). -/
def State.vcHeld (s : State) (p v : Nat) : Bool := (s.othersFormed p).any fun q => (s.part q).vc.toNat = v

/-- 0x2501:04 (R284). -/
def State.write2501 (s : State) (ses : Ses) (r : Role) (v : Nat) : Put :=
  let p := s.select ses 0x2501 1 0
  let ok : Bool := (v = 0xFF || (2 ≤ v && v ≤ 7 && !s.vcHeld p v)) && (s.slotsOf p).isEmpty && (s.part p).sealedMode
  s.operatorSets r ok (s.modPart p fun x => { x with vc := BitVec.ofNat 8 v })

/-- A host window may be granted to a partition: page-aligned, within the address space, apart from every other window (R374). -/
def State.windowOk (s : State) (p base len : Nat) : Bool :=
  base % 4096 = 0 && len % 4096 = 0 && base + len ≤ 2 ^ 64
    && (List.range 40).all fun q =>
        let y := s.part q
        q = p || y.winLen = 0 || len = 0 || base + len ≤ y.winBase.toNat || y.winBase.toNat + y.winLen.toNat ≤ base

/-- 0x2800:06 and 07 (R374): not while a request of the partition is open. -/
def State.write2800 (s : State) (ses : Ses) (r : Role) (sub v : Nat) : Put :=
  let p := s.select ses 0x2800 1 0
  let x := s.part p
  let idle := x.ham.isNone
  if sub = 6 then
    s.operatorSets r (idle && s.windowOk p v x.winLen.toNat) (s.modPart p fun y => { y with winBase := BitVec.ofNat 64 v })
  else s.operatorSets r (idle && s.windowOk p x.winBase.toNat v) (s.modPart p fun y => { y with winLen := BitVec.ofNat 64 v })

/-- The claim to be campus root ends: without a parent the counter is FREE and runs at its nominal rate (R340, R341). -/
def State.unclaim (s : State) : State :=
  ({ s with time := { s.time with dstate := 0, rate := 0, prio := 255, dhops := 255, shops := 255 } }).setReady 22 false

/-- 0x2900:03 and 04 (R343): a campus root that is no longer a site root, or no longer claims, gives its claim up. -/
def State.write2900 (s : State) (r : Role) (sub v : Nat) : Put :=
  let root := s.isRoot
  match sub with
  | 3 =>
    let s1 := { s with time := { s.time with role := BitVec.ofNat 8 v } }
    s.operatorSets r (v < 2) (if root ∧ v = 0 then s1.unclaim else s1)
  | 4 =>
    let s1 := { s with time := { s.time with priority := BitVec.ofNat 8 v } }
    s.operatorSets r true
      (if root then (if v = 255 then s1.unclaim else { s1 with time := { s1.time with prio := BitVec.ofNat 8 v } }) else s1)
  | _ => .refused 0x4001 0

/-- 0x3020:01 and 02 (R372). -/
def State.write3020 (s : State) (r : Role) (sub v : Nat) : Put :=
  match sub with
  | 1 => Put.deny (!s.injectOpen r) 0 (.ok { s with integ := { s.integ with injTarget := BitVec.ofNat 16 (v / 16 * 16) } })
  | 2 => Put.deny (!s.injectOpen r || 5 < v) 0 (.ok { s with integ := { s.integ with injKind := BitVec.ofNat 8 v } })
  | _ => .refused 0x4001 0

/-- A region's settings are written by its partition's owner, the device region's by the operator (R480). -/
def State.setsRegion (s : State) (r : Role) (n : Nat) : Bool := if n = 0xFE then s.asOperator r else s.asOwner r n

/-- 0x3200:02 and 03 (R480): the always kinds read 1; the read offset is a multiple of 1,024 within the region. -/
def State.write3200 (s : State) (ses : Ses) (r : Role) (sub v : Nat) : Put :=
  let n := s.select ses 0x3200 1 0xFE
  match sub with
  | 2 =>
    let mask : BitVec 16 := (BitVec.ofNat 16 v &&& 0x040E) ||| 0x1BF0
    Put.deny (!s.setsRegion r n) 0 (.ok (s.modRegion n fun x => { x with enable := mask }))
  | 3 =>
    Put.deny (!(s.setsRegion r n || s.asOperator r) || v % 1024 ≠ 0 || 16 * regionSize n ≤ v) 0
      (.ok (s.modRegion n fun x => { x with readOff := word v }))
  | _ => .refused 0x4001 0

/-- 0x3300:09 (R454): the operator, and in Retired the maker (R442). -/
def State.write3300 (s : State) (r : Role) (v : Nat) : Put :=
  Put.deny (!(s.asOperator r || r = .maker) || 1 < v) 0 (.ok { s with tag := { s.tag with publishRecords := v = 1 } })

/-! ### Every object's write -/

/-- The writable subindices of the objects below 0x2200. -/
def State.writeLow (s : State) (w : WriteReq) (r : Role) (v : Nat) : Put :=
  match w.idx, w.sub with
  | 0x1010, 2 => s.putLife w r
  | 0x1020, sub => s.write1020 r sub v
  | 0x1100, 2 => s.putTclkLimit w.ses r v
  | 0x1100, 6 => s.operatorSets r (1200 ≤ v && v ≤ 2400) { s with pwr := { s.pwr with powerCap := BitVec.ofNat 16 v } }
  | 0x1110, 2 => s.putPowerState w.ses r (BitVec.ofNat 8 v)
  | 0x1110, 5 => s.putEngines r (BitVec.ofNat 8 v)
  | 0x1130, sub => s.write1130 w.ses r sub v
  | 0x1140, 2 => s.putReset r v
  | 0x1140, 3 => s.putPower r v
  | 0x1140, 4 => s.operatorSets r (v < 2) { s with mgmt := { s.mgmt with shutMode := BitVec.ofNat 8 v } }
  | 0x1140, 5 => s.putFreeze r v
  | 0x2000, 5 => s.putCommand w r v
  | 0x2000, sub => s.write2000 w.ses r sub v
  | 0x2010, 2 => s.putAdmit w r
  | 0x2120, 2 => s.putLayout w.ses r (BitVec.ofNat 16 v)
  | 0x2130, 1 => s.write2130 r v
  | 0x2160, 3 => s.write2160 w.ses r v
  | _, _ => .refused 0x4001 0

/-- Those of the objects 0x2200 to 0x25FF. -/
def State.writeMid (s : State) (w : WriteReq) (r : Role) (v : Nat) : Put :=
  match w.idx, w.sub with
  | 0x2201, 2 => s.putCtxPart w.ses r (BitVec.ofNat 8 v)
  | 0x2210, 1 => s.putMap w r
  | 0x2220, 1 => s.putLoad w r (w.ses, BitVec.ofNat 128 (leNat w.bytes))
  | 0x2230, 2 => s.putSlabOwner w.ses r (BitVec.ofNat 8 v)
  | 0x2230, 4 => s.putRekey w.ses r (BitVec.ofNat 8 v)
  | 0x2240, sub => s.write2240 r sub v
  | 0x2250, 4 => s.operatorSets r (6 ≤ v && v ≤ 168) { s with mem := { s.mem with scrubPeriod := BitVec.ofNat 16 v } }
  | 0x2250, 5 => s.putRetire r v
  | 0x2270, 2 => s.operatorSets r (v ≠ 0) (s.modPart (s.select w.ses 0x2270 1 0) fun x => { x with memWeight := BitVec.ofNat 8 v })
  | 0x2400, 2 => s.putEnable w.ses r v
  | 0x2400, 9 =>
    s.operatorSets r (-1000000 ≤ signed 32 v && signed 32 v ≤ 1000000)
      (s.modPort (s.select w.ses 0x2400 1 0) fun x => { x with asym := word v })
  | 0x2500, sub => s.write2500 r sub v
  | 0x2501, 4 => s.write2501 w.ses r v
  | 0x2501, sub => s.putSetting r (s.select w.ses 0x2501 1 0) 0x2501 sub v
  | 0x2510, 1 => s.putGroup w r
  | _, _ => .refused 0x4001 0

/-- Those of the objects from 0x2600 on. -/
def State.writeHigh (s : State) (w : WriteReq) (r : Role) (v : Nat) : Put :=
  match w.idx, w.sub with
  | 0x2600, sub => s.putSetting r (s.select w.ses 0x2600 1 0) 0x2600 sub v
  | 0x2610, 1 => s.putBind w r
  | 0x2700, sub => s.putSetting r (s.select w.ses 0x2700 1 0) 0x2700 sub v
  | 0x2800, 2 => s.putHamper w r
  | 0x2800, sub => s.write2800 w.ses r sub v
  | 0x2900, sub => s.write2900 r sub v
  | 0x2901, 2 =>
    s.operatorSets r (v ≤ 10000) (s.modPort (s.select w.ses 0x2901 1 0) fun x => { x with tolerance := some (word v) })
  | 0x2910, 2 => s.putSetting r (s.select w.ses 0x2910 1 0) 0x2910 2 v
  | 0x2920, 2 => s.putLaunch w r
  | 0x3000, 1 => s.operatorSets r (6 ≤ v && v ≤ 12) { s with integ := { s.integ with sampleExp := BitVec.ofNat 8 v } }
  | 0x3001, 2 => s.putFence w.ses r v
  | 0x3010, 5 => s.operatorSets r true { s with integ := { s.integ with notifyMask := BitVec.ofNat 8 (v % 8 + 8) } }
  | 0x3010, 7 => s.putFatalAck r v
  | 0x3020, 3 => s.putArm r v
  | 0x3020, sub => s.write3020 r sub v
  | 0x3030, 4 => s.putCaptureAck r v
  | 0x3110, 2 => s.putKey r w.bytes
  | 0x3120, 2 => s.putJob w r
  | 0x3130, 1 => s.putZeroise r v
  | 0x3140, 3 => s.putCredential w r
  | 0x3200, sub => s.write3200 w.ses r sub v
  | 0x3210, 2 => s.putReplay w r
  | 0x3300, 2 => s.putTagData w.ses r w.bytes
  | 0x3300, 3 => s.putLock w.ses v
  | 0x3300, 9 => s.write3300 r v
  | _, _ => .refused 0x4001 0

/-- A subindex that may be written at all: every other is ro, or the entry count. -/
def writable (idx sub : Nat) : Bool :=
  match idx with
  | 0x2600 => [1, 2, 3, 4, 6].contains sub
  | 0x2700 => 1 ≤ sub && sub ≤ 6
  | 0x2501 => 1 ≤ sub
  | 0x2800 => [1, 2, 6, 7].contains sub
  | _ => sub ≠ 0

/-- A write under its object's own rule (R438, R443): a subindex outside the dictionary, a value not of its length, and a read-only
subindex are refused; a select is kept for the session; every other goes to its rule. -/
def State.putObject (s : State) (w : WriteReq) (r : Role) : Put :=
  let v := leNat w.bytes
  if objectLength w.idx w.sub ≠ some w.bytes.length || !writable w.idx w.sub then .refused 0x4001 0
  else
    match selectTest w.idx w.sub v with
    | some ok => Put.deny (!ok) 0 (.ok (s.setSelect w.ses w.idx w.sub (selectDefault w.idx) (selectKept w.idx v)))
    | none => if w.idx < 0x2200 then s.writeLow w r v else if w.idx < 0x2600 then s.writeMid w r v else s.writeHigh w r v

/-- A write with the CTX or GID its record carries, which names its slot and its record's PART and CTX (R423, R507). -/
def State.writeReq (s : State) (ses : Ses) (idx sub : Nat) (b : Bytes) : WriteReq :=
  match idx, sub with
  | 0x2210, 1 => { ses := ses, idx := idx, sub := sub, bytes := b, ctx := some (mapReq b).ctx, part := s.ctxPart (mapReq b).ctx }
  | 0x2220, 1 =>
    { ses := ses, idx := idx, sub := sub, bytes := b, ctx := some (fieldAt b 0 2 % 4096), part := s.ctxPart (fieldAt b 0 2 % 4096) }
  | 0x2510, 1 => s.groupWrite ses b
  | 0x2610, 1 => s.bindWrite ses b
  | 0x2010, 2 => admitWrite ses b
  | 0x2800, 2 => hamWrite' ses b
  | 0x2920, 2 => launchWrite ses b
  | 0x3120, 2 => jobWrite' ses b
  | _, _ => { ses := ses, idx := idx, sub := sub, bytes := b }

/-- An object written by a session: the state and the status of its answer. What the dictionary does not hold is refused (R438). -/
def State.writeObject (s : State) (ses : Ses) (idx sub : Nat) (b : Bytes) : State × Nat :=
  let w := s.writeReq ses idx sub b
  if (objectLength idx sub).isNone then (s.refuseWrite w 1 0x4001 0, 0x4001) else s.putStatus w fun s r => s.putObject w r

/-- OBJECT_WRITE (R443). -/
def execObjectWrite (ses : Ses) (idx : BitVec 16) (sub : BitVec 8) (value : Bytes) (s : State) : Out :=
  .next (if s.pwr.aux then (s.writeObject ses idx.toNat sub.toNat value).1 else s)

end Sys2Proof.Machine
end

