-- ==== Sys2Proof/Machine/Aoa.lean ====
section
/-! DEFINITION. The Abzil Object Access protocol (R435 to R440): frames, sessions, and the four requests. -/

namespace Sys2Proof.Machine

/-! ### Frames (R435 to R437) -/

/-- A request as R435 lays it out: `body` is its header and data, `mac` the eight bytes after them where it names a session. -/
structure Frame where
  type : Nat
  ses : Nat
  seq : Nat
  idx : Nat
  sub : Nat
  data : Bytes
  body : Bytes
  mac : Bytes
  deriving DecidableEq, Repr

/-- A frame that R437 does not discard for its form. -/
def parseFrame (f : Bytes) : Option Frame :=
  let type := fieldAt f 1 1
  let ses := fieldAt f 2 2
  let plen := fieldAt f 14 2
  let len := 16 + plen + (if ses = 0 then 0 else 8)
  if f.length < len || 1456 < plen || fieldAt f 0 1 ≠ 1 || type = 0 || 4 < type || fieldAt f 11 1 ≠ 0 || fieldAt f 12 2 ≠ 0
      || (type = 3 && ses ≠ 0) || (type = 4 && ses = 0) || (3 ≤ type && (fieldAt f 8 2 ≠ 0 || fieldAt f 10 1 ≠ 0)) then none
  else
    some { type := type, ses := ses, seq := fieldAt f 4 4, idx := fieldAt f 8 2, sub := fieldAt f 10 1, data := slice f 16 plen,
           body := f.take (16 + plen), mac := if ses = 0 then [] else slice f (16 + plen) 8 }

/-- The MAC of a header and its data under a session key. -/
def frameMac (key : BitVec 256) (body : Bytes) : Bytes := (cmac (toBE key.toNat 32) body).take 8

/-- What the controller does with a frame (R437). -/
inductive Admit where
  | discard
  | again (rsp : Bytes)
  | serve (x : Option Session)

/-- A frame's session, MAC and SEQ (R437). -/
def State.admits (s : State) (src : Source) (q : Frame) : Admit :=
  if q.ses = 0 then .serve none
  else
    match mapGet none s.mgmt.sessions q.ses with
    | none => .discard
    | some x =>
      if x.mirror ≠ decide (src = .mirror) || frameMac x.key q.body ≠ q.mac then .discard
      else
        match x.lastSeq with
        | none => .serve (some x)
        | some n => if n.toNat < q.seq then .serve (some x) else if q.body = x.lastReq then .again x.lastRsp else .discard

/-- A frame counted as received on the port (0x1020:06). -/
def State.countFrame (s : State) (src : Source) : State :=
  match src with
  | .port _ => { s with mgmt := { s.mgmt with framesRx := s.mgmt.framesRx + 1 } }
  | .mirror => s

/-- A frame discarded (0x1020:07). -/
def State.dropFrame (s : State) : State := { s with mgmt := { s.mgmt with framesDisc := s.mgmt.framesDisc + 1 } }

/-- A response sent on the path its request came by (R444). -/
def State.reply (s : State) (src : Source) (rsp : Bytes) : State :=
  if !s.pathOpen src then s
  else
    match src with
    | .port _ => { s with mgmt := { s.mgmt with portTx := rsp } }
    | .mirror => { s with mgmt := { s.mgmt with mbxRsp := rsp, mbxBusy := false, mbxReady := true, msix0 := s.mgmt.msix0 + 1 } }

/-- A response: the request's header with its TYPE, STATUS and value, and the MAC of a session. -/
def Frame.answer (q : Frame) (ses status : Nat) (value : Bytes) (key : Option (BitVec 256)) : Bytes :=
  let body := aoaHeader (q.type + 0x80) ses q.seq q.idx q.sub status value.length ++ value
  body ++ match key with
    | some k => frameMac k body
    | none => []

/-- A session's record of the request just served, where it is still open (R437, R440). -/
def State.served (s : State) (q : Frame) (key : BitVec 256) (rsp : Bytes) : State :=
  match mapGet none s.mgmt.sessions q.ses with
  | none => s
  | some x =>
    if x.key = key then
      let y : Session := { x with lastSeq := some (word q.seq), lastReq := q.body, lastRsp := rsp, lastAt := s.island }
      { s with mgmt := { s.mgmt with sessions := mapSet none s.mgmt.sessions q.ses (some y) } }
    else s

/-- What a request does and answers: the state, STATUS and the value (R438, R440). -/
abbrev Served := State × Nat × Bytes

/-! ### GET and SET (R438) -/

/-- What GET of an object answers; two objects' reads change the state (R430, R439). -/
def State.getObject (s : State) (src : Source) (q : Frame) : Served :=
  let ses : Ses := BitVec.ofNat 16 q.ses
  let r := s.role ses
  if (objectLength q.idx q.sub).isNone then (s, 0x4001, [])
  else if s.unserved q.idx then (s, 0x4010, [])
  else if q.idx = 0x1010 ∧ q.sub = 1 then
    let (c, s1) := s.readChallenge r
    (s1, 0, toLE c.toNat 16)
  else if q.idx = 0x3140 ∧ q.sub = 1 ∧ s.mayRead r 0x3140 1 = true then
    let (c, s1) := s.newChallenge src
    (s1, 0, toBE c.toNat 16)
  else (s, 0, s.readObject ses r q.idx q.sub)

/-- What SET of an object answers. -/
def State.setObject (s : State) (q : Frame) : Served :=
  let (s1, status) := s.writeObject (BitVec.ofNat 16 q.ses) q.idx q.sub q.data
  (s1, status, [])

/-! ### OPEN (R439) and CLOSE (R440) -/

/-- The role an OPEN asks for, where its PART fits. -/
def openRole (role part : Nat) : Option Role :=
  match role with
  | 1 => if part = 0xFF then some .operator else none
  | 2 => if part < 40 then some (.owner (BitVec.ofNat 8 part)) else none
  | 3 => if part = 0xFF then some .maker else none
  | _ => none

/-- A role may open a session in the present life-cycle state (R442). -/
def State.mayOpen (s : State) (r : Role) : Bool := r = .maker || (2 ≤ s.lifeCycle && s.lifeCycle ≤ 4)

/-- The credential of a role. -/
def State.credential (s : State) : Role → Option (BitVec 256)
  | .operator => s.mgmt.operatorCred
  | .owner p => mapGet none s.mgmt.ownerCreds p.toNat
  | .maker => some Config.makerKey
  | .anonymous => none

/-- The challenge bound to a source, for 10 s. -/
def State.challengeOf (s : State) (src : Source) : Option (BitVec 128) :=
  (s.mgmt.challenges.find? fun e => e.1 = srcKey src && s.island ≤ e.2.2 + 10000000000).map fun e => e.2.1

/-- The lowest session number that is free. -/
def State.freeSession (s : State) : Option Nat :=
  ((List.range 32).map (· + 1)).find? fun n => (mapGet none s.mgmt.sessions n).isNone

/-- PROOF of an OPEN. -/
def openProof (key : BitVec 256) (challenge : BitVec 128) (data : Bytes) : Bytes :=
  cmac (toBE key.toNat 32)
    ([0] ++ toBE Config.serial.toNat 16 ++ toBE challenge.toNat 16 ++ slice data 0 2 ++ slice data 4 16)

/-- The session key of an OPEN. -/
def sessionKey (key : BitVec 256) (challenge : BitVec 128) (data : Bytes) : BitVec 256 :=
  let half (n : Byte) : Bytes := cmac (toBE key.toNat 32) ([n] ++ toBE challenge.toNat 16 ++ slice data 4 16)
  BitVec.ofNat 256 (beNat (half 1 ++ half 2))

/-- The session an OPEN is granted: its number and what it holds. -/
def State.openGrant (s : State) (src : Source) (data : Bytes) : Option (Nat × Session) := do
  let r ← openRole (fieldAt data 0 1) (fieldAt data 1 1)
  let c ← s.challengeOf src
  let k ← s.credential r
  let n ← s.freeSession
  if data.length = 36 && fieldAt data 2 2 = 0 && s.mayOpen r && slice data 20 16 = openProof k c data then
    some (n, { role := r, key := sessionKey k c data, mirror := decide (src = .mirror), lastAt := s.island })
  else none

/-- An OPEN served: the challenge of its source is consumed whether PROOF passes or fails. -/
def State.openSession (s : State) (src : Source) (q : Frame) : State :=
  let used := s.mgmt.challenges.filter fun e => e.1 ≠ srcKey src
  let s1 := { s with mgmt := { s.mgmt with challenges := used } }
  match s.openGrant src q.data with
  | some (n, x) =>
    let s2 := { s1 with mgmt := { s1.mgmt with sessions := mapSet none s1.mgmt.sessions n (some x) } }
    s2.reply src (q.answer n 0 [] (some x.key))
  | none => s1.reply src (q.answer 0 0x4001 [] none)

/-! ### The frames as they come (R437) -/

/-- What GET, SET or CLOSE does and answers. -/
def State.serve (s : State) (src : Source) (q : Frame) : Served :=
  match q.type with
  | 1 => s.getObject src q
  | 2 => s.setObject q
  | _ => (s.closeSession q.ses, 0, [])

/-- A frame handled: discarded, answered as before, or served and answered (R437). -/
def State.handleFrame (s : State) (src : Source) (f : Bytes) : State :=
  match parseFrame f with
  | none => s.dropFrame
  | some q =>
    if q.type = 3 then s.openSession src q
    else
      match s.admits src q with
      | .discard => s.dropFrame
      | .again rsp => s.reply src rsp
      | .serve none =>
        let (s1, status, value) := s.serve src q
        s1.reply src (q.answer 0 status value none)
      | .serve (some x) =>
        let (s1, status, value) := s.serve src q
        let rsp := q.answer q.ses status value (some x.key)
        (s1.served q x.key rsp).reply src rsp

/-- A frame that is a command's: one of its type, or one whose type cannot be read; on the mirror the frame that is posted (R444). -/
def State.frameFor (s : State) (src : Source) (f : Bytes) (type : Nat) : Bool :=
  s.pathOpen src && (src ≠ .mirror || (s.mgmt.mbxBusy && s.mgmt.mbxReq = f))
    && match parseFrame f with
      | some q => q.type = type
      | none => true

/-- A frame comes by the port or the mirror. DESIGN CHOICE (log 128): the controller handles one frame in a nanosecond; another waits in the
queue of 32, and is discarded where it is full (R437). -/
def State.takeFrame (s : State) (src : Source) (f : Bytes) (type : Nat) : State :=
  if !s.frameFor src f type then s
  else
    let s1 := s.countFrame src
    if s.mgmt.handling then
      if 32 ≤ s.mgmt.frameQ.length then s1.dropFrame
      else { s1 with mgmt := { s1.mgmt with frameQ := s1.mgmt.frameQ ++ [(src, f)] } }
    else ({ s1 with mgmt := { s1.mgmt with handling := true } }).handleFrame src f

/-- A nanosecond later the oldest frame that waits is handled. -/
def State.nextFrame (s : State) : State :=
  match s.mgmt.frameQ with
  | [] => { s with mgmt := { s.mgmt with handling := false } }
  | (src, f) :: rest => ({ s with mgmt := { s.mgmt with frameQ := rest } }).handleFrame src f

/-- GET (R438). -/
def execGet (src : Source) (frame : Bytes) (s : State) : Out := .next (s.takeFrame src frame 1)
/-- SET (R438). -/
def execSet (src : Source) (frame : Bytes) (s : State) : Out := .next (s.takeFrame src frame 2)
/-- OPEN (R439). -/
def execAoaOpen (src : Source) (frame : Bytes) (s : State) : Out := .next (s.takeFrame src frame 3)
/-- CLOSE (R440). -/
def execAoaClose (src : Source) (frame : Bytes) (s : State) : Out := .next (s.takeFrame src frame 4)

end Sys2Proof.Machine
end

