-- ==== Sys2Proof/Machine/Complete.lean ====
section
/-! DEFINITION. The completion of a dispatched command (R70), after which a waiting VSIG may go on (R146) and an array's gap begins
(R111). -/

namespace Sys2Proof.Machine

/-- A command may complete: its work is done, or it is an UNDERLAY whose duration has passed (R112). -/
def Tile.mayComplete (x : Tile) (now : Nat) (f : Flight) : Bool :=
  f.finished || (f.cmd.unit = 0 && f.cmd.arrOp = 7 && (match x.arr.holdUntil with | some e => e ≤ now | none => false))

/-- With no array command in flight the arrays of the panel go into a gap (R111). -/
def State.arrayIdle (s : State) (l : Path) : State :=
  if (s.tile l).flights.any fun f => f.cmd.unit = 0 then s else s.arrays l (ArrayLevel.gap s.island)

/-- COMMAND_COMPLETE (R70): the k-th dispatched command of a tile, if its work is done. -/
def execCommandComplete (t : Path) (k : Nat) (s : State) : Out :=
  guardUnit (activePath t)
    (let l := s.lead t
     match (s.tile l).flights[k]? with
     | some f =>
       if s.unitsRun l && (s.tile l).mayComplete s.island f then ((s.complete l f.cmd).arrayIdle l).vecRun l else s
     | none => s)

end Sys2Proof.Machine
end

