-- ==== Sys2Proof/Machine/Debug.lean ====
section
/-! DEFINITION. The debug connector J3 (R429): what each life-cycle state opens, and what an access then does. -/

namespace Sys2Proof.Machine

/-- The answer shifted out last. -/
def State.debugAnswer (s : State) (bs : Bytes) : State := { s with mgmt := { s.mgmt with debugOut := bs } }

/-- An instruction decoded as BYPASS: the one-bit register captures 0. -/
def State.bypassed (s : State) : State := s.debugAnswer [0]

/-- SAMPLE/PRELOAD and EXTEST are open: freely in Manufacture, Provisioned and Return; in Field and Field-Debug while PERST_N is held
and no partition is formed. -/
def State.boundaryOpen (s : State) : Bool :=
  [1, 2, 5].contains s.lifeCycle ||
    ([3, 4].contains s.lifeCycle && s.pwr.perst && (List.range 40).all fun p => !s.formed p)

/-- What a state lets an access to a tile do: nothing open, refused because a formed partition owns the tile (R420), or served. -/
inductive DebugGate where
  | closed | refused | open'
  deriving DecidableEq, Repr

/-- The gate of a tile: any tile in Manufacture and Return, tiles of no partition in Provisioned and Field-Debug. -/
def State.debugGate (s : State) (t : Path) : DebugGate :=
  if [1, 5].contains s.lifeCycle then .open'
  else if [2, 4].contains s.lifeCycle then (if (s.partOf t).isSome then .refused else .open')
  else .closed

/-- An access to a tile: BYPASS where the state opens none, DENIED for a tile of a partition, nothing for a tile that does not run. -/
def State.debugTile (s : State) (t : Path) (ok : Bool) (f : State → State) : Out :=
  guardUnit (validPath t && ok)
    (match s.debugGate t with
     | .closed => s.bypassed
     | .refused => s.debugAnswer (toLE 0x4001 2)
     | .open' => if s.poweredDown (clusterOf t) then s else f s)

/-- A word of boundary cells or scan cells: the spec gives it no value. -/
def State.scanned (s : State) (may : Bool) : State :=
  if may then
    let (w, s1) := s.freeWord
    s1.debugAnswer (toLE w.toNat 4)
  else s.bypassed

/-- A part of a sequencer's state read. -/
def Tile.seqPart (x : Tile) (p : SeqPart) : Nat :=
  match p with
  | .pc => x.pc.toNat
  | .mode => x.mode.toNat
  | .evbase => x.evbase.toNat
  | .stkLo => x.stkLo.toNat
  | .stkHi => x.stkHi.toNat
  | .fireBase => x.fireBase.toNat
  | .lcount n => (x.lc n.toNat).toNat
  | .loop n => (x.loop n.toNat).toNat
  | .ticket n => (mapGet 0 x.tickets n.toNat).toNat
  | .queued => x.cmdQ.length + 256 * x.loadQ.length + 65536 * x.storeQ.length

/-- A part of a sequencer's state written. -/
def Tile.setSeqPart (x : Tile) (p : SeqPart) (v : Word) : Tile :=
  match p with
  | .pc => { x with pc := v }
  | .mode => { x with mode := v }
  | .evbase => { x with evbase := v }
  | .stkLo => { x with stkLo := v }
  | .stkHi => { x with stkHi := v }
  | .fireBase => { x with fireBase := v }
  | .lcount n => x.setLc n.toNat v
  | .loop n => x.setLoop n.toNat v
  | .ticket n => { x with tickets := mapSet 0 x.tickets n.toNat v }
  | .queued => x

/-- Memory and register access is open: Manufacture and Return. -/
def State.accessOpen (s : State) : Bool := [1, 5].contains s.lifeCycle

/-- An access to tier memory or to a register of the dictionary, as the maker reads and writes them; BYPASS where it is not open. -/
def State.debugAccess (s : State) (ok : Bool) (f : State → State) : Out := guardUnit ok (if s.accessOpen then f s else s.bypassed)

/-- So many bytes of tier memory exist from an address on. -/
def memoryRange (pa len : Nat) : Bool := (slabOf pa).isSome && (slabOf (pa + (len - 1))).isSome

/-- An access while TCK runs. -/
def State.debugServe (s : State) (op : DebugOp) : Out :=
  match op with
  | .idcode => .next (s.debugAnswer (toLE Config.idcode.toNat 4))
  | .bypass => .next s.bypassed
  | .samplePreload => .next (s.scanned s.boundaryOpen)
  | .extest => .next (s.scanned s.boundaryOpen)
  | .internalScan => .next (s.scanned ([1, 5].contains s.lifeCycle))
  | .readReg t r => s.debugTile t true fun s => s.debugAnswer (toLE ((s.tile (s.lead t)).reg r).toNat 4)
  | .writeReg t r v => s.debugTile t true fun s => s.modTile (s.lead t) fun x => x.setReg r v
  | .readStore t a len =>
    s.debugTile t (decide (a.toNat + len ≤ 0x200000)) fun s => s.debugAnswer (readCells (s.tile t).ls a.toNat len)
  | .writeStore t a data =>
    s.debugTile t (decide (a.toNat + data.length ≤ 0x200000)) fun s => s.modTile t fun x => x.writeLS a.toNat data
  | .readSeq t p => s.debugTile t true fun s => s.debugAnswer (toLE ((s.tile (s.lead t)).seqPart p) 4)
  | .writeSeq t p v => s.debugTile t true fun s => s.modTile (s.lead t) fun x => x.setSeqPart p v
  | .readMemory pa len => s.debugAccess (memoryRange pa.toNat len) fun s => s.debugAnswer (readCells s.mem.tier pa.toNat len)
  | .writeMemory pa data =>
    s.debugAccess (memoryRange pa.toNat data.length) fun s => { s with mem := { s.mem with tier := writeCells s.mem.tier pa.toNat data } }
  | .readObject idx sub => s.debugAccess true fun s => s.debugAnswer (s.readObject 0 .maker idx.toNat sub.toNat)
  | .writeObject idx sub data =>
    s.debugAccess true fun s => match s.putObject (s.writeReq 0 idx.toNat sub.toNat data) .maker with
      | .ok s' => s'
      | .refused code _ => s.debugAnswer (toLE code 2)
  | .readWindow t => s.debugTile t true fun s => s.debugAnswer (s.windowBytes (tileWin t))

/-- DEBUG_ACCESS (R429): in Retired TCK does not run, and without the auxiliary rail nothing does. -/
def execDebugAccess (op : DebugOp) (s : State) : Out :=
  if !s.pwr.aux || s.lifeCycle = 6 then .next s else s.debugServe op

end Sys2Proof.Machine
end

