-- ==== Sys2Proof/Machine/Dispatch.lean ====
section
/-! DEFINITION. The dispatcher: one arm per constructor of Instr, each one direct call of its meaning. -/

namespace Sys2Proof.Machine

/-- What a command does to everything but the queue. -/
def exec (i : Instr) (s : State) : Host.Outcome State Fault Refusal :=
  match i with
  | .doorbellNop win ctx rsv arg => Sys2Proof.Machine.execDoorbellNop win ctx rsv arg s
  | .start win ctx rsv arg => Sys2Proof.Machine.execStart win ctx rsv arg s
  | .stop win ctx rsv arg => Sys2Proof.Machine.execStop win ctx rsv arg s
  | .resume win ctx rsv arg => Sys2Proof.Machine.execResume win ctx rsv arg s
  | .clearFault win ctx rsv arg => Sys2Proof.Machine.execClearFault win ctx rsv arg s
  | .resetTickets win ctx rsv arg => Sys2Proof.Machine.execResetTickets win ctx rsv arg s
  | .setFiring win ctx rsv arg => Sys2Proof.Machine.execSetFiring win ctx rsv arg s
  | .add t v rd ra rb => Sys2Proof.Machine.execAdd t v rd ra rb s
  | .sub t v rd ra rb => Sys2Proof.Machine.execSub t v rd ra rb s
  | .and t v rd ra rb => Sys2Proof.Machine.execAnd t v rd ra rb s
  | .or t v rd ra rb => Sys2Proof.Machine.execOr t v rd ra rb s
  | .xor t v rd ra rb => Sys2Proof.Machine.execXor t v rd ra rb s
  | .sll t v rd ra rb => Sys2Proof.Machine.execSll t v rd ra rb s
  | .srl t v rd ra rb => Sys2Proof.Machine.execSrl t v rd ra rb s
  | .sra t v rd ra rb => Sys2Proof.Machine.execSra t v rd ra rb s
  | .slt t v rd ra rb => Sys2Proof.Machine.execSlt t v rd ra rb s
  | .sltu t v rd ra rb => Sys2Proof.Machine.execSltu t v rd ra rb s
  | .mul t v rd ra rb => Sys2Proof.Machine.execMul t v rd ra rb s
  | .mulhu t v rd ra rb => Sys2Proof.Machine.execMulhu t v rd ra rb s
  | .min t v rd ra rb => Sys2Proof.Machine.execMin t v rd ra rb s
  | .max t v rd ra rb => Sys2Proof.Machine.execMax t v rd ra rb s
  | .minu t v rd ra rb => Sys2Proof.Machine.execMinu t v rd ra rb s
  | .maxu t v rd ra rb => Sys2Proof.Machine.execMaxu t v rd ra rb s
  | .addi t v rd ra imm => Sys2Proof.Machine.execAddi t v rd ra imm s
  | .andi t v rd ra imm => Sys2Proof.Machine.execAndi t v rd ra imm s
  | .ori t v rd ra imm => Sys2Proof.Machine.execOri t v rd ra imm s
  | .slti t v rd ra imm => Sys2Proof.Machine.execSlti t v rd ra imm s
  | .slli t v rd ra sh => Sys2Proof.Machine.execSlli t v rd ra sh s
  | .srli t v rd ra sh => Sys2Proof.Machine.execSrli t v rd ra sh s
  | .srai t v rd ra sh => Sys2Proof.Machine.execSrai t v rd ra sh s
  | .lui t v rd imm => Sys2Proof.Machine.execLui t v rd imm s
  | .lw t v rt base off => Sys2Proof.Machine.execLw t v rt base off s
  | .sw t v rt base off => Sys2Proof.Machine.execSw t v rt base off s
  | .lhu t v rt base off => Sys2Proof.Machine.execLhu t v rt base off s
  | .sh t v rt base off => Sys2Proof.Machine.execSh t v rt base off s
  | .brEq t v ra rb off => Sys2Proof.Machine.execBrEq t v ra rb off s
  | .brNe t v ra rb off => Sys2Proof.Machine.execBrNe t v ra rb off s
  | .brLt t v ra rb off => Sys2Proof.Machine.execBrLt t v ra rb off s
  | .brGe t v ra rb off => Sys2Proof.Machine.execBrGe t v ra rb off s
  | .brLtu t v ra rb off => Sys2Proof.Machine.execBrLtu t v ra rb off s
  | .brGeu t v ra rb off => Sys2Proof.Machine.execBrGeu t v ra rb off s
  | .j t v off => Sys2Proof.Machine.execJ t v off s
  | .jal t v off => Sys2Proof.Machine.execJal t v off s
  | .jr t v ra => Sys2Proof.Machine.execJr t v ra s
  | .jalr t v ra => Sys2Proof.Machine.execJalr t v ra s
  | .loop t v level imm len count => Sys2Proof.Machine.execLoop t v level imm len count s
  | .issue t v rdesc => Sys2Proof.Machine.execIssue t v rdesc s
  | .twait t v tk rx imm => Sys2Proof.Machine.execTwait t v tk rx imm s
  | .twaiti t v tk rx imm => Sys2Proof.Machine.execTwaiti t v tk rx imm s
  | .tadv t v tk rx imm => Sys2Proof.Machine.execTadv t v tk rx imm s
  | .tread t v tk rx imm => Sys2Proof.Machine.execTread t v tk rx imm s
  | .mfc t v rx cr => Sys2Proof.Machine.execMfc t v rx cr s
  | .mtc t v rx cr => Sys2Proof.Machine.execMtc t v rx cr s
  | .nop t v imm => Sys2Proof.Machine.execNop t v imm s
  | .trap t v imm => Sys2Proof.Machine.execTrap t v imm s
  | .eret t v imm => Sys2Proof.Machine.execEret t v imm s
  | .halt t v imm => Sys2Proof.Machine.execHalt t v imm s
  | .fence t v imm => Sys2Proof.Machine.execFence t v imm s
  | .faultInsn t v imm => Sys2Proof.Machine.execFaultInsn t v imm s
  | .exceptionEntry t => Sys2Proof.Machine.execExceptionEntry t s
  | .commandComplete t k => Sys2Proof.Machine.execCommandComplete t k s
  | .fireItem t => Sys2Proof.Machine.execFireItem t s
  | .vaddF t v vd va vb m => Sys2Proof.Machine.execVaddF t v vd va vb m s
  | .vsubF t v vd va vb m => Sys2Proof.Machine.execVsubF t v vd va vb m s
  | .vmulF t v vd va vb m => Sys2Proof.Machine.execVmulF t v vd va vb m s
  | .vfmaF t v vd va vb m => Sys2Proof.Machine.execVfmaF t v vd va vb m s
  | .vminF t v vd va vb m => Sys2Proof.Machine.execVminF t v vd va vb m s
  | .vmaxF t v vd va vb m => Sys2Proof.Machine.execVmaxF t v vd va vb m s
  | .vcltF t v vd va vb m => Sys2Proof.Machine.execVcltF t v vd va vb m s
  | .vcleF t v vd va vb m => Sys2Proof.Machine.execVcleF t v vd va vb m s
  | .vceqF t v vd va vb m => Sys2Proof.Machine.execVceqF t v vd va vb m s
  | .vclassF t v vd va vb m => Sys2Proof.Machine.execVclassF t v vd va vb m s
  | .vaddH t v vd va vb m => Sys2Proof.Machine.execVaddH t v vd va vb m s
  | .vsubH t v vd va vb m => Sys2Proof.Machine.execVsubH t v vd va vb m s
  | .vmulH t v vd va vb m => Sys2Proof.Machine.execVmulH t v vd va vb m s
  | .vfmaH t v vd va vb m => Sys2Proof.Machine.execVfmaH t v vd va vb m s
  | .vminH t v vd va vb m => Sys2Proof.Machine.execVminH t v vd va vb m s
  | .vmaxH t v vd va vb m => Sys2Proof.Machine.execVmaxH t v vd va vb m s
  | .vaddI t v vd va vb m => Sys2Proof.Machine.execVaddI t v vd va vb m s
  | .vsubI t v vd va vb m => Sys2Proof.Machine.execVsubI t v vd va vb m s
  | .vmulI t v vd va vb m => Sys2Proof.Machine.execVmulI t v vd va vb m s
  | .vminI t v vd va vb m => Sys2Proof.Machine.execVminI t v vd va vb m s
  | .vmaxI t v vd va vb m => Sys2Proof.Machine.execVmaxI t v vd va vb m s
  | .vcltI t v vd va vb m => Sys2Proof.Machine.execVcltI t v vd va vb m s
  | .vceqI t v vd va vb m => Sys2Proof.Machine.execVceqI t v vd va vb m s
  | .vand t v vd va vb m => Sys2Proof.Machine.execVand t v vd va vb m s
  | .vor t v vd va vb m => Sys2Proof.Machine.execVor t v vd va vb m s
  | .vxor t v vd va vb m => Sys2Proof.Machine.execVxor t v vd va vb m s
  | .vsll t v vd va vb m => Sys2Proof.Machine.execVsll t v vd va vb m s
  | .vsrl t v vd va vb m => Sys2Proof.Machine.execVsrl t v vd va vb m s
  | .vsra t v vd va vb m => Sys2Proof.Machine.execVsra t v vd va vb m s
  | .vsel t v vd va vb m => Sys2Proof.Machine.execVsel t v vd va vb m s
  | .vsplat t v vd va vb m => Sys2Proof.Machine.execVsplat t v vd va vb m s
  | .vlane t v vd va vb m => Sys2Proof.Machine.execVlane t v vd va vb m s
  | .vmand t v vd va vb m => Sys2Proof.Machine.execVmand t v vd va vb m s
  | .vmor t v vd va vb m => Sys2Proof.Machine.execVmor t v vd va vb m s
  | .vmxor t v vd va vb m => Sys2Proof.Machine.execVmxor t v vd va vb m s
  | .vmnot t v vd va vb m => Sys2Proof.Machine.execVmnot t v vd va vb m s
  | .vsetsr t v vd va vb m => Sys2Proof.Machine.execVsetsr t v vd va vb m s
  | .vsig t v vd va vb m => Sys2Proof.Machine.execVsig t v vd va vb m s
  | .vcvtFi t v vd va vb m => Sys2Proof.Machine.execVcvtFi t v vd va vb m s
  | .vcvtIf t v vd va vb m => Sys2Proof.Machine.execVcvtIf t v vd va vb m s
  | .vcvtFh t v vd va vb m => Sys2Proof.Machine.execVcvtFh t v vd va vb m s
  | .vcvtHf t v vd va vb m => Sys2Proof.Machine.execVcvtHf t v vd va vb m s
  | .vcvtFn t v vd va vb m => Sys2Proof.Machine.execVcvtFn t v vd va vb m s
  | .vcvtNf t v vd va vb m => Sys2Proof.Machine.execVcvtNf t v vd va vb m s
  | .vld t v vd va vb m => Sys2Proof.Machine.execVld t v vd va vb m s
  | .vst t v vd va vb m => Sys2Proof.Machine.execVst t v vd va vb m s
  | .vldx t v vd va vb m => Sys2Proof.Machine.execVldx t v vd va vb m s
  | .vstx t v vd va vb m => Sys2Proof.Machine.execVstx t v vd va vb m s
  | .vrsumF t v vd va vb m => Sys2Proof.Machine.execVrsumF t v vd va vb m s
  | .vrmaxF t v vd va vb m => Sys2Proof.Machine.execVrmaxF t v vd va vb m s
  | .vrminF t v vd va vb m => Sys2Proof.Machine.execVrminF t v vd va vb m s
  | .vramxF t v vd va vb m => Sys2Proof.Machine.execVramxF t v vd va vb m s
  | .mma t => Sys2Proof.Machine.execMma t s
  | .l1 t => Sys2Proof.Machine.execL1 t s
  | .minplus t => Sys2Proof.Machine.execMinplus t s
  | .maxplus t => Sys2Proof.Machine.execMaxplus t s
  | .topk t => Sys2Proof.Machine.execTopk t s
  | .fp32x3 t => Sys2Proof.Machine.execFp32x3 t s
  | .cplx3 t => Sys2Proof.Machine.execCplx3 t s
  | .underlay t => Sys2Proof.Machine.execUnderlay t s
  | .underlayStepDown t => Sys2Proof.Machine.execUnderlayStepDown t s
  | .underlayStepUp t => Sys2Proof.Machine.execUnderlayStepUp t s
  | .panelLayoutWrite ses layout => Sys2Proof.Machine.execPanelLayoutWrite ses layout s
  | .route t => Sys2Proof.Machine.execRoute t s
  | .redSum t => Sys2Proof.Machine.execRedSum t s
  | .redSsq t => Sys2Proof.Machine.execRedSsq t s
  | .redMax t => Sys2Proof.Machine.execRedMax t s
  | .redMin t => Sys2Proof.Machine.execRedMin t s
  | .redAmax t => Sys2Proof.Machine.execRedAmax t s
  | .occ t => Sys2Proof.Machine.execOcc t s
  | .qy4 t => Sys2Proof.Machine.execQy4 t s
  | .copyLoad t => Sys2Proof.Machine.execCopyLoad t s
  | .expand t => Sys2Proof.Machine.execExpand t s
  | .transpose t => Sys2Proof.Machine.execTranspose t s
  | .gather t => Sys2Proof.Machine.execGather t s
  | .prefetch t => Sys2Proof.Machine.execPrefetch t s
  | .progload t => Sys2Proof.Machine.execProgload t s
  | .copyStore t => Sys2Proof.Machine.execCopyStore t s
  | .compress t => Sys2Proof.Machine.execCompress t s
  | .memoryRequest ctx pa req errs => Sys2Proof.Machine.execMemoryRequest ctx pa req errs s
  | .readaheadExpire tier2 ch => Sys2Proof.Machine.execReadaheadExpire tier2 ch s
  | .patrolScrub pa errs => Sys2Proof.Machine.execPatrolScrub pa errs s
  | .retirePage ses page => Sys2Proof.Machine.execRetirePage ses page s
  | .slabOwnerWrite ses owner => Sys2Proof.Machine.execSlabOwnerWrite ses owner s
  | .rekey ses => Sys2Proof.Machine.execRekey ses s
  | .slabScrubDone slab => Sys2Proof.Machine.execSlabScrubDone slab s
  | .imbalanceWindow => Sys2Proof.Machine.execImbalanceWindow s
  | .contextBind ses part => Sys2Proof.Machine.execContextBind ses part s
  | .contextUnbind ses => Sys2Proof.Machine.execContextUnbind ses s
  | .map ses rec => Sys2Proof.Machine.execMap ses rec s
  | .unmap ses rec => Sys2Proof.Machine.execUnmap ses rec s
  | .protect ses rec => Sys2Proof.Machine.execProtect ses rec s
  | .mappingComplete part => Sys2Proof.Machine.execMappingComplete part s
  | .programLoadRequest ses rec => Sys2Proof.Machine.execProgramLoadRequest ses rec s
  | .stage t => Sys2Proof.Machine.execStage t s
  | .normsum t => Sys2Proof.Machine.execNormsum t s
  | .verdict t => Sys2Proof.Machine.execVerdict t s
  | .commit t => Sys2Proof.Machine.execCommit t s
  | .barrier t => Sys2Proof.Machine.execBarrier t s
  | .broadcast t => Sys2Proof.Machine.execBroadcast t s
  | .allreduce t => Sys2Proof.Machine.execAllreduce t s
  | .reduceScatter t => Sys2Proof.Machine.execReduceScatter t s
  | .allgather t => Sys2Proof.Machine.execAllgather t s
  | .alltoall t => Sys2Proof.Machine.execAlltoall t s
  | .alltoallv t => Sys2Proof.Machine.execAlltoallv t s
  | .alltoallvRev t => Sys2Proof.Machine.execAlltoallvRev t s
  | .shuttleSlotOpen t => Sys2Proof.Machine.execShuttleSlotOpen t s
  | .collectiveDeadline ctx slot => Sys2Proof.Machine.execCollectiveDeadline ctx slot s
  | .msgCts p => Sys2Proof.Machine.execMsgCts p s
  | .msgData p => Sys2Proof.Machine.execMsgData p s
  | .msgCounts p => Sys2Proof.Machine.execMsgCounts p s
  | .msgDone p => Sys2Proof.Machine.execMsgDone p s
  | .msgToken p => Sys2Proof.Machine.execMsgToken p s
  | .msgAbort p => Sys2Proof.Machine.execMsgAbort p s
  | .outPack t => Sys2Proof.Machine.execOutPack t s
  | .outExchange t => Sys2Proof.Machine.execOutExchange t s
  | .outApply t => Sys2Proof.Machine.execOutApply t s
  | .outSnapfetch t => Sys2Proof.Machine.execOutSnapfetch t s
  | .snapfetchRetry gid => Sys2Proof.Machine.execSnapfetchRetry gid s
  | .snapfetchTimeout gid => Sys2Proof.Machine.execSnapfetchTimeout gid s
  | .msgContrib p => Sys2Proof.Machine.execMsgContrib p s
  | .msgReceipt p => Sys2Proof.Machine.execMsgReceipt p s
  | .msgBitmap p => Sys2Proof.Machine.execMsgBitmap p s
  | .msgSnapreq p => Sys2Proof.Machine.execMsgSnapreq p s
  | .msgSnapdata p => Sys2Proof.Machine.execMsgSnapdata p s
  | .outDeadline gid => Sys2Proof.Machine.execOutDeadline gid s
  | .outStatusLimit gid => Sys2Proof.Machine.execOutStatusLimit gid s
  | .outIncomplete gid => Sys2Proof.Machine.execOutIncomplete gid s
  | .register ses rec => Sys2Proof.Machine.execRegister ses rec s
  | .release ses rec => Sys2Proof.Machine.execRelease ses rec s
  | .bind ses rec => Sys2Proof.Machine.execBind ses rec s
  | .unbind ses rec => Sys2Proof.Machine.execUnbind ses rec s
  | .planAdmit ses rec => Sys2Proof.Machine.execPlanAdmit ses rec s
  | .withdraw ses rec => Sys2Proof.Machine.execWithdraw ses rec s
  | .dataFrame p frame => Sys2Proof.Machine.execDataFrame p frame s
  | .hello p frame => Sys2Proof.Machine.execHello p frame s
  | .credit p frame => Sys2Proof.Machine.execCredit p frame s
  | .ts p frame frac => Sys2Proof.Machine.execTs p frame frac s
  | .dataFrameSend p => Sys2Proof.Machine.execDataFrameSend p s
  | .creditSend p => Sys2Proof.Machine.execCreditSend p s
  | .tsSend p frac => Sys2Proof.Machine.execTsSend p frac s
  | .responseDeadline p => Sys2Proof.Machine.execResponseDeadline p s
  | .laneLockLoss p lane => Sys2Proof.Machine.execLaneLockLoss p lane s
  | .opticsMonitorFault p => Sys2Proof.Machine.execOpticsMonitorFault p s
  | .portEnable ses => Sys2Proof.Machine.execPortEnable ses s
  | .portDisable ses => Sys2Proof.Machine.execPortDisable ses s
  | .portCloseDrained p => Sys2Proof.Machine.execPortCloseDrained p s
  | .portTrain p => Sys2Proof.Machine.execPortTrain p s
  | .trainingTimeout p => Sys2Proof.Machine.execTrainingTimeout p s
  | .rootClaim => Sys2Proof.Machine.execRootClaim s
  | .counterLock => Sys2Proof.Machine.execCounterLock s
  | .parentLoss => Sys2Proof.Machine.execParentLoss s
  | .arm ses rec => Sys2Proof.Machine.execArm ses rec s
  | .cancel ses rec => Sys2Proof.Machine.execCancel ses rec s
  | .launchFire part => Sys2Proof.Machine.execLaunchFire part s
  | .checkerCompare k => Sys2Proof.Machine.execCheckerCompare k s
  | .checkerReseed k => Sys2Proof.Machine.execCheckerReseed k s
  | .checkerFence ses => Sys2Proof.Machine.execCheckerFence ses s
  | .injectionArm ses => Sys2Proof.Machine.execInjectionArm ses s
  | .injectionCancel ses => Sys2Proof.Machine.execInjectionCancel ses s
  | .parityError site => Sys2Proof.Machine.execParityError site s
  | .faultRingHeartbeat collector crcBad missed => Sys2Proof.Machine.execFaultRingHeartbeat collector crcBad missed s
  | .notify => Sys2Proof.Machine.execNotify s
  | .fatalAcknowledge ses => Sys2Proof.Machine.execFatalAcknowledge ses s
  | .write ses rec => Sys2Proof.Machine.execWrite ses rec s
  | .restore ses rec => Sys2Proof.Machine.execRestore ses rec s
  | .verify ses rec => Sys2Proof.Machine.execVerify ses rec s
  | .noiseHealthWindow startup samples => Sys2Proof.Machine.execNoiseHealthWindow startup samples s
  | .drbgInstantiate => Sys2Proof.Machine.execDrbgInstantiate s
  | .drbgReseed healthy => Sys2Proof.Machine.execDrbgReseed healthy s
  | .maskReseed engine => Sys2Proof.Machine.execMaskReseed engine s
  | .keyInstall ses rec => Sys2Proof.Machine.execKeyInstall ses rec s
  | .keyErase ses rec => Sys2Proof.Machine.execKeyErase ses rec s
  | .zeroise ses => Sys2Proof.Machine.execZeroise ses s
  | .cbc ses rec => Sys2Proof.Machine.execCbc ses rec s
  | .ctr ses rec => Sys2Proof.Machine.execCtr ses rec s
  | .cfb ses rec => Sys2Proof.Machine.execCfb ses rec s
  | .gcm ses rec => Sys2Proof.Machine.execGcm ses rec s
  | .ccm ses rec => Sys2Proof.Machine.execCcm ses rec s
  | .cmac ses rec => Sys2Proof.Machine.execCmac ses rec s
  | .sha256 ses rec => Sys2Proof.Machine.execSha256 ses rec s
  | .form ses => Sys2Proof.Machine.execForm ses s
  | .dissolve ses => Sys2Proof.Machine.execDissolve ses s
  | .lcChallengeRead ses => Sys2Proof.Machine.execLcChallengeRead ses s
  | .lcToProvisioned ses token => Sys2Proof.Machine.execLcToProvisioned ses token s
  | .lcToField ses token => Sys2Proof.Machine.execLcToField ses token s
  | .lcToFieldDebug ses token => Sys2Proof.Machine.execLcToFieldDebug ses token s
  | .lcToReturn ses token => Sys2Proof.Machine.execLcToReturn ses token s
  | .lcToManufacture ses token => Sys2Proof.Machine.execLcToManufacture ses token s
  | .lcToRetired ses token => Sys2Proof.Machine.execLcToRetired ses token s
  | .get src frame => Sys2Proof.Machine.execGet src frame s
  | .set src frame => Sys2Proof.Machine.execSet src frame s
  | .aoaOpen src frame => Sys2Proof.Machine.execAoaOpen src frame s
  | .aoaClose src frame => Sys2Proof.Machine.execAoaClose src frame s
  | .sessionChallengeRead src => Sys2Proof.Machine.execSessionChallengeRead src s
  | .sessionTimeout ses => Sys2Proof.Machine.execSessionTimeout ses s
  | .credentialInstall ses rec => Sys2Proof.Machine.execCredentialInstall ses rec s
  | .credentialErase ses rec => Sys2Proof.Machine.execCredentialErase ses rec s
  | .mbxDoor frame len => Sys2Proof.Machine.execMbxDoor frame len s
  | .beaconTimeout => Sys2Proof.Machine.execBeaconTimeout s
  | .jabber => Sys2Proof.Machine.execJabber s
  | .wedgeProbe answered => Sys2Proof.Machine.execWedgeProbe answered s
  | .deviceReset ses => Sys2Proof.Machine.execDeviceReset ses s
  | .powerOn ses => Sys2Proof.Machine.execPowerOn ses s
  | .powerOff ses => Sys2Proof.Machine.execPowerOff ses s
  | .traceFreeze ses => Sys2Proof.Machine.execTraceFreeze ses s
  | .traceUnfreeze ses => Sys2Proof.Machine.execTraceUnfreeze ses s
  | .captureAcknowledge ses => Sys2Proof.Machine.execCaptureAcknowledge ses s
  | .inventory flags maskLen mask => Sys2Proof.Machine.execInventory flags maskLen mask s
  | .stayQuiet flags uid => Sys2Proof.Machine.execStayQuiet flags uid s
  | .tagSelect flags uid => Sys2Proof.Machine.execTagSelect flags uid s
  | .resetToReady flags uid => Sys2Proof.Machine.execResetToReady flags uid s
  | .getSystemInformation flags uid => Sys2Proof.Machine.execGetSystemInformation flags uid s
  | .extendedGetSystemInformation flags uid params => Sys2Proof.Machine.execExtendedGetSystemInformation flags uid params s
  | .readSingleBlock flags uid blk => Sys2Proof.Machine.execReadSingleBlock flags uid blk s
  | .readMultipleBlocks flags uid blk count => Sys2Proof.Machine.execReadMultipleBlocks flags uid blk count s
  | .writeSingleBlock flags uid blk data => Sys2Proof.Machine.execWriteSingleBlock flags uid blk data s
  | .extendedReadSingleBlock flags uid blk => Sys2Proof.Machine.execExtendedReadSingleBlock flags uid blk s
  | .extendedReadMultipleBlocks flags uid blk count => Sys2Proof.Machine.execExtendedReadMultipleBlocks flags uid blk count s
  | .extendedWriteSingleBlock flags uid blk data => Sys2Proof.Machine.execExtendedWriteSingleBlock flags uid blk data s
  | .tagUnsupportedCommand flags uid code => Sys2Proof.Machine.execTagUnsupportedCommand flags uid code s
  | .tagLockTake ses => Sys2Proof.Machine.execTagLockTake ses s
  | .tagLockRelease ses => Sys2Proof.Machine.execTagLockRelease ses s
  | .tagDataWrite ses data => Sys2Proof.Machine.execTagDataWrite ses data s
  | .tagLockTimeout => Sys2Proof.Machine.execTagLockTimeout s
  | .tagPublishDone => Sys2Proof.Machine.execTagPublishDone s
  | .tagStatusUpdate => Sys2Proof.Machine.execTagStatusUpdate s
  | .auxRailRise => Sys2Proof.Machine.execAuxRailRise s
  | .auxRailFall => Sys2Proof.Machine.execAuxRailFall s
  | .bridgeRailsGood pcieRef => Sys2Proof.Machine.execBridgeRailsGood pcieRef s
  | .dieRailsGood die => Sys2Proof.Machine.execDieRailsGood die s
  | .clusterSelfTest k result => Sys2Proof.Machine.execClusterSelfTest k result s
  | .pcieLinkTraining => Sys2Proof.Machine.execPcieLinkTraining s
  | .tierTrainingDone => Sys2Proof.Machine.execTierTrainingDone s
  | .pcieConventionalReset => Sys2Proof.Machine.execPcieConventionalReset s
  | .pcieHotReset => Sys2Proof.Machine.execPcieHotReset s
  | .functionLevelReset => Sys2Proof.Machine.execFunctionLevelReset s
  | .inputOutOfRange => Sys2Proof.Machine.execInputOutOfRange s
  | .converterFault => Sys2Proof.Machine.execConverterFault s
  | .thermalCrossing sensor milliC => Sys2Proof.Machine.execThermalCrossing sensor milliC s
  | .throttleEnd sensor => Sys2Proof.Machine.execThrottleEnd sensor s
  | .thermalTrip sensor milliC => Sys2Proof.Machine.execThermalTrip sensor milliC s
  | .tripShutdown => Sys2Proof.Machine.execTripShutdown s
  | .clockStep die => Sys2Proof.Machine.execClockStep die s
  | .tclkLimitWrite ses mhz => Sys2Proof.Machine.execTclkLimitWrite ses mhz s
  | .idleClockedEnter k => Sys2Proof.Machine.execIdleClockedEnter k s
  | .powerRequestActive ses => Sys2Proof.Machine.execPowerRequestActive ses s
  | .powerRequestRetention ses => Sys2Proof.Machine.execPowerRequestRetention ses s
  | .powerRequestSleep ses => Sys2Proof.Machine.execPowerRequestSleep ses s
  | .powerStateSettle k => Sys2Proof.Machine.execPowerStateSettle k s
  | .enginePowerWrite ses bits => Sys2Proof.Machine.execEnginePowerWrite ses bits s
  | .replayCapture ses rec => Sys2Proof.Machine.execReplayCapture ses rec s
  | .replayClear ses rec => Sys2Proof.Machine.execReplayClear ses rec s
  | .objectWrite ses idx sub value => Sys2Proof.Machine.execObjectWrite ses idx sub value s
  | .illegalInsn t word => Sys2Proof.Machine.execIllegalInsn t word s
  | .lsRangeFetch t => Sys2Proof.Machine.execLsRangeFetch t s
  | .laneLock p lanes => Sys2Proof.Machine.execLaneLock p lanes s
  | .helloSend p => Sys2Proof.Machine.execHelloSend p s
  | .plcaBeacon => Sys2Proof.Machine.execPlcaBeacon s
  | .rfField present => Sys2Proof.Machine.execRfField present s
  | .mainInputInRange => Sys2Proof.Machine.execMainInputInRange s
  | .pcieLinkDown => Sys2Proof.Machine.execPcieLinkDown s
  | .resync k => Sys2Proof.Machine.execResync k s
  | .debugAccess op => Sys2Proof.Machine.execDebugAccess op s

end Sys2Proof.Machine
end

