-- ==== Sys2Proof/Machine/Idle.lean ====
section
/-! DEFINITION. What the block does while no command waits: a nanosecond passes, and everything whose turn comes by itself has it. -/

namespace Sys2Proof.Machine

/-! ### Requests whose outcome is due (R421, R506) -/

/-- The outcome of an accepted request is written: a request that is in progress reads done, and an admission's plan is in force. A load
that waits for its memory stays in progress. -/
def Part.outcome (x : Part) : Part :=
  let done (idx : Nat) (old : BitVec 16) : BitVec 16 := if mapGet false x.busy idx then 0 else old
  { x with admResult := done 0x2010 x.admResult, plan := x.planHeld.getD x.plan, planHeld := none,
           loadResult := if x.loadHeld.isNone then done 0x2220 x.loadResult else x.loadResult,
           grpResult := done 0x2510 x.grpResult, bindResult := done 0x2610 x.bindResult,
           busy := if x.loadHeld.isNone then [] else x.busy.filter fun e => e.1 = 0x2220 }

/-- The partitions with a request in progress. -/
def State.busyParts (s : State) : List Nat := (s.parts.filter fun e => !e.2.busy.isEmpty).map (·.1)

/-- The outcomes due are written; a load that waits is tried again. -/
def State.requests (s : State) : State :=
  s.each s.busyParts fun a p =>
    let b := a.modPart p Part.outcome
    if b.fatal then b else b.retryLoad p

/-! ### Slot waits (R287) -/

/-- The tiles at whose queue's head a checked collective waits for a slot (R271). -/
def State.slotWaiters (s : State) : List Path :=
  (s.tiles.filter fun e => e.2.cmdQ.head?.any fun c => c.unit = 5 && c.checked).map fun e => BitVec.ofNat 16 e.1

/-- One nanosecond of a partition's count of slot waits, in 1/1000 cycle of TCLK. -/
def Part.waited (x : Part) (mhz : Nat) : Part :=
  let n := x.slotRest + mhz
  ({ x with slotRest := n % 1000 }).count 0x2520 7 (n / 1000)

/-- Every collective that waits for a slot is counted. -/
def State.countSlotWaits (s : State) : State :=
  s.each s.slotWaiters fun a t =>
    match a.partOf t with
    | some p => a.modPart p fun x => x.waited (a.die (dieOf t)).tclk.toNat
    | none => a

/-! ### The idle step -/

/-- What the running units do of themselves. -/
def State.turns (s : State) : State :=
  let s1 := (((s.countUnderlay).countSlotWaits).endExchangesSent).requests
  if s1.fatal then s1 else ((s1.hamperTurn).cipherTurn).timeBudget

/-- No command waits: 1 ns passes (R335). DESIGN CHOICE (log 1, log 130): the hamper, the cipher engine, a load that waits and the management
controller each have one turn. -/
def State.idle (s : State) : State :=
  let s1 := s.tick
  (if s1.pwr.bridge then s1.turns else s1).nextFrame

end Sys2Proof.Machine
end

