-- ==== Sys2Proof/WellFormed.lean ====
section
/-! DEFINITION. Well-formed commands: every unit, stage and range a command names exists (R8, R22, R411, R464, R474). What is not
here admits every value of its operands. -/

namespace Sys2Proof

open Machine

/-- A unit number below a limit. -/
def unitNo {n : Nat} (u : BitVec n) (limit : Nat) : Bool := decide (u.toNat < limit)

/-- A debug access names a tile, and bytes of its local store, or bytes of tier memory. -/
def debugOk : DebugOp → Bool
  | .readReg t _ => validPath t
  | .writeReg t _ _ => validPath t
  | .readStore t a len => validPath t && decide (a.toNat + len ≤ 0x200000)
  | .writeStore t a data => validPath t && decide (a.toNat + data.length ≤ 0x200000)
  | .readWindow t => validPath t
  | .readSeq t _ => validPath t
  | .writeSeq t _ _ => validPath t
  | .readMemory pa len => memoryRange pa.toNat len
  | .writeMemory pa data => memoryRange pa.toNat data.length
  | .readObject _ _ => true
  | .writeObject _ _ _ => true
  | .idcode => true
  | .bypass => true
  | .samplePreload => true
  | .extest => true
  | .internalScan => true

/-- A command names only units that exist. -/
def Instr.wf : Instr → Bool
  | .doorbellNop _ _ _ _ => true
  | .start _ _ _ _ => true
  | .stop _ _ _ _ => true
  | .resume _ _ _ _ => true
  | .clearFault _ _ _ _ => true
  | .resetTickets _ _ _ _ => true
  | .setFiring _ _ _ _ => true
  | .add t _ _ _ _ => activePath t
  | .sub t _ _ _ _ => activePath t
  | .and t _ _ _ _ => activePath t
  | .or t _ _ _ _ => activePath t
  | .xor t _ _ _ _ => activePath t
  | .sll t _ _ _ _ => activePath t
  | .srl t _ _ _ _ => activePath t
  | .sra t _ _ _ _ => activePath t
  | .slt t _ _ _ _ => activePath t
  | .sltu t _ _ _ _ => activePath t
  | .mul t _ _ _ _ => activePath t
  | .mulhu t _ _ _ _ => activePath t
  | .min t _ _ _ _ => activePath t
  | .max t _ _ _ _ => activePath t
  | .minu t _ _ _ _ => activePath t
  | .maxu t _ _ _ _ => activePath t
  | .addi t _ _ _ _ => activePath t
  | .andi t _ _ _ _ => activePath t
  | .ori t _ _ _ _ => activePath t
  | .slti t _ _ _ _ => activePath t
  | .slli t _ _ _ _ => activePath t
  | .srli t _ _ _ _ => activePath t
  | .srai t _ _ _ _ => activePath t
  | .lui t _ _ _ => activePath t
  | .lw t _ _ _ _ => activePath t
  | .sw t _ _ _ _ => activePath t
  | .lhu t _ _ _ _ => activePath t
  | .sh t _ _ _ _ => activePath t
  | .brEq t _ _ _ _ => activePath t
  | .brNe t _ _ _ _ => activePath t
  | .brLt t _ _ _ _ => activePath t
  | .brGe t _ _ _ _ => activePath t
  | .brLtu t _ _ _ _ => activePath t
  | .brGeu t _ _ _ _ => activePath t
  | .j t _ _ => activePath t
  | .jal t _ _ => activePath t
  | .jr t _ _ => activePath t
  | .jalr t _ _ => activePath t
  | .loop t _ _ _ _ _ => activePath t
  | .issue t _ _ => activePath t
  | .twait t _ _ _ _ => activePath t
  | .twaiti t _ _ _ _ => activePath t
  | .tadv t _ _ _ _ => activePath t
  | .tread t _ _ _ _ => activePath t
  | .mfc t _ _ _ => activePath t
  | .mtc t _ _ _ => activePath t
  | .nop t _ _ => activePath t
  | .trap t _ _ => activePath t
  | .eret t _ _ => activePath t
  | .halt t _ _ => activePath t
  | .fence t _ _ => activePath t
  | .faultInsn t _ _ => activePath t
  | .exceptionEntry t => activePath t
  | .commandComplete t _ => activePath t
  | .fireItem t => activePath t
  | .vaddF t _ _ _ _ _ => activePath t
  | .vsubF t _ _ _ _ _ => activePath t
  | .vmulF t _ _ _ _ _ => activePath t
  | .vfmaF t _ _ _ _ _ => activePath t
  | .vminF t _ _ _ _ _ => activePath t
  | .vmaxF t _ _ _ _ _ => activePath t
  | .vcltF t _ _ _ _ _ => activePath t
  | .vcleF t _ _ _ _ _ => activePath t
  | .vceqF t _ _ _ _ _ => activePath t
  | .vclassF t _ _ _ _ _ => activePath t
  | .vaddH t _ _ _ _ _ => activePath t
  | .vsubH t _ _ _ _ _ => activePath t
  | .vmulH t _ _ _ _ _ => activePath t
  | .vfmaH t _ _ _ _ _ => activePath t
  | .vminH t _ _ _ _ _ => activePath t
  | .vmaxH t _ _ _ _ _ => activePath t
  | .vaddI t _ _ _ _ _ => activePath t
  | .vsubI t _ _ _ _ _ => activePath t
  | .vmulI t _ _ _ _ _ => activePath t
  | .vminI t _ _ _ _ _ => activePath t
  | .vmaxI t _ _ _ _ _ => activePath t
  | .vcltI t _ _ _ _ _ => activePath t
  | .vceqI t _ _ _ _ _ => activePath t
  | .vand t _ _ _ _ _ => activePath t
  | .vor t _ _ _ _ _ => activePath t
  | .vxor t _ _ _ _ _ => activePath t
  | .vsll t _ _ _ _ _ => activePath t
  | .vsrl t _ _ _ _ _ => activePath t
  | .vsra t _ _ _ _ _ => activePath t
  | .vsel t _ _ _ _ _ => activePath t
  | .vsplat t _ _ _ _ _ => activePath t
  | .vlane t _ _ _ _ _ => activePath t
  | .vmand t _ _ _ _ _ => activePath t
  | .vmor t _ _ _ _ _ => activePath t
  | .vmxor t _ _ _ _ _ => activePath t
  | .vmnot t _ _ _ _ _ => activePath t
  | .vsetsr t _ _ _ _ _ => activePath t
  | .vsig t _ _ _ _ _ => activePath t
  | .vcvtFi t _ _ _ _ _ => activePath t
  | .vcvtIf t _ _ _ _ _ => activePath t
  | .vcvtFh t _ _ _ _ _ => activePath t
  | .vcvtHf t _ _ _ _ _ => activePath t
  | .vcvtFn t _ _ _ _ _ => activePath t
  | .vcvtNf t _ _ _ _ _ => activePath t
  | .vld t _ _ _ _ _ => activePath t
  | .vst t _ _ _ _ _ => activePath t
  | .vldx t _ _ _ _ _ => activePath t
  | .vstx t _ _ _ _ _ => activePath t
  | .vrsumF t _ _ _ _ _ => activePath t
  | .vrmaxF t _ _ _ _ _ => activePath t
  | .vrminF t _ _ _ _ _ => activePath t
  | .vramxF t _ _ _ _ _ => activePath t
  | .mma t => activePath t
  | .l1 t => activePath t
  | .minplus t => activePath t
  | .maxplus t => activePath t
  | .topk t => activePath t
  | .fp32x3 t => activePath t
  | .cplx3 t => activePath t
  | .underlay t => activePath t
  | .underlayStepDown t => validPath t
  | .underlayStepUp t => validPath t
  | .panelLayoutWrite _ _ => true
  | .route t => activePath t
  | .redSum t => activePath t
  | .redSsq t => activePath t
  | .redMax t => activePath t
  | .redMin t => activePath t
  | .redAmax t => activePath t
  | .occ t => activePath t
  | .qy4 t => activePath t
  | .copyLoad t => activePath t
  | .expand t => activePath t
  | .transpose t => activePath t
  | .gather t => activePath t
  | .prefetch t => activePath t
  | .progload t => activePath t
  | .copyStore t => activePath t
  | .compress t => activePath t
  | .memoryRequest _ _ _ _ => true
  | .readaheadExpire tier2 ch => unitNo ch (if tier2 then 48 else 384)
  | .patrolScrub _ _ => true
  | .retirePage _ _ => true
  | .slabOwnerWrite _ _ => true
  | .rekey _ => true
  | .slabScrubDone slab => unitNo slab 640
  | .imbalanceWindow => true
  | .contextBind _ _ => true
  | .contextUnbind _ => true
  | .map _ _ => true
  | .unmap _ _ => true
  | .protect _ _ => true
  | .mappingComplete part => unitNo part 40
  | .programLoadRequest _ _ => true
  | .stage t => activePath t
  | .normsum t => activePath t
  | .verdict t => activePath t
  | .commit t => activePath t
  | .barrier t => activePath t
  | .broadcast t => activePath t
  | .allreduce t => activePath t
  | .reduceScatter t => activePath t
  | .allgather t => activePath t
  | .alltoall t => activePath t
  | .alltoallv t => activePath t
  | .alltoallvRev t => activePath t
  | .shuttleSlotOpen t => activePath t
  | .collectiveDeadline _ _ => true
  | .msgCts _ => true
  | .msgData _ => true
  | .msgCounts _ => true
  | .msgDone _ => true
  | .msgToken _ => true
  | .msgAbort _ => true
  | .outPack t => activePath t
  | .outExchange t => activePath t
  | .outApply t => activePath t
  | .outSnapfetch t => activePath t
  | .snapfetchRetry _ => true
  | .snapfetchTimeout _ => true
  | .msgContrib _ => true
  | .msgReceipt _ => true
  | .msgBitmap _ => true
  | .msgSnapreq _ => true
  | .msgSnapdata _ => true
  | .outDeadline _ => true
  | .outStatusLimit _ => true
  | .outIncomplete _ => true
  | .register _ _ => true
  | .release _ _ => true
  | .bind _ _ => true
  | .unbind _ _ => true
  | .planAdmit _ _ => true
  | .withdraw _ _ => true
  | .dataFrame _ _ => true
  | .hello _ _ => true
  | .credit _ _ => true
  | .ts _ _ _ => true
  | .dataFrameSend _ => true
  | .creditSend _ => true
  | .tsSend _ _ => true
  | .responseDeadline _ => true
  | .laneLockLoss _ _ => true
  | .opticsMonitorFault _ => true
  | .portEnable _ => true
  | .portDisable _ => true
  | .portCloseDrained _ => true
  | .portTrain _ => true
  | .trainingTimeout _ => true
  | .rootClaim => true
  | .counterLock => true
  | .parentLoss => true
  | .arm _ _ => true
  | .cancel _ _ => true
  | .launchFire part => unitNo part 40
  | .checkerCompare k => unitNo k 40
  | .checkerReseed k => unitNo k 40
  | .checkerFence _ => true
  | .injectionArm _ => true
  | .injectionCancel _ => true
  | .parityError site => siteOk site
  | .faultRingHeartbeat collector _ _ => unitNo collector 5
  | .notify => true
  | .fatalAcknowledge _ => true
  | .write _ _ => true
  | .restore _ _ => true
  | .verify _ _ => true
  | .noiseHealthWindow startup samples => samples.length == if startup then 4096 else 1024
  | .drbgInstantiate => true
  | .drbgReseed _ => true
  | .maskReseed engine => unitNo engine 5
  | .keyInstall _ _ => true
  | .keyErase _ _ => true
  | .zeroise _ => true
  | .cbc _ _ => true
  | .ctr _ _ => true
  | .cfb _ _ => true
  | .gcm _ _ => true
  | .ccm _ _ => true
  | .cmac _ _ => true
  | .sha256 _ _ => true
  | .form _ => true
  | .dissolve _ => true
  | .lcChallengeRead _ => true
  | .lcToProvisioned _ _ => true
  | .lcToField _ _ => true
  | .lcToFieldDebug _ _ => true
  | .lcToReturn _ _ => true
  | .lcToManufacture _ _ => true
  | .lcToRetired _ _ => true
  | .get _ _ => true
  | .set _ _ => true
  | .aoaOpen _ _ => true
  | .aoaClose _ _ => true
  | .sessionChallengeRead _ => true
  | .sessionTimeout _ => true
  | .credentialInstall _ _ => true
  | .credentialErase _ _ => true
  | .mbxDoor _ _ => true
  | .beaconTimeout => true
  | .jabber => true
  | .wedgeProbe _ => true
  | .deviceReset _ => true
  | .powerOn _ => true
  | .powerOff _ => true
  | .traceFreeze _ => true
  | .traceUnfreeze _ => true
  | .captureAcknowledge _ => true
  | .inventory _ _ _ => true
  | .stayQuiet _ _ => true
  | .tagSelect _ _ => true
  | .resetToReady _ _ => true
  | .getSystemInformation _ _ => true
  | .extendedGetSystemInformation _ _ _ => true
  | .readSingleBlock _ _ _ => true
  | .readMultipleBlocks _ _ _ _ => true
  | .writeSingleBlock _ _ _ _ => true
  | .extendedReadSingleBlock _ _ _ => true
  | .extendedReadMultipleBlocks _ _ _ _ => true
  | .extendedWriteSingleBlock _ _ _ _ => true
  | .tagUnsupportedCommand _ _ _ => true
  | .tagLockTake _ => true
  | .tagLockRelease _ => true
  | .tagDataWrite _ _ => true
  | .tagLockTimeout => true
  | .tagPublishDone => true
  | .tagStatusUpdate => true
  | .auxRailRise => true
  | .auxRailFall => true
  | .bridgeRailsGood _ => true
  | .dieRailsGood _ => true
  | .clusterSelfTest k result => unitNo k 40 && selfTestOk result
  | .pcieLinkTraining => true
  | .tierTrainingDone => true
  | .pcieConventionalReset => true
  | .pcieHotReset => true
  | .functionLevelReset => true
  | .inputOutOfRange => true
  | .converterFault => true
  | .thermalCrossing sensor _ => unitNo sensor 28
  | .throttleEnd sensor => unitNo sensor 28
  | .thermalTrip sensor _ => unitNo sensor 28
  | .tripShutdown => true
  | .clockStep _ => true
  | .tclkLimitWrite _ _ => true
  | .idleClockedEnter k => unitNo k 40
  | .powerRequestActive _ => true
  | .powerRequestRetention _ => true
  | .powerRequestSleep _ => true
  | .powerStateSettle k => unitNo k 40
  | .enginePowerWrite _ _ => true
  | .replayCapture _ _ => true
  | .replayClear _ _ => true
  | .objectWrite _ _ _ _ => true
  | .illegalInsn t _ => activePath t
  | .lsRangeFetch t => activePath t
  | .laneLock _ _ => true
  | .helloSend _ => true
  | .plcaBeacon => true
  | .rfField _ => true
  | .mainInputInRange => true
  | .pcieLinkDown => true
  | .resync k => unitNo k 40
  | .debugAccess op => debugOk op

end Sys2Proof
end

