-- ==== Sys2Proof/Safety.lean ====
section
/-! DEFINITION. What counts as a safe run: commands that name units that exist, memories in canonical form, and a life cycle
that stands in one of the states of R426. -/

namespace Sys2Proof.Machine

/-- Every waiting command names only units that exist. -/
def State.queueWf (s : State) : Bool := s.pending.all Instr.wf

/-- The life-cycle fuses hold one of R426's states, and the Field-Debug flag stands only in Field. -/
def State.lifeOk (s : State) : Bool :=
  [1, 2, 3, 5, 6].contains s.sec.lc.toNat && (!s.sec.fieldDebug || s.sec.lc = 3)

/-- Tier memory, host memory and every local store are in canonical form. -/
def State.memWf (s : State) : Bool :=
  Memory.wf s.mem.tier && Memory.wf s.host && s.tiles.all fun e => Memory.wf e.2.ls

/-- A step that goes on, and where it goes. -/
def goesOn (s t : State) : Prop := step s = .next t

/-- What a safe state has. -/
def State.safe (s : State) : Prop := s.queueWf = true ∧ s.lifeOk = true

/-- The transitions of R427, from state to state as 0x1000:04 reads them. -/
def lifeEdges : List (Nat × Nat) :=
  [(1, 2), (2, 3), (3, 4), (4, 3), (2, 5), (3, 5), (4, 5), (5, 1), (1, 6), (2, 6), (3, 6), (4, 6), (5, 6)]

end Sys2Proof.Machine
end

