-- ==== Sys2Proof/Certificates/Slice0/Obligations.lean ====
section
/-! DEFINITION. The statements for the provers, and the definitions they are said in. -/

namespace Sys2Proof.Machine

/-! ### What the statements say in -/

/-- The tile that runs the program of t's panel (R42). -/
def State.seqTile (s : State) (t : Path) : Tile := s.tile (s.lead t)

/-- A word is fetched at tile t and meets neither of the conditions that come first (R505): its sequencer executes, the program
counter is within the fetch range, and a word with the V mark is not in a reproducible partition. -/
def Fetches (s : State) (t : Path) (v : Bool) : Prop :=
  activePath t = true ∧ s.canRun (s.lead t) = true ∧ (s.seqTile t).pc.toNat < 0x200000 ∧ (v = true → s.repro (s.lead t) = false)

/-- An instruction that neither R55 nor R64 names meets none of the conditions that come before its own: it is not in a delay slot
that is the LEND of an active level. -/
def Ready (s : State) (t : Path) (v : Bool) : Prop :=
  Fetches s t v ∧ ((s.seqTile t).delay = none ∨ (s.seqTile t).atLend = none)

/-- The instruction stands neither in a delay slot nor at the LEND of an active level (R55, R64). -/
def Placed (s : State) (t : Path) : Prop := (s.seqTile t).delay = none ∧ (s.seqTile t).atLend = none

/-- Command i answers the next state in which the tile of t's panel is y and nothing else has changed; behind a delay slot, what
waited for it then takes effect (R27, R56). -/
def Retires (i : Instr) (s : State) (t : Path) (P : Tile → Tile → Prop) : Prop :=
  ∃ y, exec i s = .next (if (s.seqTile t).delay.isSome then (s.setTile (s.lead t) y).settle (s.lead t) else s.setTile (s.lead t) y)
    ∧ P (s.seqTile t) y

/-- Command i raises an exception: it waits in the tile of t's panel, and neither a register nor a queue nor a byte of store has
changed (R46, R78). The DETAIL and the saved PC are those given. -/
def Raises (i : Instr) (s : State) (t : Path) (cause : BitVec 8) (epc detail : Word) : Prop :=
  ∃ e : Exc, e.cause = cause ∧ e.epc = epc ∧ e.detail = detail ∧ e.ds = (s.seqTile t).delay.isSome ∧
    exec i s = .next (s.setTile (s.lead t) { s.seqTile t with exc := some e, delay := none, shadow := 0 })

/-- The saved PC of most causes (R81): the branch of a delay slot, else the instruction. -/
def Tile.ownPc (x : Tile) : Word :=
  match x.delay with
  | some d => d.branch
  | none => x.pc

/-- Where the program goes after an instruction that is no branch: past a delay slot to the branch's target, else to the next word
where no loop ends here (R54, R62); one slot of a mode shadow passes (R59). -/
def Flows (x y : Tile) : Prop :=
  y.delay = none ∧ y.shadow = x.shadow - 1 ∧
  (x.delay = none → x.atLend = none → y.pc = x.pc + 4 ∧ y.lcount = x.lcount ∧ y.loops = x.loops) ∧
  (∀ d, x.delay = some d → y.pc = d.target.getD (x.pc + 4) ∧ y.lcount = x.lcount ∧ y.loops = x.loops)

/-- Register rd holds w, or nothing where rd is s0; every other register and everything else of the tile but the flow of the
program is as it was. -/
def WritesReg (rd : Reg) (w : Word) (x y : Tile) : Prop :=
  y.reg rd = (if rd = 0 then 0 else w) ∧ (∀ q, q ≠ rd → y.reg q = x.reg q) ∧ Flows x y ∧
  y = { x with regs := y.regs, pc := y.pc, delay := y.delay, shadow := y.shadow, lcount := y.lcount, loops := y.loops }

/-- Nothing but the flow of the program changes. -/
def OnlyFlows (x y : Tile) : Prop :=
  Flows x y ∧ y = { x with pc := y.pc, delay := y.delay, shadow := y.shadow, lcount := y.lcount, loops := y.loops }

/-! ### The arithmetic of the sequencer, on numbers (R48) -/

/-- 1 where a condition holds, else 0. -/
def truth (p : Prop) [Decidable p] : Word := if p then 1 else 0

/-- The ALU.R instructions and what they compute of s[ra] and s[rb]. -/
def aluRegister : List ((Path → Bool → Reg → Reg → Reg → Instr) × (Word → Word → Word)) :=
  [(.add, fun a b => BitVec.ofNat 32 (a.toNat + b.toNat)),
   (.sub, fun a b => BitVec.ofInt 32 (a.toInt - b.toInt)),
   (.and, fun a b => a &&& b),
   (.or, fun a b => a ||| b),
   (.xor, fun a b => a ^^^ b),
   (.sll, fun a b => BitVec.ofNat 32 (a.toNat * 2 ^ (b.toNat % 32))),
   (.srl, fun a b => BitVec.ofNat 32 (a.toNat / 2 ^ (b.toNat % 32))),
   (.sra, fun a b => BitVec.ofInt 32 (a.toInt / 2 ^ (b.toNat % 32))),
   (.slt, fun a b => truth (a.toInt < b.toInt)),
   (.sltu, fun a b => truth (a.toNat < b.toNat)),
   (.mul, fun a b => BitVec.ofNat 32 (a.toNat * b.toNat)),
   (.mulhu, fun a b => BitVec.ofNat 32 (a.toNat * b.toNat / 2 ^ 32)),
   (.min, fun a b => if a.toInt ≤ b.toInt then a else b),
   (.max, fun a b => if a.toInt ≤ b.toInt then b else a),
   (.minu, fun a b => if a.toNat ≤ b.toNat then a else b),
   (.maxu, fun a b => if a.toNat ≤ b.toNat then b else a)]

/-- The ALU.I instructions with a 14-bit immediate. -/
def aluImmediate : List ((Path → Bool → Reg → Reg → BitVec 14 → Instr) × (Word → BitVec 14 → Word)) :=
  [(.addi, fun a k => BitVec.ofInt 32 (a.toInt + k.toInt)),
   (.andi, fun a k => a &&& BitVec.ofNat 32 k.toNat),
   (.ori, fun a k => a ||| BitVec.ofNat 32 k.toNat),
   (.slti, fun a k => truth (a.toInt < k.toInt))]

/-- The shifts by an immediate. -/
def aluShift : List ((Path → Bool → Reg → Reg → BitVec 5 → Instr) × (Word → Nat → Word)) :=
  [(.slli, fun a k => BitVec.ofNat 32 (a.toNat * 2 ^ k)),
   (.srli, fun a k => BitVec.ofNat 32 (a.toNat / 2 ^ k)),
   (.srai, fun a k => BitVec.ofInt 32 (a.toInt / 2 ^ k))]

/-! ### Loads and stores (R41, R49) -/

/-- No word of the store of t's panel is in error (R159). -/
def CleanStore (s : State) (t : Path) : Prop := ∀ i, (s.tile (memberAt (s.lead t) i)).lsErr = []

/-- The address of a load or store. -/
def lsAddress (s : State) (t : Path) (base : Reg) (off : BitVec 15) : Nat :=
  (BitVec.ofInt 32 (((s.seqTile t).reg base).toInt + off.toInt) : Word).toNat

/-! ### Branches -/

/-- The conditional branches and their conditions. -/
def branches : List ((Path → Bool → Reg → Reg → BitVec 14 → Instr) × (Word → Word → Bool)) :=
  [(.brEq, fun a b => a.toNat == b.toNat),
   (.brNe, fun a b => a.toNat != b.toNat),
   (.brLt, fun a b => decide (a.toInt < b.toInt)),
   (.brGe, fun a b => decide (b.toInt ≤ a.toInt)),
   (.brLtu, fun a b => decide (a.toNat < b.toNat)),
   (.brGeu, fun a b => decide (b.toNat ≤ a.toNat))]

/-- A level holds an address within its body. -/
def Tile.within (x : Tile) (lv : Nat) (a : Word) : Prop := loopStart (x.loop lv) ≤ a.toNat ∧ a.toNat ≤ loopEnd (x.loop lv)

/-- A branch or jump has retired with a target, if it is taken: the delay slot comes next; a taken one makes a level that does not
hold its target inactive, with every deeper level (R54, R65); the general registers are those given. -/
def Branched (target : Option Word) (r : Reg → Word) (x y : Tile) : Prop :=
  y.delay = some ⟨x.pc, target⟩ ∧ y.pc = x.pc + 4 ∧ y.shadow = x.shadow - 1 ∧ (∀ q, y.reg q = r q) ∧
  (target = none → y.loops = x.loops) ∧
  (∀ a, target = some a → ∀ lv, lv < 3 →
    (loopActive (y.loop lv) = true ↔ loopActive (x.loop lv) = true ∧ ∀ j, j ≤ lv → loopActive (x.loop j) = true → x.within j a) ∧
    y.loop lv &&& 0x7FFFFFFF = x.loop lv &&& 0x7FFFFFFF) ∧
  y = { x with regs := y.regs, pc := y.pc, delay := y.delay, shadow := y.shadow, loops := y.loops }

/-! ### Loops (R44, R60 to R62) -/

/-- The word of a loop level that has been started: ACTIVE, START and LEN (R44). -/
def loopWord (start len : Nat) : Word := BitVec.ofNat 32 (2 ^ 31 + start * 2 ^ 12 + len)

/-- A LOOP of level lv has retired: the level and the program counter as given, every deeper level inactive, every shallower one and
everything else as it was. -/
def LoopStarted (lv : Nat) (count : Word) (active : Bool) (next : Word) (x y : Tile) : Prop :=
  y.pc = next ∧ y.lc lv = count ∧ loopActive (y.loop lv) = active ∧
  (∀ j, j < lv → y.loop j = x.loop j) ∧ (∀ j, lv < j → j < 3 → loopActive (y.loop j) = false) ∧ (∀ j, j ≠ lv → y.lc j = x.lc j) ∧
  y = { x with pc := y.pc, shadow := x.shadow - 1, lcount := y.lcount, loops := y.loops }

/-! ### Tickets and control registers -/

/-- A ticket has reached a threshold: their difference, as a signed 32-bit number, is not negative (R51). -/
def hasReached (ticket threshold : Word) : Prop := 0 ≤ (BitVec.ofInt 32 (ticket.toInt - threshold.toInt) : Word).toInt

/-- The control registers and what MFC reads of each, but for TIME and TIMEH (R43). -/
def crValues (s : State) (t : Path) : List (BitVec 6 × Word) :=
  let x := s.seqTile t
  let sealedBit := match s.partOf (s.lead t) with
    | some p => if (s.part p).sealedMode then 2 ^ 30 else 0
    | none => 0
  [(0x00, x.mode), (0x01, x.evbase), (0x02, x.stkLo), (0x03, x.stkHi), (0x04, x.lc 0), (0x05, x.lc 1), (0x06, x.lc 2),
   (0x07, x.loop 0), (0x08, x.loop 1), (0x09, x.loop 2), (0x0A, BitVec.ofNat 32 (s.lead t).toNat),
   (0x0D, BitVec.ofNat 32 ((if s.repro (s.lead t) then 2 ^ 31 else 0) + sealedBit + ((s.ownCtx (s.lead t)).getD 0xFFF).toNat)),
   (0x0E, x.fireBase)]

/-- The control registers MTC writes, each with the tile it leaves (R43). -/
def crWrites : List (BitVec 6 × (Tile → Word → Tile)) :=
  [(0x00, fun x w => { x with mode := w }), (0x01, fun x w => { x with evbase := w }), (0x02, fun x w => { x with stkLo := w }),
   (0x03, fun x w => { x with stkHi := w }), (0x04, fun x w => x.setLc 0 w), (0x05, fun x w => x.setLc 1 w),
   (0x06, fun x w => x.setLc 2 w), (0x07, fun x w => x.setLoop 0 w), (0x08, fun x w => x.setLoop 1 w),
   (0x09, fun x w => x.setLoop 2 w), (0x0E, fun x w => { x with fireBase := w })]

/-- A value that MODE may hold: its reserved fields are 0 and NARROW is not 3 (R57). -/
def modeFits (w : Word) : Prop := w.toNat < 2 ^ 12 ∧ w.toNat % 2 ^ 5 = 0 ∧ w.toNat / 2 ^ 6 % 4 ≠ 3

/-! ### Words that are no instruction (R45 to R48) -/

/-- Bits lo + len - 1 down to lo of a word are not 0. -/
def nonzero (w : Word) (lo len : Nat) : Prop := w.toNat / 2 ^ lo % 2 ^ len ≠ 0

/-- The number in bits lo + len - 1 down to lo of a word. -/
def fieldOf (w : Word) (lo len : Nat) : Nat := w.toNat / 2 ^ lo % 2 ^ len

/-- The operation codes of class VEC that are in use (R141). -/
def vecCodes : List Nat :=
  [0x00, 0x01, 0x02, 0x03, 0x04, 0x05, 0x06, 0x07, 0x08, 0x09, 0x10, 0x11, 0x12, 0x13, 0x14, 0x15, 0x18, 0x19, 0x1A, 0x1B, 0x1C,
   0x1D, 0x1E, 0x20, 0x21, 0x22, 0x23, 0x24, 0x25, 0x26, 0x27, 0x28, 0x29, 0x2A, 0x2B, 0x2C, 0x2D, 0x2E, 0x30, 0x31, 0x32, 0x33,
   0x34, 0x35, 0x38, 0x39, 0x3A, 0x3B, 0x3C, 0x3D, 0x3E, 0x3F]

/-- A word with a reserved class, a reserved function code or a reserved field that is not 0. -/
def isReserved (w : Word) : Prop :=
  match fieldOf w 28 4 with
  | 0 => 0x0F < fieldOf w 6 6 ∨ nonzero w 0 6
  | 1 => (fieldOf w 24 3 = 7 ∧ nonzero w 18 1) ∨ (4 ≤ fieldOf w 24 3 ∧ fieldOf w 24 3 ≤ 6 ∧ nonzero w 5 9)
  | 2 => False
  | 3 => 5 < fieldOf w 24 3
  | 4 => 2 ≤ fieldOf w 25 2 ∧ nonzero w 0 20
  | 5 => fieldOf w 24 1 = 0 ∧ nonzero w 5 7
  | 6 => nonzero w 0 22
  | 7 => 3 < fieldOf w 24 3
  | 8 => nonzero w 0 15
  | 9 => 5 < fieldOf w 23 4 ∨ nonzero w 16 7
  | 10 => fieldOf w 21 6 ∉ vecCodes ∨ nonzero w 0 3
  | _ => True


/-! ### Exceptions -/

/-- The sixteen words of an exception frame (R80). -/
def frameWords (s : State) (x : Tile) (e : Exc) (xf : Bool) : List Word :=
  [BitVec.ofNat 32 (e.cause.toNat * 2 ^ 24 + xf.toNat * 2 ^ 8 + e.ds.toNat * 2 ^ 7 + e.sh.toNat * 2 ^ 6 + e.le.toNat * 2 ^ 5
     + e.lev.toNat * 2 ^ 3),
   e.epc, e.detail, e.insn, x.mode, x.lc 0, x.lc 1, x.lc 2, x.loop 0, x.loop 1, x.loop 2, x.reg 30, x.reg 28, x.reg 29, x.reg 31,
   BitVec.ofNat 32 s.now.toNat]

/-- The stack is valid (R83). -/
def stackValid (s : State) (t : Path) : Prop :=
  let x := s.seqTile t
  x.stkLo.toNat < x.stkHi.toNat ∧ x.stkHi.toNat ≤ s.span (s.lead t) ∧ (x.reg 30).toNat % 16 = 0 ∧
  x.stkLo.toNat + 64 ≤ (x.reg 30).toNat ∧ (x.reg 30).toNat ≤ x.stkHi.toNat

/-- The exception that waits in the tile of t's panel may be entered: the device is not fatal, the cluster is up, the tile runs. -/
def EntryDue (s : State) (t : Path) (e : Exc) : Prop :=
  activePath t = true ∧ s.fatal = false ∧ s.clusterUp (clusterOf (s.lead t)) = true ∧ (s.seqTile t).run = .running ∧
  (s.seqTile t).exc = some e

/-- The little-endian bytes of words. -/
def wordBytes (ws : List Word) : Bytes := ws.flatMap fun w => toLE w.toNat 4

/-! ### The whole block -/

/-- The subindices whose default is not 0: index, subindex, bytes, value (R446). -/
def nonzeroDefaults : List (Nat × Nat × Nat × Nat) :=
  [(0x2130, 0x01, 2, 2000), (0x2130, 0x02, 2, 2500), (0x2200, 0x01, 8, 0x6000000000), (0x2200, 0x02, 8, 0x18000000000),
   (0x2200, 0x03, 8, 0xc0000000), (0x2200, 0x04, 8, 0xc0000000), (0x2200, 0x05, 2, 384), (0x2200, 0x06, 2, 48),
   (0x2230, 0x02, 1, 255), (0x2240, 0x01, 2, 384), (0x2240, 0x02, 2, 1000), (0x2201, 0x02, 1, 255), (0x2250, 0x04, 2, 24),
   (0x2700, 0x06, 1, 8), (0x2400, 0x02, 1, 1), (0x2400, 0x07, 1, 255), (0x2402, 0x01, 4, 8000), (0x2402, 0x02, 4, 24000),
   (0x2402, 0x03, 4, 500), (0x2402, 0x04, 4, 10000), (0x2402, 0x05, 4, 16), (0x2402, 0x06, 4, 4), (0x2402, 0x07, 4, 520),
   (0x2402, 0x08, 4, 10000), (0x2500, 0x02, 4, 0x20211), (0x2501, 0x02, 4, 0x7a120), (0x2501, 0x03, 1, 16),
   (0x2501, 0x04, 1, 255), (0x2610, 0x04, 4, 0xffffffff), (0x2600, 0x02, 4, 5000), (0x2600, 0x03, 4, 100),
   (0x2600, 0x04, 4, 0x3f000000), (0x2600, 0x06, 2, 256), (0x2010, 0x06, 2, 65535), (0x2270, 0x02, 1, 16),
   (0x2900, 0x04, 1, 255), (0x2900, 0x05, 1, 255), (0x2900, 0x0B, 2, 65535), (0x3000, 0x01, 1, 8),
   (0x3010, 0x02, 4, 0xffffffff), (0x3010, 0x05, 1, 12), (0x1010, 0x04, 1, 4), (0x1020, 0x03, 1, 255), (0x1020, 0x04, 1, 8),
   (0x1020, 0x05, 8, 0xffffffffffff), (0x1140, 0x03, 1, 1), (0x3300, 0x09, 1, 1), (0x1200, 0x01, 4, 1),
   (0x1100, 0x02, 2, 1650), (0x1100, 0x06, 2, 2400), (0x1110, 0x05, 1, 255), (0x3200, 0x01, 1, 254), (0x3200, 0x02, 2, 7154)]

/-- Subindices whose default is 0, with their bytes, part 1 (R446). -/
def zeroDefaults1 : List (Nat × Nat × Nat) :=
  [(0x1120, 0x01, 4), (0x1120, 0x02, 4), (0x1120, 0x03, 4), (0x1120, 0x04, 4), (0x1120, 0x05, 4), (0x1120, 0x06, 4),
   (0x1120, 0x07, 4), (0x2110, 0x01, 2), (0x2110, 0x02, 64), (0x2110, 0x03, 4), (0x2120, 0x01, 2), (0x2120, 0x02, 2),
   (0x2130, 0x03, 8), (0x2130, 0x04, 8), (0x2140, 0x01, 1), (0x2140, 0x02, 8), (0x2140, 0x03, 8), (0x2140, 0x04, 8),
   (0x2140, 0x05, 8), (0x2140, 0x06, 8), (0x2150, 0x01, 1), (0x2150, 0x02, 8), (0x2150, 0x03, 8), (0x2150, 0x04, 8),
   (0x2150, 0x05, 8), (0x2230, 0x01, 2), (0x2230, 0x03, 1), (0x2230, 0x05, 4), (0x2240, 0x03, 2), (0x2240, 0x04, 2),
   (0x2240, 0x05, 4), (0x2201, 0x01, 2), (0x2201, 0x03, 1), (0x2210, 0x02, 2), (0x2210, 0x03, 4), (0x2220, 0x02, 2),
   (0x2260, 0x01, 8), (0x2260, 0x02, 8), (0x2260, 0x03, 8), (0x2250, 0x01, 8), (0x2250, 0x02, 8), (0x2250, 0x03, 8),
   (0x2250, 0x06, 4), (0x2300, 0x01, 1), (0x2300, 0x02, 8), (0x2300, 0x03, 8), (0x2300, 0x04, 8), (0x2300, 0x05, 8),
   (0x2300, 0x06, 8), (0x2300, 0x07, 8), (0x2300, 0x08, 8), (0x2700, 0x01, 1), (0x2700, 0x02, 8), (0x2700, 0x03, 4),
   (0x2700, 0x04, 4), (0x2700, 0x05, 2), (0x2700, 0x07, 1), (0x2700, 0x08, 4), (0x2700, 0x09, 4), (0x2700, 0x0A, 8),
   (0x2400, 0x01, 1), (0x2400, 0x04, 1), (0x2400, 0x05, 1), (0x2400, 0x08, 4), (0x2400, 0x09, 4), (0x2400, 0x0A, 1),
   (0x2400, 0x0B, 8), (0x2401, 0x01, 1), (0x2401, 0x02, 8), (0x2401, 0x03, 8), (0x2401, 0x04, 8), (0x2401, 0x05, 8),
   (0x2401, 0x06, 8), (0x2401, 0x07, 8), (0x2401, 0x08, 8)]

/-- Subindices whose default is 0, with their bytes, part 2 (R446). -/
def zeroDefaults2 : List (Nat × Nat × Nat) :=
  [(0x2401, 0x09, 8), (0x2401, 0x0A, 8), (0x2500, 0x01, 4), (0x2500, 0x03, 1), (0x2510, 0x02, 2), (0x2510, 0x03, 2),
   (0x2510, 0x04, 4), (0x2501, 0x01, 1), (0x2520, 0x01, 1), (0x2520, 0x02, 8), (0x2520, 0x03, 8), (0x2520, 0x04, 8),
   (0x2520, 0x05, 8), (0x2520, 0x06, 8), (0x2520, 0x07, 8), (0x2610, 0x02, 2), (0x2610, 0x03, 2), (0x2610, 0x05, 2),
   (0x2600, 0x01, 1), (0x2600, 0x05, 8), (0x2600, 0x07, 8), (0x2600, 0x08, 8), (0x2600, 0x09, 8), (0x2600, 0x0A, 8),
   (0x2600, 0x0B, 8), (0x2010, 0x01, 1), (0x2010, 0x03, 2), (0x2010, 0x04, 8), (0x2010, 0x05, 8), (0x2010, 0x07, 8),
   (0x2010, 0x08, 8), (0x2270, 0x01, 1), (0x2270, 0x03, 8), (0x2900, 0x02, 1), (0x2900, 0x03, 1), (0x2900, 0x06, 4),
   (0x2900, 0x07, 4), (0x2900, 0x08, 4), (0x2900, 0x0A, 4), (0x2901, 0x01, 1), (0x2920, 0x01, 1), (0x2920, 0x03, 2),
   (0x2920, 0x04, 1), (0x2920, 0x05, 8), (0x2910, 0x01, 1), (0x2910, 0x02, 1), (0x3000, 0x02, 8), (0x3000, 0x03, 8),
   (0x3000, 0x04, 8), (0x3000, 0x05, 4), (0x3000, 0x06, 8), (0x3000, 0x07, 8), (0x3000, 0x08, 8), (0x3001, 0x01, 1),
   (0x3001, 0x03, 1), (0x3010, 0x01, 4), (0x3010, 0x03, 4), (0x3010, 0x04, 64), (0x3010, 0x06, 64), (0x3020, 0x01, 2),
   (0x3020, 0x02, 1), (0x3020, 0x03, 1), (0x2800, 0x01, 1), (0x2800, 0x03, 2), (0x2800, 0x04, 8), (0x2800, 0x05, 4),
   (0x2800, 0x06, 8), (0x2800, 0x07, 8), (0x3100, 0x01, 1), (0x3100, 0x02, 1), (0x3100, 0x03, 4), (0x3100, 0x04, 8),
   (0x3110, 0x01, 4), (0x3110, 0x03, 1), (0x3120, 0x01, 1)]

/-- Subindices whose default is 0, with their bytes, part 3 (R446). -/
def zeroDefaults3 : List (Nat × Nat × Nat) :=
  [(0x3120, 0x03, 2), (0x3120, 0x04, 8), (0x2000, 0x01, 1), (0x2000, 0x02, 8), (0x2000, 0x03, 1), (0x2000, 0x04, 1),
   (0x2000, 0x06, 2), (0x2000, 0x08, 2), (0x2000, 0x09, 2), (0x2000, 0x0A, 2), (0x2000, 0x0B, 1), (0x1010, 0x01, 16),
   (0x1010, 0x03, 2), (0x1020, 0x02, 1), (0x1020, 0x06, 8), (0x1020, 0x07, 8), (0x1020, 0x08, 1), (0x3140, 0x02, 1),
   (0x3140, 0x04, 2), (0x2160, 0x01, 4), (0x1140, 0x01, 4), (0x1140, 0x04, 1), (0x1140, 0x05, 1), (0x1140, 0x06, 4),
   (0x3030, 0x01, 1), (0x3030, 0x02, 1), (0x3030, 0x03, 1024), (0x3300, 0x01, 2), (0x3300, 0x03, 1), (0x3300, 0x04, 4),
   (0x3300, 0x05, 4), (0x3300, 0x06, 4), (0x3300, 0x08, 1), (0x1200, 0x02, 8), (0x1200, 0x03, 2), (0x1200, 0x04, 4),
   (0x1100, 0x01, 1), (0x1100, 0x03, 2), (0x1100, 0x04, 2), (0x1100, 0x05, 1), (0x1100, 0x07, 2), (0x1110, 0x01, 1),
   (0x1110, 0x02, 1), (0x1110, 0x03, 1), (0x1110, 0x04, 4), (0x1130, 0x01, 1), (0x1130, 0x02, 4), (0x1130, 0x06, 4),
   (0x3200, 0x03, 4), (0x3200, 0x04, 1024), (0x3200, 0x05, 8), (0x3200, 0x06, 8), (0x3210, 0x01, 1), (0x3210, 0x03, 2),
   (0x3210, 0x04, 1), (0x3210, 0x05, 128)]

/-- A tile as it is at reset (R18, R20, R21, R40, R43, R44, R66). -/
def Tile.atReset (x : Tile) : Prop :=
  x.run = .idle ∧ x.mode = 0 ∧ x.evbase = 0 ∧ x.stkLo = 0 ∧ x.stkHi = 0 ∧ x.fireBase = 0 ∧ (∀ k, x.ticket k = 0) ∧
  (∀ lv, x.lc lv = 0 ∧ x.loop lv = 0) ∧ x.exc = none ∧ x.delay = none ∧ x.cmdQ = [] ∧ x.loadQ = [] ∧ x.storeQ = [] ∧
  x.fault.code = 0 ∧ x.fault.count = 0 ∧ x.crash = [] ∧ x.tlb = []

/-- The commands that may change the life cycle: its own rows, a write to an object of the dictionary, by J3 too (R429), and the fall of the auxiliary
rail (R426, R427, R430). -/
def movesLife : Instr → Bool
  | .lcToProvisioned .. | .lcToField .. | .lcToFieldDebug .. | .lcToReturn .. | .lcToManufacture .. | .lcToRetired .. => true
  | .objectWrite .. | .set .. | .debugAccess .. | .auxRailFall => true
  | _ => false

/-! ### What only reports -/

/-- Only the log, the notifications and the trace differ. -/
def Reports (s u : State) : Prop :=
  u = { s with integ := { s.integ with log := u.integ.log, nextSeq := u.integ.nextSeq },
               mgmt := { s.mgmt with notifyQ := u.mgmt.notifyQ, notifyLost := u.mgmt.notifyLost, ntfRing := u.mgmt.ntfRing,
                                     ntfHead := u.mgmt.ntfHead, msix1 := u.mgmt.msix1 },
               trace := u.trace }

/-- The log holds a record of an event raised in state s: its code, the path, SEQNO and stamp (R367). Without the auxiliary rail
nothing is recorded (R476). -/
def Logs (s u : State) (code : Nat) (path : Path) : Prop :=
  s.pwr.aux = true → ∃ r ∈ u.integ.log, r.code = BitVec.ofNat 16 code ∧ r.path = path ∧ r.seqno = s.integ.nextSeq ∧ r.time = s.now

/-- Only reports differ, and what a cluster counts and shows of its power state: its packets, and 0x1110:03 and :04 (R470, R479). -/
def Notes (s u : State) : Prop :=
  (∀ k, u.cluster k = { s.cluster k with packets := (u.cluster k).packets, current := (u.cluster k).current,
                                         transitions := (u.cluster k).transitions }) ∧
  u = { s with integ := { s.integ with log := u.integ.log, nextSeq := u.integ.nextSeq },
               mgmt := { s.mgmt with notifyQ := u.mgmt.notifyQ, notifyLost := u.mgmt.notifyLost, ntfRing := u.mgmt.ntfRing,
                                     ntfHead := u.mgmt.ntfHead, msix1 := u.mgmt.msix1 },
               trace := u.trace, clusters := u.clusters }

/-! ### Doorbells (R19, R28, R29) -/

/-- The doorbell rows and their CMD. -/
def doorbells : List ((WinAddr → BitVec 12 → BitVec 4 → BitVec 40 → Instr) × Nat) :=
  [(.doorbellNop, 0), (.start, 1), (.stop, 2), (.resume, 3), (.clearFault, 4), (.resetTickets, 5), (.setFiring, 6)]

/-- The bits of ARG that must be 0 are 0 (R19). -/
def argFits (cmd arg : Nat) : Prop :=
  (cmd = 1 → arg % 4 = 0 ∧ arg < 2 ^ 21) ∧ (2 ≤ cmd ∧ cmd ≤ 4 → arg = 0) ∧ (cmd = 5 → arg < 2 ^ 16) ∧ (cmd = 6 → arg < 2)

/-- A DENIED condition of R28, of R31 or of a fatal device (R365). -/
def DoorbellDenied (s : State) (u : Unit') (cmd : Nat) (ctx : BitVec 12) (rsv : BitVec 4) (arg : BitVec 40) : Prop :=
  s.fatal = true ∨ (∃ t, u = .tile t ∧ activePath t = false) ∨ s.unitCtx u ≠ some ctx ∨ ¬ argFits cmd arg.toNat ∨ rsv ≠ 0 ∨
  ((cmd = 1 ∨ cmd = 3) ∧ ∃ p, s.unitOwner u = some p ∧ (s.part p).state = 2)

/-- The NOT_READY condition of R28. -/
def DoorbellNotReady (s : State) (u : Unit') : Prop :=
  ∃ t ∈ s.covers u, s.poweredDown (clusterOf t) = true ∨ s.clusterUp (clusterOf t) = false

/-- A tile in the middle of a branch and its delay slot, or with an exception not yet entered: what reaches it waits (R56, R81). -/
abbrev Tile.awaits (x : Tile) : Prop := x.run = .running ∧ (x.delay ≠ none ∨ x.exc ≠ none)

/-- What a doorbell does to a member that acts for its panel (R19, R56); CLEAR_FAULT acts on every member. -/
def memberAfter (cmd arg : Nat) (lead : Bool) (x y : Tile) : Prop :=
  match cmd, lead with
  | 1, true => y =
    if x.awaits then { x with waiting := x.waiting ++ [.start (BitVec.ofNat 32 arg)] }
    else if x.run = .running ∨ x.run = .faulted then x
    else { x.endFiring with run := .running, pc := BitVec.ofNat 32 arg, ended := false, delay := none, exc := none, shadow := 0 }
  | 2, true =>
    (x.run = .faulted → y = x) ∧ (x.run = .stopped → y = x) ∧
    (x.run = .idle ∨ x.run = .firing → y = { x with run := .stopped, held := x.run }) ∧
    (x.run = .running → ¬ x.awaits → y = { x with run := .stopped, held := .running }) ∧
    (x.awaits → y = { x with waiting := x.waiting ++ [.stop .stopped] })
  | 3, true =>
    (x.run = .stopped → x.ended = false → x.held ≠ .firing → y = { x with run := x.held }) ∧
    (x.run = .stopped → x.ended = false → x.held = .firing → (y.run = .firing ∨ y.run = .idle) ∧ y = { x with run := y.run }) ∧
    (x.run = .stopped → x.ended = true → y = x) ∧ (x.run = .idle ∨ x.run = .faulted → y = x) ∧
    (x.run = .running → ¬ x.awaits → y = x) ∧ (x.awaits → y = { x with waiting := x.waiting ++ [.resume] })
  | 4, _ => y = { x with fault := {}, vecStopped := false, run := if x.run = .faulted then .stopped else x.run,
                         waiting := x.waiting.map fun b => if b = .stop .faulted then .stop .stopped else b }
  | 5, true =>
    (∀ k, y.ticket k = if k < 16 ∧ arg / 2 ^ k % 2 = 1 then 0 else x.ticket k) ∧ y = { x with tickets := y.tickets }
  | 6, true => arg = 0 → y =
    if x.awaits then { x with waiting := x.waiting ++ [.firing false] }
    else if x.run = .firing ∨ (x.run = .stopped ∧ x.held = .firing) then { x.endFiring with run := .stopped, held := .idle, ended := true }
    else x
  | _, _ => y = x

/-! ### Descriptors and queues (R66 to R71) -/

/-- Word i of the local store of t's panel, from an address. -/
def storeWord (s : State) (t : Path) (a i : Nat) : Word :=
  BitVec.ofNat 32 (leNat ((List.range 4).map fun j => s.lsByte (s.lead t) (a + 4 * i + j)))

/-- A header whose reserved fields are not 0, or whose UNIT, MSRC or MODEX is invalid (R68, R69). -/
def headerBad (w0 w2 : Word) : Prop :=
  nonzero w0 24 3 ∨ nonzero w0 0 8 ∨ 5 < fieldOf w0 28 4 ∨ (fieldOf w0 8 2 = 0 ∧ w2 ≠ 0) ∨ 1 < fieldOf w0 8 2 ∨
  (fieldOf w0 8 2 = 1 ∧ ¬ modeFits w2)

/-- The descriptor at an address is refused with a reason (R69); DENIED comes before NOT_READY, and NOT_READY before V_MARK_IN_REPRO
(R505). -/
def descRefused (s : State) (t : Path) (a reason : Nat) : Prop :=
  let w := storeWord s t a
  let denied : Prop := a % 16 ≠ 0 ∨ s.span (s.lead t) < a + 16 ∨ headerBad (w 0) (w 2) ∨
    s.span (s.lead t) < a + 16 + 16 * fieldOf (w 0) 20 4
  let notReady : Prop := s.unitReady (s.lead t) (fieldOf (w 0) 28 4) = false
  (reason = 0x4001 ∧ denied) ∨ (reason = 0x4010 ∧ ¬ denied ∧ notReady) ∨
  (reason = 0x4030 ∧ ¬ denied ∧ ¬ notReady ∧ fieldOf (w 0) 27 1 = 1 ∧ s.repro (s.lead t) = true)

/-- The command a descriptor spells (R68): its mode comes from MODE where MSRC is 0, and from word 2 where it is 1. -/
def descCommand (s : State) (t : Path) (a : Nat) (item : Option Nat) : Command :=
  let w := storeWord s t a
  { id := (s.seqTile t).nextId, unit := BitVec.ofNat 4 (fieldOf (w 0) 28 4), w0 := w 0, waitV := w 1,
    mode := if fieldOf (w 0) 8 2 = 0 then (s.seqTile t).mode else w 2, stag := w 3,
    work := .desc ((List.range (4 * fieldOf (w 0) 20 4)).map fun i => w (4 + i)), item := item }

/-- The tile with a command at the end of its unit's queue (R66), and whether that queue has room. -/
def queuedIn (x : Tile) (c : Command) : Tile :=
  if c.unit = 3 then { x with loadQ := x.loadQ ++ [c], nextId := x.nextId + 1 }
  else if c.unit = 4 then { x with storeQ := x.storeQ ++ [c], nextId := x.nextId + 1 }
  else { x with cmdQ := x.cmdQ ++ [c], nextId := x.nextId + 1 }
def roomFor (x : Tile) (unit : BitVec 4) : Prop :=
  if unit = 3 then x.loadQ.length < 16 else if unit = 4 then x.storeQ.length < 16 else x.cmdQ.length < 32

/-! ### Firing mode (R73 to R77) -/

/-- A byte of item i of the firing table of t's panel, and a little-endian number of n of its bytes. -/
def itemAt (s : State) (t : Path) (i k : Nat) : Byte := s.lsByte (s.lead t) ((s.seqTile t).fireBase.toNat + 32 * (i + 1) + k)
def itemNum (s : State) (t : Path) (i k n : Nat) : Nat := leNat ((List.range n).map fun j => itemAt s t i (k + j))

/-- An item fires when STATE is 0 and HAVE has reached NEED (R75). -/
def itemFires (s : State) (t : Path) (i : Nat) : Prop := itemAt s t i 2 = 0 ∧ (itemAt s t i 0).toNat ≤ (itemAt s t i 1).toNat

/-- The successors of an item (R73). -/
def successors (s : State) (t : Path) (i : Nat) : List Nat := ((List.range 4).map fun k => itemNum s t i (8 + 2 * k) 2).filter (· ≠ 0xFFFF)

/-- The firing table of n items may be entered (R74, R76): it lies within the span, and each item's reserved bytes are 0 and its
successors exist. -/
def tableGood (s : State) (t : Path) (n : Nat) : Prop :=
  1 ≤ n ∧ n ≤ 256 ∧ (s.seqTile t).fireBase.toNat + 32 * (n + 1) ≤ s.span (s.lead t) ∧
  ∀ i, i < n → itemAt s t i 3 = 0 ∧ (∀ k, 16 ≤ k → k < 32 → itemAt s t i k = 0) ∧ ∀ j ∈ successors s t i, j < n

/-- Only the bytes of local store differ. -/
def OnlyStore (s u : State) : Prop := (∀ q, u.tile q = { s.tile q with ls := (u.tile q).ls }) ∧ u = { s with tiles := u.tiles }

/-- The tile of t's panel is in firing mode and its units run. -/
def Fires (s : State) (t : Path) : Prop :=
  activePath t = true ∧ s.fatal = false ∧ s.clusterUp (clusterOf (s.lead t)) = true ∧ (s.seqTile t).run = .firing ∧ CleanStore s t

/-! ### The vector engine (R135 to R155) -/

/-- What a VEC instruction has on member j of a panel of width w (R47, R136, R142, R144): the fields of its word, the scalars and mode read at
issue, and the 16 random bits of a position, which follow VSRB + j × V + position. -/
def vecInput (s : State) (t : Path) (vd va vb : Reg) (m : BitVec 3) (perMember j : Nat) : VecCtx :=
  let part := (s.partOf (s.lead t)).map s.part
  { vop := 0, vd := vd.toNat, va := va.toNat, vb := vb.toNat, m := m.toNat, sa := (s.seqTile t).reg va, sb := (s.seqTile t).reg vb,
    mode := (s.seqTile t).mode, member := j,
    rnd := fun pos => srBits ((part.map Part.seed).getD 0) ((part.map Part.step).getD 0)
      ((s.tile (memberAt (s.lead t) j)).vsrb.toNat + j * perMember + pos) }

/-- The fields R141 says are 0 are 0. -/
def vecFits (vop : Nat) (vd va vb : Reg) (m : BitVec 3) : Prop :=
  ((0x06 ≤ vop ∧ vop ≤ 0x09) ∨ vop = 0x1D ∨ vop = 0x1E → vd.toNat < 8) ∧
  (vop = 0x09 ∨ vop = 0x34 ∨ vop = 0x35 → vb.toNat < 4) ∧
  (vop = 0x27 ∨ vop = 0x28 ∨ vop = 0x2C ∨ vop = 0x2E → vb = 0) ∧
  (vop = 0x28 ∨ vop = 0x2E → va = 0) ∧ (0x29 ≤ vop ∧ vop ≤ 0x2E → m = 0) ∧
  (0x29 ≤ vop ∧ vop ≤ 0x2C → vd.toNat < 8 ∧ va.toNat < 8 ∧ vb.toNat < 8) ∧
  (vop = 0x2D → vd = 0) ∧ (vop = 0x2E → vd.toNat < 16) ∧ (vop = 0x33 → vb.toNat < 2)

/-- Under its mask an instruction writes lanes of vd with f of the lane number and the lanes of va, vb and vd; an inactive lane keeps
its value (R140), and nothing else of the member changes. -/
def LanesAre (f : VecCtx → Nat → Nat → Nat → Nat → Nat) (c : VecCtx) (x y : Tile) : Prop :=
  (∀ i, i < 32 → y.lane c.vd i =
    if bit (x.mask c.m) i then f c i (x.lane c.va i) (x.lane c.vb i) (x.lane c.vd i) % 2 ^ 32 else x.lane c.vd i) ∧
  (∀ q i, q ≠ c.vd → i < 32 → y.lane q i = x.lane q i) ∧ y = { x with vregs := y.vregs }

/-- Every lane of vd is written, whatever the mask. -/
def AllLanesAre (f : VecCtx → Tile → Nat → Nat) (c : VecCtx) (x y : Tile) : Prop :=
  (∀ i, i < 32 → y.lane c.vd i = f c x i % 2 ^ 32) ∧ (∀ q i, q ≠ c.vd → i < 32 → y.lane q i = x.lane q i) ∧
  y = { x with vregs := y.vregs }

/-- Bit i of mask vd is p; m0 stays all ones (R135), and nothing else of the member changes. -/
def MaskIs (p : VecCtx → Tile → Nat → Bool) (c : VecCtx) (x y : Tile) : Prop :=
  (∀ i, i < 32 → bit (y.mask c.vd) i = (decide (c.vd = 0) || p c x i)) ∧ (∀ q, q ≠ c.vd → y.mask q = x.mask q) ∧
  y = { x with masks := y.masks }

/-- A comparison: the bit of an inactive lane is 0 (R140). -/
def CompareIs (p : VecCtx → Nat → Nat → Bool) : VecCtx → Tile → Tile → Prop :=
  MaskIs fun c x i => bit (x.mask c.m) i && p c (x.lane c.va i) (x.lane c.vb i)

/-- A lane as a signed integer, and an integer result wrapped, or saturated under MODE.SAT (R139). -/
def lint (a : Nat) : Int := (BitVec.ofNat 32 a).toInt
def wrapOrSat (mode : Word) (z : Int) : Nat :=
  ((if fieldOf mode 8 1 = 1 then max (-2147483648) (min z 2147483647) else z) % 4294967296).toNat

/-- The lanes of va, with the identity in the inactive ones (R153), and the active ones with their numbers (R154). -/
def filledLanes (identity : Nat) (c : VecCtx) (x : Tile) : List Nat :=
  (List.range 32).map fun i => if bit (x.mask c.m) i then x.lane c.va i else identity
def activePairs (c : VecCtx) (x : Tile) : List (Nat × Nat) :=
  ((List.range 32).filter fun i => bit (x.mask c.m) i).map fun i => (32 * c.member + i, x.lane c.va i)

/-- VEC instructions by mnemonic, with the VOP, how many values each member converts (R144), and what each does to one member. -/
def vectorLanes : List ((Path → Bool → Reg → Reg → Reg → BitVec 3 → Instr) × Nat × Nat × (VecCtx → Tile → Tile → Prop)) :=
  [(.vaddF, 0x00, 32, LanesAre fun c _ a b d => laneF c.mode 0 a b d),
   (.vsubF, 0x01, 32, LanesAre fun c _ a b d => laneF c.mode 1 a b d),
   (.vmulF, 0x02, 32, LanesAre fun c _ a b d => laneF c.mode 2 a b d),
   (.vfmaF, 0x03, 32, LanesAre fun c _ a b d => laneF c.mode 3 a b d),
   (.vminF, 0x04, 32, LanesAre fun c _ a b d => laneF c.mode 4 a b d),
   (.vmaxF, 0x05, 32, LanesAre fun c _ a b d => laneF c.mode 5 a b d),
   (.vaddH, 0x10, 32, LanesAre fun c _ a b d => laneH c.mode 0 a b d),
   (.vsubH, 0x11, 32, LanesAre fun c _ a b d => laneH c.mode 1 a b d),
   (.vmulH, 0x12, 32, LanesAre fun c _ a b d => laneH c.mode 2 a b d),
   (.vfmaH, 0x13, 32, LanesAre fun c _ a b d => laneH c.mode 3 a b d),
   (.vminH, 0x14, 32, LanesAre fun c _ a b d => laneH c.mode 4 a b d),
   (.vmaxH, 0x15, 32, LanesAre fun c _ a b d => laneH c.mode 5 a b d),
   (.vaddI, 0x18, 32, LanesAre fun c _ a b _ => wrapOrSat c.mode (lint a + lint b)),
   (.vsubI, 0x19, 32, LanesAre fun c _ a b _ => wrapOrSat c.mode (lint a - lint b)),
   (.vmulI, 0x1A, 32, LanesAre fun c _ a b _ => wrapOrSat c.mode (lint a * lint b)),
   (.vminI, 0x1B, 32, LanesAre fun _ _ a b _ => if lint a ≤ lint b then a else b),
   (.vmaxI, 0x1C, 32, LanesAre fun _ _ a b _ => if lint a ≤ lint b then b else a),
   (.vand, 0x20, 32, LanesAre fun _ _ a b _ => a &&& b),
   (.vor, 0x21, 32, LanesAre fun _ _ a b _ => a ||| b),
   (.vxor, 0x22, 32, LanesAre fun _ _ a b _ => a ^^^ b),
   (.vsll, 0x23, 32, LanesAre fun _ _ a b _ => a * 2 ^ (b % 32)),
   (.vsrl, 0x24, 32, LanesAre fun _ _ a b _ => a / 2 ^ (b % 32)),
   (.vsra, 0x25, 32, LanesAre fun _ _ a b _ => (lint a / 2 ^ (b % 32) % 2 ^ 32).toNat),
   (.vsplat, 0x27, 32, LanesAre fun c _ _ _ _ => c.sa.toNat),
   (.vlane, 0x28, 32, LanesAre fun c i _ _ _ => 32 * c.member + i)]

/-- The other VEC instructions that touch no memory. -/
def vectorOthers : List ((Path → Bool → Reg → Reg → Reg → BitVec 3 → Instr) × Nat × Nat × (VecCtx → Tile → Tile → Prop)) :=
  [(.vcltF, 0x06, 32, CompareIs fun c a b => laneCompare 0x06 c.mode a b),
   (.vcleF, 0x07, 32, CompareIs fun c a b => laneCompare 0x07 c.mode a b),
   (.vceqF, 0x08, 32, CompareIs fun c a b => laneCompare 0x08 c.mode a b),
   (.vclassF, 0x09, 32, CompareIs fun c a _ =>
     match c.vb with
     | 0 => a / 2 ^ 23 % 256 = 255 && a % 2 ^ 23 ≠ 0
     | 1 => a / 2 ^ 23 % 256 = 255 && a % 2 ^ 23 = 0
     | 2 => a % 2 ^ 31 = 0
     | _ => a / 2 ^ 23 % 256 = 0 && a % 2 ^ 23 ≠ 0),
   (.vcltI, 0x1D, 32, CompareIs fun _ a b => lint a < lint b),
   (.vceqI, 0x1E, 32, CompareIs fun _ a b => a = b),
   (.vsel, 0x26, 32, AllLanesAre fun c x i => if bit (x.mask c.m) i then x.lane c.va i else x.lane c.vb i),
   (.vmand, 0x29, 32, MaskIs fun c x i => bit (x.mask c.va) i && bit (x.mask c.vb) i),
   (.vmor, 0x2A, 32, MaskIs fun c x i => bit (x.mask c.va) i || bit (x.mask c.vb) i),
   (.vmxor, 0x2B, 32, MaskIs fun c x i => bit (x.mask c.va) i != bit (x.mask c.vb) i),
   (.vmnot, 0x2C, 32, MaskIs fun c x i => !bit (x.mask c.va) i),
   (.vsetsr, 0x2D, 32, fun c x y => y = { x with vsrb := BitVec.ofNat 48 (c.sb.toNat % 2 ^ 16 * 2 ^ 32 + c.sa.toNat) }),
   (.vcvtFi, 0x30, 32, LanesAre fun c _ a _ _ => cvtFi c.mode a),
   (.vcvtIf, 0x31, 32, LanesAre fun c _ a _ _ => fp32.encode (modeRnd c.mode) (.fin (lint a < 0) (lint a).natAbs 0)),
   (.vcvtFh, 0x32, 64, LanesAre fun c i a b _ =>
     narrow bf16 c.mode (c.rnd (2 * i)) a + 2 ^ 16 * narrow bf16 c.mode (c.rnd (2 * i + 1)) b),
   (.vcvtHf, 0x33, 32, LanesAre fun c _ a _ _ => widen bf16 c.mode (if c.vb = 0 then a % 2 ^ 16 else a / 2 ^ 16)),
   (.vcvtFn, 0x34, 32, fun c x y =>
     (∀ j, j < 8 → y.lane c.vd (8 * c.vb + j) = ((c.narrowBytes x).map Prod.snd).getD j 0 % 2 ^ 32) ∧
     (∀ q i, i < 32 → (q ≠ c.vd ∨ i / 8 ≠ c.vb) → y.lane q i = x.lane q i) ∧ y = { x with vregs := y.vregs }),
   (.vcvtNf, 0x35, 32, fun c x y =>
     LanesAre (fun c i _ _ _ =>
       widen (if fieldOf c.mode 6 2 = 0 then e4m3 else e5m2) c.mode (x.lane c.va (8 * c.vb + i / 4) / 2 ^ (8 * (i % 4)) % 2 ^ 8)) c x y),
   (.vrsumF, 0x3C, 32, AllLanesAre fun c x _ => add32 0 (treeFold add32 5 (filledLanes 0 c x))),
   (.vrmaxF, 0x3D, 32, AllLanesAre fun c x _ => max32 0xFF800000 (treeFold max32 5 (filledLanes 0xFF800000 c x))),
   (.vrminF, 0x3E, 32, AllLanesAre fun c x _ => min32 0x7F800000 (treeFold min32 5 (filledLanes 0x7F800000 c x))),
   (.vramxF, 0x3F, 32, AllLanesAre fun c x i =>
     if i = 0 then (ramx (activePairs c x)).1 else if i = 1 then (ramx (activePairs c x)).2 else 0)]

/-- The vector engine of t's panel is free to take the next VEC instruction: it has not stopped (R155), nothing of it waits (R143),
and the queue has room (R67); the next command number is unused. -/
def VecFree (s : State) (t : Path) : Prop :=
  let x := s.seqTile t
  x.vecStopped = false ∧ (∀ c ∈ x.cmdQ, c.unit ≠ 1 ∧ c.id ≠ x.nextId) ∧ (∀ c ∈ x.loadQ ++ x.storeQ, c.id ≠ x.nextId) ∧
  x.cmdQ.length < 32 ∧ (x.waiting = [] ∨ x.delay = none)

/-- Nothing but tiles, partition counters and what only reports differs. -/
def TilesAndCounts (s u : State) : Prop :=
  (∀ p, u.part p = { s.part p with ctr := (u.part p).ctr }) ∧ Notes { s with tiles := u.tiles, parts := u.parts } u

/-- The address of lane i of member j in a vector load or store: s[va] + 128 × vb and on from there, or s[va] plus the lane of vb,
each sum modulo 2^32; member j's addresses have j × 0x200000 added (R136, R141, R145). -/
def vecAddress (s : State) (t : Path) (indexed : Bool) (va vb : Reg) (j i : Nat) : Nat :=
  let a := ((s.seqTile t).reg va).toNat
  j * 0x200000 +
    (if indexed then (a + (s.tile (memberAt (s.lead t) j)).lane vb.toNat i) % 2 ^ 32 else (a + 128 * vb.toNat) % 2 ^ 32 + 4 * i)

/-- Lane i of member j is active under mask m. -/
def laneActive (s : State) (t : Path) (m : BitVec 3) (j i : Nat) : Prop :=
  j < s.panelWidth (s.lead t) ∧ i < 32 ∧ bit ((s.tile (memberAt (s.lead t) j)).mask m.toNat) i = true

/-- The addresses of a vector load or store meet R145. -/
def vecAddressesOk (s : State) (t : Path) (indexed : Bool) (va vb : Reg) (m : BitVec 3) : Prop :=
  if indexed then ∀ j i, laneActive s t m j i →
    vecAddress s t true va vb j i % 4 = 0 ∧ vecAddress s t true va vb j i + 4 ≤ s.span (s.lead t)
  else ∀ j, j < s.panelWidth (s.lead t) →
    vecAddress s t false va vb j 0 % 16 = 0 ∧ vecAddress s t false va vb j 0 + 128 ≤ s.span (s.lead t)

/-! ### Commands at work in a unit (R70, R110) -/

/-- Command c waits first for a unit of t's panel, its WAIT condition holds, the units work, and its number is its own. -/
def Waits (s : State) (t : Path) (unit : Nat) (c : Command) : Prop :=
  activePath t = true ∧ s.fatal = false ∧ s.clusterUp (clusterOf (s.lead t)) = true ∧ (s.seqTile t).headOf unit = some c ∧
  c.isVec = false ∧ (s.seqTile t).waitOk c = true ∧ ∀ f ∈ (s.seqTile t).flights, f.cmd.id ≠ c.id

/-- The tile once command c has left its queue and its work is done (R70). -/
def taken (x : Tile) (c : Command) : Tile := { x.unqueue c.id with flights := x.flights ++ [⟨c, true⟩] }

/-- A write covers a byte of the panel's store. -/
def covers (w : Nat × Bytes) (b : Nat) : Prop := w.1 ≤ b ∧ b < w.1 + w.2.length

/-- What a list of writes leaves in the store of t's panel: a byte that none covers is as it was, and a byte that one alone covers is
the one it gives. -/
def Wrote (ws : List (Nat × Bytes)) (s u : State) (t : Path) : Prop :=
  ∀ b, b < s.span (s.lead t) →
    ((∀ w ∈ ws, ¬ covers w b) → u.lsByte (s.lead t) b = s.lsByte (s.lead t) b) ∧
    (∀ w ∈ ws, covers w b → (∀ w' ∈ ws, covers w' b → w' = w) → u.lsByte (s.lead t) b = w.2.getD (b - w.1) 0)

/-- Outside the tiles only counters, reports, samples and the free values drawn for them differ (R133, R355, R357). -/
def CountsAndSamples (s u : State) : Prop :=
  (∀ p, u.part p = { s.part p with ctr := (u.part p).ctr }) ∧
  (∀ k, u.cluster k = { s.cluster k with packets := (u.cluster k).packets, current := (u.cluster k).current,
                                         transitions := (u.cluster k).transitions, chk := (u.cluster k).chk }) ∧
  u = { s with tiles := u.tiles, parts := u.parts, clusters := u.clusters, integ := u.integ, mgmt := u.mgmt, trace := u.trace,
               free := u.free }

/-- The command's work is done (R70): it has left its queue and may complete, the store holds what it wrote, and nothing else of any tile
has changed but the activity of the arrays (R111). -/
def WorkDone (s u : State) (t : Path) (c : Command) (ws : List (Nat × Bytes)) : Prop :=
  Wrote ws s u t ∧ CountsAndSamples s u ∧
  u.tile (s.lead t) = { taken (s.seqTile t) c with ls := (u.tile (s.lead t)).ls, arr := (u.tile (s.lead t)).arr } ∧
  (∀ q, q ≠ s.lead t → u.tile q = { s.tile q with ls := (u.tile q).ls, arr := (u.tile q).arr }) ∧
  (∀ q, q ∉ s.members (s.lead t) → u.tile q = s.tile q)

/-! ### The array (R91 to R105) -/

/-- The array operations and their OP (R97). -/
def arrayOps : List ((Path → Instr) × Nat) :=
  [(.mma, 0), (.l1, 1), (.minplus, 2), (.maxplus, 3), (.topk, 4), (.fp32x3, 5), (.cplx3, 6)]

/-- The writes of an array command: each row of D, and its scales where D is y4 (R91, R100). -/
def arrayWrites (s : State) (t : Path) (d : ArrCmd) : List (Nat × Bytes) :=
  let part := (s.partOf (s.lead t)).map s.part
  let out := d.rowOut (s.lsByte (s.lead t)) ((part.map Part.seed).getD 0) ((part.map Part.step).getD 0)
  (List.range d.m).flatMap fun r => [(d.daddr + r * d.dstr, (out r).1), (d.dscl + r * (d.n / 16), (out r).2)]

/-- The bytes written lie within the span. -/
def writesFit (s : State) (t : Path) (ws : List (Nat × Bytes)) : Prop := ∀ w ∈ ws, w.2 ≠ [] → w.1 + w.2.length ≤ s.span (s.lead t)

/-- Element (r, k) of A and element (n, k) of B, as R91 lays them out. -/
def aElement (d : ArrCmd) (rd : Nat → Byte) (r k : Nat) : Num := elemNum rd d.fa (d.aaddr + r * d.astr) (d.ascl + r * (d.k / 16)) k
def bElement (d : ArrCmd) (rd : Nat → Byte) (n k : Nat) : Num :=
  if d.trb then elemNum rd d.fb (d.baddr + k * d.bstr) (d.bscl + k * (d.n / 16)) n
  else elemNum rd d.fb (d.baddr + n * d.bstr) (d.bscl + n * (d.k / 16)) k

/-- A value rounded to bf16, and what is left of it rounded again (R104). -/
def hiPart (x : Num) : Num := bf16.decode (bf16.encode 0 x)
def loPart (x : Num) : Num := if (hiPart x).isFin then bf16.decode (bf16.encode 0 (x.add 0 (hiPart x).neg)) else .nan

/-- The terms of one output element over ascending k. -/
def termsOver (d : ArrCmd) (f : Nat → Num) : List Num := (List.range d.k).map f

/-! ### Activity levels (R111) and panel layouts (R107, R108) -/

/-- The level once a real operation or an UNDERLAY arrives at a time. -/
def raisedLevel (now : Nat) (a : ArrayLevel) : ArrayLevel :=
  if a.rising then a else { a with level := if a.level < 8 then a.level + 1 else 8, since := now, rising := true }

/-- A session may write an object: the controller has its rail, the object is served, and R442 lets the session's role write it. -/
def Writable (s : State) (ses : Ses) (idx sub : Nat) : Prop :=
  s.pwr.aux = true ∧ s.unserved idx = false ∧ s.mayWrite (s.role ses) idx sub = true

/-- The width of a panel under code 0, 1 or 2 of a layout. -/
def widthOf (layout : BitVec 16) (g : Nat) : Nat := if layout.toNat / 4 ^ g % 4 = 1 then 2 else if layout.toNat / 4 ^ g % 4 = 2 then 4 else 1

/-! ### Reductions, block operations and routing (R124 to R129, R148 to R153) -/

/-- What a reduction descriptor writes: one fp32 word for each row, folded by chunks of 32 from the identity (R153); an fp16 source is
scaled by 2^-SEXP. -/
def redWrites (s : State) (t : Path) (d : RowCmd) : List (Nat × Bytes) :=
  let rd := s.lsByte (s.lead t)
  let shift : Int := if d.fmt = 6 then -(signed 8 (bits (d.b 5) 0 8)) else 0
  [(d.dst, (List.range d.rows).flatMap fun r =>
    toLE (redFold d.op (redIdentity d.op) (d.elems rd (d.b 6).toNat shift r 0 d.len)) 4)]

/-- What OCC writes: for each row, one bit for each 64 elements, 1 where one of them is not ±0, packed from bit 0 up (R149). -/
def occWrites (s : State) (t : Path) (d : RowCmd) : List (Nat × Bytes) :=
  let row (r : Nat) := d.elems (s.lsByte (s.lead t)) (d.b 7).toNat 0 r 0 d.len
  let bits := (List.range d.rows).flatMap fun r => (groupsOf 64 (row r)).map fun g => if g.any (fun x => !x.isZero) then 1 else 0
  [(d.dst, packBits bits ((bits.length + 7) / 8))]

/-- What QY4 writes: each row in y4 and its scales; under MODE.SR position i of row r draws the bits at VSRB + r × LEN + i (R150). -/
def qy4Writes (s : State) (t : Path) (c : Command) (d : RowCmd) : List (Nat × Bytes) :=
  let part := (s.partOf (s.lead t)).map s.part
  let rnd (r i : Nat) : Option Nat := if fieldOf c.mode 5 1 = 1 then
    some (srBits ((part.map Part.seed).getD 0) ((part.map Part.step).getD 0) (((s.seqTile t).vsrb.toNat + r * d.len + i) % 2 ^ 48)) else none
  let out (r : Nat) := convertRow 2 0 (rnd r) ((d.elems (s.lsByte (s.lead t)) 0 0 r 0 d.len).map fun x => word (fp32.encode 0 x))
  (List.range d.rows).flatMap fun r =>
    [(d.dst + r * d.dstr, packElems 2 (out r).1), (d.dscl + r * (d.len / 16), (out r).2.map (BitVec.ofNat 8))]

/-- The vector engine has not stopped, and nothing but command c waits for it. -/
def AloneInVector (s : State) (t : Path) (c : Command) : Prop :=
  (s.seqTile t).vecStopped = false ∧ ∀ q ∈ (s.seqTile t).cmdQ, q.unit = 1 → q.id = c.id

/-- The score and the expert of entry r of token k (R103). -/
def routeEntry (s : State) (t : Path) (d : RouteCmd) (k r : Nat) : Nat × Nat :=
  let w (a : Nat) := leNat ((List.range 4).map fun i => s.lsByte (s.lead t) (a + i))
  (w (d.laddr + k * d.lstr + 8 * r), w (d.laddr + k * d.lstr + 8 * r + 4))

/-- Entry (k, r) comes before entry (k', r') where slots are given (R126). -/
def routeBefore (d : RouteCmd) (k r k' r' : Nat) : Bool := if d.order then k < k' || (k = k' && r < r') else r < r' || (r = r' && k < k')

/-- The entries of a body, by token and rank. -/
def routeEntries (d : RouteCmd) : List (Nat × Nat) := (List.range d.t).flatMap fun k => (List.range d.ksel).map fun r => (k, r)

/-- How many entries of the same expert come before an entry (R126). -/
def routeRank (s : State) (t : Path) (d : RouteCmd) (e : Nat × Nat) : Nat :=
  ((routeEntries d).filter fun b => (routeEntry s t d b.1 b.2).2 = (routeEntry s t d e.1 e.2).2 && routeBefore d b.1 b.2 e.1 e.2).length

/-- The entries of one expert. -/
def routedTo (s : State) (t : Path) (d : RouteCmd) (x : Nat) : List (Nat × Nat) :=
  (routeEntries d).filter fun e => (routeEntry s t d e.1 e.2).2 = x

/-- How many entries find no slot (R126). -/
def routeDropped (s : State) (t : Path) (d : RouteCmd) : Nat := ((List.range d.e).map fun x => (routedTo s t d x).length - d.c).sum

/-- What ROUTE writes (R127): for each entry its gate and its slot and expert; for each expert how many slots it has filled, and after
them how many entries were dropped; for each slot the rank and token of the entry that holds it, all ones where none does. -/
def routeWrites (s : State) (t : Path) (d : RouteCmd) : List (Nat × Bytes) :=
  ((routeEntries d).map fun e =>
    let (g, x) := routeEntry s t d e.1 e.2
    (d.raddr + e.1 * d.rstr + 8 * e.2, toLE g 4 ++ (if x = 0xFFFFFFFF then toLE 0xFFFFFFFF 4
      else if routeRank s t d e < d.c then toLE (routeRank s t d e * 65536 + x) 4 else toLE (0xFFFF * 65536 + x) 4)))
  ++ ((List.range d.e).map fun x => (d.caddr + 4 * x, toLE (min (routedTo s t d x).length d.c) 4))
  ++ [(d.caddr + 4 * d.e, toLE (routeDropped s t d) 4)]
  ++ ((List.range d.e).flatMap fun x => (List.range d.c).map fun n => (d.saddr + (x * d.c + n) * 4,
      match (routedTo s t d x).find? fun e => routeRank s t d e = n with
      | some e => toLE (e.2 * 2 ^ 28 + e.1) 4
      | none => toLE 0xFFFFFFFF 4))

/-- The reductions and their ROP (R152). -/
def reductions : List ((Path → Instr) × Nat) := [(.redSum, 1), (.redSsq, 2), (.redMax, 3), (.redMin, 4), (.redAmax, 5)]

/-- The tile of t's panel with VSRB advanced by the elements QY4 writes under MODE.SR (R150). -/
def vsrbAdvanced (s : State) (t : Path) (c : Command) (d : RowCmd) : State :=
  s.setTile (s.lead t) { s.seqTile t with vsrb := (s.seqTile t).vsrb + BitVec.ofNat 48 (if fieldOf c.mode 5 1 = 1 then d.rows * d.len else 0) }

/-! ### The access engine (R173 to R181, R194 to R200) -/

/-- The pages of a context lie at multiples of their size and do not overlap, and a mover's buffer holds none that is no longer mapped
(R169, R170, R172). -/
def Translates (s : State) (who : Mover) (ctx : BitVec 12) : Prop :=
  (∀ p ∈ s.tlbOf who, p ∈ s.mem.maps) ∧
  ∀ p ∈ s.mem.maps, p.ctx = ctx → p.va % p.size = 0 ∧ p.pa % p.size = 0 ∧
    ∀ q ∈ s.mem.maps, ∀ va, p.holds ctx va = true → q.holds ctx va = true → p = q

/-- The physical address of a mapped virtual address (R169). -/
def physAt (s : State) (ctx : BitVec 12) (va : Nat) : Nat :=
  match s.mem.maps.find? fun p => p.holds ctx va with
  | some p => p.pa + (va - p.va)
  | none => 0

/-- Every byte of a virtual range is mapped with a permission. -/
def permits (s : State) (ctx : BitVec 12) (write : Bool) (va len : Nat) : Prop :=
  ∀ i, i < len → ∃ p, (s.mem.maps.find? fun p => p.holds ctx (va + i)) = some p ∧ (if write then p.w else p.r) = true

/-- The bytes of tier memory in a virtual range. -/
def virtBytes (s : State) (ctx : BitVec 12) (va len : Nat) : Bytes :=
  (List.range len).map fun i => mapGet 0 s.mem.tier (physAt s ctx (va + i))

/-- What a list of writes to virtual addresses leaves in tier memory: a byte that none reaches is as it was, and a byte that one of them
alone reaches is the one it gives. -/
def WroteTier (vw : List (Nat × Bytes)) (s u : State) (ctx : BitVec 12) : Prop :=
  (∀ a, (∀ w ∈ vw, ∀ i, i < w.2.length → physAt s ctx (w.1 + i) ≠ a) → mapGet 0 u.mem.tier a = mapGet 0 s.mem.tier a) ∧
  (∀ w ∈ vw, ∀ i, i < w.2.length →
    (∀ w' ∈ vw, ∀ j, j < w'.2.length → physAt s ctx (w'.1 + j) = physAt s ctx (w.1 + i) → w' = w ∧ j = i) →
    mapGet 0 u.mem.tier (physAt s ctx (w.1 + i)) = w.2.getD i 0)

/-- A transfer leaves everything but what it writes: its command has left its queue and may complete; buffers, read-ahead, counters and
reports may have changed, and of the tiles only the stores of those in `near`. -/
def TransferFrame (s u : State) (t : Path) (c : Command) (near : Path → Prop) (stores : Bool) : Prop :=
  (∀ p, u.part p = { s.part p with ctr := (u.part p).ctr }) ∧
  (∀ k, u.cluster k = { s.cluster k with packets := (u.cluster k).packets, current := (u.cluster k).current,
                                         transitions := (u.cluster k).transitions }) ∧
  u.tile (s.lead t) = { taken (s.seqTile t) c with ls := (u.tile (s.lead t)).ls, tlb := (u.tile (s.lead t)).tlb } ∧
  (∀ q, q ≠ s.lead t → u.tile q = { s.tile q with ls := (u.tile q).ls, tlb := (u.tile q).tlb }) ∧
  (∀ q, ¬ near q → u.tile q = s.tile q) ∧
  (stores = false → u.mem.blocks = s.mem.blocks ∧ u.mem.tagCounts = s.mem.tagCounts) ∧
  u.mem = { s.mem with tier := u.mem.tier, blocks := u.mem.blocks, tagCounts := u.mem.tagCounts, readAhead := u.mem.readAhead,
                       raHits := u.mem.raHits, raDiscarded := u.mem.raDiscarded, winChan := u.mem.winChan, winPart := u.mem.winPart,
                       sliceTlb := u.mem.sliceTlb } ∧
  u = { s with tiles := u.tiles, parts := u.parts, clusters := u.clusters, mem := u.mem, integ := u.integ, mgmt := u.mgmt,
               trace := u.trace, free := u.free }

/-- A transfer of t's panel is done: its writes to the panel's store and to tier memory, and nothing else. -/
def Transferred (s u : State) (t : Path) (c : Command) (ctx : BitVec 12) (ws vw : List (Nat × Bytes)) : Prop :=
  Wrote ws s u t ∧ WroteTier vw s u ctx ∧ TransferFrame s u t c (fun q => q ∈ s.members (s.lead t)) (!vw.isEmpty)

/-- An access command of partition p and context ctx may begin: it waits first, fewer than four of its kind are in flight (R176), its body
meets every check (R173 to R175), memory answers it (R165), and the panel's buffers agree with the pages. -/
def Accesses (s : State) (t : Path) (unit : Nat) (c : Command) (p : Nat) (ctx : BitVec 12) : Prop :=
  Waits s t unit c ∧ ((s.seqTile t).flights.filter fun f => f.cmd.unit.toNat = unit).length < 4 ∧ CleanStore s t ∧ (accCmd c).bad unit (s.span (s.lead t)) = false ∧ s.partOf (s.lead t) = some p ∧
  s.slotCtx p (accCmd c).cslot = some ctx ∧ s.accReady t unit c = true ∧ ∀ m ∈ s.members (s.lead t), Translates s (.tile m) ctx

/-- The rows of tier memory of a command may be read. -/
def rowsReadable (s : State) (ctx : BitVec 12) (d : AccCmd) : Prop :=
  ∀ r, r < d.rows → permits s ctx false (d.taddr + r * d.tstr) d.rb

/-- Row r of tier memory. -/
def tierRow (s : State) (ctx : BitVec 12) (d : AccCmd) (r : Nat) : Bytes := virtBytes s ctx (d.taddr + r * d.tstr) d.rb

/-- The index of row r of a GATHER (R174). -/
def gatherIndex (s : State) (t : Path) (d : AccCmd) (r : Nat) : Nat :=
  leNat ((List.range 4).map fun i => s.lsByte (s.lead t) (d.xaddr + 4 * r + i))

/-- The bytes of a range of the panel's store. -/
def storeBytes (s : State) (t : Path) (a len : Nat) : Bytes := (List.range len).map fun i => s.lsByte (s.lead t) (a + i)

/-- The blocks of a segment expand one after another, from an offset to its end (R199, R200). -/
def expandsTo (code : List (Nat × Nat × Nat)) (seg : Bytes) (off : Nat) : List Bytes → Prop
  | [] => off = seg.length
  | b :: bs =>
    let h := slice seg off 16
    off + 16 ≤ seg.length ∧ blockHdrBad h (seg.length - off) = false ∧
    decodeBlock code h (slice seg (off + 16) (blenOf h - 16)) = .bytes b ∧ (crc32c b).toNat = fieldAt h 4 4 ∧
    expandsTo code seg (off + blenOf h) bs

/-- The blocks that fit before a limit, each with its offset, and the offset behind the last; none where one does not fit (R197). -/
def placeBlocks (limit : Nat) : Nat → List Bytes → List (Nat × Bytes) × Option Nat
  | off, [] => ([], some off)
  | off, b :: bs =>
    if limit < off + b.length then ([], none)
    else ((off, b) :: (placeBlocks limit (off + b.length) bs).1, (placeBlocks limit (off + b.length) bs).2)

/-! ### Contexts, mappings and slabs (R165 to R172, R184) -/

/-- Partition p is changed to y, and no other. -/
def PartIs (s u : State) (p : Nat) (y : Part) : Prop := u.part p = y ∧ ∀ q, q ≠ p → u.part q = s.part q

/-- A mapping request's record: the bytes written, with OP as the row names it (R170). -/
def mapRecord (op : Nat) (rec' : BitVec 256) : MapReq := mapReq (setByte (toLE rec'.toNat 32) 0 (BitVec.ofNat 8 op))

/-- A session may have a mapping request of partition p done: R170 refuses it nowhere, and none of p's waits. -/
def MayMap (s : State) (ses : Ses) (q : MapReq) (p : Nat) : Prop :=
  Writable s ses 0x2210 1 ∧ s.ctxPart q.ctx = some p ∧ s.asOwner (s.role ses) p = true ∧ s.mapRefusal q p true = none ∧
  (s.part p).mapBusy = false

/-- Page m is one of a request's (R170). -/
def ofRequest (q : MapReq) (m : PageMap) : Prop :=
  m.ctx.toNat = q.ctx ∧ ∃ i, i < q.count ∧ m.va = q.va + i * (if q.big then 0x40000000 else 0x200000)

/-- A slab's record is changed, no other: eight bytes that the DRBG generates are its key (R166, R398). -/
def Rekeyed (s u : State) (n : Nat) (owner : BitVec 8) : Prop :=
  u.slab n = { s.slab n with owner := owner, state := 1, key := BitVec.ofNat 64 (leNat (s.generate 8).1) } ∧ (∀ j, j ≠ n → u.slab j = s.slab j) ∧
  u.mem.readAhead = s.mem.readAhead.filter (fun e => slabOf (e.line * 512) ≠ some n) ∧
  u = { s with mem := { s.mem with slabs := u.mem.slabs, readAhead := u.mem.readAhead },
               sec := (s.generate 8).2.sec }

/-- R166 refuses neither an owner change nor a rekey of a slab: no page lies in it, none that a buffer may still hold either. -/
def SlabFree (s : State) (n : Nat) : Prop :=
  (∀ m ∈ s.mem.maps, slabOf m.pa ≠ some n) ∧ (∀ e ∈ s.mem.stale, slabOf e.2.pa ≠ some n) ∧ n ≠ 639 ∧ (s.slab n).state ≠ 1 ∧ s.sec.drbg = 1

/-- A line request's address names memory that answers (R165, R177). -/
def LineAnswers (s : State) (pa len : Nat) : Prop :=
  s.fatal = false ∧ s.pwr.tiersTrained = true ∧ pa % 512 + len ≤ 512 ∧ ∃ n, slabOf pa = some n ∧ (s.slab n).state ≠ 1


/-! ### The training-state engine (R211 to R222) -/

/-- A training-state command of partition p and context ctx may begin (R211, R212, R223): the engine of its die works on fewer than four. -/
def Trains (s : State) (t : Path) (c : Command) (op p : Nat) (ctx : BitVec 12) : Prop :=
  Waits s t 5 c ∧ c.top = op ∧ s.engineFree t = true ∧ tsBad c = false ∧ s.partOf (s.lead t) = some p ∧
  s.slotCtx p (fieldOf (c.body.getD 0 0) 20 4) = some ctx ∧ s.tsReady t c = true ∧ Translates s (.slice (dieOf (s.lead t))) ctx ∧
  ∀ a ∈ s.mem.maps, ∀ b ∈ s.mem.maps, a.ctx = ctx → b.ctx = ctx → a ≠ b → a.pa + a.size ≤ b.pa ∨ b.pa + b.size ≤ a.pa

/-- Every block of a virtual range is readable and its check value holds (R178, R216). -/
def verified (s : State) (ctx : BitVec 12) (va len : Nat) : Prop :=
  permits s ctx false (va / 4096 * 4096) ((va + len + 4095) / 4096 * 4096 - va / 4096 * 4096) ∧
  ∀ i, i < (va + len + 4095) / 4096 - va / 4096 → s.verify (physAt s ctx (va / 4096 * 4096 + 4096 * i)) = .good

/-- The address, the step and the span record of a command's body (R212, R213). -/
def tsAddress (c : Command) : Nat := fieldOf (c.body.getD 3 0) 0 20 * 2 ^ 32 + (c.body.getD 2 0).toNat
def tsStep (c : Command) : Word := c.body.getD 1 0
def spanOf (s : State) (c : Command) (ctx : BitVec 12) : Span := parseSpan (virtBytes s ctx (tsAddress c) 128)
def hyperOf (s : State) (x : Span) (ctx : BitVec 12) : Hyper := parseHyper (virtBytes s ctx x.hva 64)

/-- The span record and the hyper-parameters may be read, and the record keeps R213 and R215. -/
def SpanReadable (s : State) (c : Command) (ctx : BitVec 12) : Prop :=
  verified s ctx (tsAddress c) 128 ∧ (spanOf s c ctx).bad = false ∧ verified s ctx (spanOf s c ctx).hva 64

/-- Number i of a plane of fixed-size little-endian numbers. -/
def planeAt (s : State) (ctx : BitVec 12) (va size i : Nat) : Nat := leNat (virtBytes s ctx (va + size * i) size)

/-- The gradient of element i, widened by its bucket's exponent (R207). -/
def gradient (s : State) (ctx : BitVec 12) (x : Span) (i : Nat) : Nat :=
  widen16 (planeAt s ctx x.gva 2 i) (planeAt s ctx x.geva 1 (i / 4096))

/-- The new moments of element i (R217): fma(b1, m0, omb1 × g) and fma(b2, v0, omb2 × (g × g)). -/
def newMoment1 (s : State) (ctx : BitVec 12) (x : Span) (h : Hyper) (i : Nat) : Nat :=
  fma32 h.b1 (moment1 (planeAt s ctx x.mva 1 i) (planeAt s ctx x.msva 2 (i / 128))) (mul32 h.omb1 (gradient s ctx x i))
def newMoment2 (s : State) (ctx : BitVec 12) (x : Span) (h : Hyper) (i : Nat) : Nat :=
  fma32 h.b2 (moment2 (planeAt s ctx x.vva 1 i) (planeAt s ctx x.vsva 2 (i / 128)))
    (mul32 h.omb2 (mul32 (gradient s ctx x i) (gradient s ctx x i)))

/-- Bits of the YCG-64 draw of element i (R205). -/
def drawBits (seed : DWord) (step : Word) (x : Span) (i lo : Nat) : Nat := (ycg64 seed step 0 (x.pidx + i)).toNat / 2 ^ lo % 2 ^ 16

/-- The elements of block k of a span. -/
def ofBlock {α : Type} (f : Nat → α) (k : Nat) : List α := (List.range 128).map fun j => f (128 * k + j)

/-- The staged codes and scales of block k of a span lie where R215 puts them, in the first or the second half of its bucket. -/
def stagedAt (u : State) (ctx : BitVec 12) (x : Span) (k half : Nat) (q : Nat × List Nat) : Prop :=
  virtBytes u ctx (x.gva + 8192 * (k / 32) + 4096 * half + 128 * (k % 32)) 128 = q.2.map (BitVec.ofNat 8) ∧
  virtBytes u ctx (x.ssva + 128 * (k / 32) + 64 * half + 2 * (k % 32)) 2 = toLE q.1 2

/-- The sum of the squared gradients of a span, folded bucket by bucket (R153, R217). -/
def gradientSquares (s : State) (ctx : BitVec 12) (x : Span) : Nat :=
  (List.range (x.n / 4096)).foldl (fun acc b => redFold 2 acc ((List.range 4096).map fun j => f32 (gradient s ctx x (4096 * b + j)))) 0

/-- The committed weight of element i (R222). -/
def newWeight (s : State) (ctx : BitVec 12) (x : Span) (h : Hyper) (seed : DWord) (step : Word) (i : Nat) : Nat :=
  let staged (half : Nat) := planeAt s ctx (x.gva + 8192 * (i / 4096) + 4096 * half) 1 (i % 4096)
  let scale (half : Nat) := planeAt s ctx (x.ssva + 128 * (i / 4096) + 64 * half) 2 (i % 4096 / 128)
  let w0 := planeAt s ctx x.wva 2 i * 65536
  let m := moment1 (staged 0) (scale 0)
  let u := if x.opt = 0 then div32 (mul32 m h.c1) (add32 (sqrt32 (mul32 (moment2 (staged 1) (scale 1)) h.c2)) h.eps) else mul32 m h.c1
  bf16.sr (drawBits seed step x i 0) (f32 (fma32 (fp32.encode 0 (f32 h.lr).neg) (fma32 h.wd w0 u) w0))

/-- The state with a partition changed: the base that a training command's frame is said from. -/
def withPart (s : State) (p : Nat) (y : Part) : State := { s with parts := mapSet {} s.parts p y }

/-- No byte of tier memory outside some virtual ranges has changed. -/
def OnlyRanges (s u : State) (ctx : BitVec 12) (rs : List (Nat × Nat)) : Prop :=
  ∀ a, (∀ r ∈ rs, ∀ i, i < r.2 → physAt s ctx (r.1 + i) ≠ a) → mapGet 0 u.mem.tier a = mapGet 0 s.mem.tier a

/-- Bytes of whole blocks. -/
def wholeBlocks (n : Nat) : Nat := (n + 4095) / 4096 * 4096

/-- The registers after a verdict on a sum S (R220). -/
def judged (x : Part) (sum : Nat) (skip : Bool) : Part :=
  if skip then { x with lastSum := BitVec.ofNat 32 sum, verdictStep := x.step, lastVerdict := 2, step := x.step + 1, normSlots := [],
                        normMarks := [], consec := if x.consec = 65535 then 65535 else x.consec + 1, skips := satAdd64 x.skips 1 }
  else { x with lastSum := BitVec.ofNat 32 sum, verdictStep := x.step, lastVerdict := 1, step := x.step + 1, normSlots := [],
                normMarks := [], applied := x.applied + 1, consec := 0 }

/-! ### Collectives (R258 to R285) -/

/-- The collectives and their SOP (R259). -/
def collectives : List ((Path → Instr) × Nat) :=
  [(.barrier, 1), (.broadcast, 2), (.allreduce, 3), (.reduceScatter, 4), (.allgather, 5), (.alltoall, 6), (.alltoallv, 7),
   (.alltoallvRev, 8)]

/-- A collective of partition p and context ctx waits first, and R261 refuses it nowhere. -/
def CollectiveWaits (s : State) (t : Path) (c : Command) (p : Nat) (ctx : BitVec 12) : Prop :=
  Waits s t 5 c ∧ s.shReady (s.lead t) c = true ∧ s.shRefusal (s.lead t) c = none ∧ s.shCtx (s.lead t) c = some (p, ctx)

/-- The row that dispatches a collective: its own, or the one for a descriptor that has passed its checks and waits for a slot (R271). -/
def rowOf (i : Path → Instr) (c : Command) : Prop := (∃ r ∈ collectives, i = r.1 ∧ c.top = r.2) ∨ (i = .shuttleSlotOpen ∧ c.checked = true)

/-- The slot is open for the command, with the fields the descriptor and its group give it (R258, R271). -/
def OpenFor (s u : State) (t : Path) (c : Command) (key p : Nat) : Prop :=
  ∃ y, u.slotAt key = some y ∧ y.body = c.body ∧ y.tile = s.lead t ∧ y.cmd = c.id ∧ y.stag = c.stag ∧ y.part = p ∧ y.opened = s.now ∧
    y.deadline = s.now + BitVec.ofNat 64 (1000 * (s.part p).deadline.toNat) ∧
    y.gid.toNat = fieldOf (c.body.getD 1 0) 16 16 ∧ y.seq.toNat = fieldOf (c.body.getD 1 0) 0 16 ∧
    (∀ g, s.group y.gid = some g → y.rank = s.rankIn g.base.toNat g.extent.toNat ∧ y.size = groupSize g.extent.toNat)

/-- The bytes of a range in local store or in tier memory. -/
def spaceBytes (s : State) (t : Path) (ctx : BitVec 12) (store : Bool) (a len : Nat) : Bytes :=
  if store then storeBytes s t a len else virtBytes s ctx a len

/-- A count of a row list. -/
def countAt (s : State) (t : Path) (ctx : BitVec 12) (store : Bool) (a k : Nat) : Nat := leNat (spaceBytes s t ctx store (a + 4 * k) 4)

/-- What a collective of a group of one module writes: whether into local store, where, and the bytes. Data move to the destination as
they are, a reduction applies POSTMUL and the element format (R263 to R266), and rows move between their regions and the packed
buffer (R277, R278). -/
def aloneWrites (s : State) (t : Path) (ctx : BitVec 12) (x : Slot) : List (Bool × Nat × Bytes) :=
  let b (i : Nat) : Bool := x.b0.getLsbD i
  let src (i : Nat) := spaceBytes s t ctx (b 10) (x.addr 2 + i * x.unit) x.unit
  let be (i : Nat) := spaceBytes s t ctx (b 7) (x.addr 8 + i) 1
  let put (i : Nat) (bs e : Bytes) : List (Bool × Nat × Bytes) :=
    [(b 9, x.addr 4 + i * x.unit, bs)] ++ if x.etype = 3 then [(b 6, x.addr 10 + i, e)] else []
  let sc (k : Nat) := countAt s t ctx (b 7) (x.addr 8) k
  let rc (k : Nat) := countAt s t ctx (b 6) (x.addr 10) k
  let packed (k : Nat) := ((List.range k).map sc).sum * x.seg * 64
  let row := x.seg * 64
  match x.sop with
  | 1 => []
  | 3 => (List.range x.seg).flatMap fun i =>
    let out := x.finish (x.widen (if x.etype = 3 then src i ++ be i ++ List.replicate 63 0 else src i))
    put i (out.take x.unit) [out.getD 8192 0]
  | 4 => (List.range x.seg).flatMap fun i =>
    let out := x.finish (x.widen (if x.etype = 3 then src i ++ be i ++ List.replicate 63 0 else src i))
    put i (out.take x.unit) [out.getD 8192 0]
  | 7 => [(b 6, x.addr 10, (List.range x.nsub).flatMap fun k => toLE (sc k) 4)] ++ (List.range x.nsub).map fun k =>
    (b 9, x.addr 4 + k * x.subcap * row, spaceBytes s t ctx (b 10) (x.addr 2 + packed k) (sc k * row))
  | 8 => (List.range x.nsub).map fun k =>
    (b 9, x.addr 4 + packed k, spaceBytes s t ctx (b 10) (x.addr 2 + k * x.subcap * row) (rc k * row))
  | _ => (List.range x.seg).flatMap fun i => put i (src i) (be i)

/-- What it reads, as ranges: its source areas, and under ALLTOALLV the packed rows that the counts name. -/
def aloneReads (s : State) (t : Path) (ctx : BitVec 12) (x : Slot) : List (Bool × Nat × Nat) :=
  (x.areas.filter (!·.1)).map (·.2) ++ if x.sop = 7 then [(x.b0.getLsbD 10, x.addr 2,
    ((List.range x.nsub).map fun k => countAt s t ctx (x.b0.getLsbD 7) (x.addr 8) k).sum * x.seg * 64)] else []

/-- Everything a collective of one module touches may be touched: its source areas are readable, and verified under CHK, the places it
writes are writable, its counts fit their regions, and no injection is armed. -/
def AloneReady (s : State) (t : Path) (ctx : BitVec 12) (x : Slot) : Prop :=
  x.size = 1 ∧ CleanStore s t ∧ s.integ.armed = false ∧ Translates s (.slice (dieOf (s.lead t))) ctx ∧
  (∀ a ∈ s.mem.maps, ∀ b ∈ s.mem.maps, a.ctx = ctx → b.ctx = ctx → a ≠ b → a.pa + a.size ≤ b.pa ∨ b.pa + b.size ≤ a.pa) ∧
  (∀ a ∈ aloneReads s t ctx x, if a.1 then a.2.1 + a.2.2 ≤ s.span (s.lead t) else
    permits s ctx false a.2.1 a.2.2 ∧ (x.chk = true → verified s ctx a.2.1 a.2.2)) ∧
  (x.ragged = true → ∀ a ∈ aloneReads s t ctx x, ∀ w ∈ aloneWrites s t ctx x,
    ¬ (a.1 = w.1 ∧ a.2.1 < w.2.1 + w.2.2.length ∧ w.2.1 < a.2.1 + a.2.2)) ∧
  (∀ w ∈ aloneWrites s t ctx x, if w.1 then w.2.1 + w.2.2.length ≤ s.span (s.lead t) else permits s ctx true w.2.1 w.2.2.length) ∧
  (x.sop = 7 → ∀ k, k < x.nsub → countAt s t ctx (x.b0.getLsbD 7) (x.addr 8) k ≤ x.subcap) ∧
  (x.sop = 8 → ∀ k, k < x.nsub → countAt s t ctx (x.b0.getLsbD 6) (x.addr 10) k ≤ x.subcap) ∧
  (∀ e ∈ s.sh.early, ¬ (e.1 = ctx ∧ e.2.1 = x.gid ∧ e.2.2.1 = x.seq))

/-- A message of a type waits first at a port and names a group of this module (R272). -/
def Delivered (s : State) (p : PortCode) (mt : BitVec 4) (m : Msg) (g : Group) (rest : List (Msg × BitVec 3 × Bool × Nat)) : Prop :=
  s.fatal = false ∧ (∃ vc sh n, (s.port p.toNat).rxQ = (m, vc, sh, n) :: rest) ∧ m.mt = mt ∧ s.group m.gid = some g ∧ g.gtag = m.gtag

/-- The open slot a message names by number, GID and SEQ (R272), of a formed partition. -/
def Names (s : State) (g : Group) (m : Msg) (x : Slot) : Prop :=
  s.slotAt (g.ctx.toNat * 16 + m.slot.toNat) = some x ∧ x.gid = m.gid ∧ x.seq = m.seq ∧ s.formed x.part = true

/-- A row takes the message, and its slot, if it is still open, is as given; a slot that is gone has completed or ended. -/
def TakenBy (i : Instr) (s : State) (p : PortCode) (rest : List (Msg × BitVec 3 × Bool × Nat)) (key : Nat) (P : Slot → Prop) : Prop :=
  ∃ u, exec i s = .next u ∧ (u.fatal = false → (u.port p.toNat).rxQ = rest ∧ ∀ y, u.slotAt key = some y → P y)

/-! ### Outings (R289 to R311) -/

/-- An outing command of binding b, partition p and context ctx may begin (R291, R293, R294). -/
def OutingWaits (s : State) (t : Path) (c : Command) (op p : Nat) (ctx : BitVec 12) (b : Binding) : Prop :=
  Waits s t 5 c ∧ c.top = op ∧ outBad c = false ∧ s.outReady t c = true ∧ s.partOf (s.lead t) = some p ∧
  s.slotCtx p (fieldOf (c.body.getD 0 0) 20 4) = some ctx ∧ s.binding (outCmd c).gid = some b ∧ b.ctx = ctx ∧
  b.xva % 4096 = 0 ∧ b.clen % 4096 = 0 ∧ Translates s (.slice (dieOf (s.lead t))) ctx ∧
  ∀ a ∈ s.mem.maps, ∀ b ∈ s.mem.maps, a.ctx = ctx → b.ctx = ctx → a ≠ b → a.pa + a.size ≤ b.pa ∨ b.pa + b.size ≤ a.pa

/-- The outing span record a command names (R289). -/
def outSpanOf (s : State) (c : Command) (ctx : BitVec 12) : OutSpan := parseOutSpan (tsAddress c) (virtBytes s ctx (tsAddress c) 128)

/-- The record may be read and written, and keeps R289. -/
def OutSpanFits (s : State) (c : Command) (ctx : BitVec 12) (b : Binding) : Prop :=
  verified s ctx (tsAddress c) 128 ∧ permits s ctx true (tsAddress c / 4096 * 4096) 4096 ∧ (outSpanOf s c ctx).bad b.clen = false

/-- No two of the ranges share a byte. -/
def Apart (rs : List (Nat × Nat)) : Prop := rs.Pairwise fun a b => a.1 + a.2 ≤ b.1 ∨ b.1 + b.2 ≤ a.1

/-- A range is verified and may be written. -/
def Held (s : State) (ctx : BitVec 12) (r : Nat × Nat) : Prop := verified s ctx r.1 r.2 ∧ permits s ctx true r.1 r.2

/-- fp32 patterns of n elements of a bf16 plane, and of an fp32 plane. -/
def bf16Plane (s : State) (ctx : BitVec 12) (va first n : Nat) : List Nat :=
  (List.range n).map fun j => planeAt s ctx va 2 (first + j) * 65536
def fp32Plane (s : State) (ctx : BitVec 12) (va first n : Nat) : List Nat := (List.range n).map fun j => planeAt s ctx va 4 (first + j)

/-- The value rank r sent for element i in outing n (R297). -/
def sentValue (s : State) (ctx : BitVec 12) (b : Binding) (x : OutSpan) (n : Word) (r i : Nat) : Nat :=
  (recordValues (virtBytes s ctx (b.slotVa n r + x.poff + i / 16384 * (16 + 144 * x.keep)) (16 + 144 * x.keep))).getD (i % 16384) 0

/-- The sum over the bitmap's ranks of element i, late ranks weighted by ALPHA, and its divisor (R307). -/
def outSum (s : State) (ctx : BitVec 12) (b : Binding) (x : OutSpan) (m : Bitmap) (i : Nat) : Nat :=
  (ranksOf m.l).foldl (fun acc r => fma32 m.alpha.toNat (sentValue s ctx b x (m.outno - 1) r i) acc)
    ((ranksOf m.b).foldl (fun acc r => add32 acc (sentValue s ctx b x m.outno r i)) 0)
def outDivisor (m : Bitmap) : Nat :=
  add32 (ofNat32 (ranksOf m.b).length) (mul32 m.alpha.toNat (ofNat32 (ranksOf m.l).length))

/-- The new momentum and anchor of element i (R307): mu × momentum + sum ÷ divisor, and anchor + eta × momentum, rounded with the
class-2 draw of the outing. -/
def outMomentum (s : State) (ctx : BitVec 12) (b : Binding) (x : OutSpan) (m : Bitmap) (mu : Nat) (seed : DWord) (i : Nat) : Nat :=
  bf16.sr ((ycg64 seed m.outno 2 (x.pidx + i)).toNat % 2 ^ 16)
    (f32 (fma32 mu (planeAt s ctx x.ova 2 i * 65536) (div32 (outSum s ctx b x m i) (outDivisor m))))
def outAnchor (s : State) (ctx : BitVec 12) (b : Binding) (x : OutSpan) (m : Bitmap) (eta mu : Nat) (seed : DWord) (i : Nat) : Nat :=
  bf16.sr ((ycg64 seed m.outno 2 (x.pidx + i)).toNat / 2 ^ 16 % 2 ^ 16)
    (f32 (fma32 eta (bf32 (outMomentum s ctx b x m mu seed i)) (planeAt s ctx x.ava 2 i * 65536)))

/-- A message of an outing waits first at a port, and its group is bound (R300). -/
def OutingDelivered (s : State) (p : PortCode) (mt : BitVec 4) (m : Msg) (b : Binding) (v : State) : Prop :=
  ∃ g, s.takeRx p.toNat (fun m => m.mt = mt) = some (m, v) ∧ s.group m.gid = some g ∧ g.gtag = m.gtag ∧ s.binding g.gid = some b ∧
    b.gid = g.gid ∧ v.binding g.gid = some b

/-- A row answers a next state in which the binding is as said. -/
def Binds (i : Instr) (s : State) (gid : BitVec 16) (P : State → Binding → Prop) : Prop :=
  ∃ u b, exec i s = .next u ∧ u.binding gid = some b ∧ P u b

/-- The status of an outing's exchange is fixed (R306): it has completed, or does when its last CONTRIB has been sent (R301). -/
def EndedWith (b : Binding) (n : Word) (st : Nat) : Prop :=
  (n, st) ∈ b.statuses ∧ (b.exch = none ∨ ∃ x, b.exch = some x ∧ x.outno = n ∧ x.status = some st)

/-! ### Power, bring-up and the trace unit -/

/-- The log holds a record with a code, a path word (0 for none) and DETAIL as a little-endian number (R367). Without the auxiliary
rail nothing is recorded (R476). -/
def Recorded (s u : State) (code : Nat) (path : Path) (detail : Nat) : Prop :=
  s.pwr.aux = true → ∃ r ∈ u.integ.log, r.code = BitVec.ofNat 16 code ∧ r.path = path ∧ r.detail = BitVec.ofNat 320 detail

/-- The bits of 0x1200:01 that stand in xs are set in w, the others are as in v. -/
def BitsSet (v w : Word) (xs : List Nat) : Prop := ∀ b, b < 32 → (bit w b = true ↔ bit v b = true ∨ b ∈ xs)

/-- What only the auxiliary rail keeps is gone from every unit outside the island (R462); the counter master runs on. -/
def DomainsReset (s u : State) : Prop :=
  (∀ q, u.tile q = {}) ∧ (∀ k, u.cluster k = {}) ∧ (∀ d, u.die d = {}) ∧ (∀ a, u.win a = {}) ∧
  (∀ p, u.part p = { replay := (s.part p).replay }) ∧ u.sh = {} ∧ u.bindings = [] ∧ u.time = { listenFrom := s.island } ∧
  (∀ c, (u.port c).state = .off ∧ (u.port c).lasers = false) ∧
  (∀ n, u.slab n = if n = 639 then { owner := 0xFE } else {}) ∧ u.mem.maps = [] ∧ u.mem.ctxs = [] ∧ u.mem.retired = s.mem.retired ∧
  u.pwr.functions = 1 ∧ u.pwr.pcieUp = false ∧ u.pwr.tiersTrained = false ∧ u.pwr.powerCap = 2400 ∧ u.pwr.enginePower = 0xFF ∧
  u.sec.keys = s.sec.keys ∧ u.sec.lc = s.sec.lc ∧ u.sec.fieldDebug = s.sec.fieldDebug ∧ u.mgmt.operatorCred = s.mgmt.operatorCred ∧
  u.mgmt.ownerCreds = [] ∧ (∀ n x, mapGet none u.mgmt.sessions n = some x → x.isOwner = false) ∧ u.host = s.host

/-- Sensor n has a value between its old and its new temperature (R475). -/
def crosses (s : State) (n : Nat) (milliC : Word) (v : Int) : Prop := (s.sensor n).temp.toInt < v ∧ v ≤ milliC.toInt

/-- The die's TCLK is held down by a temperature (R474): its own sensor, the bridge's, the coolant's or the input converter's. -/
def HeldDown (s : State) (d : Nat) : Prop := ∃ n ∈ [d, 4, 26, 27], (s.sensor n).throttled = true

/-! ### The vicinity tag (R453 to R458) -/

/-- A request reaches the tag: the field is present, and it is addressed to the tag, or to the selected tag, or to every tag that is not
quiet (R453). -/
def Heard (s : State) (flags : BitVec 8) (uid : BitVec 64) : Prop :=
  s.tag.rfField = true ∧ if bit flags 5 then uid = Config.tagUid else if bit flags 4 then s.tag.mode = .selected else s.tag.mode ≠ .quiet

/-- The command puts an answer on the field and changes nothing else. -/
def Answers (i : Instr) (s : State) (rsp : Bytes) : Prop := exec i s = .next { s with tag := { s.tag with rsp := rsp } }

/-- The eight bytes of the UID, lowest first. -/
def uidSent : Bytes := toLE Config.tagUid.toNat 8

/-- Byte a of a bank. -/
def tagByte (m : List Host.Cell) (a : Nat) : Byte := mapGet 0 m a

/-- The bank that RF reads (R455). -/
def published (s : State) : List Host.Cell := if s.tag.pointer then s.tag.bank1 else s.tag.bank0

/-- A run of blocks as it is sent: each block's security status first where the option flag asks for it (R453). -/
def blocksSent (s : State) (flags : BitVec 8) (first count : Nat) : Bytes :=
  (List.range count).flatMap fun i =>
    (if bit flags 6 then [0] else []) ++ (List.range 4).map fun j => tagByte (published s) (4 * (first + i) + j)

/-- Bytes from an address on take new values and no other byte changes. -/
def CellsTake (m n : List Host.Cell) (a : Nat) (bs : Bytes) : Prop :=
  ∀ x, tagByte n x = if a ≤ x ∧ x < a + bs.length then bs.getD (x - a) 0 else tagByte m x

/-- A second has passed on the island's clock since a stamp, or there is none. -/
def secondSince (s : State) (at' : Option Nat) : Prop := ∀ t, at' = some t → t + 1000000000 ≤ s.island

/-! ### Management (R432 to R452) -/

/-- A frame of a type has come from a source, the controller is free to handle it (log 128), and R437 does not discard it for its form: on
the mirror it is the posted one. -/
def Asks (s : State) (src : Source) (f : Bytes) (q : Frame) (type : Nat) : Prop :=
  s.pathOpen src = true ∧ s.mgmt.handling = false ∧ (src = .mirror → s.mgmt.mbxBusy = true ∧ s.mgmt.mbxReq = f) ∧ parseFrame f = some q ∧ q.type = type

/-- The session of a request and what R437 asks of it: opened on this path, its MAC right, SEQ above the last. -/
def InSession (s : State) (src : Source) (q : Frame) (x : Session) : Prop :=
  q.ses ≠ 0 ∧ mapGet none s.mgmt.sessions q.ses = some x ∧ (x.mirror = true ↔ src = .mirror) ∧ frameMac x.key q.body = q.mac ∧
  ∀ n, x.lastSeq = some n → n.toNat < q.seq

/-- The controller state of s with a response sent on the path of its request, and nothing else. -/
def Sent (s u : State) (src : Source) (rsp : Bytes) : Prop :=
  match src with
  | .port _ => u = { s with mgmt := { s.mgmt with portTx := rsp } }
  | .mirror => u = { s with mgmt := { s.mgmt with mbxRsp := rsp, mbxBusy := false, mbxReady := true, msix0 := s.mgmt.msix0 + 1 } }

/-- The state with a frame counted as received, on the port (R434), and the controller at work on it (log 128). -/
def counted (s : State) (src : Source) : State :=
  match src with
  | .port _ => { s with mgmt := { s.mgmt with framesRx := s.mgmt.framesRx + 1, handling := true } }
  | .mirror => { s with mgmt := { s.mgmt with handling := true } }

/-- The link state of a port that hears its segment (R434). -/
def linkMode (m : Mgmt) : BitVec 8 := if m.plca = false ∨ m.nodeId = 0xFF then 1 else if m.nodeId = 0 then 3 else 2

/-- Settings of the port written: a link that is up takes the mode they give, and a port whose mode changes waits for a BEACON from now. -/
def relinked (m : Mgmt) (now : Nat) : Mgmt :=
  { m with link := if m.link = 0 then 0 else linkMode m, beaconAt := if m.link = 0 ∨ m.link = linkMode m then m.beaconAt else now }

/-- The state v in which the session of a served request notes it and its response (R437, R440). -/
def noted (v : State) (q : Frame) (x : Session) (rsp : Bytes) : State :=
  let y : Session := { x with lastSeq := some (word q.seq), lastReq := q.body, lastRsp := rsp, lastAt := v.island }
  { v with mgmt := { v.mgmt with sessions := mapSet none v.mgmt.sessions q.ses (some y) } }

/-- What GET of an object reads, where reading it changes nothing (R430, R438, R439): none outside the dictionary, and none of a forwarded
object that cannot be served. -/
def readAnswer (s : State) (q : Frame) : Nat × Bytes :=
  let ses : Ses := BitVec.ofNat 16 q.ses
  if objectLength q.idx q.sub = none then (0x4001, [])
  else if s.unserved q.idx then (0x4010, []) else (0, s.readObject ses (s.role ses) q.idx q.sub)

/-- The proof, the key and the number of the session an OPEN asks for are as R439 says. -/
def OpenFits (s : State) (src : Source) (q : Frame) (r : Role) (k : BitVec 256) (c : BitVec 128) (n : Nat) : Prop :=
  q.data.length = 36 ∧ fieldAt q.data 2 2 = 0 ∧
  ((fieldAt q.data 0 1 = 1 ∧ fieldAt q.data 1 1 = 0xFF ∧ r = .operator ∧ s.mgmt.operatorCred = some k) ∨
    (fieldAt q.data 0 1 = 2 ∧ fieldAt q.data 1 1 < 40 ∧ r = .owner (BitVec.ofNat 8 (fieldAt q.data 1 1)) ∧
      mapGet none s.mgmt.ownerCreds (fieldAt q.data 1 1) = some k) ∨
    (fieldAt q.data 0 1 = 3 ∧ fieldAt q.data 1 1 = 0xFF ∧ r = .maker ∧ k = Config.makerKey)) ∧
  (r = .maker ∨ (2 ≤ s.lifeCycle ∧ s.lifeCycle ≤ 4)) ∧ s.challengeOf src = some c ∧
  slice q.data 20 16 = cmac (toBE k.toNat 32)
    ([0] ++ toBE Config.serial.toNat 16 ++ toBE c.toNat 16 ++ slice q.data 0 2 ++ slice q.data 4 16) ∧
  1 ≤ n ∧ n ≤ 32 ∧ mapGet none s.mgmt.sessions n = none ∧ ∀ m, 1 ≤ m → m < n → mapGet none s.mgmt.sessions m ≠ none

/-- The session key of an OPEN (R439). -/
def keyOpened (k : BitVec 256) (c : BitVec 128) (data : Bytes) : BitVec 256 :=
  let half (n : Byte) := cmac (toBE k.toNat 32) ([n] ++ toBE c.toNat 16 ++ slice data 4 16)
  BitVec.ofNat 256 (beNat (half 1 ++ half 2))

/-- A session is gone (R440): its number is free, its selects have their defaults, its tag lock is released and published, a take that
waited is dropped, and nothing else has changed. -/
def Closed (s u : State) (n : Nat) : Prop :=
  mapGet none u.mgmt.sessions n = none ∧ (∀ m, m ≠ n → mapGet none u.mgmt.sessions m = mapGet none s.mgmt.sessions m) ∧
  u.mgmt.selects = s.mgmt.selects.filter (fun e => e.1 / 2 ^ 24 ≠ n) ∧
  (∀ m : Ses, s.tag.holder = some (.session m) → m.toNat = n → u.tag.holder = some .publishing) ∧
  (∀ m : Ses, s.tag.waiting = some m → m.toNat = n → u.tag.waiting = none) ∧
  ((∀ m : Ses, s.tag.holder = some (.session m) → m.toNat ≠ n) → u.tag.holder = s.tag.holder) ∧
  u = { s with mgmt := { s.mgmt with sessions := u.mgmt.sessions, selects := u.mgmt.selects }
               tag := { s.tag with holder := u.tag.holder, waiting := u.tag.waiting } }

/-- Sessions of a role are closed and no others. -/
def SessionsClosed (s u : State) (r : Role) : Prop :=
  ∀ n, mapGet none u.mgmt.sessions n =
    match mapGet none s.mgmt.sessions n with
    | some x => if x.role = r then none else some x
    | none => none

/-- A tile's debug access is open (R429): any tile in Manufacture and Return, a tile of no partition in Provisioned and Field-Debug. -/
def DebugOpen (s : State) (t : Path) : Prop :=
  s.pwr.aux = true ∧ validPath t = true ∧ s.poweredDown (clusterOf t) = false ∧
  (s.lifeCycle = 1 ∨ s.lifeCycle = 5 ∨ ((s.lifeCycle = 2 ∨ s.lifeCycle = 4) ∧ s.partOf t = none))

/-- The parts of a sequencer's state that J3 reads, and what they hold. -/
def sequencerParts (x : Tile) : List (SeqPart × Nat) :=
  [(.pc, x.pc.toNat), (.mode, x.mode.toNat), (.evbase, x.evbase.toNat), (.stkLo, x.stkLo.toNat), (.stkHi, x.stkHi.toNat),
   (.fireBase, x.fireBase.toNat), (.lcount 0, (x.lc 0).toNat), (.lcount 1, (x.lc 1).toNat), (.lcount 2, (x.lc 2).toNat),
   (.loop 0, (x.loop 0).toNat), (.loop 1, (x.loop 1).toNat), (.loop 2, (x.loop 2).toNat)]

/-- Debug answers with bytes, and nothing else changes. -/
def Shifts (i : Instr) (s : State) (bs : Bytes) : Prop := exec i s = .next { s with mgmt := { s.mgmt with debugOut := bs } }

/-! ### The link (R228 to R253) -/

/-- Only the ports differ, and only port c: it is y. -/
def PortIs (s u : State) (c : Nat) (y : Port) : Prop := u.port c = y ∧ (∀ d, d ≠ c → u.port d = s.port d) ∧ u = { s with ports := u.ports }

/-- A counter of a port raised by n (R251). -/
def Port.raised (x : Port) (sub n : Nat) : Port := { x with ctr := mapSet 0 x.ctr sub (satAdd64 (mapGet 0 x.ctr sub) n) }

/-- A NAK event (R236): NAKN rises, NRSN takes the reason, and a replay is awaited. -/
def Port.naks (x : Port) (reason : BitVec 2) : Port := { x with nakn := x.nakn + 1, nrsn := reason, await := true }

/-- Port c with the FEC codewords of an arrived frame counted: free values (R251, log 121). -/
def State.fecPort (s : State) (c : Nat) (good : Bool) : Port :=
  let x := (s.port c).raised 4 (Config.freeWord s.free).toNat
  if good then x else x.raised 5 (Config.freeWord (s.free + 1)).toNat

/-- A frame that passes its CRC, or does not, has come on port c: of the ports only c differs, and it is y. -/
def Came (s u : State) (c : Nat) (good : Bool) (y : Port) : Prop :=
  u.port c = y ∧ (∀ d, d ≠ c → u.port d = s.port d) ∧ u = { s with ports := u.ports, free := s.free + (if good then 1 else 2) }

/-- No exchange of an outing waits for its last contribution to be sent (R301). -/
def NoneSending (s : State) : Prop := ∀ b ∈ s.bindings, ∀ x, b.exch = some x → x.status = none

/-- The response deadline of a port in ns (R228). -/
def deadlineOf (c : Nat) : Nat := if siteMode c then 24000 else 8000

/-- The fields of a data frame that the rules of R236 ask for: FSEQ, RPN, VC, SH and PLEN (R231). -/
def frameFseq (f : Bytes) : BitVec 24 := BitVec.ofNat 24 (fieldAt f 0 3)
def frameRpn (f : Bytes) : Nat := fieldAt f 4 4 / 2 ^ 25 % 16
def frameVc (f : Bytes) : BitVec 3 := BitVec.ofNat 3 (fieldAt f 4 4 / 2 ^ 29)
def frameSh (f : Bytes) : Bool := fieldAt f 0 4 / 2 ^ 26 % 2 = 1
def frameLen (f : Bytes) : Nat := fieldAt f 4 2 % 512

/-- How far FSEQ lies ahead of ACK, in 24 bits as a signed number (R235). -/
def ahead (f : Bytes) (x : Port) : Int := (frameFseq f - x.ack).toInt

/-- A control frame of a kind is accepted on a port (R236): UP, or in training with every lane up; a D port's
engine has its masking seed (R401), and its CSEQ and CTAG hold. -/
def CtlArrives (s : State) (c kind : Nat) (f : Bytes) : Prop :=
  s.fatal = false ∧ s.maskFresh c = true ∧ ((s.port c).state = .up ∨ ((s.port c).state = .training ∧ (s.port c).lanes = 0xFFFF)) ∧ ctlOk c f = true ∧
  (siteMode c = true → s.ctagOk c f = true ∧ s.cseqOk c f = true) ∧ fieldAt f 0 4 / 2 ^ 28 = kind

/-- The port when a control frame has been accepted: the stamp of the last one, but for one that comes after the response
deadline (R344), and in site mode its CSEQ (R236). -/
def Port.heardAt (x : Port) (c : Nat) (now : Nat) (f : Bytes) : Port :=
  { x with lastCtl := if x.state = .up ∧ x.lastCtl + deadlineOf c < now then x.lastCtl else now
           rxCseq := if siteMode c then extendCseq x.rxCseq (word (fieldAt f 48 4)) else x.rxCseq }

/-- The port when it has sent a control frame of these words (R232, R246). -/
def State.sentOn (s : State) (c : Nat) (words : List Nat) : Port :=
  { s.port c with lastTx := s.control c words, txCseq := if siteMode c then (s.port c).txCseq + 1 else (s.port c).txCseq }

/-- Port c has left UP or its training for a state and a reason (R242, R243). -/
def Left (u : State) (c : Nat) (st : PortState) (reason : Nat) : Prop :=
  (u.port c).state = st ∧ (u.port c).reason = BitVec.ofNat 8 reason ∧ (u.port c).buffer = [] ∧ (u.port c).txQ = []

/-- A port in UP fails for a reason (R242): a site port goes DOWN with a report, a short one fails and the device is fatal. -/
def Fails (i : Instr) (s : State) (c reason : Nat) : Prop :=
  ∃ u, exec i s = .next u ∧ Left u c (if siteMode c then .down else .failed) reason ∧
    (siteMode c = false → u.fatal = true ∧ Recorded s u 0xC020 0 (leNat ([BitVec.ofNat 8 c, BitVec.ofNat 8 reason, 0, 0] ++
      toLE (s.port c).ack.toNat 4 ++ toLE (s.port c).txs.toNat 4))) ∧
    (siteMode c = true → s.slotsUsing c = [] → u.fatal = false ∧ (∀ d, d ≠ c → u.port d = s.port d) ∧
      Recorded s u 0x1602 0 (leNat ([BitVec.ofNat 8 c, BitVec.ofNat 8 reason, 0, 0] ++
        toLE (s.port c).ack.toNat 4 ++ toLE (s.port c).txs.toNat 4)) ∧ Reports { s with ports := u.ports } u)

/-! ### Jobs, launches and the counter -/

/-- Bytes of a record that are reserved and 0. -/
def zeroBytes (b : Bytes) (lo len : Nat) : Prop := slice b lo len = List.replicate len 0

/-- A module's offset from a base on axis x, going round the ring (R257). -/
def offsetOn (s : State) (base x : Nat) : Nat :=
  (((coord s.sh.coords.toNat x : Int) - coord base x) % (extent s.sh.rings.toNat x : Int)).toNat

/-- A group request of a session that owns its context's partition p, with its reserved fields 0 (R255, R256). -/
def MayGroup (s : State) (ses : Ses) (b : Bytes) (p : Nat) : Prop :=
  Writable s ses 0x2510 1 ∧ fieldAt b 4 2 < 4096 ∧ s.ctxPart (fieldAt b 4 2) = some p ∧ s.asOwner (s.role ses) p = true ∧
  fieldAt b 1 1 < 16 ∧ fieldAt b 6 2 < 2 ^ 15 ∧ fieldAt b 8 4 < 2 ^ 17 ∧ fieldAt b 0xC 4 < 2 ^ 21 ∧ zeroBytes b 0x10 0x10

/-- A binding request of a session that owns the group's partition p, with its reserved fields 0 (R291, R292). -/
def MayBind (s : State) (ses : Ses) (b : Bytes) (g : Group) : Prop :=
  Writable s ses 0x2610 1 ∧ s.group (BitVec.ofNat 16 (fieldAt b 2 2)) = some g ∧ s.asOwner (s.role ses) g.part.toNat = true ∧
  fieldAt b 1 1 = 0 ∧ zeroBytes b 0x1A 6

/-- The frames that R326 counts suffice: 1 GiB frames for the big pages, and what they leave for the small ones. -/
def framesSuffice (g m f1 f2 : Nat) : Prop := g ≤ f1 ∧ m + 512 * g ≤ f2

/-- A launch request of the owner of its partition, with its reserved fields 0 and its window and context right (R346, R347). -/
def MayLaunch (s : State) (ses : Ses) (b : Bytes) (p : Nat) : Prop :=
  Writable s ses 0x2920 2 ∧ s.select ses 0x2920 1 0 = p ∧ s.asOwner (s.role ses) p = true ∧ fieldAt b 1 1 = 0 ∧ fieldAt b 2 2 < 4096 ∧
  zeroBytes b 0x18 8 ∧ fieldAt b 4 4 < 2 ^ 20 ∧ (∃ u, s.unitAt (BitVec.ofNat 20 (fieldAt b 4 4)) = some u ∧ s.unitOwner u = some p) ∧
  fieldAt b 8 8 / 2 ^ 44 % 4096 = fieldAt b 2 2

/-- A request's slot of partition p is busy with an accepted one: the request is refused with NOT_READY, which its Result shows (R506). -/
def Busy (i : Instr) (s : State) (p : Nat) (shown : Part → Part) : Prop :=
  ∃ u, exec i s = .next u ∧ Logs s u 0x4010 0 ∧ PartIs s { s with parts := u.parts } p (shown (s.part p)) ∧
    Reports { s with parts := u.parts, free := s.free + 1 } u

/-- The busy slots of a partition with one more (R506). -/
def nowBusy (x : Part) (idx : Nat) : SMap Bool := mapSet false x.busy idx true

/-- Only the counter's state, its readiness bit and reports differ. -/
def OnlyTime (s u : State) : Prop := Reports { s with time := u.time, pwr := { s.pwr with functions := u.pwr.functions } } u

/-- The counter is LOCKED and says so: bit 22 is set, and COUNTER_LOCKED is raised where it was not (R341, R466). -/
def Locks (s u : State) : Prop :=
  u.time.dstate = 2 ∧ (s.time.dstate ≠ 2 → u.time.everLocked = true ∧ u.time.holdSince = none ∧ BitsSet s.pwr.functions u.pwr.functions [22] ∧
    Recorded s u 0x1B01 0 0) ∧ OnlyTime s u

/-! ### Integrity and checkpoints -/

/-- The code and the path word (0 for none) of the event that an error at a site raises at once, which all do but the expander's (R115, R157, R159, R183, R203, R227, R253, R288, R314,
R353, R368, R373, R396, R431). -/
def siteCode : ParitySite → Nat × Path
  | .localStore t _ => (0xC401, t)
  | .array t => (0xC301, t)
  | .vector t => (0xC310, t)
  | .codec t => (0xC501, t)
  | .tierMemory _ => (0xC010, 0)
  | .packageNet _ _ => (0xCC03, 0)
  | .link _ => (0xC602, 0)
  | .shuttle _ => (0xC701, 0)
  | .expander _ _ => (0, 0)
  | .shuttleResidue _ _ _ _ => (0xC002, 0)
  | .engineResidue _ _ _ => (0xC002, 0)
  | .outing _ _ _ => (0xC801, 0)
  | .training _ => (0xC901, 0)
  | .hamper => (0xCA01, 0)
  | .counter => (0xCB01, 0)
  | .followerLag _ => (0xCB01, 0)
  | .checker k => (0xCC01, pathOf k.toNat 32)
  | .cipher => (0xCD02, 0)

/-- What a class-0xC event leaves (R364, R365): the device is fatal, every command in flight and every open collective is gone, no port is
UP, the trace is frozen, and a record stands in the fatal slot. -/
def FatalStop (s u : State) (code : Nat) (path : Path) : Prop :=
  u.fatal = true ∧ (∀ t, (u.tile t).flights = []) ∧ u.sh.slots = [] ∧ (∀ c, c < 16 → (u.port c).state ≠ .up) ∧ u.trace.frozen = true ∧
  (∀ b ∈ u.bindings, b.exch = none ∧ b.fetch = none) ∧ (∀ t, (u.tile t).regs = (s.tile t).regs ∧ (u.tile t).pc = (s.tile t).pc) ∧
  u.mem.tier = s.mem.tier ∧ (s.integ.fatalRec = none → ∃ r, u.integ.fatalRec = some r ∧ r.code = BitVec.ofNat 16 code ∧ r.path = path) ∧
  (s.pwr.aux = true → ∃ r ∈ u.integ.log, r.code = BitVec.ofNat 16 code ∧ r.path = path)

/-- The bytes of a partition's host window (R374). -/
def windowBytes' (s : State) (p off len : Nat) : Bytes := (List.range len).map fun i => mapGet 0 s.host ((s.part p).winBase.toNat + off + i)

/-- A hamper request written to the slot of partition p (R374, R377). -/
def HamperAsks (s : State) (ses : Ses) (p : Nat) : Prop := Writable s ses 0x2800 2 ∧ s.select ses 0x2800 1 0 = p

/-- An accepted request as it is held open: what a WRITE captures is captured now (R378, R383). -/
def openedJob (s : State) (r : Role) (p : Nat) (b : Bytes) (enc : Bool) : HamJob :=
  { req := b, role := r, enc := enc, coord := s.sh.coords, rings := s.sh.rings, step := (s.part p).step, time := s.now, held := s.capturable p }

/-- The hamper's turn falls to partition p, whose request is j, and its access to the host window is answered without an error. -/
def HamTurns (s : State) (p : Nat) (j : HamJob) : Prop :=
  p < 40 ∧ (s.part p).ham = some j ∧ s.turnPart s.sec.hamTurn (fun q => (s.part q).ham.isSome) = some p ∧ s.partAnswers p = true ∧
  (j.enc = true → s.cipherFresh = true) ∧ s.pwr.pcieUp = true ∧ Config.windowError s.free = false ∧
  Translates s .bridge (hamReq j.req).ctx

/-- The state in which p has had its turn, and its part is y. -/
def afterTurn (s : State) (p : Nat) (y : Part) : State :=
  { withPart s p y with free := s.free + 1, sec := { s.sec with hamTurn := (p + 1) % 40 } }

/-- No byte of host memory outside some ranges of a partition's window has changed. -/
def HostKeeps (s u : State) (p : Nat) (rs : List (Nat × Nat)) : Prop :=
  ∀ a, (∀ r ∈ rs, a < (s.part p).winBase.toNat + r.1 ∨ (s.part p).winBase.toNat + r.1 + r.2 ≤ a) → mapGet 0 u.host a = mapGet 0 s.host a

/-- The shard table of a request (R376). -/
def shardsOf (s : State) (q : HamReq) : List Shard :=
  (List.range q.nshard).map fun i => parseShard (virtBytes s q.ctx (q.stva + 64 * i) 64)

/-- The shard table is readable and keeps R376. -/
def ShardsReadable (s : State) (q : HamReq) : Prop :=
  verified s q.ctx q.stva (64 * q.nshard) ∧ (∀ x ∈ shardsOf s q, x.bad = false) ∧
  ∀ i x y, (shardsOf s q)[i]? = some x → (shardsOf s q)[i + 1]? = some y → x.sidx < y.sidx

/-- The control list of a WRITE, and the section that the values held since its ordering make (R378, R383). -/
def controlItems (s : State) (q : HamReq) : List Bytes := (List.range q.nctl).map fun i => virtBytes s q.ctx (q.ctlva + 32 * i) 32
def heldValue (j : HamJob) (it : Bytes) : Option Bytes := (j.held.find? fun e => e.1 = it.take 8).map (·.2)
def controlSection (s : State) (j : HamJob) : Bytes :=
  (controlItems s (hamReq j.req)).flatMap fun b => b.take 8 ++ (heldValue j b).getD [] ++ List.replicate 8 0

/-- The image of a shard of the table: its manifest entry but for the digest, and nothing to be moved where another replica writes it (R378,
R381). -/
def imageFor (x : Shard) : Image :=
  { sidx := x.sidx, cls := x.cls, va := x.va, len := if x.sidx % x.rc = x.ridx then x.len else 0, off := x.hoff
    entry := toLE x.sidx 4 ++ [BitVec.ofNat 8 x.cls, BitVec.ofNat 8 x.etype, BitVec.ofNat 8 x.rc, if x.sidx % x.rc = x.ridx then 1 else 0] ++
      toLE x.len 8 ++ toLE x.hoff 8 ++ toLE x.pidx 8 }

/-- The plain bytes of a manifest (R381). -/
def manifestOf (j : HamJob) (entries : Bytes) : Bytes :=
  let q := hamReq j.req
  toLE 0x4D4B4359 4 ++ toLE 1 2 ++ toLE (if q.enc then 1 else 0) 2 ++ toLE q.ckid 4 ++ toLE (entries.length / 64) 4 ++
    toBE Config.serial.toNat 16 ++ toLE j.coord.toNat 4 ++ toLE j.rings.toNat 4 ++ toLE q.planid 2 ++ toLE q.nctl 2 ++ toLE q.keyid 4 ++
    toLE j.step.toNat 4 ++ List.replicate 4 0 ++ toLE j.time.toNat 8 ++ toLE q.ctloff 8 ++ List.replicate 8 0 ++
    sha256 j.control ++ List.replicate 16 0 ++ entries

/-- What a mover has done besides: counters, read-ahead and reports; of tier memory and its blocks only what it stored. -/
def MoverFrame (v u : State) (stores : Bool) : Prop :=
  (∀ q, u.part q = { v.part q with ctr := (u.part q).ctr }) ∧
  (stores = false → u.mem.tier = v.mem.tier ∧ u.mem.blocks = v.mem.blocks ∧ u.mem.tagCounts = v.mem.tagCounts) ∧
  u.mem = { v.mem with tier := u.mem.tier, blocks := u.mem.blocks, tagCounts := u.mem.tagCounts, readAhead := u.mem.readAhead
                       raHits := u.mem.raHits, winChan := u.mem.winChan, winPart := u.mem.winPart } ∧
  Reports { v with parts := u.parts, mem := u.mem, integ := { v.integ with ctr := u.integ.ctr } } u

/-- The manifests that a RESTORE or VERIFY names are all read (R388). -/
def ManifestsRead (s : State) (p : Nat) (q : HamReq) (k : Option Key) (ms : List Manifest) : Prop :=
  verified s q.ctx q.maddr (16 * q.nman) ∧
  s.readManifests p q k ((List.range q.nman).map fun i => virtBytes s q.ctx (q.maddr + 16 * i) 16) = .ok ms

/-- The images of a RESTORE: each shard of the table from the first manifest that marks it WRITTEN, then the control section of the first
(R389); those of a VERIFY: every WRITTEN image and every control section (R392). -/
def imagesRead (op : Nat) (xs : List Shard) (ms : List Manifest) : List Image :=
  let control (m : Manifest) : Image := { sidx := 0xFFFFE, len := 32 * m.nctl, off := m.ctloff, src := some m, digest := slice m.raw 0x50 32 }
  let image (m : Manifest) (e : Bytes) (cls va : Nat) : Image :=
    { sidx := entSidx e, cls := cls, va := va, len := entLen e, off := m.hoff e, src := some m, digest := slice e 0x20 32 }
  if op = 2 then
    xs.filterMap (fun x => (sourceEntry ms x).map fun e => image e.1 e.2 x.cls x.va) ++ (ms.take 1).map control
  else ms.flatMap fun m => (m.entries.filter entWritten).map (fun e => image m e 5 0) ++ [control m]

/-- No two pages of a context share a frame. -/
def FramesApart (s : State) (ctx : BitVec 12) : Prop :=
  ∀ x ∈ s.mem.maps, ∀ y ∈ s.mem.maps, x.ctx = ctx → y.ctx = ctx → x ≠ y → x.pa + x.size ≤ y.pa ∨ y.pa + y.size ≤ x.pa

/-- A control item that may be applied (R384, R389): an object's setting with a value that it allows, or a binding of the partition. -/
def ItemFits (s : State) (p : Nat) (b : Bytes) : Prop :=
  let n := fieldAt b 5 1
  (itemKind b = 1 ∧ (∃ v, (s.part p).setting (itemIndex b) (itemSub b) = some (v, n)) ∧
    settingOk (itemIndex b) (itemSub b) (fieldAt b 8 n) = true ∧ zeroBytes b (8 + n) (16 - n)) ∨
  (itemKind b = 2 ∧ itemSub b = 0 ∧ n = 16 ∧ s.boundHere p (itemIndex b) ≠ none ∧ zeroBytes b 18 6)

/-! ### Security, keys and the life cycle -/

/-- A key that a session may install and erase (R403). -/
def MayKey (s : State) (ses : Ses) (id : Nat) : Prop :=
  let r := s.role ses
  (id = 0x00FF0001 ∧ s.asOperator r = true ∧ s.lifeCycle = 2) ∨
  (∃ n, n < 16 ∧ id = 0x01FF0000 + n ∧ s.asOperator r = true) ∨
  (∃ p, p < 40 ∧ id = 0x02000000 + 65536 * p ∧ s.asOperator r = true) ∨
  (∃ p n, p < 40 ∧ n < 4 ∧ id = 0x03000000 + 65536 * p + n ∧ s.asOwner r p = true) ∨
  (∃ p n, p < 40 ∧ n < 16 ∧ id = 0x04000000 + 65536 * p + n ∧ s.asOwner r p = true)

/-- A window of raw samples fails (R397): a run of 41 equal samples, counted from the window before on, or a stretch of 1,024 samples whose
first one's value occurs 624 times. -/
def WindowFails (x : Security) (w : List Bool) : Prop :=
  (∃ i v, ((List.replicate x.runLen x.runBit ++ w).drop i).take 41 = List.replicate 41 v) ∨
  ∃ i v rest, i < w.length / 1024 ∧ (w.drop (1024 * i)).take 1024 = v :: rest ∧ 624 ≤ 1 + rest.count v

/-- The 2,048 newest samples. -/
def newest (w : List Bool) : List Bool := w.drop (w.length - 2048)

/-- The security state of a DRBG that has been seeded with Key and V (R398). -/
def seededAs (s : State) (x : Security) (kv : BitVec 256 × BitVec 128) : Security :=
  { x with drbg := 1, drbgKey := kv.1, drbgV := kv.2, samples := [], sinceReseed := 0, reseedAt := s.island }

/-- A job request written to the slot of partition p (R409). -/
def JobAsks (s : State) (ses : Ses) (p : Nat) : Prop := Writable s ses 0x3120 2 ∧ s.select ses 0x3120 1 0 = p

/-- The cipher engine's turn falls to partition p, whose open job's record is b; the partition's memory answers, and the bridge's buffer
agrees with the pages (R394). -/
def JobTurns (s : State) (p : Nat) (b : BitVec 512) : Prop :=
  let j := parseJob (toLE b.toNat 64)
  p < 40 ∧ (s.part p).job = some b ∧ s.turnPart s.sec.jobTurn (fun q => (s.part q).job.isSome) = some p ∧ s.partAnswers p = true ∧
  (j.mode = 7 ∨ s.cipherFresh = true) ∧ Translates s .bridge j.ctx ∧ 1 ≤ j.mode ∧ j.mode ≤ 7 ∧
  (j.mode ≠ 7 → j.keyid / 2 ^ 24 = 4 ∧ j.keyid / 2 ^ 16 % 256 = p ∧ s.key j.keyid ≠ none)

/-- The key bytes of a job. -/
def jobKeyBytes (s : State) (j : Job) : Bytes := if j.mode = 7 then List.replicate 32 0 else ((s.key j.keyid).map Key.bytes).getD []

/-- Everything that a job reads may be read. -/
def JobReads (s : State) (j : Job) : Prop :=
  permits s j.ctx false j.iva j.ivLen ∧ permits s j.ctx false j.aad j.alen ∧ permits s j.ctx false j.src j.len ∧
  (j.reads = true → permits s j.ctx false j.tagva j.tlen)

/-- What a job releases for DST and TAGVA (R407): none where a tag or the padding fails (R410). -/
def jobResult (s : State) (j : Job) : Option (Bytes × Bytes) :=
  j.run (jobKeyBytes s j) (virtBytes s j.ctx j.iva j.ivLen) (virtBytes s j.ctx j.aad j.alen) (virtBytes s j.ctx j.src j.len)
    (virtBytes s j.ctx j.tagva (if j.reads then j.tlen else 0))

/-- The partitions formed besides p, and the sum of a quota over them. -/
def othersOf (s : State) (p : Nat) : List Nat := (List.range 40).filter fun q => q ≠ p && s.formed q
def quotaOf (s : State) (p : Nat) (f : Part → Nat) : Nat := f (s.part p) + ((othersOf s p).map fun q => f (s.part q)).sum

/-- The ranges of GIDs of two partitions share none. -/
def GidsApart (x y : Part) : Prop :=
  x.gidBase.toNat + x.gidCount.toNat ≤ y.gidBase.toNat ∨ y.gidBase.toNat + y.gidCount.toNat ≤ x.gidBase.toNat

/-- Every tile of a partition, the checker tiles included. -/
def tilesOf (s : State) (p : Nat) : List Path := (s.partClusters p).flatMap clusterAll

/-- A transition of R427 that a session may ask for with a token (R430): 4 stands for Field-Debug. -/
def MayEnter (s : State) (ses : Ses) (target : Nat) (token : BitVec 128) : Prop :=
  let r := s.role ses
  let proven : Prop := (∃ c, s.sec.challenge = some c ∧ toLE token.toNat 16 = makerToken c target) ∧ s.sec.drbg = 1
  match target with
  | 2 => s.lifeCycle = 1 ∧ (r = .operator ∨ r = .maker) ∧ proven
  | 3 => ((s.lifeCycle = 2 ∧ s.key 0x00FF0001 ≠ none) ∨ s.lifeCycle = 4) ∧ r = .operator ∧ token = 0
  | 4 => s.lifeCycle = 3 ∧ r = .operator ∧ token = 0
  | 5 => (s.lifeCycle = 2 ∨ s.lifeCycle = 3 ∨ s.lifeCycle = 4) ∧ (r = .operator ∨ r = .maker) ∧ proven
  | 1 => s.lifeCycle = 5 ∧ s.sec.returns ≠ 0 ∧ (r = .operator ∨ r = .maker) ∧ proven
  | 6 => s.lifeCycle ≠ 6 ∧ ((r = .operator ∧ token = 0) ∨ (r = .maker ∧ proven))
  | _ => False
end Sys2Proof.Machine

open Sys2Proof Sys2Proof.Machine


/-- R48, R40: each ALU.R instruction retires with its result in s[rd], and changes nothing else but the flow of the program.
R48, R40: each ALU.I instruction retires with its result in s[rd], and changes nothing else but the flow of the program. -/
def Obligations.AluResults : Prop :=
  (∀ (s : State) (t : Path) (v : Bool) (rd ra rb : Reg), Ready s t v → ∀ r ∈ aluRegister,
     Retires (r.1 t v rd ra rb) s t (WritesReg rd (r.2 ((s.seqTile t).reg ra) ((s.seqTile t).reg rb)))) ∧
  (∀ (s : State) (t : Path) (v : Bool) (rd ra : Reg), Ready s t v →
     (∀ r ∈ aluImmediate, ∀ k, Retires (r.1 t v rd ra k) s t (WritesReg rd (r.2 ((s.seqTile t).reg ra) k))) ∧
     (∀ r ∈ aluShift, ∀ k, Retires (r.1 t v rd ra k) s t (WritesReg rd (r.2 ((s.seqTile t).reg ra) k.toNat))) ∧
     (∀ k, Retires (.lui t v rd k) s t (WritesReg rd (BitVec.ofNat 32 (k.toNat * 2 ^ 14)))))

/-- R49, R10, R41: LW and LHU retire with the little-endian value of the bytes at their address, zero-extended; a misaligned address
raises LS_ALIGN, an aligned one at or beyond the end of the span LS_RANGE, each with the address as DETAIL.
R49, R10, R41: SW and SH retire with the low bytes of s[rt] at their address; no other byte of any tile's store and nothing
else but the flow of the program changes. A misaligned address raises LS_ALIGN, an aligned one at or beyond the end of the span
LS_RANGE. -/
def Obligations.StoreAccessesAct : Prop :=
  (∀ (s : State) (t : Path) (v : Bool) (rt base : Reg) (off : BitVec 15), Ready s t v →
     ∀ r ∈ ([(.lw, 4), (.lhu, 2)] : List ((Path → Bool → Reg → Reg → BitVec 15 → Instr) × Nat)),
       let a := lsAddress s t base off
       (a % r.2 ≠ 0 → Raises (r.1 t v rt base off) s t 3 (s.seqTile t).ownPc (BitVec.ofNat 32 a)) ∧
       (a % r.2 = 0 → s.span (s.lead t) ≤ a → Raises (r.1 t v rt base off) s t 4 (s.seqTile t).ownPc (BitVec.ofNat 32 a)) ∧
       (a % r.2 = 0 → a < s.span (s.lead t) → CleanStore s t →
         Retires (r.1 t v rt base off) s t
           (WritesReg rt (BitVec.ofNat 32 (leNat ((List.range r.2).map fun i => s.lsByte (s.lead t) (a + i))))))) ∧
  (∀ (s : State) (t : Path) (v : Bool) (rt base : Reg) (off : BitVec 15), Ready s t v →
     ∀ r ∈ ([(.sw, 4), (.sh, 2)] : List ((Path → Bool → Reg → Reg → BitVec 15 → Instr) × Nat)),
       let a := lsAddress s t base off
       let m := memberAt (s.lead t) (a / 0x200000)
       (a % r.2 ≠ 0 → Raises (r.1 t v rt base off) s t 3 (s.seqTile t).ownPc (BitVec.ofNat 32 a)) ∧
       (a % r.2 = 0 → s.span (s.lead t) ≤ a → Raises (r.1 t v rt base off) s t 4 (s.seqTile t).ownPc (BitVec.ofNat 32 a)) ∧
       (a % r.2 = 0 → a < s.span (s.lead t) → CleanStore s t → ∃ ls,
         (∀ b, mapGet (0 : Byte) ls b =
           if a % 0x200000 ≤ b ∧ b < a % 0x200000 + r.2 then BitVec.ofNat 8 (((s.seqTile t).reg rt).toNat / 256 ^ (b - a % 0x200000))
           else mapGet 0 (s.tile m).ls b) ∧
         ∃ y, OnlyFlows ((s.setTile m { s.tile m with ls := ls }).seqTile t) y ∧
           exec (r.1 t v rt base off) s =
             .next (let s' := (s.setTile m { s.tile m with ls := ls }).setTile (s.lead t) y
                    if (s.seqTile t).delay.isSome then s'.settle (s.lead t) else s')))

/-- R54, R50, R65: a conditional branch that is not taken retires whatever its target; a taken one within the range retires and makes
the levels it leaves inactive; a taken one beyond the range raises LS_RANGE on the branch.
R50, R54, R65: J, JAL, JR and JALR retire with their target; JAL and JALR write s31 with the address after the delay slot;
a target beyond the range raises LS_RANGE on the jump, a JR or JALR target that is no multiple of 4 raises LS_ALIGN, and a JALR
whose ra names s31 raises ILLEGAL_INSN.
R62, R52: a NOP that is the LEND of the deepest active level there and of no other goes back to the start of the body while
LCOUNT is above 1, and else goes on behind it with LCOUNT 0 and the level inactive. -/
def Obligations.ProgramFlowGoes : Prop :=
  (∀ (s : State) (t : Path) (v : Bool) (ra rb : Reg) (off : BitVec 14), Fetches s t v → Placed s t → (s.seqTile t).pc.toNat % 4 = 0 →
     ∀ r ∈ branches,
       let x := s.seqTile t
       let a : Word := BitVec.ofInt 32 (x.pc.toInt + 4 * off.toInt)
       (r.2 (x.reg ra) (x.reg rb) = false → Retires (r.1 t v ra rb off) s t (Branched none x.reg)) ∧
       (r.2 (x.reg ra) (x.reg rb) = true → a.toNat < 0x200000 → Retires (r.1 t v ra rb off) s t (Branched (some a) x.reg)) ∧
       (r.2 (x.reg ra) (x.reg rb) = true → 0x200000 ≤ a.toNat → Raises (r.1 t v ra rb off) s t 4 x.pc a)) ∧
  (∀ (s : State) (t : Path) (v : Bool) (ra : Reg) (off : BitVec 25), Fetches s t v → Placed s t → (s.seqTile t).pc.toNat % 4 = 0 →
     let x := s.seqTile t
     let link (q : Reg) : Word := if q = 31 then x.pc + 8 else x.reg q
     let a : Word := BitVec.ofInt 32 (x.pc.toInt + 4 * off.toInt)
     (∀ r ∈ ([(Instr.j t v off, x.reg), (.jal t v off, link)] : List (Instr × (Reg → Word))),
       (a.toNat < 0x200000 → Retires r.1 s t (Branched (some a) r.2)) ∧ (0x200000 ≤ a.toNat → Raises r.1 s t 4 x.pc a)) ∧
     (∀ r ∈ ([(Instr.jr t v ra, x.reg), (.jalr t v ra, link)] : List (Instr × (Reg → Word))), r.1 ≠ .jalr t v 31 →
       ((x.reg ra).toNat % 4 = 0 → (x.reg ra).toNat < 0x200000 → Retires r.1 s t (Branched (some (x.reg ra)) r.2)) ∧
       ((x.reg ra).toNat % 4 ≠ 0 → Raises r.1 s t 3 x.pc (x.reg ra)) ∧
       ((x.reg ra).toNat % 4 = 0 → 0x200000 ≤ (x.reg ra).toNat → Raises r.1 s t 4 x.pc (x.reg ra))) ∧
     Raises (.jalr t v 31) s t 1 x.pc 0) ∧
  (∀ (s : State) (t : Path) (v : Bool) (imm : BitVec 16) (lv : Nat), Ready s t v → (s.seqTile t).atLend = some lv →
     (1 < ((s.seqTile t).lc lv).toNat → Retires (.nop t v imm) s t (fun x y =>
       y.pc.toNat = loopStart (x.loop lv) ∧ y.lc lv = x.lc lv - 1 ∧ (∀ j, j ≠ lv → y.lc j = x.lc j) ∧
       y = { x with pc := y.pc, shadow := x.shadow - 1, lcount := y.lcount })) ∧
     (((s.seqTile t).lc lv).toNat ≤ 1 →
       (∀ j, j < lv → loopActive ((s.seqTile t).loop j) = true → loopEnd ((s.seqTile t).loop j) ≠ (s.seqTile t).pc.toNat) →
       Retires (.nop t v imm) s t (fun x y =>
         y.pc = x.pc + 4 ∧ y.lc lv = 0 ∧ loopActive (y.loop lv) = false ∧ (∀ j, j ≠ lv → y.lc j = x.lc j ∧ y.loop j = x.loop j) ∧
         y = { x with pc := y.pc, shadow := x.shadow - 1, lcount := y.lcount, loops := y.loops })))

/-- R60, R61: a LOOP starts its level over the LEN + 1 instructions that follow it, with COUNT12 when I = 1 and s[rc] when I = 0; a
count of 0 skips the body and leaves the level inactive; LEVEL = 3 raises ILLEGAL_INSN and a body beyond 0x1FFFFC LS_RANGE. -/
def Obligations.LoopsStart : Prop :=
  ∀ (s : State) (t : Path) (v : Bool) (level : BitVec 2) (i : Bool) (len count : BitVec 12),
    Fetches s t v → Placed s t → (s.seqTile t).pc.toNat % 4 = 0 → (i = false → count.toNat < 32) →
    let x := s.seqTile t
    let n : Word := if i then BitVec.ofNat 32 count.toNat else x.reg (BitVec.ofNat 5 count.toNat)
    let last := x.pc.toNat + 4 * (len.toNat + 1)
    let insn := Instr.loop t v level i len count
    (level = 3 → Raises insn s t 1 x.pc 0) ∧
    (level ≠ 3 → 0x1FFFFC < last → Raises insn s t 4 x.pc (BitVec.ofNat 32 last)) ∧
    (level ≠ 3 → last ≤ 0x1FFFFC → n = 0 → Retires insn s t (LoopStarted level.toNat 0 false (BitVec.ofNat 32 (last + 4)))) ∧
    (level ≠ 3 → last ≤ 0x1FFFFC → n ≠ 0 →
      Retires insn s t (fun x y => LoopStarted level.toNat n true (x.pc + 4) x y ∧
        y.loop level.toNat = loopWord (x.pc.toNat / 4 + 1) len.toNat ∧ loopEnd (y.loop level.toNat) = last))

/-- R51, R53: TWAIT and TWAITI retire once the ticket has reached their threshold and stall before; TADV adds IMM15 and refuses 0;
TREAD reads the ticket and must carry the V mark. -/
def Obligations.TicketInstructionsAct : Prop :=
  ∀ (s : State) (t : Path) (v : Bool) (tk : BitVec 4) (rx : Reg) (imm : BitVec 15), Ready s t v →
    let x := s.seqTile t
    (∀ r ∈ ([(Instr.twait t v tk rx imm, x.reg rx), (.twaiti t v tk rx imm, BitVec.ofNat 32 imm.toNat)] : List (Instr × Word)),
      (hasReached (x.ticket tk.toNat) r.2 → Retires r.1 s t OnlyFlows) ∧ (¬ hasReached (x.ticket tk.toNat) r.2 → exec r.1 s = .next s)) ∧
    (imm ≠ 0 → Retires (.tadv t v tk rx imm) s t (fun x y =>
      y.ticket tk.toNat = x.ticket tk.toNat + BitVec.ofNat 32 imm.toNat ∧ (∀ k, k ≠ tk.toNat → y.ticket k = x.ticket k) ∧
      OnlyFlows { x with tickets := y.tickets } y)) ∧
    Raises (.tadv t v tk rx 0) s t 1 x.ownPc 0 ∧
    (v = true → Retires (.tread t v tk rx imm) s t (WritesReg rx (x.ticket tk.toNat))) ∧
    (v = false → Raises (.tread t v tk rx imm) s t 1 x.ownPc 0)

/-- R43, R53, R336: MFC reads each control register; TIME and TIMEH only with the V mark, TIME latching the upper half that TIMEH
then gives; a number that is no register raises CR_ACCESS.
R43, R59: MTC writes each writable control register and nothing else; a write to MODE opens a shadow of two slots; any other
number raises CR_ACCESS. -/
def Obligations.ControlRegistersAct : Prop :=
  (∀ (s : State) (t : Path) (v : Bool) (rx : Reg) (cr : BitVec 6), Ready s t v →
     let x := s.seqTile t
     let upper : Word := BitVec.ofNat 32 (s.now.toNat / 2 ^ 32)
     (∀ w, (cr, w) ∈ crValues s t → Retires (.mfc t v rx cr) s t (WritesReg rx w)) ∧
     (v = true → Retires (.mfc t v rx 0x0C) s t (WritesReg rx (x.timeHi.getD upper))) ∧
     (v = true → Retires (.mfc t v rx 0x0B) s t (fun x y =>
       y.timeHi = some upper ∧ WritesReg rx (BitVec.ofNat 32 s.now.toNat) { x with timeHi := y.timeHi } y)) ∧
     (v = false → Raises (.mfc t v rx 0x0B) s t 1 x.ownPc 0 ∧ Raises (.mfc t v rx 0x0C) s t 1 x.ownPc 0) ∧
     (0x0E < cr.toNat → Raises (.mfc t v rx cr) s t 7 x.ownPc 0)) ∧
  (∀ (s : State) (t : Path) (v : Bool) (rx : Reg) (cr : BitVec 6), Ready s t v →
     let x := s.seqTile t
     (∀ f, (cr, f) ∈ crWrites → ((cr = 0 ∨ (4 ≤ cr.toNat ∧ cr.toNat ≤ 9)) → Placed s t) → (cr = 0 → modeFits (x.reg rx)) →
       (f x (x.reg rx)).atLend = none ∨ x.delay.isSome →
       Retires (.mtc t v rx cr) s t (fun x y =>
         y = { f x (x.reg rx) with pc := y.pc, delay := none, shadow := if cr = 0 then 2 else x.shadow - 1 } ∧
         (x.delay = none → y.pc = x.pc + 4))) ∧
     ((∀ f, (cr, f) ∉ crWrites) → Raises (.mtc t v rx cr) s t 7 x.ownPc 0))

/-- R58: an MTC to MODE that would set a reserved field, or NARROW to 3, raises ILLEGAL_INSN, and MODE is unchanged.
R46, R50, R55, R64, R505: a word with a reserved class, code or field raises ILLEGAL_INSN; a fetch beyond the range LS_RANGE with
the address fetched; a branch, jump, LOOP, TRAP, ERET, HALT, FAULT or MTC to MODE or a loop register in a delay slot or at the LEND
of an active level PLACEMENT. -/
def Obligations.BadFetchesRaise : Prop :=
  (∀ (s : State) (t : Path) (v : Bool) (rx : Reg), Fetches s t v → Placed s t → ¬ modeFits ((s.seqTile t).reg rx) →
     Raises (.mtc t v rx 0) s t 1 (s.seqTile t).pc 0) ∧
  (∀ (s : State) (t : Path),
     (∀ w, isReserved w → Fetches s t (decide (fieldOf w 27 1 = 1)) → Raises (.illegalInsn t w) s t 1 (s.seqTile t).ownPc 0) ∧
     (activePath t = true → s.canRun (s.lead t) = true → 0x200000 ≤ (s.seqTile t).pc.toNat →
       Raises (.lsRangeFetch t) s t 4 (s.seqTile t).pc (s.seqTile t).pc) ∧
     (∀ v, Fetches s t v → ¬ Placed s t →
       (∀ r ∈ branches, ∀ ra rb off, Raises (r.1 t v ra rb off) s t 2 (s.seqTile t).ownPc 0) ∧
       (∀ off, Raises (.j t v off) s t 2 (s.seqTile t).ownPc 0 ∧ Raises (.jal t v off) s t 2 (s.seqTile t).ownPc 0) ∧
       (∀ ra, Raises (.jr t v ra) s t 2 (s.seqTile t).ownPc 0 ∧ Raises (.jalr t v ra) s t 2 (s.seqTile t).ownPc 0) ∧
       (∀ (level : BitVec 2) (i : Bool) (len count : BitVec 12), (i = false → count.toNat < 32) →
         Raises (.loop t v level i len count) s t 2 (s.seqTile t).ownPc 0) ∧
       (∀ imm : BitVec 16, ∀ i ∈ ([.trap t v imm, .eret t v imm, .halt t v imm, .faultInsn t v imm] : List Instr),
         Raises i s t 2 (s.seqTile t).ownPc 0) ∧
       (∀ (rx : Reg) (cr : BitVec 6), cr = 0 ∨ (4 ≤ cr.toNat ∧ cr.toNat ≤ 9) → Raises (.mtc t v rx cr) s t 2 (s.seqTile t).ownPc 0)))

/-- R52: NOP and FENCE only go on, FENCE and HALT once nothing the tile has issued is left, HALT leaving the tile idle; before, both
stall. TRAP raises its exception with IMM16 and the next instruction's address; FAULT raises its partition fault, or ILLEGAL_INSN
where bits 15:4 are not 0. -/
def Obligations.SystemInstructionsAct : Prop :=
  ∀ (s : State) (t : Path) (v : Bool) (imm : BitVec 16), Ready s t v →
    let x := s.seqTile t
    let done : Prop := x.cmdQ = [] ∧ x.loadQ = [] ∧ x.storeQ = [] ∧ x.flights = []
    Retires (.nop t v imm) s t OnlyFlows ∧
    (done → Retires (.fence t v imm) s t OnlyFlows) ∧ (¬ done → exec (.fence t v imm) s = .next s) ∧
    (Placed s t →
      (done → Retires (.halt t v imm) s t (fun x y => OnlyFlows { x with run := .idle } y)) ∧
      (¬ done → exec (.halt t v imm) s = .next s) ∧
      Raises (.trap t v imm) s t 6 (x.pc + 4) (BitVec.ofNat 32 imm.toNat) ∧
      (16 ≤ imm.toNat → Raises (.faultInsn t v imm) s t 1 x.pc 0) ∧
      (imm.toNat < 16 → exec (.faultInsn t v imm) s =
        .next ((s.setTile (s.lead t) { x with ended := true }).raise
          { code := 0x82F0 + imm.toNat, path := some (s.lead t), part := (s.partOf (s.lead t)).getD 0xFF,
            ctx := ((s.ownCtx (s.lead t)).getD 0).toNat, detail := toLE x.pc.toNat 4 })))

/-- R79, R80, R84: an exception is entered where EVBASE is not 0 and the stack is valid: the frame lies below the old s30, s30 is 64
lower, the program goes on at EVBASE, and no other register, queue or byte changes; what waited for the instruction boundary then takes
effect (R27). Without a handler, or with no valid stack, the
frame goes to the crash window with XF set and the tile's fault is raised.
R82, R85, R41: ERET restores MODE, the loop registers, s28, s29, s31 and s30 from the frame at s30 and goes on at its EPC; nothing
else changes. A frame that holds a MODE R58 would refuse, an active loop word whose body lies beyond the range, or an EPC that is
misaligned or beyond it raises ERET_BAD and restores nothing; one that leaves the span raises LS_RANGE; an invalid stack is a double
fault at once. -/
def Obligations.ExceptionsReturn : Prop :=
  (∀ (s : State) (t : Path) (e : Exc), EntryDue s t e →
     let x := s.seqTile t
     let sp := (x.reg 30).toNat
     (x.evbase ≠ 0 → stackValid s t → CleanStore s t → ∃ u : State, exec (.exceptionEntry t) s = .next (u.settle (s.lead t)) ∧
       (u.tile (s.lead t)).reg 30 = x.reg 30 - 64 ∧ (u.tile (s.lead t)).pc = x.evbase ∧ (u.tile (s.lead t)).exc = none ∧
       (u.tile (s.lead t)).mode = x.mode ∧ (u.tile (s.lead t)).lcount = x.lcount ∧ (u.tile (s.lead t)).loops = x.loops ∧
       (∀ q, q ≠ 30 → (u.tile (s.lead t)).reg q = x.reg q) ∧
       (∀ b, b < s.span (s.lead t) → u.lsByte (s.lead t) b =
         if sp - 64 ≤ b ∧ b < sp then (wordBytes (frameWords s x e false)).getD (b - (sp - 64)) 0 else s.lsByte (s.lead t) b) ∧
       (u.tile (s.lead t)).waiting = x.waiting ∧ u = { s with tiles := u.tiles }) ∧
     (x.evbase = 0 ∨ ¬ stackValid s t → exec (.exceptionEntry t) s = .next ((
       (({ s.setTile (s.lead t) { x with crash := wordMap (frameWords s x e true), exc := none, ended := true, delay := none, shadow := 0 }
           with pwr := { s.pwr with crashCount := BitVec.ofNat 32 (min (s.pwr.crashCount.toNat + 1) (2 ^ 32 - 1)) } }).raise
         { code := if x.evbase = 0 then 0x8200 + e.cause.toNat else 0x8110, path := some (s.lead t),
           part := (s.partOf (s.lead t)).getD 0xFF, ctx := ((s.ownCtx (s.lead t)).getD 0).toNat, detail := toLE e.epc.toNat 4 })).settle
         (s.lead t)))) ∧
  (∀ (s : State) (t : Path) (v : Bool) (imm : BitVec 16), Fetches s t v → Placed s t → CleanStore s t →
     let x := s.seqTile t
     let sp := (x.reg 30).toNat
     let w (i : Nat) : Word := BitVec.ofNat 32 (leNat ((List.range 4).map fun j => s.lsByte (s.lead t) (sp + 4 * i + j)))
     let good : Prop := modeFits (w 4) ∧ (∀ i, i = 8 ∨ i = 9 ∨ i = 10 → loopActive (w i) = true → loopEnd (w i) ≤ 0x1FFFFC) ∧
       (w 1).toNat % 4 = 0 ∧ (w 1).toNat ≤ 0x1FFFFC
     (stackValid s t → sp + 64 ≤ s.span (s.lead t) → good → ∃ y, exec (.eret t v imm) s = .next (s.setTile (s.lead t) y) ∧
       y.mode = w 4 ∧ y.lc 0 = w 5 ∧ y.lc 1 = w 6 ∧ y.lc 2 = w 7 ∧ y.loop 0 = w 8 ∧ y.loop 1 = w 9 ∧ y.loop 2 = w 10 ∧
       y.reg 30 = w 11 ∧ y.reg 28 = w 12 ∧ y.reg 29 = w 13 ∧ y.reg 31 = w 14 ∧ y.pc = w 1 ∧
       (∀ q, q ∉ ([28, 29, 30, 31] : List Reg) → y.reg q = x.reg q) ∧
       y = { x with mode := y.mode, lcount := y.lcount, loops := y.loops, regs := y.regs, pc := y.pc, delay := none, shadow := 0 }) ∧
     (stackValid s t → sp + 64 ≤ s.span (s.lead t) → ¬ good → Raises (.eret t v imm) s t 9 x.pc 0) ∧
     (stackValid s t → s.span (s.lead t) < sp + 64 → Raises (.eret t v imm) s t 4 x.pc (x.reg 30)) ∧
     (¬ stackValid s t → ∃ u, exec (.eret t v imm) s = .next u ∧ (u.tile (s.lead t)).exc = none))

/-- Block rule: a step takes the command at the front of the queue and runs it on the state with the queue's rest. -/
def Obligations.StepRunsFrontCommand : Prop :=
  ∀ (s : State) (c : Instr) (rest : List Instr), s.pending = c :: rest → step s = exec c { s with pending := rest }

/-- Log entries 1, 54, 128 and 130, the model's choices: with no command waiting a step lets 1 ns pass on the island. While no frame waits
for the management controller it is free again, and where the bridge's rails are up (R35, R335) the global counter advances by 1. With
them down nothing else changes but a trace region, and a waiting frame is handled. With them up, no request of the hamper or the cipher
engine and no load open, the outcome of every accepted request is written: its Result reads done and its slot is busy no more (R506). -/
def Obligations.EmptyQueueTicks : Prop :=
  ∀ s : State, s.pending = [] →
    (∃ u, step s = .next u ∧ u.pending = []) ∧
    (s.mgmt.frameQ = [] → ∃ u, step s = .next u ∧ u.island = s.island + 1 ∧ u.now = (if s.pwr.bridge then s.now + 1 else s.now) ∧
      u.mgmt.handling = false) ∧
    (s.mgmt.frameQ = [] → s.pwr.bridge = false → ∃ u, step s = .next u ∧ (∃ r, ∀ q, q ≠ r → u.region q = s.region q) ∧
      (s.pwr.converters = false → u.trace = s.trace) ∧
      u = { s with island := s.island + 1, trace := u.trace, mgmt := { s.mgmt with handling := false } }) ∧
    (∀ src f rest, s.mgmt.frameQ = (src, f) :: rest → s.pwr.bridge = false → s.pwr.converters = false →
      step s = .next (({ s with island := s.island + 1, mgmt := { s.mgmt with frameQ := rest } }).handleFrame src f)) ∧
    (s.mgmt.frameQ = [] → s.pwr.bridge = true → s.fatal = false →
      (∀ p, (s.part p).ham = none ∧ (s.part p).job = none ∧ (s.part p).loadHeld = none) → ∃ u, step s = .next u ∧ ∀ p,
        (s.slotBusy p 0x2010 = true → (u.part p).admResult = 0 ∧ u.slotBusy p 0x2010 = false ∧
          ∀ plan, (s.part p).planHeld = some plan → (u.part p).plan = plan) ∧
        (s.slotBusy p 0x2510 = true → (u.part p).grpResult = 0 ∧ u.slotBusy p 0x2510 = false) ∧
        (s.slotBusy p 0x2610 = true → (u.part p).bindResult = 0 ∧ u.slotBusy p 0x2610 = false) ∧
        (s.slotBusy p 0x2220 = true → (u.part p).loadResult = 0 ∧ u.slotBusy p 0x2220 = false))

/-- R446, R18, R20, R426, R460: after reset every subindex the dictionary gives a fixed default reads it, every tile is idle with its
control registers, tickets and queues as given, no command waits and the device is not fatal.
R427, R428: a state right after reset is safe, and its memories are in canonical form. -/
def Obligations.ResetValues : Prop :=
  ((∀ e ∈ nonzeroDefaults, State.reset.readObject 1 .maker e.1 e.2.1 = toLE e.2.2.2 e.2.2.1) ∧
   (∀ e ∈ zeroDefaults1, State.reset.readObject 1 .maker e.1 e.2.1 = toLE 0 e.2.2) ∧
   (∀ e ∈ zeroDefaults2, State.reset.readObject 1 .maker e.1 e.2.1 = toLE 0 e.2.2) ∧
   (∀ e ∈ zeroDefaults3, State.reset.readObject 1 .maker e.1 e.2.1 = toLE 0 e.2.2) ∧
   (∀ t, (State.reset.tile t).atReset) ∧ State.reset.pending = [] ∧ State.reset.fatal = false ∧ State.reset.lifeCycle = 1) ∧
  (State.reset.safe ∧ State.reset.memWf = true)

/-- R8, R411, log entry 4: no command is refused; one that names a unit the module has none of is the one fault; every other goes on.
No command touches the queue: what waits stays, first in, first out. -/
def Obligations.EveryCommandAnswers : Prop :=
  (∀ (i : Instr) (s : State), (i.wf = true → ∃ u, exec i s = .next u) ∧ ((∃ u, exec i s = .next u) ∨ exec i s = .fault .noSuchUnit)) ∧
  (∀ (i : Instr) (s u : State), exec i s = .next u → u.pending = s.pending)

/-- R427, R429: only the life-cycle rows, a write to the dictionary and the fall of the auxiliary rail can change the life-cycle
fuses, the Field-Debug flag or the number of returns left.
R426, R427: whatever a step does, the life cycle stays where it is or takes one of the transitions of the table; only a transition
from Return to Manufacture changes the number of returns left, which then falls by 1. -/
def Obligations.LifeCycleFollowsItsEdges : Prop :=
  (∀ (i : Instr) (s u : State), movesLife i = false → exec i s = .next u →
     u.sec.lc = s.sec.lc ∧ u.sec.fieldDebug = s.sec.fieldDebug ∧ u.sec.returns = s.sec.returns) ∧
  (∀ s u : State, s.lifeOk = true → goesOn s u →
     u.lifeOk = true ∧ (u.lifeCycle = s.lifeCycle ∨ (s.lifeCycle, u.lifeCycle) ∈ lifeEdges) ∧
     (u.sec.returns = s.sec.returns ∨ (s.lifeCycle = 5 ∧ u.lifeCycle = 1 ∧ s.sec.returns ≠ 0 ∧ u.sec.returns = s.sec.returns - 1)))

/-- R427, R411: a safe state, one whose commands name units that exist and whose life cycle stands in a state of the table, steps, and
steps only to safe states. -/
def Obligations.SafetyIsKept : Prop :=
  ∀ s : State, s.safe → ∃ u, goesOn s u ∧ u.safe

/-- R158, R160: whatever a step does, tier memory, host memory and every local store stay in the model's canonical form, so that equal memories
are equal data. -/
def Obligations.MemoriesStayCanonical : Prop :=
  ∀ s u : State, s.memWf = true → goesOn s u → u.memWf = true

/-- R28, R29, R31, R365: a doorbell that meets a DENIED condition is refused with DENIED, and one that meets only NOT_READY with
NOT_READY. Nothing changes in any tile; DB_RESULT is set and DB_SEQ advances in the window written and in no other; the refusal is
logged.
R19, R27, R29, R56, R363: an accepted doorbell sets DB_RESULT 0 and advances DB_SEQ in the window written and in no other, does to
each tile it acts on what R19 gives its CMD, and leaves every other tile as it was. -/
def Obligations.DoorbellsAct : Prop :=
  (∀ (s : State) (win : WinAddr) (ctx : BitVec 12) (rsv : BitVec 4) (arg : BitVec 40) (u : Unit'), s.unitAt win = some u →
     ∀ r ∈ doorbells, ∀ (code : Nat) (res : BitVec 4),
       (DoorbellDenied s u r.2 ctx rsv arg ∧ code = 0x4001 ∧ res = 1) ∨
         (¬ DoorbellDenied s u r.2 ctx rsv arg ∧ DoorbellNotReady s u ∧ code = 0x4010 ∧ res = 2) →
       ∃ v, exec (r.1 win ctx rsv arg) s = .next v ∧ v.win win = ⟨res, (s.win win).seq + 1⟩ ∧ (∀ w, w ≠ win → v.win w = s.win w) ∧
         Logs s v code 0 ∧ Reports { s with wins := v.wins } v) ∧
  (∀ (s : State) (win : WinAddr) (ctx : BitVec 12) (rsv : BitVec 4) (arg : BitVec 40) (u : Unit'), s.unitAt win = some u →
     ∀ r ∈ doorbells, ¬ DoorbellDenied s u r.2 ctx rsv arg → ¬ DoorbellNotReady s u → (r.2 = 6 → arg = 0) →
       ∃ v, exec (r.1 win ctx rsv arg) s = .next v ∧ v.win win = ⟨0, (s.win win).seq + 1⟩ ∧ (∀ w, w ≠ win → v.win w = s.win w) ∧
         (∀ t ∈ s.actsOn u, memberAfter r.2 arg.toNat (decide (s.lead t = t)) (s.tile t) (v.tile t)) ∧
         (∀ t, t ∉ s.actsOn u → v.tile t = s.tile t) ∧
         (∀ p, v.part p = { s.part p with state := (v.part p).state }) ∧
         (r.2 ≠ 4 → ∀ p, (v.part p).state = (s.part p).state) ∧
         Notes { s with wins := v.wins, tiles := v.tiles, parts := v.parts } v)

/-- R67 to R69, R78, R505: ISSUE queues the command its descriptor spells and retires; it stalls while the queue is full; a refused
descriptor enters no queue, is logged with its reason, and raises DESC_REFUSED with the reason in DETAIL.
R70, R71: a dispatched command whose work is done completes: it leaves the tile, ticket SIGT rises by 1 where SIG is 1, and no
other ticket, no register and no byte of store changes; a block operation is counted (R156). One whose work is not done does not. -/
def Obligations.CommandsAreIssuedAndComplete : Prop :=
  (∀ (s : State) (t : Path) (v : Bool) (rdesc : Reg), Ready s t v → CleanStore s t →
     let x := s.seqTile t
     let a := (x.reg rdesc).toNat
     let c := descCommand s t a none
     (∀ reason, descRefused s t a reason → ∃ s1, Reports s s1 ∧ Logs s s1 reason (s.lead t) ∧ ∃ e : Exc,
       e.cause = 5 ∧ e.epc = x.ownPc ∧ e.detail = BitVec.ofNat 32 (reason * 2 ^ 16) ∧
       exec (.issue t v rdesc) s =
         .next (s1.setTile (s.lead t) { x with exc := some e, delay := none, shadow := 0 })) ∧
     ((∀ reason, ¬ descRefused s t a reason) → ¬ roomFor x c.unit → exec (.issue t v rdesc) s = .next s) ∧
     ((∀ reason, ¬ descRefused s t a reason) → roomFor x c.unit → ∃ y, OnlyFlows (queuedIn x c) y ∧
       exec (.issue t v rdesc) s = .next ((let s' := s.setTile (s.lead t) y
                                            if x.delay.isSome then s'.settle (s.lead t) else s').wake (clusterOf (s.lead t))))) ∧
  (∀ (s : State) (t : Path) (k : Nat) (f : Flight), activePath t = true → s.fatal = false →
     s.clusterUp (clusterOf (s.lead t)) = true → (s.seqTile t).flights[k]? = some f →
     (f.finished = true → f.cmd.item = none → (∀ c ∈ (s.seqTile t).cmdQ, c.unit ≠ 1) →
       ∃ u, exec (.commandComplete t k) s = .next u ∧
         (u.tile (s.lead t)).flights = (s.seqTile t).flights.filter (fun g => g.cmd.id ≠ f.cmd.id) ∧
         (∀ j, (u.tile (s.lead t)).ticket j = (s.seqTile t).ticket j + if fieldOf f.cmd.w0 15 1 = 1 ∧ j = fieldOf f.cmd.w0 16 4 then 1 else 0) ∧
         (∀ q, ∃ fl tk ar, u.tile q = { s.tile q with flights := fl, tickets := tk, arr := ar }) ∧
         (∀ q, ∃ c, u.part q = { s.part q with ctr := c }) ∧ (f.cmd.unit ≠ 1 → u.parts = s.parts) ∧
         Notes { s with tiles := u.tiles, parts := u.parts } u) ∧
     (f.finished = false → (f.cmd.unit ≠ 0 ∨ (f.cmd.body.getD 0 0).toNat / 2 ^ 28 ≠ 7) → exec (.commandComplete t k) s = .next s))

/-- R74, R77: SET_FIRING with bit 0 set, accepted for a tile or panel that is idle, stopped or running with no delay slot due and
whose table is good, enters firing mode where some item can fire or has fired, and else leaves the tile idle and raises
FIRE_QUIESCENT. A tile in firing mode, faulted, or of a partition stopped by a fault is as it was (the last two are the model's choice,
log entry 112).
R75, R67: the lowest item that can fire does: its descriptor's command enters its queue and STATE becomes 1; while that queue is
full nothing changes.
R75: when an item's command completes, its STATE becomes 2 and HAVE of each successor rises by 1, saturating at 255; no other byte
of the panel's store changes. -/
def Obligations.FiringsRun : Prop :=
  (∀ (s : State) (win : WinAddr) (ctx : BitVec 12) (u : Unit') (t : Path), s.unitAt win = some u → s.actsOn u = s.members t →
     s.lead (s.lead t) = s.lead t → s.lead t ∈ s.members t → ¬ DoorbellDenied s u 6 ctx 0 1 → ¬ DoorbellNotReady s u → CleanStore s t →
     let x := s.seqTile t
     let n := leNat [s.lsByte (s.lead t) x.fireBase.toNat, s.lsByte (s.lead t) (x.fireBase.toNat + 1)] % 512
     let halted : Prop := s.faultStopped (s.lead t) = true
     (x.run = .faulted ∨ x.run = .firing ∨ (halted ∧ ¬ x.awaits) → ∃ v, exec (.setFiring win ctx 0 1) s = .next v ∧ v.tile (s.lead t) = x) ∧
     (x.run = .idle ∨ x.run = .stopped ∨ (x.run = .running ∧ ¬ x.awaits) → ¬ halted → tableGood s t n → ∃ v,
       exec (.setFiring win ctx 0 1) s = .next v ∧ v.tile (s.lead t) =
         { x with run := v.tile (s.lead t) |>.run, fireN := n, ended := false } ∧
       ((∃ i, i < n ∧ (itemAt s t i 2 = 1 ∨ itemFires s t i)) → (v.tile (s.lead t)).run = .firing) ∧
       ((¬ ∃ i, i < n ∧ (itemAt s t i 2 = 1 ∨ itemFires s t i)) → (v.tile (s.lead t)).run = .idle ∧
         (s.pwr.aux = true → ∃ r ∈ v.integ.log, r.code = 0x1210 ∧ r.path = s.lead t)))) ∧
  (∀ (s : State) (t : Path) (i : Nat), Fires s t → tableGood s t (s.seqTile t).fireN → i < (s.seqTile t).fireN →
     itemFires s t i → (∀ j, j < i → ¬ itemFires s t j) → (∀ reason, ¬ descRefused s t (itemNum s t i 4 4) reason) →
     let c := descCommand s t (itemNum s t i 4 4) (some i)
     (¬ roomFor (s.seqTile t) c.unit → exec (.fireItem t) s = .next s) ∧
     (roomFor (s.seqTile t) c.unit → ∃ s1, OnlyStore s s1 ∧
       (∀ b, b < s.span (s.lead t) →
         s1.lsByte (s.lead t) b = if b = (s.seqTile t).fireBase.toNat + 32 * (i + 1) + 2 then 1 else s.lsByte (s.lead t) b) ∧
       exec (.fireItem t) s = .next ((s1.setTile (s.lead t) (queuedIn (s1.tile (s.lead t)) c)).wake (clusterOf (s.lead t))))) ∧
  (∀ (s : State) (t : Path) (k i : Nat) (f : Flight), Fires s t → tableGood s t (s.seqTile t).fireN → i < (s.seqTile t).fireN →
     (s.seqTile t).flights[k]? = some f → f.finished = true → f.cmd.item = some i →
     (∀ c ∈ (s.seqTile t).cmdQ, c.unit ≠ 1) →
     ∃ u, exec (.commandComplete t k) s = .next u ∧ itemAt u t i 2 = 2 ∧
       (∀ j, j < (s.seqTile t).fireN →
         (itemAt u t j 1).toNat = min ((itemAt s t j 1).toNat + (successors s t i).count j) 255) ∧
       (∀ b, b < s.span (s.lead t) → b ≠ (s.seqTile t).fireBase.toNat + 32 * (i + 1) + 2 →
         (∀ j, j < (s.seqTile t).fireN → b ≠ (s.seqTile t).fireBase.toNat + 32 * (j + 1) + 1) →
         u.lsByte (s.lead t) b = s.lsByte (s.lead t) b))

/-- R135 to R144, R153, R154: a VEC instruction that touches no memory, issued to a free engine, retires, and does to every member of the
panel what R141 gives it: its destination lanes or mask bits, and nothing else of the member but VSRB, which advances by
the panel's width times the values each member converts where MODE.SR is set in VCVT.FH and VCVT.FN (R144). A word with a
field that is not 0 where R141 says 0 raises ILLEGAL_INSN.
R146: VSIG, issued to a free engine with no vector block operation in flight, adds 1 to ticket vd bits 3:0 and changes nothing
else. One with a field that is not 0 where R141 says 0 raises ILLEGAL_INSN. -/
def Obligations.VectorInstructionsRun : Prop :=
  (∀ (s : State) (t : Path) (v : Bool) (vd va vb : Reg) (m : BitVec 3), Ready s t v → ∀ r ∈ vectorLanes ++ vectorOthers,
     (¬ vecFits r.2.1 vd va vb m → Raises (r.1 t v vd va vb m) s t 1 (s.seqTile t).ownPc 0) ∧
     (vecFits r.2.1 vd va vb m → VecFree s t → ((r.2.1 = 0x34 ∨ r.2.1 = 0x35) → fieldOf (s.seqTile t).mode 6 2 ≠ 2) →
       ∃ u, exec (r.1 t v vd va vb m) s = .next u ∧ TilesAndCounts s u ∧
         (∀ j, j < s.panelWidth (s.lead t) → ∃ y, r.2.2.2 (vecInput s t vd va vb m r.2.2.1 j) (s.tile (memberAt (s.lead t) j)) y ∧
           (u.tile (memberAt (s.lead t) j)).vregs = y.vregs ∧ (u.tile (memberAt (s.lead t) j)).masks = y.masks ∧
           (u.tile (memberAt (s.lead t) j)).vsrb = y.vsrb +
             (if (r.2.1 = 0x32 ∨ r.2.1 = 0x34) ∧ fieldOf (s.seqTile t).mode 5 1 = 1 then
               BitVec.ofNat 48 (s.panelWidth (s.lead t) * r.2.2.1) else 0)) ∧
         (∀ q, q ≠ s.lead t →
           u.tile q = { s.tile q with vregs := (u.tile q).vregs, masks := (u.tile q).masks, vsrb := (u.tile q).vsrb }) ∧
         (∀ q, (∀ j, j < s.panelWidth (s.lead t) → q ≠ memberAt (s.lead t) j) → u.tile q = s.tile q) ∧
         OnlyFlows { s.seqTile t with nextId := (s.seqTile t).nextId + 1, vregs := (u.tile (s.lead t)).vregs,
                                      masks := (u.tile (s.lead t)).masks, vsrb := (u.tile (s.lead t)).vsrb } (u.tile (s.lead t)))) ∧
  (∀ (s : State) (t : Path) (v : Bool) (vd va vb : Reg) (m : BitVec 3), Ready s t v →
     (¬ vecFits 0x2E vd va vb m → Raises (.vsig t v vd va vb m) s t 1 (s.seqTile t).ownPc 0) ∧
     (vecFits 0x2E vd va vb m → VecFree s t → (∀ f ∈ (s.seqTile t).flights, f.cmd.unit ≠ 1) →
       ∃ u tk, exec (.vsig t v vd va vb m) s = .next u ∧ TilesAndCounts s u ∧ (∀ q, q ≠ s.lead t → u.tile q = s.tile q) ∧
         OnlyFlows { s.seqTile t with nextId := (s.seqTile t).nextId + 1, tickets := tk } (u.tile (s.lead t)) ∧
         ∀ k, (u.tile (s.lead t)).ticket k = (s.seqTile t).ticket k + if k = vd.toNat then 1 else 0))

/-- R136, R140, R141, R145: VLD and VLDX bring the words at the addresses of the active lanes into vd on every member; VST and VSTX store
those lanes of vd, the higher lane staying where two of a member name one word; nothing else of any member changes. -/
def Obligations.VectorLoadsAndStoresRun : Prop :=
  ∀ (s : State) (t : Path) (v : Bool) (vd va vb : Reg) (m : BitVec 3), Ready s t v → VecFree s t → CleanStore s t →
    (∀ r ∈ ([(.vld, false), (.vldx, true)] : List ((Path → Bool → Reg → Reg → Reg → BitVec 3 → Instr) × Bool)),
      vecAddressesOk s t r.2 va vb m → ∃ u, exec (r.1 t v vd va vb m) s = .next u ∧ TilesAndCounts s u ∧
        (∀ j, j < s.panelWidth (s.lead t) → ∃ y,
          LanesAre (fun _ i _ _ _ => leNat ((List.range 4).map fun k => s.lsByte (s.lead t) (vecAddress s t r.2 va vb j i + k)))
            (vecInput s t vd va vb m 32 j) (s.tile (memberAt (s.lead t) j)) y ∧ (u.tile (memberAt (s.lead t) j)).vregs = y.vregs) ∧
        (∀ q, q ≠ s.lead t → u.tile q = { s.tile q with vregs := (u.tile q).vregs }) ∧
        (∀ q, (∀ j, j < s.panelWidth (s.lead t) → q ≠ memberAt (s.lead t) j) → u.tile q = s.tile q) ∧
        OnlyFlows { s.seqTile t with nextId := (s.seqTile t).nextId + 1, vregs := (u.tile (s.lead t)).vregs } (u.tile (s.lead t))) ∧
    (∀ r ∈ ([(.vst, false), (.vstx, true)] : List ((Path → Bool → Reg → Reg → Reg → BitVec 3 → Instr) × Bool)),
      vecAddressesOk s t r.2 va vb m → ∃ u, exec (r.1 t v vd va vb m) s = .next u ∧ TilesAndCounts s u ∧
        (∀ b, b < s.span (s.lead t) →
          let covers (j i : Nat) : Prop := laneActive s t m j i ∧ vecAddress s t r.2 va vb j i ≤ b ∧ b < vecAddress s t r.2 va vb j i + 4
          ((∀ j i, ¬ covers j i) → u.lsByte (s.lead t) b = s.lsByte (s.lead t) b) ∧
          (∀ j i, covers j i → (∀ j' i', covers j' i' → j' = j ∧ i' ≤ i) → u.lsByte (s.lead t) b =
            BitVec.ofNat 8 ((s.tile (memberAt (s.lead t) j)).lane vd.toNat i / 256 ^ (b - vecAddress s t r.2 va vb j i)))) ∧
        (∀ q, q ≠ s.lead t → u.tile q = { s.tile q with ls := (u.tile q).ls }) ∧
        (∀ q, (∀ j, j < s.panelWidth (s.lead t) → q ≠ memberAt (s.lead t) j) → u.tile q = s.tile q) ∧
        OnlyFlows { s.seqTile t with nextId := (s.seqTile t).nextId + 1, ls := (u.tile (s.lead t)).ls } (u.tile (s.lead t)))

/-- R70, R91, R97, R110: an array command that waits first for its array, whose body meets every check and whose sparse metadata are
valid, is dispatched by the row of its OP and done: each row of D, and of its scales, holds the results of its own row; no
other byte of the panel's store changes, and the command has left its queue and may complete.
R91, R98, R99, R102, R104: the accumulators of a dense command without a mask. MMA and TOPK add the products by groups, L1 the
magnitudes of the differences, MINPLUS and MAXPLUS take the least and the largest sum, and FP32X3 adds lo × hi, hi × lo and hi × hi in
turn. -/
def Obligations.ArrayOperationsRun : Prop :=
  (∀ (s : State) (t : Path) (c : Command), Waits s t 0 c → CleanStore s t → (s.seqTile t).underlayRuns = false →
     ∀ r ∈ arrayOps, (arrCmd c).op = r.2 → (arrCmd c).fault (s.panelWidth (s.lead t)) (s.span (s.lead t)) = none →
       (arrCmd c).badNibble (s.lsByte (s.lead t)) = none → writesFit s t (arrayWrites s t (arrCmd c)) →
       ∃ u, exec (r.1 t) s = .next u ∧ WorkDone s u t c (arrayWrites s t (arrCmd c))) ∧
  (∀ (d : ArrCmd) (rd : Nat → Byte) (r n : Nat), d.wsp = 0 → d.askip = false → n < d.n →
     let a := aElement d rd r
     let b := bElement d rd n
     let start := d.start rd 0 r n
     let fold := foldTerms d.op d.int d.glen
     (d.op = 0 ∨ d.op = 4 → (d.rowAccs rd r)[n]? = some (fold start (termsOver d fun k => (a k).mul (b k)))) ∧
     (d.op = 1 → (d.rowAccs rd r)[n]? = some (fold start (termsOver d fun k => ((a k).add 0 (b k).neg).abs))) ∧
     (d.op = 2 ∨ d.op = 3 → (d.rowAccs rd r)[n]? = some (fold start (termsOver d fun k => (a k).add 0 (b k)))) ∧
     (d.op = 5 → (d.rowAccs rd r)[n]? =
       some (fold (fold (fold start (termsOver d fun k => (loPart (a k)).mul (hiPart (b k))))
         (termsOver d fun k => (hiPart (a k)).mul (loPart (b k)))) (termsOver d fun k => (hiPart (a k)).mul (hiPart (b k))))))

/-- R112, R70: an UNDERLAY that waits first, whose body is valid, is dispatched and held: each array of the panel begins to rise, and holds
until N microseconds have passed; the command stays in flight, and nothing else of any tile changes.
R111: an array in a gap goes down one level when the hold time and 2.5 µs for each level below that of the gap's beginning have
passed, and a rising one goes up one level every 2.5 µs until 8; before that nothing changes.
R107, R108: the owner of a cluster, having selected its tile 0 in 0x2120:01, gives it a layout of codes 0 to 2 while every tile of the
groups that change is idle with empty queues: the cluster takes the layout, each tile of a changed group takes the ticket
file of the lowest member of its new panel as that was shown before, and nothing else changes. -/
def Obligations.PanelsAndLevelsAct : Prop :=
  (∀ (s : State) (t : Path) (c : Command), Waits s t 0 c → (s.seqTile t).underlayRuns = false → (arrCmd c).op = 7 →
     (arrCmd c).fault (s.panelWidth (s.lead t)) (s.span (s.lead t)) = none →
     ∃ u, exec (.underlay t) s = .next u ∧ CountsAndSamples s u ∧
       u.tile (s.lead t) = { (s.seqTile t).unqueue c.id with
         flights := (s.seqTile t).flights ++ [⟨c, false⟩]
         arr := { raisedLevel s.island (s.seqTile t).arr with holdUntil := some (s.island + 1000 * (arrCmd c).n) } } ∧
       (∀ q, q ≠ s.lead t → q ∈ s.members (s.lead t) → u.tile q =
         { s.tile q with arr := { raisedLevel s.island (s.tile q).arr with holdUntil := some (s.island + 1000 * (arrCmd c).n) } }) ∧
       (∀ q, q ≠ s.lead t → q ∉ s.members (s.lead t) → u.tile q = s.tile q)) ∧
  (∀ (s : State) (t : Path), validPath t = true →
     let a := (s.tile t).arr
     (a.rising = false → 0 < a.level → a.since + s.pwr.holdTime.toNat + 2500 * (a.gapLevel - a.level + 1) ≤ s.island →
       exec (.underlayStepDown t) s = .next (s.setTile t { s.tile t with arr := { a with level := a.level - 1 } })) ∧
     (a.rising = true ∨ a.level = 0 ∨ s.island < a.since + s.pwr.holdTime.toNat + 2500 * (a.gapLevel - a.level + 1) →
       exec (.underlayStepDown t) s = .next s) ∧
     (a.rising = true → a.level < 8 → a.since + 2500 ≤ s.island →
       exec (.underlayStepUp t) s = .next (s.setTile t { s.tile t with arr := { a with level := a.level + 1, since := s.island } })) ∧
     (a.rising = false ∨ 8 ≤ a.level ∨ s.island < a.since + 2500 → exec (.underlayStepUp t) s = .next s)) ∧
  (∀ (s : State) (ses : Ses) (layout : BitVec 16) (k p : Nat), Writable s ses 0x2120 2 → k < 40 →
     s.select ses 0x2120 1 0 = (pathOf k 0).toNat → s.ownerOf k = some p → s.asOwner (s.role ses) p = true →
     (∀ g, g < 8 → layout.toNat / 4 ^ g % 4 ≠ 3) →
     let changed (g : Nat) : Prop := g < 8 ∧ layout.toNat / 4 ^ g % 4 ≠ (s.cluster k).layout.toNat / 4 ^ g % 4
     (∀ g i, changed g → i < 4 → s.layoutQuiet (pathOf k (4 * g + i)) = true) →
     ∃ u, exec (.panelLayoutWrite ses layout) s = .next u ∧ u.cluster k = { s.cluster k with layout := layout } ∧
       (∀ j, j ≠ k → u.cluster j = s.cluster j) ∧
       (∀ g i, changed g → i < 4 → u.tile (pathOf k (4 * g + i)) =
         { s.tile (pathOf k (4 * g + i)) with
           tickets := (s.tile (s.lead (pathOf k (4 * g + i / widthOf layout g * widthOf layout g)))).tickets }) ∧
       (∀ q, (∀ g i, changed g → i < 4 → q ≠ pathOf k (4 * g + i)) → u.tile q = s.tile q) ∧
       u = { s with tiles := u.tiles, clusters := u.clusters })

/-- R70, R110, R149, R150, R152, R153: a reduction, an OCC or a QY4 that waits first for its unit and whose body meets every check is
dispatched by its row and done: the rows of its result lie in the panel's store, no other byte of it changes, and the command has left
its queue and may complete. QY4 under MODE.SR also advances VSRB by the elements it wrote.
R125 to R128: a ROUTE that waits first, whose body meets every check and whose entries name an expert of its own or none, is
dispatched and done: each entry takes the next slot of its expert in the order R126 gives, or is dropped where the expert is full; the
routes, the counts and the slots are written as R127 lays them out; dropped entries are logged as ROUTE_DROPPED. -/
def Obligations.RowOperationsRun : Prop :=
  (∀ (s : State) (t : Path) (c : Command), CleanStore s t →
     (∀ r ∈ reductions, Waits s t 2 c → (rowCmd c).op = r.2 → (rowCmd c).redBad (s.span (s.lead t)) = false →
       writesFit s t (redWrites s t (rowCmd c)) →
       ∃ u, exec (r.1 t) s = .next u ∧ WorkDone s u t c (redWrites s t (rowCmd c))) ∧
     (Waits s t 1 c → AloneInVector s t c → (rowCmd c).op = 1 → (rowCmd c).occBad (s.span (s.lead t)) = false →
       writesFit s t (occWrites s t (rowCmd c)) →
       ∃ u, exec (.occ t) s = .next u ∧ WorkDone s u t c (occWrites s t (rowCmd c))) ∧
     (Waits s t 1 c → AloneInVector s t c → (rowCmd c).op = 2 → (rowCmd c).qy4Bad (s.span (s.lead t)) = false →
       writesFit s t (qy4Writes s t c (rowCmd c)) →
       ∃ u, exec (.qy4 t) s = .next u ∧
         WorkDone (vsrbAdvanced s t c (rowCmd c)) u t c (qy4Writes s t c (rowCmd c)))) ∧
  (∀ (s : State) (t : Path) (c : Command), CleanStore s t → Waits s t 2 c → c.rop = 0x80 → (routeCmd c).bad (s.span (s.lead t)) = false →
     (∀ k r, k < (routeCmd c).t → r < (routeCmd c).ksel → (routeEntry s t (routeCmd c) k r).2 < (routeCmd c).e ∨
       (routeEntry s t (routeCmd c) k r).2 = 0xFFFFFFFF) →
     ∃ u, exec (.route t) s = .next u ∧ WorkDone s u t c (routeWrites s t (routeCmd c)) ∧
       (0 < routeDropped s t (routeCmd c) → s.pwr.aux = true → ∃ r ∈ u.integ.log, r.code = 0x1301 ∧ r.stag = c.stag))

/-- R174, R178, R181: COPY moves each row of tier memory to its row of the panel's store, GATHER the rows its index words name and zeros
for 0xFFFFFFFF, TRANSPOSE each element of row i and column j to row j and column i; PREFETCH moves nothing. Under CHK every block
of the rows verifies. No other byte of the store or of tier memory changes.
R176, R178: COPY stores each row of the panel's store to its row of tier memory; without CHK the blocks it writes to lose their
check values. -/
def Obligations.TransfersMoveRows : Prop :=
  (∀ (s : State) (t : Path) (c : Command) (p : Nat) (ctx : BitVec 12), Accesses s t 3 c p ctx →
     let d := accCmd c
     (d.op = 0 → rowsReadable s ctx d →
       (d.chk = true → ∀ i, i < d.rows * d.rb / 4096 → s.verify (physAt s ctx (d.taddr + 4096 * i)) = .good) →
       ∃ u, exec (.copyLoad t) s = .next u ∧
         Transferred s u t c ctx ((List.range d.rows).map fun r => (d.laddr + r * d.lstr, tierRow s ctx d r)) []) ∧
     (d.op = 3 → (∀ r, r < d.rows → gatherIndex s t d r ≠ 0xFFFFFFFF →
         permits s ctx false (d.taddr + gatherIndex s t d r * d.tstr) d.rb) →
       ∃ u, exec (.gather t) s = .next u ∧
         Transferred s u t c ctx ((List.range d.rows).map fun r => (d.laddr + r * d.lstr,
           if gatherIndex s t d r = 0xFFFFFFFF then List.replicate d.rb 0 else tierRow s ctx d (gatherIndex s t d r))) []) ∧
     (d.op = 2 → rowsReadable s ctx d →
       ∃ u, exec (.transpose t) s = .next u ∧
         Transferred s u t c ctx ((List.range d.rows).flatMap fun i => (List.range (d.rb / 2 ^ d.esz)).map fun j =>
           (d.laddr + j * d.lstr + i * 2 ^ d.esz, slice (tierRow s ctx d i) (j * 2 ^ d.esz) (2 ^ d.esz))) []) ∧
     (d.op = 4 → ∃ u, exec (.prefetch t) s = .next u ∧ Transferred s u t c ctx [] [])) ∧
  (∀ (s : State) (t : Path) (c : Command) (p : Nat) (ctx : BitVec 12), Accesses s t 4 c p ctx → (accCmd c).op = 0 →
     let d := accCmd c
     (∀ r, r < d.rows → permits s ctx true (d.taddr + r * d.tstr) d.rb) →
     ∃ u, exec (.copyStore t) s = .next u ∧
       Transferred s u t c ctx [] ((List.range d.rows).map fun r => (d.taddr + r * d.tstr, storeBytes s t (d.laddr + r * d.lstr) d.rb)) ∧
       (d.chk = false → ∀ r i, r < d.rows → i < d.rb → (u.block (physAt s ctx (d.taddr + r * d.tstr + i))).check = none))

/-- R194 to R200: EXPAND of a valid segment, with no hardware error waiting in the expander, puts its blocks into the panel's store, one behind the other. COMPRESS writes the code table,
the blocks that fit and the segment header to tier memory and the segment's length to the panel's store; where a block does not fit, a
header of zeros and the length 0xFFFFFFFF. -/
def Obligations.SegmentsAreCoded : Prop :=
  ∀ (s : State) (t : Path) (c : Command) (p : Nat) (ctx : BitVec 12),
    let d := accCmd c
    (Accesses s t 3 c p ctx → d.op = 1 → (s.seqTile t).expSlip = 0 → permits s ctx false d.taddr 144 →
      let h := virtBytes s ctx d.taddr 144
      let ls := codeLengths (slice h 16 128)
      permits s ctx false d.taddr (fieldAt h 8 4) → segHdrBad h d.rb = false → tableOk ls = true →
      ∀ blocks, blocks.length = fieldAt h 6 2 → expandsTo (canon ls) (virtBytes s ctx d.taddr (fieldAt h 8 4)) 144 blocks →
      ∃ u, exec (.expand t) s = .next u ∧ Transferred s u t c ctx (blocks.zipIdx.map fun b => (d.laddr + 4096 * b.2, b.1)) []) ∧
    (Accesses s t 4 c p ctx → d.op = 1 → permits s ctx true d.taddr d.aux.toNat →
      let z := compressed (storeBytes s t d.laddr d.rb)
      let placed := placeBlocks d.aux.toNat 144 z.2
      let blocks := placed.1.map fun b => (d.taddr + b.1, b.2)
      ∃ u, exec (.compress t) s = .next u ∧ match placed.2 with
        | some stop => Transferred s u t c ctx [(d.xaddr, toLE stop 4)]
            ([(d.taddr + 16, z.1)] ++ blocks ++ [(d.taddr, segHeader z.2.length stop)])
        | none => Transferred s u t c ctx [(d.xaddr, toLE 0xFFFFFFFF 4)]
            ([(d.taddr + 16, z.1)] ++ blocks ++ [(d.taddr, List.replicate 16 0)]))

/-- R87 to R89, R179: PROGLOAD of a valid image into a stopped panel of its own partition, and the owner's request for one, write the code
and the static descriptors into the target's store; PROGLOAD writes 0 into the result, and the request is in progress (R506) until a later
tick (log entry 54, the model's choice). No register of the target changes. -/
def Obligations.ProgramsAreLoaded : Prop :=
  (∀ (s : State) (t : Path) (c : Command) (p : Nat) (ctx : BitVec 12), Accesses s t 3 c p ctx → (accCmd c).op = 5 →
    let d := accCmd c
    let target : Path := BitVec.ofNat 16 (fieldOf d.aux 0 16)
    permits s ctx false d.taddr d.rb → s.loadTargetBad (some p) target (fieldOf d.aux 16 2) (some (s.lead t)) = none → CleanStore s target →
    ∀ ca cb da db, loadPlan (virtBytes s ctx d.taddr d.rb) d.rb (s.part p).repro = .write ca cb da db →
      ∃ u, exec (.progload t) s = .next u ∧ Wrote [(d.xaddr, toLE 0 4)] s u t ∧ Wrote [(ca, cb), (da, db)] s u target ∧
        u.mem.tier = s.mem.tier ∧
        TransferFrame s u t c (fun q => q ∈ s.members (s.lead t) ∨ q ∈ s.members (s.lead target)) false) ∧
  (∀ (s : State) (ses : Ses) (rec' : BitVec 128) (p : Nat),
    let b := toLE rec'.toNat 16
    let ctx : BitVec 12 := BitVec.ofNat 12 (fieldAt b 0 2)
    let target : Path := BitVec.ofNat 16 (fieldAt b 2 2)
    Writable s ses 0x2220 1 → fieldAt b 0 2 < 4096 → s.ctxPart (fieldAt b 0 2) = some p → s.asOwner (s.role ses) p = true →
    fieldAt b 5 3 = 0 → s.slotBusy p 0x2220 = false → s.loadTargetBad (some p) target (fieldAt b 4 1) none = none → CleanStore s target → Translates s (.tile target) ctx →
    ∀ len ca cb da db,
    let img := virtBytes s ctx (fieldAt b 8 8) len
    let n := fieldAt img 24 2
    len = max 32 (max (fieldAt img 8 4 + 4 * fieldAt img 12 4) (if n = 0 then 0 else (descOffsets img (fieldAt img 20 4) n).2)) →
    permits s ctx false (fieldAt b 8 8) len → s.answers (.tile target) ctx (fieldAt b 8 8) len = true → loadPlan img len (s.part p).repro = .write ca cb da db →
      ∃ u, exec (.programLoadRequest ses rec') s = .next u ∧ Wrote [(ca, cb), (da, db)] s u target ∧ u.mem.tier = s.mem.tier ∧
        u.part p = { s.part p with ctr := (u.part p).ctr, loadResult := 1, loadHeld := none,
                                   busy := mapSet false (s.part p).busy 0x2220 true } ∧
        (∀ q, q ≠ p → u.part q = { s.part q with ctr := (u.part q).ctr }) ∧
        (∀ q, u.tile q = { s.tile q with ls := (u.tile q).ls, tlb := (u.tile q).tlb }) ∧
        ∀ q, q ∉ s.members (s.lead target) → u.tile q = s.tile q)

/-- R168, R172: the owner of a partition binds a free context of its range to a free slot, and unbinds one; an unbound context loses its
pages and its early table entries, and the partition's request waits until no buffer holds one of them. Nothing else changes.
R170 to R172: MAP adds its pages and is done at once. UNMAP takes its pages away, and a PROTECT that takes a permission away changes
theirs: their Result is 1 until MAPPING_COMPLETE, which leaves no old entry in any buffer, sets Result 0 and counts the request. A
PROTECT that only gives is done at once. -/
def Obligations.MappingsChange : Prop :=
  (∀ (s : State) (ses : Ses) (c : Nat), Writable s ses 0x2201 2 → s.select ses 0x2201 1 0 = c →
     (∀ part : BitVec 8, part ≠ 0xFF → s.ctxBind c = none → s.slotCtx part.toNat (s.select ses 0x2201 3 0 % 16) = none →
       s.asOwner (s.role ses) part.toNat = true → s.formed part.toNat = true → 102 * part.toNat ≤ c → c ≤ 102 * part.toNat + 101 →
       ∃ u, exec (.contextBind ses part) s = .next u ∧
         u.ctxBind c = some ⟨part, BitVec.ofNat 4 (s.select ses 0x2201 3 0)⟩ ∧ (∀ d, d ≠ c → u.ctxBind d = s.ctxBind d) ∧
         u = { s with mem := { s.mem with ctxs := u.mem.ctxs } }) ∧
     (∀ b, s.ctxBind c = some b → s.asOwner (s.role ses) b.part.toNat = true →
       (b.slot = 0 → ∀ t ∈ s.partTiles b.part.toNat, s.tileState t = 0) →
       ∃ u, exec (.contextUnbind ses) s = .next u ∧ u.ctxBind c = none ∧ (∀ d, d ≠ c → u.ctxBind d = s.ctxBind d) ∧
         u.mem.maps = s.mem.maps.filter (fun m => m.ctx.toNat ≠ c) ∧
         u.mem.stale = s.mem.stale ++ (s.mem.maps.filter (fun m => m.ctx.toNat = c)).map (fun m => (b.part, m)) ∧
         u.sh.early = s.sh.early.filter (fun e => e.1.toNat ≠ c) ∧
         PartIs s u b.part.toNat { s.part b.part.toNat with mapResult := 1, mapBusy := true } ∧
         u = { s with parts := u.parts, sh := { s.sh with early := u.sh.early },
                      mem := { s.mem with ctxs := u.mem.ctxs, maps := u.mem.maps, stale := u.mem.stale, readAhead := u.mem.readAhead } })) ∧
  ((∀ (s : State) (ses : Ses) (rec' : BitVec 256) (p : Nat),
     (let q := mapRecord 1 rec'
      MayMap s ses q p → ∃ u, exec (.map ses rec') s = .next u ∧
       u.mem.maps = s.mem.maps ++ (List.range q.count).map (fun i =>
         { ctx := BitVec.ofNat 12 q.ctx, va := q.va + i * (if q.big then 0x40000000 else 0x200000),
           pa := q.pa + i * (if q.big then 0x40000000 else 0x200000), big := q.big, r := q.perm % 2 = 1, w := 2 ≤ q.perm }) ∧
       PartIs s u p { s.part p with mapResult := 0, mapCount := (s.part p).mapCount + 1 } ∧
       u = { s with parts := u.parts, mem := { s.mem with maps := u.mem.maps } }) ∧
     (let q := mapRecord 2 rec'
      MayMap s ses q p → ∃ u, exec (.unmap ses rec') s = .next u ∧
       (∀ m, m ∈ u.mem.maps ↔ m ∈ s.mem.maps ∧ ¬ ofRequest q m) ∧ (∀ e ∈ s.mem.stale, e ∈ u.mem.stale) ∧
       PartIs s u p { s.part p with mapResult := 1, mapBusy := true } ∧
       u = { s with parts := u.parts, mem := { s.mem with maps := u.mem.maps, stale := u.mem.stale, readAhead := u.mem.readAhead } }) ∧
     (let q := mapRecord 3 rec'
      let takes : Prop := ∃ m ∈ s.mem.maps, ofRequest q m ∧ ((m.r = true ∧ q.perm % 2 = 0) ∨ (m.w = true ∧ q.perm < 2))
      MayMap s ses q p → ∃ u, exec (.protect ses rec') s = .next u ∧
       (∀ i (h : i < s.mem.maps.length), ∃ m, u.mem.maps[i]? = some m ∧
         (ofRequest q s.mem.maps[i] → m = { s.mem.maps[i] with r := q.perm % 2 = 1, w := 2 ≤ q.perm }) ∧
         (¬ ofRequest q s.mem.maps[i] → m = s.mem.maps[i])) ∧
       (takes → PartIs s u p { s.part p with mapResult := 1, mapBusy := true } ∧ u.tiles = s.tiles) ∧
       (¬ takes → PartIs s u p { s.part p with mapResult := 0, mapCount := (s.part p).mapCount + 1 }) ∧
       (∀ t, u.tile t = { s.tile t with tlb := (u.tile t).tlb }) ∧
       u = { s with parts := u.parts, tiles := u.tiles,
                    mem := { s.mem with maps := u.mem.maps, stale := u.mem.stale, sliceTlb := u.mem.sliceTlb } })) ∧
   (∀ (s : State) (part : BitVec 8), part.toNat < 40 →
     ((s.part part.toNat).mapBusy = true → ∃ u, exec (.mappingComplete part) s = .next u ∧
       PartIs s u part.toNat { s.part part.toNat with mapResult := 0, mapBusy := false, mapCount := (s.part part.toNat).mapCount + 1 } ∧
       u.mem.stale = s.mem.stale.filter (fun e => e.1 ≠ part) ∧
       (∀ t, ∀ m ∈ (u.tile t).tlb, ∀ e ∈ s.mem.stale, e.1 = part → ¬ (e.2.ctx = m.ctx ∧ e.2.va = m.va)) ∧
       (∀ t, u.tile t = { s.tile t with tlb := (u.tile t).tlb }) ∧
       u = { s with parts := u.parts, tiles := u.tiles, mem := { s.mem with stale := u.mem.stale, sliceTlb := u.mem.sliceTlb } }) ∧
     ((s.part part.toNat).mapBusy = false → exec (.mappingComplete part) s = .next s)))

/-- R165, R166, R398: the operator gives a slab that nothing maps an owner, and the owner rekeys its own: a new key is drawn, the slab's
State is 1, and its read-ahead is dropped. When the scrub is done every byte of the slab is zero, its blocks carry no check value, State
is 0, and the scrub is counted.
R167, R177, R181, R183, R184: a line request without errors reads the bytes of its line, or writes its own and no others; a block
that is written loses its check value. An expired read-ahead entry goes and is counted; a clean patrol read changes nothing; a counted
balance window shows its ratio and its busiest channel; a page is retired. -/
def Obligations.SlabsAndLinesAnswer : Prop :=
  ((∀ (s : State) (ses : Ses) (n : Nat), s.select ses 0x2230 1 0 = n → SlabFree s n →
     (∀ owner : BitVec 8, Writable s ses 0x2230 2 → s.asOperator (s.role ses) = true → (owner.toNat < 40 ∨ owner = 0xFF) →
       ((s.slab n).owner.toNat < 40 → (s.slab n).owner ≠ owner → (s.part (s.slab n).owner.toNat).plan = 0xFFFF) →
       ∃ u, exec (.slabOwnerWrite ses owner) s = .next u ∧ Rekeyed s u n owner) ∧
     (Writable s ses 0x2230 4 → s.asOwner (s.role ses) (s.slab n).owner.toNat = true →
       ∃ u, exec (.rekey ses) s = .next u ∧ Rekeyed s u n (s.slab n).owner)) ∧
   (∀ (s : State) (n : BitVec 10), n.toNat < 640 →
     ((s.slab n.toNat).state = 1 → s.pwr.tiersTrained = true → ∃ u, exec (.slabScrubDone n) s = .next u ∧
       u.slab n.toNat = { s.slab n.toNat with state := 0, scrubs := (s.slab n.toNat).scrubs + 1 } ∧
       (∀ j, j ≠ n.toNat → u.slab j = s.slab j) ∧
       (∀ a, mapGet 0 u.mem.tier a = if slabOf a = some n.toNat then 0 else mapGet 0 s.mem.tier a) ∧
       (∀ pa, u.block pa = if slabOf (pa / 4096 * 4096) = some n.toNat then {} else s.block pa) ∧
       u = { s with mem := { s.mem with slabs := u.mem.slabs, tier := u.mem.tier, blocks := u.mem.blocks } }) ∧
     ((s.slab n.toNat).state ≠ 1 ∨ s.pwr.tiersTrained = false → exec (.slabScrubDone n) s = .next s))) ∧
  ((∀ (s : State) (ctx : BitVec 12) (pa : BitVec 44) (len : Nat), LineAnswers s pa.toNat len →
     ∃ u, exec (.memoryRequest ctx pa (.read len) []) s = .next u ∧
       u.mem.lastRead = (List.range len).map (fun i => mapGet 0 s.mem.tier (pa.toNat + i)) ∧
       (∀ q, u.part q = { s.part q with ctr := (u.part q).ctr }) ∧
       u = { s with parts := u.parts,
                    mem := { s.mem with lastRead := u.mem.lastRead, winChan := u.mem.winChan, winPart := u.mem.winPart,
                                        raHits := u.mem.raHits, readAhead := u.mem.readAhead } }) ∧
   (∀ (s : State) (ctx : BitVec 12) (pa : BitVec 44) (bs : Bytes), LineAnswers s pa.toNat bs.length →
     ∃ u, exec (.memoryRequest ctx pa (.write bs) []) s = .next u ∧
       (∀ a, mapGet 0 u.mem.tier a = if pa.toNat ≤ a ∧ a < pa.toNat + bs.length then bs.getD (a - pa.toNat) 0 else mapGet 0 s.mem.tier a) ∧
       (u.block pa.toNat).check = none ∧ (∀ a, a / 4096 ≠ pa.toNat / 4096 → u.block a = s.block a) ∧
       u.mem.readAhead = s.mem.readAhead.filter (fun e => e.line ≠ pa.toNat / 512) ∧
       (∀ q, u.part q = { s.part q with ctr := (u.part q).ctr }) ∧
       u = { s with parts := u.parts,
                    mem := { s.mem with tier := u.mem.tier, blocks := u.mem.blocks, winChan := u.mem.winChan, winPart := u.mem.winPart,
                                        readAhead := u.mem.readAhead } }) ∧
   (∀ (s : State) (tier2 : Bool) (ch : BitVec 9) (e : ReadAhead), ch.toNat < (if tier2 then 48 else 384) →
     (s.mem.readAhead.find? fun e => e.chan = (if tier2 then 384 else 0) + ch.toNat && !e.hit && e.filled + 20000 ≤ s.island) = some e →
     exec (.readaheadExpire tier2 ch) s =
       .next { s with mem := { s.mem with readAhead := s.mem.readAhead.filter (· ≠ e), raExpired := satAdd64 s.mem.raExpired 1 } }) ∧
   (∀ (s : State) (pa : BitVec 44), exec (.patrolScrub pa []) s = .next s) ∧
   (∀ (s : State) (pa : BitVec 44) (e : BitVec 4 × BitVec 8), LineAnswers s pa.toNat 0 →
     ∃ u, exec (.patrolScrub pa [e]) s = .next u ∧ (u.mem.t1Corr, u.mem.t2Corr) =
       (if pa.toNat < 0x10000000000 then (satAdd64 s.mem.t1Corr 1, s.mem.t2Corr) else (s.mem.t1Corr, satAdd64 s.mem.t2Corr 1)) ∧
       u.mem.tier = s.mem.tier) ∧
   (∀ (s : State) (ses : Ses) (page : BitVec 64), Writable s ses 0x2250 5 → s.asOperator (s.role ses) = true →
     page.toNat % 0x200000 = 0 → slabOf page.toNat ≠ none →
     ∃ u, exec (.retirePage ses page) s = .next u ∧ (∀ n, n ∈ u.mem.retired ↔ n ∈ s.mem.retired ∨ n = page.toNat / 0x200000) ∧
       u = { s with mem := { s.mem with retired := u.mem.retired } }) ∧
   (∀ (s : State), let total := (s.mem.winChan.map (·.2)).sum
     ∃ u, exec .imbalanceWindow s = .next u ∧ u.mem.winChan = [] ∧ u.mem.winPart = [] ∧
       (total < 38400 → u = { s with mem := { s.mem with winChan := [], winPart := [] } }) ∧
       (38400 ≤ total → ∀ ch n, (ch, n) ∈ s.mem.winChan → (∀ e ∈ s.mem.winChan, e = (ch, n) ∨ e.2 < n) →
         u.mem.imbBusiest = BitVec.ofNat 16 ch ∧
         u.mem.imbRatio = BitVec.ofNat 16 (if n * 384 * 256 / total < 0xFFFF then n * 384 * 256 / total else 0xFFFF) ∧
         u.mem.imbRun = if s.mem.imbThreshold.toNat < n * 384 * 256 / total then s.mem.imbRun + 1 else 0)))

/-- R207 to R210, R215 to R217: STAGE of a readable span, of the partition's step and an unwritten norm slot, lays the quantised new
moments of every block over its bucket and their scales beside them, sets the norm slot to the gradients' sum of squares and marks it;
nothing else changes. Codes of a block whose second moments have no square root are a free value (the model's choice, log entry 55).
R222: COMMIT of a readable span after a pass of its own step writes every weight, rounded with its own draw, and moves the staged
codes and scales into the moments' planes; after a skip it writes nothing. -/
def Obligations.SpansAreStagedAndCommitted : Prop :=
  (∀ (s : State) (t : Path) (c : Command) (p : Nat) (ctx : BitVec 12), Trains s t c 0xE0 p ctx → SpanReadable s c ctx →
     let x := spanOf s c ctx
     let h := hyperOf s x ctx
     let slot := fieldOf (c.body.getD 0 0) 0 10
     let seed := (s.part p).seed
     tsStep c = (s.part p).step → mapGet false (s.part p).normMarks slot = false →
     (∀ r ∈ [(x.gva, 2 * x.n), (x.geva, x.n / 4096), (x.mva, x.n), (x.msva, x.n / 64)], verified s ctx r.1 r.2) →
     (x.opt = 0 → verified s ctx x.vva x.n ∧ verified s ctx x.vsva (x.n / 64)) →
     permits s ctx true x.gva (2 * x.n) → permits s ctx true x.ssva (wholeBlocks (x.n / 32)) →
     ∃ u, exec (.stage t) s = .next u ∧
       (∀ k, k < x.n / 128 →
         stagedAt u ctx x k 0 (quant1 (ofBlock (newMoment1 s ctx x h) k) (ofBlock (fun i => drawBits seed (tsStep c) x i 16) k)) ∧
         (x.opt = 0 → ∀ q, quant2 (ofBlock (newMoment2 s ctx x h) k) (ofBlock (fun i => drawBits seed (tsStep c) x i 32) k) = some q →
           stagedAt u ctx x k 1 q) ∧
         (x.opt = 1 → stagedAt u ctx x k 1 (0, List.replicate 128 0))) ∧
       OnlyRanges s u ctx [(x.gva, 2 * x.n), (x.ssva, wholeBlocks (x.n / 32))] ∧
       TransferFrame (withPart s p { s.part p with
         normSlots := mapSet 0 (s.part p).normSlots slot (BitVec.ofNat 32 (gradientSquares s ctx x)),
         normMarks := mapSet false (s.part p).normMarks slot true }) u t c (fun q => q = s.lead t) true) ∧
  (∀ (s : State) (t : Path) (c : Command) (p : Nat) (ctx : BitVec 12), Trains s t c 0xE3 p ctx → SpanReadable s c ctx →
     let x := spanOf s c ctx
     let h := hyperOf s x ctx
     tsStep c = (s.part p).verdictStep →
     ((s.part p).lastVerdict = 2 → ∃ u, exec (.commit t) s = .next u ∧ u.mem.tier = s.mem.tier ∧
       TransferFrame s u t c (fun q => q = s.lead t) false) ∧
     ((s.part p).lastVerdict = 1 →
       (∀ r ∈ [(x.wva, 2 * x.n), (x.gva, 2 * x.n), (x.ssva, x.n / 32), (x.mva, x.n), (x.msva, x.n / 64)],
         verified s ctx r.1 r.2 ∧ permits s ctx true (r.1 / 4096 * 4096) (wholeBlocks r.2)) →
       (x.opt = 0 → ∀ r ∈ [(x.vva, x.n), (x.vsva, x.n / 64)],
         verified s ctx r.1 r.2 ∧ permits s ctx true (r.1 / 4096 * 4096) (wholeBlocks r.2)) →
       ∃ u, exec (.commit t) s = .next u ∧
         (∀ i, i < x.n → virtBytes u ctx (x.wva + 2 * i) 2 = toLE (newWeight s ctx x h (s.part p).seed (tsStep c) i) 2 ∧
           planeAt u ctx x.mva 1 i = planeAt s ctx (x.gva + 8192 * (i / 4096)) 1 (i % 4096) ∧
           planeAt u ctx x.msva 2 (i / 128) = planeAt s ctx (x.ssva + 128 * (i / 4096)) 2 (i % 4096 / 128) ∧
           (x.opt = 0 → planeAt u ctx x.vva 1 i = planeAt s ctx (x.gva + 8192 * (i / 4096) + 4096) 1 (i % 4096) ∧
             planeAt u ctx x.vsva 2 (i / 128) = planeAt s ctx (x.ssva + 128 * (i / 4096) + 64) 2 (i % 4096 / 128))) ∧
         OnlyRanges s u ctx ([(x.wva, 2 * x.n), (x.mva, x.n), (x.msva, wholeBlocks (x.n / 64))] ++
           if x.opt = 0 then [(x.vva, x.n), (x.vsva, wholeBlocks (x.n / 64))] else []) ∧
         TransferFrame s u t c (fun q => q = s.lead t) true))

/-- R218 to R221: NORMSUM writes the sum of the 1,024 norm slots and zeros behind it. VERDICT of the partition's step judges the sum it
reads: skip where it is not finite or above the threshold, else pass; the registers become those of R220, and the norm slots are clear. A
skip that reaches the limit raises NORM_SKIP, which stops the partition with the same registers. -/
def Obligations.StepsAreJudged : Prop :=
  (∀ (s : State) (t : Path) (c : Command) (p : Nat) (ctx : BitVec 12), Trains s t c 0xE1 p ctx →
    permits s ctx true (tsAddress c) 4096 →
    ∃ u, exec (.normsum t) s = .next u ∧ WroteTier [(tsAddress c, toLE (redFold 1 0 ((List.range 1024).map fun i =>
        f32 (mapGet 0 (s.part p).normSlots i).toNat)) 4 ++ List.replicate 4092 0)] s u ctx ∧
      TransferFrame s u t c (fun q => q = s.lead t) true) ∧
  (∀ (s : State) (t : Path) (c : Command) (p : Nat) (ctx : BitVec 12), Trains s t c 0xE2 p ctx → verified s ctx (tsAddress c) 4 →
    tsStep c = (s.part p).step →
    let sum := planeAt s ctx (tsAddress c) 4 0
    let skip : Bool := !(f32 sum).isFin || (f32 (c.body.getD 4 0).toNat).lt (f32 sum)
    let y := judged (s.part p) sum skip
    (skip = false ∨ y.consec < (s.part p).skipLimit.setWidth 16 → ∃ u, exec (.verdict t) s = .next u ∧ u.mem.tier = s.mem.tier ∧
      (skip = true → s.pwr.aux = true → ∃ r ∈ u.integ.log, r.code = 0x1901 ∧ r.path = s.lead t) ∧ TransferFrame (withPart s p y) u t c (fun q => q = s.lead t) false) ∧
    (skip = true → (s.part p).skipLimit.setWidth 16 ≤ y.consec → ∃ u, exec (.verdict t) s = .next u ∧ u.mem.tier = s.mem.tier ∧
      (u.part p).state = 2 ∧ (u.part p).step = y.step ∧ (u.part p).consec = y.consec ∧ (u.part p).lastVerdict = 2 ∧
      (u.part p).lastSum = y.lastSum ∧ (u.part p).normSlots = [] ∧ (u.part p).skips = y.skips))

/-- R70, R271: a collective that waits first and that R261 accepts takes the lowest free slot of its context and leaves its queue; the slot
holds its body, group, sequence number and rank, unless it completes at once or a fault stops the partition or the device. While no slot
is free it stays, with its checks passed.
R263 to R266, R274, R277, R278: a collective of a group of one module completes at once: its data stand at its destination, its slot is
free again, its command may complete, and nothing else changes. -/
def Obligations.CollectivesOpen : Prop :=
  (∀ (s : State) (t : Path) (c : Command) (p : Nat) (ctx : BitVec 12) (i : Path → Instr), CollectiveWaits s t c p ctx → rowOf i c →
     (s.freeSlot ctx = none → exec (i t) s = .next (s.setTile (s.lead t) { s.seqTile t with
       cmdQ := (s.seqTile t).cmdQ.map fun d => if d.id = c.id then { d with checked := true } else d })) ∧
     (∀ key, s.freeSlot ctx = some key → ∃ u, exec (i t) s = .next u ∧ (∀ d ∈ (u.tile (s.lead t)).cmdQ, d.id ≠ c.id) ∧
       (OpenFor s u t c key p ∨ (u.slotAt key = none ∧ ⟨c, true⟩ ∈ (u.tile (s.lead t)).flights) ∨
         (u.slotAt key = none ∧ (u.part p).state = 2) ∨ u.fatal = true))) ∧
  (∀ (s : State) (t : Path) (c : Command) (p : Nat) (ctx : BitVec 12) (i : Path → Instr) (key : Nat), CollectiveWaits s t c p ctx →
     rowOf i c → s.freeSlot ctx = some key →
     let x := s.slotFor (s.lead t) c
     let ws := aloneWrites s t ctx x
     AloneReady s t ctx x → s.now.toNat + 1000 * (s.part p).deadline.toNat < 2 ^ 64 →
     ∃ u, exec (i t) s = .next u ∧ Wrote ((ws.filter (·.1)).map (·.2)) s u t ∧ WroteTier ((ws.filter (!·.1)).map (·.2)) s u ctx ∧
       (∀ k, u.slotAt k = s.slotAt k) ∧ u.sh = { s.sh with slots := u.sh.slots } ∧
       TransferFrame { s with sh := u.sh } u t c (fun q => q ∈ s.members (s.lead t)) true)

/-- R264, R270, R272 to R274, R277, R285: a message for an open slot is taken from its port and noted there: a grant or a readiness (CTS), the
units received (DATA), the row counts (COUNTS), the peer's TOKEN, and its DONE where that is for all of the units sent to it. A CTS that comes before its collective opens waits in the early
table. ABORT, and a deadline that has passed, end the slot and stop its partition. -/
def Obligations.CollectiveMessagesAreTaken : Prop :=
  (∀ (s : State) (p : PortCode) (m : Msg) (g : Group) (rest : List (Msg × BitVec 3 × Bool × Nat)) (x : Slot), Names s g m x →
    let key := g.ctx.toNat * 16 + m.slot.toNat
    let q := m.srank.toNat
    (Delivered s p 0 m g rest → ∀ t tr, x.landing m (fun k => m.offset.toNat / k) (fun k => m.payload.length / k) = some (t, tr) →
      TakenBy (.msgData p) s p rest key fun y =>
        y.got = x.got ++ [⟨t, m.offset.toNat / (x.unit / 64), m.payload.length / x.msgUnit tr.fin⟩]) ∧
    (Delivered s p 2 m g rest → x.sop = 7 → q ∉ x.countsFrom → q < x.size →
      TakenBy (.msgCounts p) s p rest key fun y => y.countsFrom = x.countsFrom ++ [q] ∧
        ∀ k, k < x.nsub → mapGet 0 y.counts (q * x.nsub + k) = BitVec.ofNat 32 (fieldAt m.payload (4 * k) 4)) ∧
    (Delivered s p 3 m g rest →
      (x.doneAll q (fieldAt m.payload 0 4) = true → TakenBy (.msgDone p) s p rest key fun y => y.doneFrom = x.doneFrom ++ [q]) ∧
      (x.doneAll q (fieldAt m.payload 0 4) = false → TakenBy (.msgDone p) s p rest key fun y => y.doneFrom = x.doneFrom)) ∧
    (Delivered s p 4 m g rest → x.sop = 1 → q ∉ x.tokens → TakenBy (.msgToken p) s p rest key fun y => y.tokens = x.tokens ++ [q])) ∧
  (∀ (s : State) (p : PortCode) (m : Msg) (g : Group) (rest : List (Msg × BitVec 3 × Bool × Nat)), Delivered s p 1 m g rest →
    let w (i : Nat) := fieldAt m.payload (4 * i) 4
    (∀ key x, s.slotOf g m.seq = some key → s.slotAt key = some x → s.formed x.part = true →
      w 1 = x.ctsW1 → w 2 = x.seg → w 3 = x.arg.toNat → w 4 = x.size →
      (w 0 ≠ 1 → TakenBy (.msgCts p) s p rest key fun y => y.ready = x.ready ++ [(m.srank.toNat, m.slot)]) ∧
      (w 0 = 1 → (x.ragged = true → w 6 = x.rowsTo m.srank.toNat * x.seg) → ∀ t, x.fits (ctsOf m) = some t →
        TakenBy (.msgCts p) s p rest key fun y => y.grantsIn = x.grantsIn ++ [(⟨t, w 5, w 6⟩, m.slot)])) ∧
    (s.slotOf g m.seq = none → s.earlyCount g.ctx < 4096 → ∃ u, exec (.msgCts p) s = .next u ∧ (u.port p.toNat).rxQ = rest ∧
      u.sh = { s.sh with early := s.sh.early ++ [(g.ctx, m.gid, m.seq, ctsOf m)] } ∧ u.tiles = s.tiles ∧ u.mem = s.mem)) ∧
  (∀ (s : State) (p : PortCode) (m : Msg) (g : Group) (rest : List (Msg × BitVec 3 × Bool × Nat)) (key : Nat) (x : Slot),
    Delivered s p 5 m g rest → s.slotOf g m.seq = some key → s.slotAt key = some x → s.formed x.part = true →
    ∃ u, exec (.msgAbort p) s = .next u ∧ u.slotAt key = none ∧ (u.part x.part).state = 2) ∧
  (∀ (s : State) (ctx : BitVec 12) (slot : BitVec 4) (x : Slot), s.slotAt (ctx.toNat * 16 + slot.toNat) = some x → s.fatal = false →
    let late : Prop := x.deadline.toNat < s.now.toNat
    (¬ late → exec (.collectiveDeadline ctx slot) s = .next s) ∧
    (late → s.formed x.part = true → ∃ u, exec (.collectiveDeadline ctx slot) s = .next u ∧ Logs s u 0x8120 x.tile ∧
      u.slotAt (ctx.toNat * 16 + slot.toNat) = none ∧ (u.part x.part).state = 2))

/-- R289, R291, R295 to R297: OUT_PACK in sequence, of finite differences, writes each chunk's record into the module's own slot and the
new residuals, and sets PK in the span record; nothing else changes.
R307, R308: OUT_APPLY of an outing whose exchange ended with status 0 or 1 writes every new momentum and anchor, and the anchor to the
weights; with a zero divisor it writes none. Residuals that the module sent late and no bitmap took are given back. The span takes the
bitmap's identity and PK 0, and the outing's late contributions are counted once (R313). -/
def Obligations.OutingsArePackedAndApplied : Prop :=
  (∀ (s : State) (t : Path) (c : Command) (p : Nat) (ctx : BitVec 12) (b : Binding), OutingWaits s t c 0xE4 p ctx b → OutSpanFits s c ctx b →
     let x := outSpanOf s c ctx
     let slot := b.slotVa (tsStep c) (s.ownRank b) + x.poff
     let packed (k : Nat) := packChunk x.keep (bf16Plane s ctx x.wva (16384 * k) 16384) (bf16Plane s ctx x.ava (16384 * k) 16384)
       (fp32Plane s ctx x.eva (16384 * k) 16384)
     s.packOut b x (tsStep c) = false → (∀ r ∈ [(x.wva, 2 * x.n), (x.ava, 2 * x.n)], verified s ctx r.1 r.2) → Held s ctx (x.eva, 4 * x.n) →
     permits s ctx true slot (wholeBlocks x.plen) →
     Apart [(slot, wholeBlocks x.plen), (tsAddress c / 4096 * 4096, 4096), (x.wva, 2 * x.n), (x.ava, 2 * x.n), (x.eva, 4 * x.n)] →
     (∀ k, k < x.n / 16384 → packed k ≠ none) →
     ∃ u, exec (.outPack t) s = .next u ∧
       (∀ k r e, k < x.n / 16384 → packed k = some (r, e) →
         virtBytes u ctx (slot + k * (16 + 144 * x.keep)) (16 + 144 * x.keep) = r ∧ fp32Plane u ctx x.eva (16384 * k) 16384 = e) ∧
       planeAt u ctx (tsAddress c) 1 0x41 = 1 ∧ (∀ i, i < 128 → i ≠ 0x41 → planeAt u ctx (tsAddress c) 1 i = planeAt s ctx (tsAddress c) 1 i) ∧
       OnlyRanges s u ctx [(slot, wholeBlocks x.plen), (tsAddress c, 128), (x.eva, 4 * x.n)] ∧
       TransferFrame s u t c (fun q => q = s.lead t) true) ∧
  (∀ (s : State) (t : Path) (c : Command) (p : Nat) (ctx : BitVec 12) (b : Binding), OutingWaits s t c 0xE6 p ctx b → OutSpanFits s c ctx b →
     let x := outSpanOf s c ctx
     ∀ (m : Bitmap) (at' : DWord), b.bitmapFor (tsStep c) = some (m, at') → m.outno = tsStep c →
     (∃ e ∈ b.statuses, e.1 = tsStep c ∧ e.2 ≤ 1) → x.id = m.app →
     let own := s.ownRank b
     let restore : Prop := (∃ e ∈ b.ownLate, e.1 = tsStep c - 1 ∧ e.2 = true) ∧ m.l.getLsbD own = false
     let seed := (s.part p).seed
     let eta := planeAt s ctx x.hva 4 0
     let mu := planeAt s ctx x.hva 4 1
     verified s ctx x.hva 64 → (∀ r ∈ [(x.wva, 2 * x.n), (x.ava, 2 * x.n), (x.ova, 2 * x.n), (x.eva, 4 * x.n)], Held s ctx r) →
     verified s ctx b.xva (24 * b.clen) → own < 8 →
     Apart [(b.xva, 24 * b.clen), (tsAddress c / 4096 * 4096, 4096), (x.hva / 4096 * 4096, 4096), (x.wva, 2 * x.n), (x.ava, 2 * x.n),
       (x.ova, 2 * x.n), (x.eva, 4 * x.n)] →
     ∃ u, exec (.outApply t) s = .next u ∧
       (∀ i, i < x.n →
         ((f32 (outDivisor m)).isZero = false → planeAt u ctx x.ova 2 i = outMomentum s ctx b x m mu seed i % 65536 ∧
           planeAt u ctx x.ava 2 i = outAnchor s ctx b x m eta mu seed i % 65536 ∧ planeAt u ctx x.wva 2 i = planeAt u ctx x.ava 2 i) ∧
         ((f32 (outDivisor m)).isZero = true → planeAt u ctx x.ova 2 i = planeAt s ctx x.ova 2 i ∧
           planeAt u ctx x.ava 2 i = planeAt s ctx x.ava 2 i ∧ planeAt u ctx x.wva 2 i = planeAt s ctx x.wva 2 i) ∧
         (restore → planeAt u ctx x.eva 4 i =
           add32 (planeAt s ctx x.eva 4 i) (sentValue s ctx b x (m.outno - 1) own i) % 2 ^ 32) ∧
         (¬ restore → planeAt u ctx x.eva 4 i = planeAt s ctx x.eva 4 i)) ∧
       (outSpanOf u c ctx).id = { outno := m.outno, b := m.b, l := m.l, alpha := m.alpha } ∧ (outSpanOf u c ctx).pk = 0 ∧
       OnlyRanges s u ctx [(tsAddress c, 128), (x.wva, 2 * x.n), (x.ava, 2 * x.n), (x.ova, 2 * x.n), (x.eva, 4 * x.n)] ∧
       u.binding b.gid = some { b with folded := some m.outno } ∧ (∀ g, g ≠ b.gid → u.binding g = s.binding g) ∧
       TransferFrame { s with bindings := u.bindings } u t c (fun q => q = s.lead t) true)

/-- R300 to R306: OUT_EXCHANGE opens with the module's own contribution held and stays open until its status is fixed; a CONTRIB is stored
in its slot and noted; a RECEIPT is noted; a BITMAP for the next outing by a candidate is accepted, one with another base ends the open
exchange with status 2, and any other is ignored; a deadline makes the candidate publish; a limit ends the exchange with status 2; a
WAITALL exchange that misses its limit stops the partition.
R310, R311: OUT_SNAPFETCH opens its binding's fetch; the peer answers SNAPREQ with MISMATCH, with BUSY while an
OUT_APPLY of the span runs, or with the span's anchor and momentum;
SNAPDATA lands in the anchor, the weights and the momentum, and a BUSY is noted; after BUSY the request is sent again every 1 ms; MISMATCH,
lasting BUSY and silence end the fetch. -/
def Obligations.OutingsGoOn : Prop :=
  ((∀ (s : State) (t : Path) (c : Command) (p : Nat) (ctx : BitVec 12) (b : Binding), OutingWaits s t c 0xE5 p ctx b →
     let n := tsStep c
     (n = b.a ∨ n = b.a + 1) → b.exch = none → verified s ctx (b.slotVa n (s.ownRank b)) b.clen → b.gid = (outCmd c).gid →
     Binds (.outExchange t) s b.gid fun _ y =>
       (∃ e ∈ y.contribs, e.outno = n ∧ e.rank = s.ownRank b ∧ e.units = [(0, b.clen / 64)] ∧ e.stamp = some s.now) ∧
       ((∃ x, y.exch = some x ∧ x.outno = n ∧ x.tile = s.lead t ∧ x.cmd = c.id ∧ x.waitAll = (outCmd c).waitAll) ∨
         ∃ st, EndedWith y n st)) ∧
   (∀ (s v : State) (p : PortCode) (m : Msg) (b : Binding),
     let n : Word := BitVec.ofNat 32 (fieldAt m.payload 0 4)
     let data := m.payload.drop 64
     (OutingDelivered s p 8 m b v → (n = b.a + 1 ∨ n = b.a) → fieldAt m.payload 0xE 1 = s.sites b → fieldAt m.payload 0x14 4 = b.clen →
       m.srank.toNat < s.sites b → m.offset.toNat * 64 + data.length ≤ b.clen → Translates s (.slice (dieOf b.ts.l)) b.ctx →
       permits s b.ctx true ((b.slotVa n m.srank.toNat + m.offset.toNat * 64) / 4096 * 4096) (data.length + 8192) →
       Binds (.msgContrib p) s b.gid fun _ y => ∃ e ∈ y.contribs, e.outno = n ∧ e.rank = m.srank.toNat ∧
         (m.offset.toNat, data.length / 64) ∈ e.units) ∧
     (OutingDelivered s p 9 m b v → n = b.a + 1 → Binds (.msgReceipt p) s b.gid fun _ y => y.accepted.outno = n ∨
       ∃ rest, y.receipts = ⟨n, m.srank.toNat, m.payload.getD 64 0, m.payload.getD 65 0, s.now⟩ :: rest) ∧
     (OutingDelivered s p 10 m b v →
       let bm := parseBitmap (slice m.payload 64 64)
       (bm.outno ≠ b.a + 1 → exec (.msgBitmap p) s = .next v) ∧
       (bm.outno = b.a + 1 → bm.app ≠ b.accepted → ∀ x, b.exch = some x → x.status = none → x.outno = bm.outno →
         Binds (.msgBitmap p) s b.gid fun _ y => EndedWith y bm.outno 2) ∧
       (bm.outno = b.a + 1 → bm.app = b.accepted → bm.pub.toNat ∈ s.candidates b → Binds (.msgBitmap p) s b.gid fun _ y =>
         y.accepted = { outno := bm.outno, b := bm.b, l := bm.l, alpha := bm.alpha } ∧ ∃ rest, y.bitmaps = (bm, s.now) :: rest))) ∧
   (∀ (s : State) (gid : BitVec 16) (b : Binding) (x : Exchange), s.binding gid = some b → b.gid = gid → b.exch = some x → x.status = none → s.fatal = false →
     (∀ j d, s.position b = some j → s.deadlineOf b x.outno j = some d → b.a + 1 = x.outno → x.waitAll = false → d < s.now →
       Binds (.outDeadline gid) s gid fun _ y => y.accepted.outno = x.outno ∧ y.accepted.b = (s.formSets b x.outno d).1 ∧
         y.accepted.l = (s.formSets b x.outno d).2) ∧
     (∀ m at', b.bitmapFor x.outno = some (m, at') → at'.toNat + 1000000 * (s.part b.part.toNat).takeover.toNat < s.now.toNat →
       Binds (.outStatusLimit gid) s gid fun _ y => EndedWith y x.outno 2) ∧
     (∀ d, b.bitmapFor x.outno = none → s.deadlineOf b x.outno ((s.candidates b).length + 1) = some d → x.waitAll = false → d < s.now →
       Binds (.outStatusLimit gid) s gid fun _ y => EndedWith y x.outno 2) ∧
     (∀ d, s.deadlineOf b x.outno (s.candidates b).length = some d → x.waitAll = true → b.bitmapFor x.outno = none → d < s.now →
       s.formed b.part.toNat = true → ∃ u, exec (.outIncomplete gid) s = .next u ∧ Logs s u 0x8805 x.tile ∧ (u.part b.part.toNat).state = 2))) ∧
  ((∀ (s : State) (t : Path) (c : Command) (p : Nat) (ctx : BitVec 12) (b : Binding), OutingWaits s t c 0xE7 p ctx b → b.fetch = none →
     verified s ctx (tsAddress c) 128 → (outSpanOf s c ctx).bad b.clen = false → b.gid = (outCmd c).gid →
     Binds (.outSnapfetch t) s b.gid fun u y => y = { b with fetch := some {
         tile := s.lead t, cmd := c.id, stag := c.stag, outno := tsStep c, span := tsAddress c, sidx := BitVec.ofNat 16 (outCmd c).sidx,
         peer := (outCmd c).peer, began := s.now, asked := s.now } } ∧ u.mem.tier = s.mem.tier ∧ ∀ q, (u.tile q).ls = (s.tile q).ls) ∧
   (∀ (s v : State) (p : PortCode) (m : Msg) (b : Binding), OutingDelivered s p 11 m b v →
     let n : Word := BitVec.ofNat 32 (fieldAt m.payload 0 4)
     let sidx := fieldAt m.payload 0x18 2
     let x := parseOutSpan (b.stva + 128 * sidx) (virtBytes s b.ctx (b.stva + 128 * sidx) 128)
     let same : Prop := x.pidx = fieldAt m.payload 0x44 2 * 2 ^ 32 + fieldAt m.payload 0x40 4 ∧ x.n = fieldAt m.payload 0x48 4 ∧
       x.id.outno ≠ 0xFFFFFFFF
     (b.nspan ≤ sidx → exec (.msgSnapreq p) s =
       .next (v.outSend b 12 n m.srank.toNat 0 (v.outHeader b n b.accepted 2 sidx))) ∧
     (sidx < b.nspan → Translates s b.ts.mover b.ctx → verified s b.ctx (b.stva + 128 * sidx) 128 →
       (same → verified s b.ctx x.ava (2 * x.n) ∧ verified s b.ctx x.ova (2 * x.n)) →
       ∃ u w : State, exec (.msgSnapreq p) s = .next u ∧ w.mem.tier = v.mem.tier ∧ w.ports = v.ports ∧
         (same → v.applying b sidx = true → u = w.outSend b 12 n m.srank.toNat 0 (w.outHeader b n b.accepted 1 sidx)) ∧
         (same → v.applying b sidx = false → u = (w.outStream b 12 n m.srank.toNat (w.outHeader b n x.id 0 sidx)
             (virtBytes s b.ctx x.ava (2 * x.n) ++ virtBytes s b.ctx x.ova (2 * x.n))).countPart (some b.part.toNat) 0x2600 0xB 1) ∧
         (¬ same → u = w.outSend b 12 n m.srank.toNat 0 (w.outHeader b n b.accepted 2 sidx)))) ∧
   (∀ (s v : State) (p : PortCode) (m : Msg) (b : Binding) (f : Fetch), OutingDelivered s p 12 m b v → b.fetch = some f →
     let flags := fieldAt m.payload 0xF 1
     let data := m.payload.drop 64
     let x := parseOutSpan f.span (virtBytes s b.ctx f.span 128)
     m.srank.toNat = f.peer → fieldAt m.payload 0 4 = f.outno.toNat → fieldAt m.payload 0x18 2 = f.sidx.toNat →
     (flags / 2 % 2 = 1 → Binds (.msgSnapdata p) s b.gid fun _ y => y.fetch = none ∧ y.accepted = b.accepted) ∧
     (flags / 2 % 2 = 0 → flags % 2 = 1 → Binds (.msgSnapdata p) s b.gid fun _ y =>
       y = { b with fetch := some { f with busyAt := some (f.busyAt.getD s.now) } }) ∧
     (flags / 2 % 2 = 0 → flags % 2 = 0 → (∀ a, f.app = some a → a = headerApp (m.payload.take 64)) →
       Translates s (.slice (dieOf f.tile)) b.ctx → verified s b.ctx f.span 128 → x.bad b.clen = false →
       m.offset.toNat * 64 + data.length ≤ 4 * x.n → (∀ va ∈ [x.ava, x.wva, x.ova], permits s b.ctx true va (2 * x.n)) →
       covered (4 * x.n / 64) ((m.offset.toNat, data.length / 64) :: f.units) = false →
       Binds (.msgSnapdata p) s b.gid fun _ y => ∃ g, y.fetch = some g ∧ g.app = some (headerApp (m.payload.take 64)) ∧
         g.units = (m.offset.toNat, data.length / 64) :: f.units ∧ g.busyAt = none ∧ g.asked = s.now)) ∧
   (∀ (s : State) (gid : BitVec 16) (b : Binding) (f : Fetch), s.binding gid = some b → b.gid = gid → b.fetch = some f → s.fatal = false →
     let limit := 1000000 * (s.part b.part.toNat).takeover.toNat
     (f.busyAt ≠ none → f.asked.toNat + 1000000 ≤ s.now.toNat → Translates s (.slice (dieOf f.tile)) b.ctx → verified s b.ctx f.span 128 →
       (parseOutSpan f.span (virtBytes s b.ctx f.span 128)).bad b.clen = false →
       Binds (.snapfetchRetry gid) s gid fun _ y => y = { b with fetch := some { f with asked := s.now } }) ∧
     ((∃ t, f.busyAt = some t ∧ t.toNat + limit < s.now.toNat) ∨ (f.busyAt = none ∧ f.asked.toNat + limit < s.now.toNat) →
       Binds (.snapfetchTimeout gid) s gid fun _ y => y.fetch = none ∧ y.accepted = b.accepted)))

/-- R356, R397, R455, R460, R461, R464 to R466: with each rail and clock that comes up the units behind it become usable, and each rise of
readiness is reported. A passed start-up test zeroes the local stores, seeds the checker and sets the cluster's bit; a failed one makes the device fatal. -/
def Obligations.BringUpFollowsItsSteps : Prop :=
  ∀ s : State,
    (s.pwr.aux = false →
      let on : Bool := s.pwr.main && s.mgmt.powerSetting = 1
      exec .auxRailRise s = .next { s with
        pwr := { s.pwr with aux := true, functions := 1, converters := on || s.pwr.converters }, fatal := !on && s.fatal,
        tag := { s.tag with working := s.tag.bank } }) ∧
    (s.pwr.aux = true → s.mgmt.powerSetting = 1 → s.pwr.converters = false →
      exec .mainInputInRange s = .next { s with fatal := false, pwr := { s.pwr with main := true, converters := true } }) ∧
    (∀ pcieRef : Bool, s.pwr.converters = true → bit s.pwr.functions 21 = false → ∃ u, exec (.bridgeRailsGood pcieRef) s = .next u ∧
      Reports { s with
        now := if s.pwr.bridge then s.now else 0, time := { listenFrom := s.island },
        sec := { s.sec with noise := 1, startFails := 0, samples := [], runLen := 0 },
        pwr := { s.pwr with bridge := true, pcieRef := pcieRef, lclk := if (s.sensor 25).throttled then 500 else 1000
                            functions := u.pwr.functions } } u ∧
      u.trace.frozen = s.trace.frozen ∧ BitsSet s.pwr.functions u.pwr.functions [21, 1, 7, 20] ∧
      ∀ b ∈ [21, 1, 7, 20], bit s.pwr.functions b = false → Recorded s u 0x1F01 0 (1 + 256 * b)) ∧
    (∀ die : BitVec 2, let d := die.toNat
      s.pwr.converters = true → (s.die d).railsGood = false → ∃ u, exec (.dieRailsGood die) s = .next u ∧
        u.die d = { s.die d with railsGood := true, tclk := (s.die d).tclkLimit
                                 mclk := if (List.range 3).any fun i => (s.sensor (5 + 3 * d + i)).throttled then 662 else 1325 } ∧
        (∀ e, e ≠ d → u.die e = s.die e) ∧
        (∀ k, u.cluster k = { s.cluster k with testing := k / 10 = d || (s.cluster k).testing }) ∧
        BitsSet s.pwr.functions u.pwr.functions
          ((8 + d) :: ([2 * d, 2 * d + 1].filter fun e => bit s.pwr.enginePower e).map fun e => 12 + e) ∧
        Reports { s with dies := u.dies, clusters := u.clusters, pwr := { s.pwr with functions := u.pwr.functions } } u) ∧
    (∀ k : BitVec 6, k.toNat < 40 → s.fatal = false → (s.cluster k.toNat).testing = true → (s.die (k.toNat / 10)).railsGood = true →
      bit s.pwr.functions 1 = true →
      (∃ u, exec (.clusterSelfTest k .pass) s = .next u ∧
        (∀ q, u.tile q = if q ∈ clusterAll k.toNat then { s.tile q with ls := [], lsErr := [] } else s.tile q) ∧
        (let c := s.cluster k.toNat
         let ready : Bool := s.sec.drbg = 1
         u.cluster k.toNat = { c with testing := false, ready := true, current := if c.current = 5 then 0 else c.current
                                      transitions := if c.current = 5 then c.transitions + 1 else c.transitions
                                      chk := { c.chk with seed := if ready then BitVec.ofNat 64 (leNat (s.generate 8).1) else 0
                                                          seededAt := s.island } } ∧
         u.sec = (if ready then (s.generate 8).2.sec else s.sec) ∧
         (c.ready = false → Recorded s u 0x1F01 0 (2 + 256 * k.toNat))) ∧
        (∀ j, j ≠ k.toNat → u.cluster j = s.cluster j) ∧
        Reports { s with tiles := u.tiles, clusters := u.clusters, sec := u.sec } u) ∧
      (∀ (tile : BitVec 6) (stage : BitVec 8), tile.toNat ≤ 32 → 1 ≤ stage.toNat → stage.toNat ≤ 6 →
        ∃ u, exec (.clusterSelfTest k (.fail tile stage)) s = .next u ∧ u.fatal = true ∧
          u.pwr = { s.pwr with testFailures := s.pwr.testFailures + 1 } ∧ (u.cluster k.toNat).ready = (s.cluster k.toNat).ready ∧
          (∀ q, (u.tile q).ls = (s.tile q).ls) ∧ Recorded s u 0xCF03 (pathOf k.toNat tile.toNat) stage.toNat)) ∧
    (s.pwr.bridge = true → s.pwr.pcieRef = true → s.pwr.pcieUp = false → ∃ u, exec .pcieLinkTraining s = .next u ∧
      BitsSet s.pwr.functions u.pwr.functions [2] ∧ (bit s.pwr.functions 2 = false → Recorded s u 0x1F01 0 0x201) ∧
      Reports { s with pwr := { s.pwr with perst := false, pcieUp := true, functions := u.pwr.functions } } u) ∧
    (s.pwr.pcieUp = true → ∃ w : Word, (∀ b, b < 32 → (bit w b = true ↔ bit s.pwr.functions b = true ∧ b ≠ 2)) ∧
      exec .pcieLinkDown s = .next { s with pwr := { s.pwr with pcieUp := false, functions := w } }) ∧
    (s.pwr.tiersTrained = false → s.pwr.bridge = true → s.fatal = false → s.sec.drbg = 1 → (∀ d, d < 4 → (s.die d).railsGood = true) →
      ∃ u, exec .tierTrainingDone s = .next u ∧ BitsSet s.pwr.functions u.pwr.functions [3, 4] ∧
        (∀ n, n < 640 → u.slab n = { s.slab n with
          state := 1, key := BitVec.ofNat 64 (leNat (((fun a : State => (a.generate 8).2)^[n] s).generate 8).1) }) ∧
        u.sec = ((fun a : State => (a.generate 8).2)^[640] s).sec ∧
        Reports { s with pwr := { s.pwr with tiersTrained := true, functions := u.pwr.functions },
                         mem := { s.mem with slabs := u.mem.slabs, readAhead := u.mem.readAhead },
                         sec := u.sec } u)

/-- R402, R426, R441, R450, R451, R453, R462, R463, R476: a device reset, by a write or from PCIe, resets every domain outside the island
and keeps what R450 names; a hot and a function-level reset empty the mirror, end an open hamper request
with CKPT_BODY, and change nothing else; converters that turn off take
everything outside the island with them, and the auxiliary rail leaves only what is not volatile. -/
def Obligations.ResetsKeepWhatTheyMust : Prop :=
  ∀ s : State,
    (∀ ses, Writable s ses 0x1140 2 → s.asOperator (s.role ses) = true → s.pwr.converters = true →
      ∃ u, exec (.deviceReset ses) s = .next u ∧ DomainsReset s u ∧ u.fatal = false ∧ u.now = s.now ∧ u.pwr.converters = true ∧
        u.mgmt.actions = s.mgmt.actions + 1 ∧ u.integ.fatalRec = s.integ.fatalRec ∧ u.mgmt.capState = s.mgmt.capState ∧
        u.mgmt.capture = s.mgmt.capture ∧ u.trace.frozen = s.trace.frozen ∧ (∀ n, n < 640 → (u.slab n).state = 0)) ∧
    (s.pwr.converters = true → ∃ u, exec .pcieConventionalReset s = .next u ∧ DomainsReset s u ∧ u.pwr.perst = true ∧ u.fatal = false ∧
      u.now = s.now ∧ u.pwr.converters = true) ∧
    (s.pwr.converters = false → exec .pcieConventionalReset s = .next { s with pwr := { s.pwr with perst := true } }) ∧
    (let clear : Mgmt := { s.mgmt with frameQ := s.mgmt.frameQ.filter (fun e => e.1 ≠ .mirror), mbxReq := [], mbxBusy := false, mbxReady := false, mbxRsp := [], ntfHead := 0, ntfTail := 0,
                                       ntfRing := [], msix0 := 0, msix1 := 0 }
     (∀ i ∈ [Instr.pcieHotReset, .functionLevelReset], s.pwr.converters = true → s.pwr.pcieUp = true →
       ((∀ p, p < 40 → (s.part p).ham = none) → exec i s = .next { s with mgmt := clear }) ∧
       (∃ u, exec i s = .next u ∧ u.mgmt.mbxReq = [] ∧
         ∀ p j, p < 40 → (s.part p).ham = some j → (u.part p).ham = none ∧ (u.part p).hamResult = 0x8A01))) ∧
    (∀ ses, Writable s ses 0x1140 3 → s.asOperator (s.role ses) = true →
      (s.pwr.converters = false → s.pwr.main = true → exec (.powerOn ses) s = .next { s with
        fatal := false, pwr := { s.pwr with converters := true },
        mgmt := { s.mgmt with powerSetting := 1, actions := s.mgmt.actions + 1 } }) ∧
      (s.pwr.converters = true ∨ s.pwr.main = false → exec (.powerOn ses) s = .next { s with mgmt := { s.mgmt with powerSetting := 1 } }) ∧
      (s.pwr.converters = false → exec (.powerOff ses) s = .next { s with mgmt := { s.mgmt with powerSetting := 0 } }) ∧
      (s.pwr.converters = true → ∃ u, exec (.powerOff ses) s = .next u ∧ DomainsReset s u ∧ u.pwr.converters = false ∧
        u.pwr.bridge = false ∧ u.now = 0 ∧ u.mem.tier = [] ∧ u.trace.regions = [] ∧ u.mgmt.powerSetting = 0)) ∧
    (s.pwr.aux = true → s.pwr.main = true → ∃ u, exec .inputOutOfRange s = .next u ∧ DomainsReset s u ∧ u.pwr.main = false ∧
      u.pwr.converters = false ∧ u.mgmt.powerSetting = 0 ∧ u.fatal = true ∧ Recorded s u 0xCF02 0 0) ∧
    (s.pwr.converters = true → ∃ u, exec .converterFault s = .next u ∧ DomainsReset s u ∧ u.pwr.main = s.pwr.main ∧
      u.pwr.converters = false ∧ u.mgmt.powerSetting = 0 ∧ u.fatal = true ∧ Recorded s u 0xCF02 0 0) ∧
    (s.pwr.aux = true → ∃ u, exec .auxRailFall s = .next u ∧ 
      u.pwr = { aux := false, main := s.pwr.main, perst := s.pwr.perst, functions := 0 } ∧ u.integ = {} ∧ u.trace = {} ∧ u.sec.keys = [] ∧ u.sec.lc = s.sec.lc ∧ u.sec.fieldDebug = false ∧ u.sec.returns = s.sec.returns ∧
      u.mgmt.operatorCred = s.mgmt.operatorCred ∧ u.mgmt.challengeCtr = s.mgmt.challengeCtr ∧ u.mgmt.sessions = [] ∧
      u.tag.bank0 = s.tag.bank0 ∧ u.tag.bank1 = s.tag.bank1 ∧ u.tag.pointer = s.tag.pointer ∧ u.tag.holder = none ∧
      u.tiles = [] ∧ u.parts = [] ∧ u.ports = [] ∧ u.mem.tier = [] ∧ u.host = s.host) ∧
    (∀ at', s.pwr.tripAt = some at' → at' + 10000000 ≤ s.island → s.pwr.converters = true → ∃ u, exec .tripShutdown s = .next u ∧
      DomainsReset s u ∧ u.pwr.converters = false ∧ u.mgmt.powerSetting = 0 ∧ u.pwr.tripAt = none)

/-- R241, R468, R469, R474, R475: a warn or throttle value crossed upward is reported, and the throttled clocks follow; a trip makes the
device fatal; a throttle ends after 100 ms at 2 °C below; a new TCLK limit is kept, and TCLK steps down to it by 25 MHz.
R470 to R473, R481: an idle cluster goes to Idle-clocked; a request for Retention or Sleep takes readiness away, MARKER is written
when every array is quiet, and Sleep loses all but crash frames and fault fields; Active comes back by RESYNC, from Sleep by way of
the start-up test. A powered optical engine becomes ready; one whose ports are OFF is turned off. -/
def Obligations.PowerAndClocksChange : Prop :=
  ((∀ (s : State) (sensor : BitVec 5) (milliC : BitVec 32), let n := sensor.toNat
     let x := s.sensor n
     let highest := if x.highest.toInt < milliC.toInt then milliC else x.highest
     n ≤ 27 → s.pwr.aux = true →
     (∀ i ∈ [Instr.thermalCrossing sensor milliC, .thermalTrip sensor milliC],
       (¬ crosses s n milliC (s.warnAt n) → (hasThrottle n = true → ¬ crosses s n milliC (s.throttleAt n)) →
         ¬ crosses s n milliC (thermalTable n).2.2 → ∃ u, exec i s = .next u ∧
           u.sensor n = { x with temp := milliC, highest := highest, belowSince := (u.sensor n).belowSince } ∧
           (∀ m, m ≠ n → u.sensor m = s.sensor m) ∧ u = { s with pwr := { s.pwr with sensors := u.pwr.sensors } }) ∧
       (crosses s n milliC (s.warnAt n) → ¬ crosses s n milliC (thermalTable n).2.2 → ∃ u, exec i s = .next u ∧
         Recorded s u 0x1F03 0 (n + 256) ∧ (u.sensor n).temp = milliC) ∧
       (hasThrottle n = true → crosses s n milliC (s.throttleAt n) → ∃ u, exec i s = .next u ∧
         (¬ crosses s n milliC (thermalTable n).2.2 → Recorded s u 0x1F03 0 (n + 512)) ∧ (u.sensor n).throttled = true ∧
         (∀ d, d < 4 → (s.die d).railsGood = true →
           (u.die d).mclk = if (List.range 3).any fun j => (u.sensor (5 + 3 * d + j)).throttled then 662 else 1325) ∧
         (n = 25 → s.pwr.bridge = true → u.pwr.lclk = 500)) ∧
       (crosses s n milliC (thermalTable n).2.2 → s.fatal = false → ∃ u, exec i s = .next u ∧ Recorded s u 0xCF01 0 0 ∧ u.fatal = true ∧
         (s.pwr.tripAt = none → u.pwr.tripAt = some s.island)))) ∧
   (∀ (s : State) (sensor : BitVec 5), let n := sensor.toNat
     n ≤ 27 → s.pwr.aux = true → (s.sensor n).throttled = true → ∀ t, (s.sensor n).belowSince = some t →
     (t + 100000000 ≤ s.island → ∃ u, exec (.throttleEnd sensor) s = .next u ∧ u.sensor n = { s.sensor n with throttled := false } ∧
       (∀ m, m ≠ n → u.sensor m = s.sensor m) ∧
       (∀ d, u.die d = { s.die d with mclk := (u.die d).mclk, cause := (u.die d).cause }) ∧
       Reports { s with dies := u.dies, pwr := { s.pwr with sensors := u.pwr.sensors, lclk := u.pwr.lclk } } u) ∧
     (s.island < t + 100000000 → exec (.throttleEnd sensor) s = .next s)) ∧
   (∀ (s : State) (ses : Ses) (mhz : BitVec 16), let d := s.select ses 0x1100 1 0
     Writable s ses 0x1100 2 → s.asOperator (s.role ses) = true → 400 ≤ mhz.toNat → mhz.toNat ≤ 1650 → mhz.toNat % 25 = 0 →
     ∃ u, exec (.tclkLimitWrite ses mhz) s = .next u ∧ (u.die d).tclkLimit = mhz ∧ (u.die d).tclk = (s.die d).tclk ∧
       (∀ e, e ≠ d → u.die e = s.die e) ∧ Reports { s with dies := u.dies } u) ∧
   (∀ (s : State) (die : BitVec 2), let d := die.toNat
     (s.die d).railsGood = true → ∃ u, exec (.clockStep die) s = .next u ∧
       let f := (s.die d).tclk.toNat
       let mean := (mapGet 0 u.pwr.draw 7).toNat
       let cap := 1000 * s.pwr.powerCap.toNat
       let waited (ns : Nat) : Prop := ∀ t, (s.die d).lastStep = some t → t + ns ≤ s.island
       let down : Prop := 400 < f ∧ ((waited 10000 ∧ ((s.die d).tclkLimit.toNat < f ∨ HeldDown s d)) ∨ (waited 100000 ∧ cap < mean))
       let up : Prop := f < (s.die d).tclkLimit.toNat ∧ ¬ HeldDown s d ∧ 100 * mean < 95 * cap ∧ waited 1000000
       (down → (u.die d).tclk = BitVec.ofNat 16 (f - 25) ∧ (u.die d).lastStep = some s.island) ∧
       (¬ down → up → (u.die d).tclk = BitVec.ofNat 16 (f + 25) ∧ (u.die d).lastStep = some s.island) ∧
       (¬ down → ¬ up → (u.die d).tclk = (s.die d).tclk ∧ (u.die d).lastStep = (s.die d).lastStep) ∧
       (∀ e, e ≠ d → u.die e = s.die e) ∧
       Reports { s with dies := u.dies, free := s.free + 7, pwr := { s.pwr with draw := u.pwr.draw } } u)) ∧
  ((∀ (s : State) (k : BitVec 6), let c := s.cluster k.toNat
     k.toNat < 40 →
     (c.ready = true → c.current = 0 → (∀ t ∈ clusterTiles k.toNat, s.tileQuiet t = true) →
       (∀ t ∈ clusterAll k.toNat, (s.tile t).arr.level = 0) → ∃ u, exec (.idleClockedEnter k) s = .next u ∧
         u.cluster k.toNat = { c with current := 1 } ∧ (∀ j, j ≠ k.toNat → u.cluster j = s.cluster j) ∧
         Reports { s with clusters := u.clusters } u) ∧
     (s.fatal = false → c.current = 4 → (∀ t ∈ clusterAll k.toNat, (s.tile t).arr.level = 0) → c.chk.backlog = [] →
       ∃ u, exec (.powerStateSettle k) s = .next u ∧
         (u.cluster k.toNat).current = c.target ∧ (u.cluster k.toNat).marked = true ∧
         (c.target = 3 → (u.cluster k.toNat).chk = {}) ∧ (c.target ≠ 3 → (u.cluster k.toNat).chk = c.chk) ∧
         (∀ q, u.tile q = if c.target = 3 ∧ q ∈ clusterAll k.toNat then { crash := (s.tile q).crash, fault := (s.tile q).fault }
                          else s.tile q) ∧
         (∀ j, j ≠ k.toNat → u.cluster j = s.cluster j) ∧ Reports { s with tiles := u.tiles, clusters := u.clusters } u) ∧
     (s.fatal = false → c.current = 5 → c.testing = false → ∃ u, exec (.resync k) s = .next u ∧
       (c.target = 3 → u.cluster k.toNat = { c with marked := false, packets := 0, testing := true }) ∧
       (c.target ≠ 3 → u.cluster k.toNat = { c with marked := false, packets := 0, ready := true, current := 0
                                                    transitions := c.transitions + 1 }) ∧
       (∀ j, j ≠ k.toNat → u.cluster j = s.cluster j) ∧ Reports { s with clusters := u.clusters } u)) ∧
   (∀ (s : State) (ses : Ses), let k := s.select ses 0x1110 1 0
     let c := s.cluster k
     Writable s ses 0x1110 2 → s.mayPower (s.role ses) k = true → c.current ≠ 4 → c.current ≠ 5 →
     (∀ e ∈ [(Instr.powerRequestRetention ses, (2 : BitVec 8)), (.powerRequestSleep ses, 3)], s.powerBusy k = false →
       ∃ u, exec e.1 s = .next u ∧ u.cluster k = { c with requested := e.2, target := e.2, ready := false, current := 4 } ∧
         (∀ j, j ≠ k → u.cluster j = s.cluster j) ∧ Reports { s with clusters := u.clusters } u) ∧
     (∃ u, exec (.powerRequestActive ses) s = .next u ∧
       u.cluster k = (if c.current = 2 ∨ c.current = 3 then { c with requested := 0, target := c.current, current := 5 }
                      else { c with requested := 0 }) ∧
       (∀ j, j ≠ k → u.cluster j = s.cluster j) ∧ Reports { s with clusters := u.clusters } u)) ∧
   (∀ (s : State) (ses : Ses) (bits' : BitVec 8), Writable s ses 0x1110 5 → s.asOperator (s.role ses) = true →
     (∀ c, c < 16 → bit s.pwr.enginePower (portEngine c) = true → bit bits' (portEngine c) = false → (s.port c).state = .off) →
     ∃ u, exec (.enginePowerWrite ses bits') s = .next u ∧ u.pwr.enginePower = bits' ∧
       (∀ b, b < 32 → (bit u.pwr.functions b = true ↔
         if 12 ≤ b ∧ b < 20 then bit bits' (b - 12) = true ∧ ((s.die ((b - 12) / 2)).railsGood = true ∨ bit s.pwr.functions b = true)
         else bit s.pwr.functions b = true)) ∧
       Reports { s with pwr := { s.pwr with enginePower := bits', functions := u.pwr.functions } } u))

/-- R452, R480, R482 to R485: the operator freezes and resumes the trace and gives a capture up; a replay capture writes its record into an
island slot and the host window, and a clear empties the slot. -/
def Obligations.CapturesAreKept : Prop :=
  (∀ (s : State) (ses : Ses), s.asOperator (s.role ses) = true →
    (Writable s ses 0x1140 5 →
      (s.trace.frozen = false → ∃ u, exec (.traceFreeze ses) s = .next u ∧ u.trace.frozen = true ∧
        u = { s with trace := u.trace, mgmt := { s.mgmt with actions := s.mgmt.actions + 1 } }) ∧
      (s.trace.frozen = true → exec (.traceFreeze ses) s = .next s) ∧
      (s.trace.frozen = true → ∃ u, exec (.traceUnfreeze ses) s = .next u ∧ u.trace.frozen = false ∧ u = { s with trace := u.trace }) ∧
      (s.trace.frozen = false → exec (.traceUnfreeze ses) s = .next s)) ∧
    (Writable s ses 0x3030 4 →
      exec (.captureAcknowledge ses) s = .next { s with mgmt := { s.mgmt with capState := 0, capture := [] } })) ∧
  (∀ (s : State) (ses : Ses) (rec' : BitVec 384), let p := s.select ses 0x3210 1 0
    let b := toLE rec'.toNat 48
    let slot := fieldAt b 1 1
    Writable s ses 0x3210 2 → s.asOwner (s.role ses) p = true → slot ≤ 3 → fieldAt b 2 2 = 0 →
    (fieldAt b 4 4 = (s.part p).lastCkid.toNat → fieldAt b 8 8 % 128 = 0 → (s.part p).winLen ≠ 0 → s.inWindow p (fieldAt b 8 8) 128 = true →
      (s.part p).ham = none →
      let r := s.replayRecord p (setByte b 0 1)
      ∃ u, exec (.replayCapture ses rec') s = .next u ∧
        PartIs s u p { s.part p with replay := mapSet 0 (s.part p).replay slot (BitVec.ofNat 1024 (leNat r)), replayResult := 0 } ∧
        r.length = 128 ∧
        (∀ a, mapGet 0 u.host a =
          if s.pwr.pcieUp = true ∧ (s.part p).winBase.toNat + fieldAt b 8 8 ≤ a ∧ a < (s.part p).winBase.toNat + fieldAt b 8 8 + 128
          then r.getD (a - ((s.part p).winBase.toNat + fieldAt b 8 8)) 0 else mapGet 0 s.host a) ∧
        Recorded s u 0x1F05 0 (fieldAt b 4 4 + 2 ^ 32 * slot) ∧ Reports { s with parts := u.parts, host := u.host } u) ∧
    (∃ u, exec (.replayClear ses rec') s = .next u ∧
      PartIs s u p { s.part p with replay := mapSet 0 (s.part p).replay slot 0, replayResult := 0 } ∧ u = { s with parts := u.parts }))

/-- R453, R455, R457, R458: what the tag answers in an RF field: its identity, its modes, the blocks of the published bank, and error codes;
a request that does not reach it changes nothing. The 8-bit block numbers do not reach the user area, so WRITE SINGLE BLOCK answers 0x12.
R454 to R456, R458: a session takes the free lock, or waits for a publication; the holder writes the working copy; a release, and a
second without a write, start a publication, which makes the other bank the working copy with GEN one higher and CHECK, and flips the
pointer; the controller updates both pages under the same lock. -/
def Obligations.TagAnswers : Prop :=
  (∀ (s : State) (flags : BitVec 8) (uid : BitVec 64),
     (Heard s flags uid →
       (exec (.resetToReady flags uid) s = .next { s with tag := { s.tag with mode := .ready, rsp := [0] } }) ∧
       Answers (.getSystemInformation flags uid) s ([0, 0] ++ uidSent) ∧
       (∀ params, Answers (.extendedGetSystemInformation flags uid params) s
         (if bit params 2 then [0, 4] ++ uidSent ++ [0xFF, 0x07, 3] else [0, 0] ++ uidSent)) ∧
       (∀ blk, Answers (.readSingleBlock flags uid blk) s (0 :: blocksSent s flags blk.toNat 1)) ∧
       (∀ blk count, Answers (.readMultipleBlocks flags uid blk count) s (0 :: blocksSent s flags blk.toNat (count.toNat + 1))) ∧
       (∀ blk : BitVec 16, Answers (.extendedReadSingleBlock flags uid blk) s
         (if blk.toNat < 2048 then 0 :: blocksSent s flags blk.toNat 1 else [1, 0x10])) ∧
       (∀ blk count : BitVec 16, Answers (.extendedReadMultipleBlocks flags uid blk count) s
         (if blk.toNat + count.toNat < 2048 then 0 :: blocksSent s flags blk.toNat (count.toNat + 1) else [1, 0x10])) ∧
       (∀ blk data, Answers (.writeSingleBlock flags uid blk data) s [1, 0x12]) ∧
       (∀ blk : BitVec 16, ∀ data : BitVec 32,
         (blk.toNat < 0x700 ∨ 0x800 ≤ blk.toNat → Answers (.extendedWriteSingleBlock flags uid blk data) s [1, 0x12]) ∧
         (0x700 ≤ blk.toNat → blk.toNat < 0x800 → s.tag.holder = none → ∃ u, exec (.extendedWriteSingleBlock flags uid blk data) s = .next u ∧
           CellsTake s.tag.bank0 u.tag.bank0 (4 * blk.toNat) (toLE data.toNat 4) ∧
           CellsTake s.tag.bank1 u.tag.bank1 (4 * blk.toNat) (toLE data.toNat 4) ∧ u.tag.rsp = [0] ∧ u.tag.holder = none ∧
           u.tag.rfWrites = (if s.pwr.aux then s.tag.rfWrites + 1 else s.tag.rfWrites) ∧
           (secondSince s s.tag.writeAt → Recorded s u 0x1E01 0 ((s.tag.sinceWrite + 1) % 2 ^ 32)) ∧ Reports { s with tag := u.tag } u) ∧
         (0x700 ≤ blk.toNat → blk.toNat < 0x800 → s.tag.holder ≠ none → ∃ u, exec (.extendedWriteSingleBlock flags uid blk data) s = .next u ∧
           u.tag.bank0 = s.tag.bank0 ∧ u.tag.bank1 = s.tag.bank1 ∧ u.tag.rsp = [1, 0xA1] ∧
           u.tag.rfRefused = (if s.pwr.aux then s.tag.rfRefused + 1 else s.tag.rfRefused) ∧
           (secondSince s s.tag.refuseAt → Recorded s u 0x1E02 0 ((s.tag.sinceRefuse + 1) % 2 ^ 32)) ∧ Reports { s with tag := u.tag } u)) ∧
       (∀ code, Answers (.tagUnsupportedCommand flags uid code) s [1, 1])) ∧
     (s.tag.rfField = true →
       (∀ (maskLen : BitVec 8) (mask : BitVec 64), bit flags 2 = true → s.tag.mode ≠ .quiet →
         (∀ i, i < maskLen.toNat → mask.getLsbD i = Config.tagUid.getLsbD i) → Answers (.inventory flags maskLen mask) s ([0, 0] ++ uidSent)) ∧
       (bit flags 5 = true → exec (.stayQuiet flags Config.tagUid) s = .next { s with tag := { s.tag with mode := .quiet } }) ∧
       (bit flags 5 = true → exec (.tagSelect flags Config.tagUid) s = .next { s with tag := { s.tag with mode := .selected, rsp := [0] } }) ∧
       (bit flags 5 = true → uid ≠ Config.tagUid → s.tag.mode = .selected →
         exec (.tagSelect flags uid) s = .next { s with tag := { s.tag with mode := .ready } })) ∧
     (¬ Heard s flags uid → ∀ i ∈ [Instr.resetToReady flags uid, .getSystemInformation flags uid, .readSingleBlock flags uid 0,
       .writeSingleBlock flags uid 0 0, .extendedWriteSingleBlock flags uid 0x700 0, .tagUnsupportedCommand flags uid 0],
       exec i s = .next s) ∧
     (∀ present, exec (.rfField present) s =
       .next { s with tag := { s.tag with rfField := present, mode := if present then s.tag.mode else .ready } })) ∧
  (∀ s : State,
     (∀ ses : Ses, Writable s ses 0x3300 3 →
       (s.tag.holder = none → exec (.tagLockTake ses) s =
         .next { s with tag := { s.tag with holder := some (.session ses), lastWrite := s.island } }) ∧
       (s.tag.holder = some .publishing ∨ s.tag.holder = some .controller → (∀ m, s.tag.waiting = some m → m = ses) →
         exec (.tagLockTake ses) s = .next { s with tag := { s.tag with waiting := some ses } }) ∧
       (∀ m, s.tag.holder = some (.session m) → m ≠ ses → ∃ u, exec (.tagLockTake ses) s = .next u ∧ u.tag = s.tag ∧ Logs s u 0x4001 0) ∧
       (s.tag.holder = some (.session ses) → exec (.tagLockRelease ses) s =
         .next { s with tag := { s.tag with holder := some .publishing } })) ∧
     (∀ (ses : Ses) (data : BitVec 512), Writable s ses 0x3300 2 → s.tag.holder = some (.session ses) →
       (s.role ses = .operator ∧ 0xC00 ≤ s.select ses 0x3300 1 0 ∨ s.role ses = .maker ∧ s.makerOpen = true) →
       ∃ u, exec (.tagDataWrite ses data) s = .next u ∧
         CellsTake s.tag.working u.tag.working (s.select ses 0x3300 1 0) (toLE data.toNat 64) ∧
         u = { s with tag := { s.tag with working := u.tag.working, lastWrite := s.island } }) ∧
     (∀ m, s.tag.holder = some (.session m) → s.pwr.aux = true →
       (s.tag.lastWrite + 1000000000 ≤ s.island → exec .tagLockTimeout s = .next { s with tag := { s.tag with holder := some .publishing } }) ∧
       (s.island < s.tag.lastWrite + 1000000000 → exec .tagLockTimeout s = .next s)) ∧
     (s.tag.holder = some .publishing ∨ s.tag.holder = some .controller → s.pwr.aux = true → ∃ u, exec .tagPublishDone s = .next u ∧
       u.tag.pointer = !s.tag.pointer ∧ published u = u.tag.working ∧
       (if s.tag.pointer then u.tag.bank1 = s.tag.bank1 else u.tag.bank0 = s.tag.bank0) ∧
       (∀ a, a < 0x3F8 ∨ 0x400 ≤ a → tagByte u.tag.working a = tagByte s.tag.working a) ∧
       (let gen (m : List Host.Cell) := leNat ((List.range 4).map fun j => tagByte m (0x3F8 + j))
        let check := leNat ((List.range 4).map fun j => tagByte u.tag.working (0x3FC + j))
        let bytes (a n : Nat) : Bytes := (List.range n).map fun j => tagByte u.tag.working (a + j)
        gen u.tag.working = (gen s.tag.working + 1) % 2 ^ 32 ∧ check = (crc32c (bytes 0 0x3FC ++ bytes 0x400 0x1800)).toNat) ∧
       u.tag.holder = s.tag.waiting.map TagHolder.session ∧ u.tag.waiting = none ∧ u = { s with tag := u.tag }) ∧
     (s.pwr.aux = true → s.tag.holder = none → secondSince s s.tag.statusAt → ∃ u, exec .tagStatusUpdate s = .next u ∧
       u.tag.holder = some .controller ∧ u.tag.statusAt = some s.island ∧
       (let field (a n : Nat) := leNat ((List.range n).map fun j => tagByte u.tag.working (a + j))
        field 0 4 = 0x31544159 ∧ (tagByte u.tag.working 0x32).toNat = s.lifeCycle ∧ field 0x400 4 = s.deviceView ∧
        field 0x404 4 = (s.integ.nextSeq - 1).toNat ∧ field 0x408 8 = s.now.toNat) ∧
       (∀ a, (0x3F8 ≤ a ∧ a < 0x400) ∨ 0xC00 ≤ a → tagByte u.tag.working a = tagByte s.tag.working a) ∧
       u.tag.bank0 = s.tag.bank0 ∧ u.tag.bank1 = s.tag.bank1 ∧ u = { s with tag := u.tag }))

/-- R434, R439, R440, R444, R445, R448: the port's link state follows the segment and falls with a report; the oldest notification is sent;
three unanswered probes make the device wedged; a posted frame waits in the mailbox; a challenge is bound to its reader; a session ends
60 s after its last accepted request. -/
def Obligations.ManagementPortRuns : Prop :=
  ∀ s : State, s.pwr.aux = true →
    (exec .plcaBeacon s = .next { s with mgmt := { s.mgmt with
      link := linkMode s.mgmt, beaconAt := s.island } }) ∧
    (s.mgmt.link = 2 → s.mgmt.beaconAt + 100000000 ≤ s.island → ∃ u, exec .beaconTimeout s = .next u ∧ Logs s u 0x1E03 0 ∧
      Reports { s with mgmt := { s.mgmt with link := 0 } } u) ∧
    (s.mgmt.link ≠ 2 ∨ s.island < s.mgmt.beaconAt + 100000000 → exec .beaconTimeout s = .next s) ∧
    (s.mgmt.link ≠ 0 → ∃ u, exec .jabber s = .next u ∧ Logs s u 0x1E03 0 ∧ Reports { s with mgmt := { s.mgmt with link := 0 } } u) ∧
    (∀ r rest, s.mgmt.notifyQ = r :: rest → s.mgmt.link ≠ 0 →
      (s.mgmt.notifyDst.toNat % 2 ^ 48 = 0 → exec .notify s = .next { s with mgmt := { s.mgmt with notifyQ := rest } }) ∧
      (s.mgmt.notifyDst.toNat % 2 ^ 48 ≠ 0 →
        let body : Bytes := [1, 5, 0, 0] ++ toLE r.seqno.toNat 4 ++ [0x10, 0x30, 0, 0, 0, 0, 16, 0] ++ toLE r.code.toNat 2 ++
          [r.part, if s.mgmt.notifyLost then 1 else 0] ++ toLE r.seqno.toNat 4 ++ toLE r.time.toNat 8
        let mac : Bytes := match s.mgmt.operatorCred with
          | some k => (cmac (toBE k.toNat 32) body).take 8
          | none => List.replicate 8 0
        exec .notify s = .next { s with mgmt := { s.mgmt with notifyQ := rest, notifyLost := false, portTx := body ++ mac } })) ∧
    (s.fatal = false → exec (.wedgeProbe true) s = .next { s with mgmt := { s.mgmt with misses := 0, wedged := false } }) ∧
    (∃ n, n = min (s.mgmt.misses + 1) 3 ∧ exec (.wedgeProbe false) s =
      .next { s with mgmt := { s.mgmt with misses := n, wedged := s.mgmt.wedged || n = 3 } }) ∧
    (∀ (frame : Bytes) (len : BitVec 11), s.pwr.pcieUp = true → s.mgmt.mbxBusy = false → len.toNat ≤ frame.length → len.toNat ≤ 1536 →
      exec (.mbxDoor frame len) s = .next { s with mgmt := { s.mgmt with
        mbxReq := frame.take len.toNat, mbxBusy := true, mbxReady := false } }) ∧
    (∀ frame len, s.pwr.pcieUp = false ∨ s.mgmt.mbxBusy = true → exec (.mbxDoor frame len) s = .next s) ∧
    (∀ src, s.pathOpen src = true → ∃ u, exec (.sessionChallengeRead src) s = .next u ∧
      u.challengeOf src = some (BitVec.ofNat 128 (beNat (cmac (toBE Config.challengeKey.toNat 32) (toLE s.mgmt.challengeCtr.toNat 8)))) ∧
      (∀ src', srcKey src' ≠ srcKey src → u.challengeOf src' = s.challengeOf src') ∧
      u = { s with mgmt := { s.mgmt with challengeCtr := s.mgmt.challengeCtr + 1, challenges := u.mgmt.challenges } }) ∧
    (∀ (ses : Ses) (x : Session), mapGet none s.mgmt.sessions ses.toNat = some x →
      (x.lastAt + 60000000000 ≤ s.island → ∃ u, exec (.sessionTimeout ses) s = .next u ∧ Closed s u ses.toNat) ∧
      (s.island < x.lastAt + 60000000000 → exec (.sessionTimeout ses) s = .next s))

/-- R429, R437 to R440, R443: a GET is answered with what its reader may read; a SET writes as OBJECT_WRITE does and answers its status; an
OPEN whose proof holds opens the lowest free session under its key, one whose proof fails is answered DENIED, and either consumes the
challenge; a CLOSE ends its session; a frame that breaks R437 is counted and discarded, and an exact copy is answered as before. While the
controller is at work on a frame (log 128), another waits in the queue of 32 and is discarded where the queue is full.
R428, R434, R442, R443, R468: a select is kept for its session, but for the reserved bits of a path; the operator's settings take the values their objects allow; a partition's
owner writes its seed; what no role may write, a value of another length, and an object the dictionary does not hold are refused. -/
def Obligations.RequestsAreAnswered : Prop :=
  (∀ (s : State) (src : Source) (f : Bytes) (q : Frame),
     (Asks s src f q 1 → ¬ (q.idx = 0x1010 ∧ q.sub = 1) → ¬ (q.idx = 0x3140 ∧ q.sub = 1) →
       let a := readAnswer (counted s src) q
       (q.ses = 0 → ∃ u, exec (.get src f) s = .next u ∧ Sent (counted s src) u src (q.answer 0 a.1 a.2 none)) ∧
       (∀ x, InSession s src q x → let rsp := q.answer q.ses a.1 a.2 (some x.key)
         ∃ u, exec (.get src f) s = .next u ∧ Sent (noted (counted s src) q x rsp) u src rsp)) ∧
     (Asks s src f q 2 → ∀ (v : State) (status : Nat),
       (counted s src).writeObject (BitVec.ofNat 16 q.ses) q.idx q.sub q.data = (v, status) → v.pathOpen src = true →
       (q.ses = 0 → ∃ u, exec (.set src f) s = .next u ∧ Sent v u src (q.answer 0 status [] none)) ∧
       (∀ x, InSession s src q x → mapGet none v.mgmt.sessions q.ses = some x → let rsp := q.answer q.ses status [] (some x.key)
         ∃ u, exec (.set src f) s = .next u ∧ Sent (noted v q x rsp) u src rsp)) ∧
     (Asks s src f q 3 →
       let used : State := { counted s src with mgmt := { (counted s src).mgmt with
         challenges := s.mgmt.challenges.filter (fun e => e.1 ≠ srcKey src) } }
       (∀ r k c n, OpenFits s src q r k c n →
         let y : Session := { role := r, key := keyOpened k c q.data, mirror := decide (src = .mirror), lastAt := s.island }
         ∃ u, exec (.aoaOpen src f) s = .next u ∧
           Sent { used with mgmt := { used.mgmt with sessions := mapSet none s.mgmt.sessions n (some y) } } u src
             (q.answer n 0 [] (some y.key))) ∧
       ((∀ r k c n, ¬ OpenFits s src q r k c n) → ∃ u, exec (.aoaOpen src f) s = .next u ∧ Sent used u src (q.answer 0 0x4001 [] none))) ∧
     (Asks s src f q 4 → ∀ x, InSession s src q x → ∃ u v, exec (.aoaClose src f) s = .next u ∧ Closed (counted s src) v q.ses ∧
       Sent v u src (q.answer q.ses 0 [] (some x.key))) ∧
     (∀ e ∈ [(1, Instr.get src f), (2, .set src f), (3, .aoaOpen src f), (4, .aoaClose src f)], s.pathOpen src = true →
       (src = .mirror → s.mgmt.mbxBusy = true ∧ s.mgmt.mbxReq = f) → parseFrame f = some q → q.type = e.1 → s.mgmt.handling = true →
       (s.mgmt.frameQ.length < 32 → exec e.2 s = .next { counted s src with mgmt := { (counted s src).mgmt with
         frameQ := s.mgmt.frameQ ++ [(src, f)] } }) ∧
       (32 ≤ s.mgmt.frameQ.length → exec e.2 s = .next { counted s src with mgmt := { (counted s src).mgmt with
         framesDisc := s.mgmt.framesDisc + 1 } })) ∧
     (∀ i ∈ [Instr.get src f, .set src f, .aoaOpen src f, .aoaClose src f], s.pathOpen src = true → s.mgmt.handling = false →
       (src = .mirror → s.mgmt.mbxBusy = true ∧ s.mgmt.mbxReq = f) → parseFrame f = none →
       exec i s = .next { counted s src with mgmt := { (counted s src).mgmt with framesDisc := s.mgmt.framesDisc + 1 } }) ∧
     (∀ e ∈ [(1, Instr.get src f), (2, .set src f), (4, .aoaClose src f)], Asks s src f q e.1 → q.ses ≠ 0 →
       ∀ x n, mapGet none s.mgmt.sessions q.ses = some x → (x.mirror = true ↔ src = .mirror) → x.lastSeq = some n → q.seq ≤ n.toNat →
       frameMac x.key q.body = q.mac →
       (q.body = x.lastReq → ∃ u, exec e.2 s = .next u ∧ Sent (counted s src) u src x.lastRsp) ∧
       (q.body ≠ x.lastReq →
         exec e.2 s = .next { counted s src with mgmt := { (counted s src).mgmt with framesDisc := s.mgmt.framesDisc + 1 } }))) ∧
  (∀ (s : State) (ses : Ses),
     (∀ (idx : BitVec 16) (sub : BitVec 8) (value : Bytes), Writable s ses idx.toNat sub.toNat →
       objectLength idx.toNat sub.toNat = some value.length → selectTest idx.toNat sub.toNat (leNat value) = some true → leNat value < 2 ^ 32 →
       ∃ u, exec (.objectWrite ses idx sub value) s = .next u ∧
         u.select ses idx.toNat sub.toNat (selectDefault idx.toNat) =
           (if idx = 0x2110 ∨ idx = 0x2120 then leNat value / 16 * 16 else leNat value) ∧
         (∀ k, k ≠ selectKey ses idx.toNat sub.toNat → mapGet 0 u.mgmt.selects k = mapGet 0 s.mgmt.selects k) ∧
         u = { s with mgmt := { s.mgmt with selects := u.mgmt.selects } }) ∧
     (s.asOperator (s.role ses) = true →
       (∀ v : BitVec 8, Writable s ses 0x1020 4 → v ≠ 0 →
         exec (.objectWrite ses 0x1020 4 [v]) s = .next { s with mgmt := { s.mgmt with nodeCount := v } }) ∧
       (∀ v : BitVec 8, Writable s ses 0x1020 2 → v.toNat < 2 →
         exec (.objectWrite ses 0x1020 2 [v]) s = .next { s with mgmt := relinked { s.mgmt with plca := decide (v = 1) } s.island }) ∧
       (∀ v : BitVec 8, Writable s ses 0x1020 3 →
         exec (.objectWrite ses 0x1020 3 [v]) s = .next { s with mgmt := relinked { s.mgmt with nodeId := v } s.island }) ∧
       (∀ v : BitVec 16, Writable s ses 0x1100 6 → 1200 ≤ v.toNat → v.toNat ≤ 2400 →
         exec (.objectWrite ses 0x1100 6 (toLE v.toNat 2)) s = .next { s with pwr := { s.pwr with powerCap := v } }) ∧
       (∀ v : BitVec 16, Writable s ses 0x2250 4 → 6 ≤ v.toNat → v.toNat ≤ 168 →
         exec (.objectWrite ses 0x2250 4 (toLE v.toNat 2)) s = .next { s with mem := { s.mem with scrubPeriod := v } }) ∧
       (∀ v : BitVec 8, Writable s ses 0x3000 1 → 6 ≤ v.toNat → v.toNat ≤ 12 →
         exec (.objectWrite ses 0x3000 1 [v]) s = .next { s with integ := { s.integ with sampleExp := v } })) ∧
     (∀ v : DWord, let p := s.select ses 0x2700 1 0
       Writable s ses 0x2700 2 → s.asOwner (s.role ses) p = true → s.trainBusy p = false →
       exec (.objectWrite ses 0x2700 2 (toLE v.toNat 8)) s = .next (s.modPart p fun x => { x with seed := v })) ∧
     (∀ (idx : BitVec 16) (sub : BitVec 8) (value : Bytes), s.pwr.aux = true →
       (s.unserved idx.toNat = false ∨ (s.lifeCycle = 6 ∧ s.mayWrite (s.role ses) idx.toNat sub.toNat = false)) →
       objectLength idx.toNat sub.toNat = none ∨ objectLength idx.toNat sub.toNat ≠ some value.length ∨
         s.mayWrite (s.role ses) idx.toNat sub.toNat = false →
       let consumed := idx = 0x1010 ∧ sub = 2 ∧ s.mayWrite (s.role ses) idx.toNat sub.toNat = false
       ∃ u, exec (.objectWrite ses idx sub value) s = .next u ∧ Logs s u 0x4001 0 ∧ Reports { s with
         free := u.free
         sec := if consumed then { s.sec with challenge := none, lcResult := 0x4001 } else s.sec } u))

/-- R441: a credential whose wrapping holds is installed, in the place of the operator's or of a partition's owner, and one is erased; the
sessions under the credential that it replaces or erases close. A request that R441 refuses changes nothing but Result.
R420, R429: what the life-cycle state opens answers on the debug connector and reads or writes its tile; every other instruction is
decoded as BYPASS, a partition's tile is refused, and a Retired device answers nothing. -/
def Obligations.CredentialsAndDebugAreGated : Prop :=
  (∀ (s : State) (ses : Ses) (rec' : BitVec 384),
     let b := toLE rec'.toNat 48
     let role := fieldAt b 1 1
     let p := fieldAt b 2 1
     let r := s.role ses
     let held (u : State) (c : Option (BitVec 256)) : Prop :=
       if role = 1 then u.mgmt.operatorCred = c ∧ u.mgmt.ownerCreds = s.mgmt.ownerCreds ∧ SessionsClosed s u .operator
       else mapGet none u.mgmt.ownerCreds p = c ∧ u.mgmt.operatorCred = s.mgmt.operatorCred ∧
         (∀ q, q ≠ p → mapGet none u.mgmt.ownerCreds q = mapGet none s.mgmt.ownerCreds q) ∧ SessionsClosed s u (.owner (BitVec.ofNat 8 p))
     let rest (u : State) : Prop := u.mgmt.credResult = 0 ∧
       u = { s with mgmt := { s.mgmt with operatorCred := u.mgmt.operatorCred, ownerCreds := u.mgmt.ownerCreds, sessions := u.mgmt.sessions
                                          selects := u.mgmt.selects, credResult := 0 }
                    tag := { s.tag with holder := u.tag.holder, waiting := u.tag.waiting } }
     Writable s ses 0x3140 3 → slice b 3 5 = List.replicate 5 0 →
     (∀ k c, ((role = 1 ∧ 2 ≤ s.lifeCycle ∧ s.lifeCycle ≤ 4 ∧ (s.mgmt.operatorCred = none ∨ s.asOperator r = true) ∧
         k = toBE Config.dtk.toNat 32) ∨
         (role = 2 ∧ s.formed p = true ∧ (s.asOperator r = true ∨ s.asOwner r p = true) ∧ (s.key (rootKeyId p)).map Key.bytes = some k)) →
       (kwUnwrap k (slice b 8 40) = some c → ∃ u, exec (.credentialInstall ses rec') s = .next u ∧
         held u (some (BitVec.ofNat 256 (beNat c))) ∧ rest u) ∧
       (kwUnwrap k (slice b 8 40) = none → ∃ u, exec (.credentialInstall ses rec') s = .next u ∧ Logs s u 0x4001 0 ∧
         Reports { s with mgmt := { s.mgmt with credResult := 0x4001 } } u)) ∧
     (s.asOperator r = true → (role = 1 ∨ (role = 2 ∧ p < 40)) → slice b 8 40 = List.replicate 40 0 →
       ∃ u, exec (.credentialErase ses rec') s = .next u ∧ held u none ∧ rest u)) ∧
  (∀ s : State, s.pwr.aux = true →
     (s.lifeCycle ≠ 6 → Shifts (.debugAccess .idcode) s (toLE Config.idcode.toNat 4) ∧ Shifts (.debugAccess .bypass) s [0]) ∧
     (∀ t, DebugOpen s t →
       (∀ r, Shifts (.debugAccess (.readReg t r)) s (toLE ((s.tile (s.lead t)).reg r).toNat 4)) ∧
       (∀ r w, ∃ u, exec (.debugAccess (.writeReg t r w)) s = .next u ∧ (u.tile (s.lead t)).reg r = (if r = 0 then 0 else w) ∧
         (∀ j, j ≠ r → (u.tile (s.lead t)).reg j = (s.tile (s.lead t)).reg j) ∧ (∀ q, q ≠ s.lead t → u.tile q = s.tile q) ∧
         u.tile (s.lead t) = { s.tile (s.lead t) with regs := (u.tile (s.lead t)).regs } ∧ u = { s with tiles := u.tiles }) ∧
       (∀ (a : BitVec 21) (len : Nat), a.toNat + len ≤ 0x200000 →
         Shifts (.debugAccess (.readStore t a len)) s ((List.range len).map fun i => mapGet 0 (s.tile t).ls (a.toNat + i))) ∧
       (∀ (a : BitVec 21) (data : Bytes), a.toNat + data.length ≤ 0x200000 → ∃ u, exec (.debugAccess (.writeStore t a data)) s = .next u ∧
         CellsTake (s.tile t).ls (u.tile t).ls a.toNat data ∧ (∀ q, q ≠ t → u.tile q = s.tile q) ∧
         u.tile t = { s.tile t with ls := (u.tile t).ls, lsErr := (u.tile t).lsErr } ∧ u = { s with tiles := u.tiles }) ∧
       (∀ e ∈ sequencerParts (s.tile (s.lead t)), Shifts (.debugAccess (.readSeq t e.1)) s (toLE e.2 4)) ∧
       (∀ p w, p ∈ (sequencerParts (s.tile (s.lead t))).map Prod.fst → ∃ u, exec (.debugAccess (.writeSeq t p w)) s = .next u ∧
         (∀ e ∈ sequencerParts (u.tile (s.lead t)), e.1 = p → e.2 = w.toNat) ∧
         (∀ e ∈ sequencerParts (s.tile (s.lead t)), e.1 ≠ p → e ∈ sequencerParts (u.tile (s.lead t))) ∧
         (∀ q, q ≠ s.lead t → u.tile q = s.tile q) ∧ u = { s with tiles := u.tiles }) ∧
       Shifts (.debugAccess (.readWindow t)) s (s.windowBytes (tileWin t))) ∧
     (s.lifeCycle = 1 ∨ s.lifeCycle = 5 →
       (∀ pa len, (slabOf pa.toNat).isSome = true → (slabOf (pa.toNat + (len - 1))).isSome = true →
         Shifts (.debugAccess (.readMemory pa len)) s ((List.range len).map fun i => mapGet 0 s.mem.tier (pa.toNat + i))) ∧
       (∀ pa (data : Bytes), (slabOf pa.toNat).isSome = true → (slabOf (pa.toNat + (data.length - 1))).isSome = true →
         ∃ u, exec (.debugAccess (.writeMemory pa data)) s = .next u ∧ CellsTake s.mem.tier u.mem.tier pa.toNat data ∧
           u = { s with mem := { s.mem with tier := u.mem.tier } }) ∧
       (∀ idx sub, Shifts (.debugAccess (.readObject idx sub)) s (s.readObject 0 .maker idx.toNat sub.toNat))) ∧
     (s.lifeCycle = 2 ∨ s.lifeCycle = 3 ∨ s.lifeCycle = 4 → ∀ pa len, (slabOf pa.toNat).isSome = true →
       (slabOf (pa.toNat + (len - 1))).isSome = true → Shifts (.debugAccess (.readMemory pa len)) s [0]) ∧
     (∀ t p, validPath t = true → s.partOf t = some p → (s.lifeCycle = 2 ∨ s.lifeCycle = 4) → ∀ r,
       Shifts (.debugAccess (.readReg t r)) s [0x01, 0x40]) ∧
     (∀ t, validPath t = true → s.lifeCycle = 3 → ∀ r, Shifts (.debugAccess (.readReg t r)) s [0]) ∧
     (s.lifeCycle = 2 ∨ s.lifeCycle = 3 ∨ s.lifeCycle = 4 → Shifts (.debugAccess .internalScan) s [0]) ∧
     (∀ op, s.lifeCycle = 6 → exec (.debugAccess op) s = .next s))

/-- R236, R237, R239, R246: the next data frame that passes is delivered to its message's row or counted against its check; an old one
changes nothing; a gap and a bad frame make a NAK event; a frame of one flit that fails its check is counted. A D port without a fresh
masking seed lets the frame wait (R401); what a frame does to the FEC counts is free (log 121).
R234, R238 to R240, R245: the next frame of a replay, or the next new message that has credit, leaves; a CREDIT carries ACK, NAKN and
what was returned; one that arrives frees the frames it acknowledges before their response deadline (R344), takes its credits, and starts
the replay that its NAKN asks for. Every frame keeps to the time slots (R282). -/
def Obligations.FramesAndCreditsFlow : Prop :=
  (∀ (s : State) (p : PortCode) (f : Bytes), let c := p.toNat
     let x := s.port c
     let y := s.fecPort c true
     let z := s.fecPort c false
     s.fatal = false → x.state = .up →
     (s.maskFresh c = false → ∃ u, exec (.dataFrame p f) s = .next u ∧ PortIs s u c { x with stalled := x.stalled ++ [(f, 0)] }) ∧
     (s.maskFresh c = true →
       (f.length ≤ 64 → ∃ u, exec (.dataFrame p f) s = .next u ∧ Came s u c false (z.raised 9 1)) ∧
       (64 < f.length → dataOk c f = false → ∃ u, exec (.dataFrame p f) s = .next u ∧
         Came s u c false ((if x.await then z else z.naks 0).raised 6 1)) ∧
       (64 < f.length → dataOk c f = true → x.await = true → frameRpn f ≠ x.nakn.toNat →
         ∃ u, exec (.dataFrame p f) s = .next u ∧ Came s u c true y) ∧
       (64 < f.length → dataOk c f = true → (x.await = false ∨ frameRpn f = x.nakn.toNat) →
         (ahead f x ≤ 0 → ∃ u, exec (.dataFrame p f) s = .next u ∧ Came s u c true y) ∧
         (1 < ahead f x → ∃ u, exec (.dataFrame p f) s = .next u ∧ Came s u c true (if x.await then y else y.naks 1)) ∧
         (ahead f x = 1 →
           (∀ payload, s.openFrame c f = some payload → (siteMode c = false → payload = slice f 32 (64 * frameLen f)) ∧
             let m := parseMsg (slice f 16 16) payload
             (m.dest.toNat = s.sh.coords.toNat % 2 ^ 17 → m.mt ≠ 6 → m.mt ≠ 7 → m.mt.toNat < 13 →
               ∃ u, exec (.dataFrame p f) s = .next u ∧
                 Came s u c true { (y.raised 3 1).raised 0xA (64 * frameLen f) with
                   ack := frameFseq f, await := false, tagFails := 0, rxQ := x.rxQ ++ [(m, frameVc f, frameSh f, frameLen f + 1)]
                   fcnt := if siteMode c then mapSet 0 x.fcnt (2 + fieldAt f 0 4 / 2 ^ 27 % 2) (BitVec.ofNat 64 (fieldAt f 8 8))
                     else x.fcnt })) ∧
           (s.openFrame c f = none → x.tagFails < 3 → ∃ u, exec (.dataFrame p f) s = .next u ∧
             Came s u c true { (y.naks 2).raised 8 1 with tagFails := x.tagFails + 1 }) ∧
           (s.openFrame c f = none → 3 ≤ x.tagFails → ∃ u, exec (.dataFrame p f) s = .next u ∧ Left u c .down 5))))) ∧
  ((∀ (s : State) (p : PortCode), let c := p.toNat
     let x := s.port c
     s.fatal = false → x.state = .up →
     NoneSending s →
     (∀ e rest, x.again = e :: rest → s.slotOpen c e.vc = true → ∃ u, exec (.dataFrameSend p) s = .next u ∧
       PortIs s u c { x.raised 2 1 with again := rest, lastTx := replayed e.bytes x.rpn, txs := e.fseq, slotAt := some (timeSlot s.island)
                                        buffer := x.buffer.map fun b => if b.fseq = e.fseq then { b with sentAt := s.island } else b }) ∧
     (∀ e rest, x.again = e :: rest → s.slotOpen c e.vc = false → exec (.dataFrameSend p) s = .next s) ∧
     (x.again = [] → x.closing = none → s.canEncrypt c = true → ∀ turn, s.nextMsg c = some turn → turn.msg = none →
       ∃ u, exec (.dataFrameSend p) s = .next u ∧ PortIs s u c { x with served := turn.served, turns := turn.turns }) ∧
     (x.again = [] → x.closing = none → s.canEncrypt c = true → ∀ turn m, s.nextMsg c = some turn → turn.msg = some m →
       let flits := frameFlits m.msg.payload.length
       let ks := if x.txKs then 1 else 0
       let fcnt := if siteMode c then (mapGet 0 x.fcnt ks).toNat + 1 else 0
       ∀ sh, s.debitFor c m.vc flits = some sh → ∃ u, exec (.dataFrameSend p) s = .next u ∧
         let f := s.dataFrame c m sh fcnt
         (u.port c).fseq = x.fseq + 1 ∧ (u.port c).txs = x.fseq ∧ (u.port c).txQ = x.txQ.erase m ∧ (u.port c).lastTx = f ∧
         frameFseq f = x.fseq ∧ (m.msg.payload.length ≤ 16384 → frameVc f = m.vc) ∧
         (∃ e, (u.port c).buffer = x.buffer ++ [e] ∧ e.fseq = x.fseq ∧ e.bytes = f ∧ e.sentAt = s.island ∧ e.flits = flits) ∧
         (∀ k, mapGet 0 (u.port c).debit k = if k = (if sh then 8 else m.vc.toNat) then mapGet 0 x.debit k + BitVec.ofNat 24 flits
           else mapGet 0 x.debit k) ∧
         (siteMode c = true → mapGet 0 (u.port c).fcnt ks = BitVec.ofNat 64 fcnt) ∧ (∀ d, d ≠ c → u.port d = s.port d) ∧
         Reports { s with ports := u.ports } u) ∧
     (x.again = [] → s.nextMsg c = none → exec (.dataFrameSend p) s = .next s) ∧
     (s.controlOpen c = true → ∃ u, exec (.creditSend p) s = .next u ∧
       PortIs s u c { s.sentOn c ([0x9 * 2 ^ 28 + x.nakn.toNat * 2 ^ 24 + x.ack.toNat] ++
         (List.range 9).map (fun v => (mapGet 0 x.returned v).toNat) ++ [x.nrsn.toNat * 2 ^ 24 + x.txs.toNat, x.rpn.toNat])
         with lastCredit := some s.island })) ∧
   (∀ (s : State) (p : PortCode) (f : Bytes), let c := p.toNat
     let x := s.port c
     CtlArrives s c 9 f → x.state = .up →
     let ack := frameFseq f
     let nakn : BitVec 4 := BitVec.ofNat 4 (fieldAt f 3 1)
     let left := x.buffer.filter fun e => decide (0 < (e.fseq - ack).toInt ∨ e.sentAt + deadlineOf c < s.island)
     ∃ u, exec (.credit p f) s = .next u ∧
       (nakn = x.lastNakn →
         let y := u.port c
         y.buffer = left ∧ y.again = x.again.filter (fun e => decide (0 < (e.fseq - ack).toInt)) ∧
         y.replays = (if left.length < x.buffer.length then 0 else x.replays) ∧
         (∀ v, v < 9 → (mapGet 0 y.credit v).toNat = fieldAt f (4 + 4 * v) 3) ∧
         (let behind : Prop := 0 < (BitVec.ofNat 24 (fieldAt f 40 3) - x.ack).toInt
          (x.await = false → ¬ behind → y.nakn = x.nakn ∧ y.await = false) ∧
          (x.await = false → behind → y.nakn = x.nakn + 1 ∧ y.nrsn = 1 ∧ y.await = true) ∧
          (x.await = true → fieldAt f 44 1 % 16 = x.nakn.toNat → ¬ behind → y.nakn = x.nakn ∧ y.await = false) ∧
          (x.await = true → fieldAt f 44 1 % 16 ≠ x.nakn.toNat → y.nakn = x.nakn ∧ y.await = true)) ∧
         Came s u c true { (s.fecPort c true).heardAt c s.island f with
           buffer := y.buffer, again := y.again, replays := y.replays, credit := y.credit, nakn := y.nakn, nrsn := y.nrsn, await := y.await }) ∧
       (nakn ≠ x.lastNakn → (if left.length < x.buffer.length then 0 else x.replays) < 15 →
         (u.port c).again = left ∧ (u.port c).rpn = nakn ∧ (u.port c).lastNakn = nakn ∧
         (u.port c).replays = (if left.length < x.buffer.length then 0 else x.replays) + 1 ∧
         mapGet 0 (u.port c).ctr 7 = satAdd64 (mapGet 0 x.ctr 7) 1 ∧ (∀ d, d ≠ c → u.port d = s.port d) ∧
         Reports { s with ports := u.ports, free := s.free + 1 } u)))

/-- R235, R240, R242 to R244, R248, R250: a port trains when its engine is up, and on a D port its keys; its lanes, its HELLO and its delay
samples bring it UP; a wrong peer, a CLOSE and a time-out take it DOWN; a TS frame leaves DISC and a stamp.
R241 to R243, R250: a missed response deadline, a lost lane and a fault of the optics take an UP port out of it, and what follows is as R242
says; the operator enables a port, and disables one, which drains and closes. -/
def Obligations.PortsTrainAndFail : Prop :=
  ((∀ (s : State) (p : PortCode), let c := p.toNat
     let x := s.port c
     s.fatal = false →
     (x.enable = true → bit s.pwr.functions (12 + portEngine c) = true →
       (x.state = .off ∨ (x.state = .down ∧ ∀ t, x.triedAt = some t → t + 100000000 ≤ s.island)) →
       ((siteMode c = true → s.linkKeys c = true) → ∃ u, exec (.portTrain p) s = .next u ∧
         PortIs s u c { x with state := .training, lasers := true, trainAt := s.island, lanes := 0, seen := false, seenRx := false
                               seenTx := false, sampled := 0, closing := none, triedAt := some s.island }) ∧
       (siteMode c = true → s.linkKeys c = false → ∃ u, exec (.portTrain p) s = .next u ∧
         PortIs s u c { x with state := .down, reason := 11, triedAt := some s.island })) ∧
     (x.state = .training →
       (∀ lanes, ∃ u, exec (.laneLock p lanes) s = .next u ∧ PortIs s u c { x with lanes := x.lanes ||| lanes }) ∧
       (x.trainAt + 500000000 < s.island → ∃ u, exec (.trainingTimeout p) s = .next u ∧ Left u c .down 10 ∧
         (u.port c).triedAt = some s.island ∧ (∀ d, d ≠ c → u.port d = s.port d) ∧ u = { s with ports := u.ports }) ∧
       (s.island ≤ x.trainAt + 500000000 → exec (.trainingTimeout p) s = .next s) ∧
       (x.lanes = 0xFFFF → s.maskFresh c = true → x.sampled < 4 → ∃ u, exec (.helloSend p) s = .next u ∧
         PortIs s u c { s.sentOn c ([0x8 * 2 ^ 28 + (if x.seen then 2 ^ 27 else 0) + (if siteMode c then 16 else 0) + c, 1] ++
           (List.range 4).map fun i => fieldAt (toBE Config.serial.toNat 16) (4 * i) 4)
           with lastHello := some s.island, seenTx := x.seenTx || x.seen })) ∧
     (∀ frac : BitVec 4, x.state = .up ∨ (x.state = .training ∧ x.lanes = 0xFFFF) → s.controlOpen c = true →
       ∃ u, exec (.tsSend p frac) s = .next u ∧
         u.port c = { s.sentOn c (s.tsWords c) with
           txStamps := ((x.tseq, (s.now.toNat * 16 + frac.toNat) % 2 ^ 64) :: x.txStamps).take 16
           tseq := x.tseq + 1, lastTs := some s.island } ∧
         (∀ d, d ≠ c → u.port d = s.port d) ∧
         Reports { s with ports := u.ports, time := { s.time with uncHigh := u.time.uncHigh, suncHigh := u.time.suncHigh } } u)) ∧
   (∀ (s : State) (p : PortCode) (f : Bytes), let c := p.toNat
     let x := s.port c
     CtlArrives s c 8 f → let w0 := fieldAt f 0 4
     (w0 / 2 ^ 26 % 2 = 1 → ∃ u, exec (.hello p f) s = .next u ∧ Left u c .down (12 + w0 / 2 ^ 24 % 4)) ∧
     (w0 / 2 ^ 26 % 2 = 0 → x.state = .up → ∃ u, exec (.hello p f) s = .next u ∧ Came s u c true ((s.fecPort c true).heardAt c s.island f)) ∧
     (w0 / 2 ^ 26 % 2 = 0 → x.state = .training →
       let right : Prop := w0 % 16 = c / 4 * 4 + (c % 4 + 2) % 4 ∧ (w0 / 16 % 2 = 1 ↔ siteMode c = true) ∧ fieldAt f 4 2 = 1
       let y : Port := { (s.fecPort c true).heardAt c s.island f with
         seen := true, seenRx := x.seenRx || w0 / 2 ^ 27 % 2 = 1, miswired := false
         peerSerial := BitVec.ofNat 128 (beNat (slice f 8 16)), peerPort := BitVec.ofNat 8 (w0 % 16) }
       (right → x.sampled < 4 → ∃ u, exec (.hello p f) s = .next u ∧ Came s u c true y) ∧
       let fresh := x.delays.take x.sampled
       let near : Prop := fresh.sum ≤ (if siteMode c then 10000 else 520) * 32 * fresh.length
       (right → 4 ≤ x.sampled → s.island ≤ x.trainAt + 500000000 → ¬ near →
         ∃ u, exec (.hello p f) s = .next u ∧ Left u c .down 9 ∧ Reports { s with ports := u.ports, free := s.free + 1 } u) ∧
       (right → 4 ≤ x.sampled → s.island ≤ x.trainAt + 500000000 → near → y.seenRx = true → x.seenTx = true →
         ∃ u, exec (.hello p f) s = .next u ∧ (u.port c).state = .up ∧ (u.port c).ack = 0xFFFFFF ∧ (u.port c).fseq = 0 ∧
           (u.port c).buffer = [] ∧ (u.port c).debit = [] ∧ (u.port c).credit = [] ∧
           Recorded s u 0x1601 0 (leNat ([BitVec.ofNat 8 c, 0, 0, 0] ++ toLE 0xFFFFFF 4 ++ toLE 0xFFFFFF 4)) ∧
           Reports { s with ports := u.ports, free := s.free + 1 } u) ∧
       (¬ right → ∃ u, exec (.hello p f) s = .next u ∧ Left u c .down 8 ∧
         Reports { s with ports := u.ports, free := s.free + 1 } u))) ∧
   (∀ (s : State) (p : PortCode) (f : Bytes), let c := p.toNat
     s.fatal = false → s.maskFresh c = true → (s.port c).state = .training → (s.port c).lanes = 0xFFFF → siteMode c = true →
     ctlOk c f = true → s.ctagOk c f = false → fieldAt f 0 4 / 2 ^ 28 = 8 → fieldAt f 0 4 / 2 ^ 26 % 2 = 0 →
     ∃ u, exec (.hello p f) s = .next u ∧ Left u c .down 8) ∧
   (∀ (s : State) (p : PortCode) (f : Bytes) (frac : BitVec 4), let c := p.toNat
     let x := s.port c
     CtlArrives s c 10 f → s.time.stepped = true ∨ s.time.everLocked = true → ∃ u, exec (.ts p f frac) s = .next u ∧
       (u.port c).rxStamps = ((BitVec.ofNat 16 (fieldAt f 0 2), (s.now.toNat * 16 + frac.toNat) % 2 ^ 64) :: x.rxStamps).take 2 ∧
       (u.port c).disc = some (word (fieldAt f 24 4), BitVec.ofNat 128 (beNat (slice f 28 16)), word (fieldAt f 44 4), s.island) ∧
       (x.state = .up → (u.port c).delays = match x.exchange f with
         | some (a, b) => ((a + b).toNat :: x.delays).take 64
         | none => x.delays) ∧
       u.now = s.now ∧ u.tiles = s.tiles ∧ u.parts = s.parts ∧ u.sh = s.sh ∧ u.mem = s.mem)) ∧
  ((∀ (s : State) (p : PortCode), let c := p.toNat
     let x := s.port c
     s.fatal = false →
     (x.state = .up →
       let late : Prop := ∃ e ∈ x.buffer, e.sentAt + deadlineOf c < s.island
       (late → Fails (.responseDeadline p) s c 1) ∧
       (¬ late → x.lastCtl + deadlineOf c < s.island → Fails (.responseDeadline p) s c 2) ∧
       (¬ late → s.island ≤ x.lastCtl + deadlineOf c → exec (.responseDeadline p) s = .next s) ∧
       (∀ lane, Fails (.laneLockLoss p lane) s c 4) ∧
       (∃ u, exec (.opticsMonitorFault p) s = .next u ∧ Left u c .failed 6 ∧ u.fatal = true ∧ (u.port c).lasers = false) ∧
       (∀ t, x.closing = some t → (x.buffer = [] ∨ t + deadlineOf c < s.island) →
         ∃ u, exec (.portCloseDrained p) s = .next u ∧ Left u c .off 7 ∧ (u.port c).lasers = false ∧
           (fieldAt (u.port c).lastTx 3 1 % 8 = 4 ∧ fieldAt (u.port c).lastTx 3 1 / 16 = 8) ∧
           (∀ d, d ≠ c → u.port d = s.port d) ∧ u = { s with ports := u.ports }) ∧
       (x.closing = none → exec (.portCloseDrained p) s = .next s)) ∧
     (x.state = .training → ∀ lane : BitVec 4, ∃ u, exec (.laneLockLoss p lane) s = .next u ∧ ∃ w : BitVec 16,
       (∀ i, i < 16 → w.getLsbD i = (x.lanes.getLsbD i && i != lane.toNat)) ∧ PortIs s u c { x with lanes := w })) ∧
   (∀ (s : State) (ses : Ses), let c := s.select ses 0x2400 1 0
     let x := s.port c
     Writable s ses 0x2400 2 → s.asOperator (s.role ses) = true → c < 16 →
     (∃ u, exec (.portEnable ses) s = .next u ∧ PortIs s u c { x with enable := true }) ∧
     (x.state = .up → s.slotsUsing c = [] → (∀ m ∈ x.txQ, m.part = none) → ∃ u, exec (.portDisable ses) s = .next u ∧
       PortIs s u c { x with enable := false, closing := some s.island }) ∧
     (x.state = .off → ∃ u, exec (.portDisable ses) s = .next u ∧ PortIs s u c { x with enable := false }) ∧
     (x.state ≠ .up → x.state ≠ .off → ∃ u, exec (.portDisable ses) s = .next u ∧ Left u c .off 7 ∧ (u.port c).enable = false ∧
       (∀ d, d ≠ c → u.port d = s.port d) ∧ u = { s with ports := u.ports })))

/-- R255 to R257, R414: a REGISTER within its partition's range and quota, whose extents fit the rings and hold this module, makes the group
and shows the module's rank; a RELEASE takes it away with its early entries. Either is in progress until the next tick (log 54), and a
request in the meantime is refused with NOT_READY (R506).
R291, R292, R414: a BIND of a group along the D axis whose fields keep R291 makes a binding with no accepted identity; an UNBIND takes
an idle one away; either is in progress until the next tick (log 54, R506). -/
def Obligations.GroupsAndOutingsAreBound : Prop :=
  (∀ (s : State) (ses : Ses) (rec' : BitVec 256) (p : Nat),
     let b := toLE rec'.toNat 32
     let gid := fieldAt b 2 2
     let base := fieldAt b 8 4
     let ext := fieldAt b 0xC 4
     let axes := fieldAt b 1 1
     MayGroup s ses b p →
     ((s.part p).gidBase.toNat ≤ gid → gid < (s.part p).gidBase.toNat + (s.part p).gidCount.toNat →
       (s.sh.groups.filter fun g => g.part.toNat = p).length < (s.part p).groupQuota.toNat → (∀ g ∈ s.sh.groups, g.gid.toNat ≠ gid) →
       s.sh.groups.length < 1024 → axes ≠ 0 →
       (∀ x, x < 4 → 1 ≤ extent s.sh.rings.toNat x ∧
         (axes / 2 ^ x % 2 = 1 → 1 ≤ extent ext x ∧ extent ext x ≤ extent s.sh.rings.toNat x) ∧
         (axes / 2 ^ x % 2 = 0 → extent ext x = 1) ∧ offsetOn s base x < extent ext x) →
       (s.slotBusy p 0x2510 = true → Busy (.register ses rec') s p fun x => { x with grpResult := 0x4010 }) ∧
       (s.slotBusy p 0x2510 = false → ∃ u, exec (.register ses rec') s = .next u ∧
         u.sh.groups = s.sh.groups ++ [{ gid := BitVec.ofNat 16 gid, gtag := BitVec.ofNat 15 (fieldAt b 6 2), axes := BitVec.ofNat 4 axes
                                         ctx := BitVec.ofNat 12 (fieldAt b 4 2), base := BitVec.ofNat 17 base, extent := word ext
                                         part := BitVec.ofNat 8 p }] ∧
         PartIs s u p { s.part p with
           grpResult := 1, busy := nowBusy (s.part p) 0x2510
           rank := word (offsetOn s base 0 + extent ext 0 * (offsetOn s base 1 + extent ext 1 * (offsetOn s base 2 +
             extent ext 2 * offsetOn s base 3))) } ∧
         u = { s with parts := u.parts, sh := { s.sh with groups := u.sh.groups } })) ∧
     ((∃ g ∈ s.sh.groups, g.gid.toNat = gid ∧ g.part.toNat = p) →
       (∀ k x, (k, some x) ∈ s.sh.slots → x.gid.toNat ≠ gid) →
       (s.slotBusy p 0x2510 = true → Busy (.release ses rec') s p fun x => { x with grpResult := 0x4010 }) ∧
       (s.slotBusy p 0x2510 = false → ∃ u, exec (.release ses rec') s = .next u ∧ u.sh.groups = s.sh.groups.filter (fun g => g.gid.toNat ≠ gid) ∧
         u.sh.early = s.sh.early.filter (fun e => e.2.1.toNat ≠ gid) ∧ PartIs s u p { s.part p with grpResult := 1, busy := nowBusy (s.part p) 0x2510 } ∧
         u = { s with parts := u.parts, sh := { s.sh with groups := u.sh.groups, early := u.sh.early } }))) ∧
  (∀ (s : State) (ses : Ses) (rec' : BitVec 256) (g : Group),
     let b := toLE rec'.toNat 32
     let gid : BitVec 16 := BitVec.ofNat 16 (fieldAt b 2 2)
     let p := g.part.toNat
     MayBind s ses b g →
     ((s.bindings.filter fun x => x.part.toNat = p).length < (s.part p).bindQuota.toNat → g.axes = 8 → 2 ≤ extent g.extent.toNat 3 →
       s.binding gid = none → s.bindings.length < 64 → fieldAt b 4 4 ≠ 0 → fieldAt b 4 4 % 4096 = 0 → fieldAt b 8 8 % 4096 = 0 →
       fieldAt b 0x10 8 % 128 = 0 → fieldAt b 0x18 2 ≠ 0 →
       (s.slotBusy p 0x2610 = true → Busy (.bind ses rec') s p fun x => { x with bindResult := 0x4010 }) ∧
       (s.slotBusy p 0x2610 = false → ∃ u, exec (.bind ses rec') s = .next u ∧
         u.bindings = s.bindings ++ [{ gid := gid, part := g.part, ctx := g.ctx, clen := fieldAt b 4 4, xva := fieldAt b 8 8
                                       stva := fieldAt b 0x10 8, nspan := fieldAt b 0x18 2 }] ∧
         PartIs s u p { s.part p with bindResult := 1, busy := nowBusy (s.part p) 0x2610 } ∧
         u = { s with parts := u.parts, bindings := u.bindings })) ∧
     (s.binding gid ≠ none → s.outingBusy gid = false →
       (s.slotBusy p 0x2610 = true → Busy (.unbind ses rec') s p fun x => { x with bindResult := 0x4010 }) ∧
       (s.slotBusy p 0x2610 = false → ∃ u, exec (.unbind ses rec') s = .next u ∧ u.bindings = s.bindings.filter (fun x => x.gid ≠ gid) ∧
         PartIs s u p { s.part p with bindResult := 1, busy := nowBusy (s.part p) 0x2610 } ∧
         u = { s with parts := u.parts, bindings := u.bindings })))

/-- R325 to R328: a plan that fits is admitted; one that does not shows its shortfalls and is refused with DOES_NOT_FIT; the admitted plan
is withdrawn by its number; the plan that either leaves is in force from the next tick (log 54, R506). -/
def Obligations.PlansAreAdmitted : Prop :=
  ∀ (s : State) (ses : Ses) (rec' : BitVec 256),
    let p := s.select ses 0x2010 1 0
    let b := toLE rec'.toNat 32
    let f (off : Nat) := fieldAt b off 4
    let f1 := s.freeFrames p 1
    let f2 := s.freeFrames p 2
    let missing (g m : Nat) (fr : Nat × Nat) : Nat :=
      (g - min g fr.1) * 2 ^ 30 + (m - (fr.2 - 512 * min g fr.1)) * 2 ^ 21
    Writable s ses 0x2010 2 → s.asOwner (s.role ses) p = true → fieldAt b 1 1 = 0 → zeroBytes b 0x17 9 → fieldAt b 2 2 ≠ 0xFFFF →
    (s.slotBusy p 0x2010 = true → (s.part p).plan = 0xFFFF → Busy (.planAdmit ses rec') s p fun x => { x with admResult := 0x4010 }) ∧
    (s.slotBusy p 0x2010 = true → fieldAt b 2 2 = (s.part p).plan.toNat →
      Busy (.withdraw ses rec') s p fun x => { x with admResult := 0x4010 }) ∧
    (s.slotBusy p 0x2010 = false → (s.part p).plan = 0xFFFF → (s.groupsOf p).length + fieldAt b 0x14 2 ≤ (s.part p).groupQuota.toNat →
      fieldAt b 0x16 1 ≤ s.freeSlots p →
      (framesSuffice (f 4) (f 8) f1.1 f1.2 → framesSuffice (f 0xC) (f 0x10) f2.1 f2.2 → ∃ u, exec (.planAdmit ses rec') s = .next u ∧
        PartIs s u p { s.part p with admResult := 1, short1 := 0, short2 := 0, planHeld := some (BitVec.ofNat 16 (fieldAt b 2 2))
                                     busy := nowBusy (s.part p) 0x2010 } ∧
        u = { s with parts := u.parts }) ∧
      (missing (f 4) (f 8) f1 ≠ 0 ∨ missing (f 0xC) (f 0x10) f2 ≠ 0 → ∃ u, exec (.planAdmit ses rec') s = .next u ∧ Logs s u 0x4020 0 ∧
        PartIs s { s with parts := u.parts } p { s.part p with
          admResult := 0x4020, short1 := BitVec.ofNat 64 (missing (f 4) (f 8) f1), short2 := BitVec.ofNat 64 (missing (f 0xC) (f 0x10) f2) } ∧
        Reports { s with parts := u.parts } u)) ∧
    (s.slotBusy p 0x2010 = false → fieldAt b 2 2 = (s.part p).plan.toNat → ∃ u, exec (.withdraw ses rec') s = .next u ∧
      PartIs s u p { s.part p with admResult := 1, planHeld := some 0xFFFF, busy := nowBusy (s.part p) 0x2010 } ∧ u = { s with parts := u.parts })

/-- R346 to R348: a launch at least 10,000 ns ahead is armed while the counter is LOCKED, one that comes earlier is refused as past, an armed
one is cancelled, which leaves the count of the last fired one (R346), and one whose count has passed writes its doorbell and is reported. -/
def Obligations.LaunchesFire : Prop :=
  (∀ (s : State) (ses : Ses) (rec' : BitVec 256) (p : Nat), let b := toLE rec'.toNat 32
    MayLaunch s ses b p →
    ((s.part p).launchStatus ≠ 1 → s.time.dstate = 2 →
      (s.now.toNat + 10000 ≤ fieldAt b 0x10 8 → ∃ u, exec (.arm ses rec') s = .next u ∧
        PartIs s u p { s.part p with
          launchResult := 0, launchStatus := 1, launchCount := BitVec.ofNat 64 (fieldAt b 0x10 8), launchWin := word (fieldAt b 4 4)
          launchBell := BitVec.ofNat 64 (fieldAt b 8 8) } ∧ u = { s with parts := u.parts }) ∧
      (fieldAt b 0x10 8 < s.now.toNat + 10000 → ∃ u, exec (.arm ses rec') s = .next u ∧ Logs s u 0x4B01 0 ∧
        PartIs s { s with parts := u.parts } p { s.part p with launchResult := 0x4B01 } ∧ Reports { s with parts := u.parts } u)) ∧
    ((s.part p).launchStatus = 1 → s.now.toNat ≤ (s.part p).launchCount.toNat → fieldAt b 0x10 8 = 0 → ∃ u, exec (.cancel ses rec') s = .next u ∧
      PartIs s u p { s.part p with launchResult := 0, launchStatus := 3, launchCount := (s.part p).firedCount } ∧ u = { s with parts := u.parts })) ∧
  (∀ (s : State) (part : BitVec 8), let p := part.toNat
    let x := s.part p
    p < 40 → x.launchStatus = 1 →
    (x.launchCount.toNat < s.now.toNat → ∃ u, exec (.launchFire part) s = .next u ∧
      (let v := x.launchBell.toNat
       let fired := (s.modPart p fun y => { y with launchStatus := 2, firedCount := x.launchCount }).doorbell (BitVec.ofNat 20 x.launchWin.toNat) (v / 2 ^ 56)
         (BitVec.ofNat 12 (v / 2 ^ 44)) (BitVec.ofNat 4 (v / 2 ^ 40)) (BitVec.ofNat 40 v)
       Reports fired u ∧ (fired.pwr.aux = true → ∃ r ∈ u.integ.log, r.code = 0x1B05 ∧ r.part = part ∧
         r.detail.toNat % 2 ^ 64 = x.launchCount.toNat))) ∧
    (s.now.toNat ≤ x.launchCount.toNat → exec (.launchFire part) s = .next s))

/-- R335, R339 to R343, R466: a site root that has heard no better root for a second claims the campus and is LOCKED; an estimate that stays
within 2 ns for a millisecond locks; a module that loses its parent and has no other is in HOLDOVER if it was ever LOCKED, else FREE. -/
def Obligations.TheCounterIsDisciplined : Prop :=
  ∀ s : State,
    (s.time.role = 1 → s.time.priority ≠ 255 → s.isRoot = false → s.pwr.bridge = true → s.fatal = false →
      s.time.listenFrom + 1000000000 ≤ s.island →
      (∀ e ∈ s.time.heard, (s.time.everLocked = true → e.1 < s.time.priority.toNat * 2 ^ 128 + Config.serial.toNat) →
        e.2 + 1000000000 ≤ s.island) →
      ∃ u, exec .rootClaim s = .next u ∧ Locks s u ∧ u.time.parent = 0xFF ∧ u.time.prio = s.time.priority ∧
        u.time.rootSerial = Config.serial ∧ u.time.dhops = 0 ∧ u.time.shops = 0 ∧ u.time.unc = 0 ∧ u.time.sunc = 0) ∧
    (∀ t, s.time.withinSince = some t → s.time.parent ≠ 0xFF → s.time.dstate ≠ 2 → (s.time.stepped = true ∨ s.time.everLocked = true) →
      (t + 1000000 ≤ s.island → ∃ u, exec .counterLock s = .next u ∧ Locks s u ∧
        u.time = { s.time with dstate := 2, everLocked := true, holdSince := none }) ∧
      (s.island < t + 1000000 → exec .counterLock s = .next s)) ∧
    (s.time.parent ≠ 0xFF → s.parentCandidate s.time.parent.toNat = false →
      (s.bestParent = none → ∃ u, exec .parentLoss s = .next u ∧ OnlyTime s u ∧ u.time.parent = 0xFF ∧ u.time.prio = 255 ∧
        u.time.dhops = 255 ∧ u.time.shops = 255 ∧ u.time.dstate = (if s.time.everLocked then 3 else 0) ∧ u.time.rate = (if s.time.everLocked then s.time.rate else 0) ∧
        bit u.pwr.functions 22 = false ∧
        (s.time.everLocked = true → s.time.dstate ≠ 3 → Recorded s u 0x1B03 0 0)) ∧
      (∀ c w root unc at', s.bestParent = some c → c < 16 → (s.port c).disc = some (w, root, unc, at') →
        ∃ u, exec .parentLoss s = .next u ∧ OnlyTime s u ∧ u.time.parent = BitVec.ofNat 8 c ∧ u.time.rootSerial = root ∧
          u.time.prio = BitVec.ofNat 8 (w.toNat / 2 ^ 24) ∧
          (s.time.role = 1 → u.time.dhops = BitVec.ofNat 8 (w.toNat / 2 ^ 16 % 256 + 1) ∧ u.time.shops = 0 ∧ u.time.sunc = 0) ∧
          (s.time.role ≠ 1 → u.time.shops = BitVec.ofNat 8 (w.toNat / 2 ^ 8 % 256 + 1) ∧
            u.time.sunc = unc.toNat % 65536 + 50 + s.toleranceOf c ∧ u.time.unc = unc.toNat / 65536 + 50 + s.toleranceOf c))) ∧
    (s.time.parent = 0xFF → exec .parentLoss s = .next s)

/-- R356, R358, R359, R365, R369, R372: the oldest capture that re-execution confirms leaves the backlog and the fences that waited for it,
and one that differs is a CHECK_MISMATCH; the generator is seeded again a second after its last seed; a fence waits for the captures then held; an injection is armed,
acts at once, or is cancelled; the operator empties the fatal slot.
R200, R354, R364 to R366, R373: an error of the expander spoils the next block it decodes; one of the hardware at any other site is
device-fatal under the site's code, and so is a fault ring whose
frame fails its CRC or that has missed four heartbeats. -/
def Obligations.CheckersAndErrorsAct : Prop :=
  ((∀ (s : State) (k : BitVec 6), let chk := (s.cluster k.toNat).chk
     k.toNat < 40 → s.fatal = false → s.poweredDown k.toNat = false →
     (∀ c rest, chk.backlog = c :: rest → ∀ inj, (inj = true ↔ s.integ.armed = true ∧ s.integ.armKind = 1 ∧
         clusterOf s.integ.armTarget = k.toNat) →
       ∃ u, exec (.checkerCompare k) s = .next u ∧ mapGet 0 u.integ.ctr 2 = satAdd64 (mapGet 0 s.integ.ctr 2) 1 ∧
         (u.integ.armed = true ↔ s.integ.armed = true ∧ inj = false) ∧
         (firstDiff c.expect (c.seen inj) = none →
           u.cluster k.toNat = { s.cluster k.toNat with chk := { chk with backlog := rest, used := chk.used - c.bytes } } ∧
           (∀ j, j ≠ k.toNat → u.cluster j = s.cluster j) ∧ u.fatal = false ∧
           (∀ p, p < 40 → (c.id ∈ (s.part p).fenceWait →
             (u.part p).fenceWait = (s.part p).fenceWait.filter (· ≠ c.id) ∧
             ((s.part p).fence = 1 → (∀ i ∈ (s.part p).fenceWait, i = c.id) → (u.part p).fence = 2)) ∧
             (c.id ∉ (s.part p).fenceWait → u.part p = s.part p)) ∧
           (∀ q, u.tile q = { s.tile q with arr := (u.tile q).arr })) ∧
         (firstDiff c.expect (c.seen inj) ≠ none → u.fatal = true ∧
           (s.pwr.aux = true → ∃ r ∈ u.integ.log, r.code = 0xC001 ∧ r.path = c.path ∧ r.stag = c.stag ∧ (r.flags.getLsbD 2 = inj)))) ∧
     (chk.seededAt + 1000000000 ≤ s.island →
       (s.sec.drbg = 1 → ∃ u, exec (.checkerReseed k) s = .next u ∧
         u.cluster k.toNat = { s.cluster k.toNat with chk := { chk with
           seed := BitVec.ofNat 64 (leNat (s.generate 8).1), seededAt := s.island } } ∧
         (∀ j, j ≠ k.toNat → u.cluster j = s.cluster j) ∧ u = { s with clusters := u.clusters, sec := (s.generate 8).2.sec }) ∧
       (s.sec.drbg ≠ 1 → ∃ u, exec (.checkerReseed k) s = .next u ∧
         u.cluster k.toNat = { s.cluster k.toNat with chk := { chk with seed := 0, seededAt := s.island } } ∧
         (∀ j, j ≠ k.toNat → u.cluster j = s.cluster j) ∧ u = { s with clusters := u.clusters })) ∧
     (s.island < chk.seededAt + 1000000000 → exec (.checkerReseed k) s = .next s)) ∧
   (∀ (s : State) (ses : Ses), let p := s.select ses 0x3001 1 0
     Writable s ses 0x3001 2 → s.asOwner (s.role ses) p = true → (s.part p).fence ≠ 1 →
     ∃ u, exec (.checkerFence ses) s = .next u ∧
       (∀ i, i ∈ (u.part p).fenceWait ↔ ∃ k ∈ s.partClusters p, ∃ c ∈ (s.cluster k).chk.backlog, c.id = i) ∧
       (u.part p).fence = (if (u.part p).fenceWait = [] then 2 else 1) ∧
       PartIs s u p { s.part p with fence := (u.part p).fence, fenceWait := (u.part p).fenceWait } ∧ u = { s with parts := u.parts }) ∧
   (∀ (s : State) (ses : Ses), s.asOperator (s.role ses) = true →
     (Writable s ses 0x3020 3 → (s.lifeCycle = 1 ∨ s.lifeCycle = 4) →
       exec (.injectionCancel ses) s = .next { s with integ := { s.integ with armed := false } } ∧
       (validPath s.integ.injTarget = true → (s.lifeCycle = 4 → s.partOf s.integ.injTarget = none) →
         (1 ≤ s.integ.injKind.toNat → s.integ.injKind.toNat ≤ 3 →
           exec (.injectionArm ses) s = .next { s with integ := { s.integ with
             armed := true, armKind := s.integ.injKind, armTarget := s.integ.injTarget } }) ∧
         (s.integ.injKind = 4 ∨ s.integ.injKind = 5 → ∃ u, exec (.injectionArm ses) s = .next u ∧ u.integ.armed = false ∧
           mapGet 0 (u.tile s.integ.injTarget).lsErr 0 = (if s.integ.injKind = 4 then 1 else 3) ∧
           (∀ w, w ≠ 0 → mapGet 0 (u.tile s.integ.injTarget).lsErr w = mapGet 0 (s.tile s.integ.injTarget).lsErr w) ∧
           (u.tile s.integ.injTarget).ls = (s.tile s.integ.injTarget).ls ∧ (∀ q, q ≠ s.integ.injTarget → u.tile q = s.tile q)))) ∧
     (Writable s ses 0x3010 7 →
       exec (.fatalAcknowledge ses) s = .next { s with integ := { s.integ with fatalRec := none } }))) ∧
  (∀ s : State, s.pwr.converters = true → s.fatal = false →
     (∀ (t : Path) (flip : Byte), validPath t = true → ∃ u, exec (.parityError (.expander t flip)) s = .next u ∧
       u.tile t = { s.tile t with expSlip := flip } ∧ (∀ q, q ≠ t → u.tile q = s.tile q) ∧ u = { s with tiles := u.tiles }) ∧
     (∀ site, siteOk site = true → (∀ t flip, site ≠ .expander t flip) → ∃ u, exec (.parityError site) s = .next u ∧ FatalStop s u (siteCode site).1 (siteCode site).2) ∧
     (∀ (collector : BitVec 3) (crcBad : Bool) (missed : Nat), collector.toNat ≤ 4 →
       (crcBad = true ∨ 4 ≤ missed → ∃ u, exec (.faultRingHeartbeat collector crcBad missed) s = .next u ∧ FatalStop s u 0xCC02 0) ∧
       (crcBad = false → missed < 4 → ∃ u, exec (.faultRingHeartbeat collector crcBad missed) s = .next u ∧
         mapGet 0 u.integ.ringMissed collector.toNat = missed ∧
         u = { s with integ := { s.integ with ringMissed := u.integ.ringMissed } })))

/-- R376 to R384, R394: a WRITE that R377 accepts is open, with its settings, its clock and every item that may be captured as they are when
it is ordered; while it is open another is refused with NOT_READY. Its first turn zeroes MAGIC's place and reads the shard table and the
control list; each further turn puts one chunk of an image in the host window, and with the last chunk of an image comes its manifest
entry; with the last image the control section and the manifest, Result 0, Last CKID and a report. A turn that the host window answers
with an error ends the request with CKPT_BODY. Each turn writes nothing else of host memory, and no device memory. -/
def Obligations.CheckpointsAreWritten : Prop :=
  (∀ (s : State) (ses : Ses) (rec' : BitVec 512) (p : Nat),
    let b := setByte (toLE rec'.toNat 64) 0 1
    let q := hamReq b
    HamperAsks s ses p →
    (s.hamRefusal (s.role ses) p b = none → ∃ u, exec (.write ses rec') s = .next u ∧
      PartIs s { s with parts := u.parts } p { s.part p with ham := some (openedJob s (s.role ses) p b q.enc), hamResult := 1, progress := 0 } ∧
      (∀ id, u.key id = if q.enc = true ∧ id = q.keyid then (s.key id).map (fun y => { y with ckid := word q.ckid }) else s.key id) ∧
      u = { s with parts := u.parts, sec := { s.sec with keys := u.sec.keys } }) ∧
    (∀ cond, s.hamRefusal (s.role ses) p b = some (0x4010, cond) → ∃ u, exec (.write ses rec') s = .next u ∧ Logs s u 0x4010 0 ∧
      PartIs s { s with parts := u.parts } p { s.part p with hamResult := 0x4010 } ∧ Reports { s with parts := u.parts } u)) ∧
  (∀ (s : State) (p : Nat) (j : HamJob),
    let q := hamReq j.req
    let k := s.hamKey p j
    let u := s.hamperTurn
    let stride := if q.enc then 1048592 else 1048576
    HamTurns s p j → q.op = 1 →
    (let xs := shardsOf s q
     let ranges := (writeRanges q xs).map Prod.snd
     j.begun = false → ShardsReadable s q → xs ≠ [] → verified s q.ctx q.ctlva (32 * q.nctl) →
     (∀ it ∈ controlItems s q, heldValue j it ≠ none ∧ zeroBytes it 8 24) →
     (q.enc = true → 128 + 64 * xs.length + 16 ≤ 1048576) →
     rangesOverlap ranges = false → (∀ r ∈ ranges, r.1 + r.2 ≤ (s.part p).winLen.toNat) →
     windowBytes' u p q.maddr 4 = List.replicate 4 0 ∧ HostKeeps s u p [(q.maddr, 4)] ∧
     MoverFrame { afterTurn s p { s.part p with
       ham := some { j with begun := true, control := controlSection s j, todo := xs.map imageFor } } with host := u.host } u false) ∧
    (∀ (x : Image) (rest : List Image), j.begun = true → j.todo = x :: rest → x.src = none → j.chunk * 1048576 ≤ x.len →
      let n := min 1048576 (x.len - j.chunk * 1048576)
      let bs := virtBytes s q.ctx (x.va + j.chunk * 1048576) n
      let at' := x.off + j.chunk * stride
      let img := if n = 0 then [] else imageOf k q.ckid j.coord.toNat x.sidx x.len j.chunk [bs]
      let next := if x.len ≤ (j.chunk + 1) * 1048576 then
          { j with todo := rest, chunk := 0, moved := []
                   entries := j.entries ++ x.entry ++ (if entWritten x.entry then sha256 (j.moved ++ bs) else List.replicate 32 0) }
        else { j with chunk := j.chunk + 1, moved := j.moved ++ bs }
      let moved := satAdd64 (s.part p).progress n
      x.va % 4096 = 0 → x.len % 4096 = 0 → verified s q.ctx (x.va + j.chunk * 1048576) n →
      (next.todo ≠ [] → windowBytes' u p at' img.length = img ∧ HostKeeps s u p [(at', img.length)] ∧
        MoverFrame { afterTurn s p { s.part p with ham := some next, progress := moved } with host := u.host } u false) ∧
      (next.todo = [] →
        let ctl := imageOf k q.ckid j.coord.toNat 0xFFFFE j.control.length 0 (chunks 1048576 j.control)
        let man := manifestImage k q.ckid j.coord.toNat (manifestOf j next.entries)
        let written := [(at', img.length), (q.ctloff, ctl.length), (q.maddr, man.length)]
        rangesOverlap written = false →
        windowBytes' u p at' img.length = img ∧ windowBytes' u p q.ctloff ctl.length = ctl ∧ windowBytes' u p q.maddr man.length = man ∧
        HostKeeps s u p written ∧
        (s.pwr.aux = true → ∃ r ∈ u.integ.log, r.code = 0x1A01 ∧ r.part = BitVec.ofNat 8 p ∧ r.detail.toNat % 2 ^ 32 = q.ckid) ∧
        MoverFrame { afterTurn s p { s.part p with ham := none, hamResult := 0, lastCkid := word q.ckid, progress := moved } with
          host := u.host } u false))) ∧
  (∀ (s : State) (p : Nat) (j : HamJob), p < 40 → (s.part p).ham = some j →
    s.turnPart s.sec.hamTurn (fun q => (s.part q).ham.isSome) = some p → s.partAnswers p = true → (j.enc = true → s.cipherFresh = true) →
    s.pwr.pcieUp = false ∨ Config.windowError s.free = true → (hamReq j.req).op ≠ 3 →
    let u := s.hamperTurn
    (u.part p).ham = none ∧ (u.part p).hamResult = 0x8A01 ∧ u.host = s.host ∧
      (s.pwr.aux = true → ∃ r ∈ u.integ.log, r.code = 0x8A01 ∧ r.part = BitVec.ofNat 8 p))

/-- R387 to R392, R394: a RESTORE or a VERIFY that R377 accepts is open. The first turn reads the table, the list and the manifests, which
must agree; each further turn verifies one chunk of an image, and a RESTORE puts its bytes at their address with a check value; an image
whose digest passes is done, a RESTORE's control section is applied, and with the last image the request ends with Result 0, a RESTORE
with a report. A chunk whose tag fails ends the request. -/
def Obligations.CheckpointsAreRestored : Prop :=
  (∀ (s : State) (ses : Ses) (rec' : BitVec 512) (p : Nat), HamperAsks s ses p →
    ∀ e ∈ [(2, Instr.restore ses rec'), (3, .verify ses rec')],
      let b := setByte (toLE rec'.toNat 64) 0 (BitVec.ofNat 8 e.1)
      s.hamRefusal (s.role ses) p b = none → ∃ u, exec e.2 s = .next u ∧
        PartIs s u p { s.part p with
          ham := some (openedJob s (s.role ses) p b (s.hamEncrypts p (hamReq b))), hamResult := 1, progress := 0 } ∧
        u = { s with parts := u.parts }) ∧
  (∀ (s : State) (p : Nat) (j : HamJob),
    let q := hamReq j.req
    let k := s.hamKey p j
    let u := s.hamperTurn
    HamTurns s p j → q.op = 2 ∨ q.op = 3 →
    (∀ ms, j.begun = false → (q.op = 2 → ShardsReadable s q) → ManifestsRead s p q k ms →
      let xs := if q.op = 2 then shardsOf s q else []
      s.manifestsBad p q xs ms = none → imagesRead q.op xs ms ≠ [] →
      u.host = s.host ∧
      MoverFrame (afterTurn s p { s.part p with ham := some { j with begun := true, mans := ms, todo := imagesRead q.op xs ms } }) u false) ∧
    (∀ (x : Image) (rest : List Image) (m : Manifest), j.begun = true → j.todo = x :: rest → x.src = some m → j.chunk * 1048576 < x.len →
      let n := min 1048576 (x.len - j.chunk * 1048576)
      let stores := q.op = 2 ∧ x.sidx ≠ 0xFFFFE
      let va := x.va + j.chunk * 1048576
      (∀ bs, s.imageChunk p k m x.sidx x.off x.len j.chunk = some bs →
        (stores → FramesApart s q.ctx ∧ permits s q.ctx true va n ∧ va % 4096 = 0 ∧ n % 4096 = 0) →
        let moved := satAdd64 (s.part p).progress n
        let kept (y : Part) : Prop := u.host = s.host ∧
          MoverFrame { afterTurn s p { y with progress := if x.sidx = 0xFFFFE then y.progress else moved } with
            mem := if q.op = 2 then { s.mem with tier := u.mem.tier, blocks := u.mem.blocks, tagCounts := u.mem.tagCounts } else s.mem }
            u (decide (q.op = 2)) ∧
          (stores → virtBytes u q.ctx va n = bs ∧ (∀ i, i < n / 4096 → u.verify (physAt s q.ctx (va + 4096 * i)) = .good) ∧
            OnlyRanges s u q.ctx [(va, n)]) ∧
          (¬ stores → u.mem.tier = s.mem.tier)
        ((j.chunk + 1) * 1048576 < x.len → kept { s.part p with ham := some { j with chunk := j.chunk + 1, moved := j.moved ++ bs } }) ∧
        (x.len ≤ (j.chunk + 1) * 1048576 → sha256 (j.moved ++ bs) = x.digest → x.sidx ≠ 0xFFFFE ∨ q.op = 3 → (q.op = 2 → x.cls ≠ 4) →
          (rest ≠ [] → kept { s.part p with ham := some { j with todo := rest, chunk := 0, moved := [] } }) ∧
          (rest = [] → q.op = 3 → kept { s.part p with ham := none, hamResult := 0 })) ∧
        (x.len ≤ (j.chunk + 1) * 1048576 → sha256 (j.moved ++ bs) = x.digest → x.sidx = 0xFFFFE → q.op = 2 → rest = [] →
          let items := chunks 32 (j.moved ++ bs)
          s.asOwner j.role p = true → (∀ it ∈ items, ItemFits s p it ∧ s.settingFree p (itemIndex it) = true) →
          (∀ (i : Nat) (it : Bytes), items[i]? = some it → itemKind it = 1 →
            (∀ (i' : Nat) (jt : Bytes), i < i' → items[i']? = some jt → itemIndex jt ≠ itemIndex it ∨ itemSub jt ≠ itemSub it) →
            (u.part p).setting (itemIndex it) (itemSub it) = some (fieldAt it 8 (fieldAt it 5 1), fieldAt it 5 1)) ∧
          (s.pwr.aux = true → ∃ r ∈ u.integ.log, r.code = 0x1A02 ∧ r.part = BitVec.ofNat 8 p ∧ r.detail.toNat % 2 ^ 32 = q.ckid) ∧
          (u.part p).ham = none ∧ (u.part p).hamResult = 0 ∧ u.host = s.host ∧ u.tiles = s.tiles ∧ u.mem = s.mem ∧
          ∀ r, r ≠ p → u.part r = s.part r) ∧
        (x.len ≤ (j.chunk + 1) * 1048576 → sha256 (j.moved ++ bs) ≠ x.digest → q.op = 2 →
          (u.part p).ham = none ∧ (u.part p).hamResult = 0x8A02 ∧
          (s.pwr.aux = true → ∃ r ∈ u.integ.log, r.code = 0x8A02 ∧ r.part = BitVec.ofNat 8 p))) ∧
      (s.imageChunk p k m x.sidx x.off x.len j.chunk = none →
        (u.part p).ham = none ∧ (u.part p).hamResult = 0x8A02 ∧ u.host = s.host)))

/-- R397 to R401: a window of the noise source's tests fails as R397 says; the windows lead the source to healthy or, when they fail too
often, to a device-fatal failure, and healthy samples are kept; the DRBG is instantiated and reseeded from 2,048 of them, sets its
readiness bits and loses them on a reseed that fails; an engine's masking seed is drawn, and a frame that waited for it is taken. -/
def Obligations.RandomnessIsHeld : Prop :=
  (∀ (x : Security) (w : List Bool), x.runLen ≤ 40 → (x.windowBad w = true ↔ WindowFails x w)) ∧
  ∀ s : State, s.pwr.bridge = true → s.fatal = false →
    let x := s.sec
    let times := (s.island :: x.failTimes).filter fun t => s.island < t + 1000000000
    let kept (u : State) (w : List Bool) (y : Security) : Prop :=
      u = { s with sec := { y with samples := newest (x.samples ++ w), runBit := u.sec.runBit, runLen := u.sec.runLen } }
    (∀ w : List Bool, x.noise = 1 → w.length = 4096 →
      (x.windowBad w = false → ∃ u, exec (.noiseHealthWindow true w) s = .next u ∧ kept u w { x with noise := 2, startFails := 0 }) ∧
      (x.windowBad w = true →
        (x.startFails = 0 → exec (.noiseHealthWindow true w) s = .next { s with sec := { x with startFails := 1, runLen := 0 } }) ∧
        (0 < x.startFails → ∃ u, exec (.noiseHealthWindow true w) s = .next u ∧
          u.sec = { x with noise := 3, startFails := x.startFails + 1, runLen := 0 } ∧ FatalStop s u 0xCD01 0))) ∧
    (∀ w : List Bool, x.noise = 2 → w.length = 1024 →
      (x.windowBad w = false → ∃ u, exec (.noiseHealthWindow false w) s = .next u ∧ kept u w x) ∧
      (x.windowBad w = true →
        (times.length ≤ 3 → ∃ u, exec (.noiseHealthWindow false w) s = .next u ∧ u = { s with sec := { x with
          failures := x.failures + 1, failTimes := times, runBit := u.sec.runBit, runLen := u.sec.runLen } }) ∧
        (3 < times.length → ∃ u, exec (.noiseHealthWindow false w) s = .next u ∧ u.sec.noise = 3 ∧
          u.sec.failures = x.failures + 1 ∧ u.sec.samples = x.samples ∧ FatalStop s u 0xCD01 0))) ∧
    (x.noise = 2 → x.samples.length = 2048 →
      (x.drbg = 0 → ∃ u, exec .drbgInstantiate s = .next u ∧ BitsSet s.pwr.functions u.pwr.functions [5, 6] ∧
        Reports { s with sec := seededAs s x (drbgUpdate 0 0 (drbgDerive (sampleBytes x.samples ++ Config.drbgNonce)))
                         pwr := { s.pwr with functions := u.pwr.functions } } u) ∧
      (x.drbg = 2 ∨ (x.drbg = 1 ∧ (2 ^ 20 ≤ x.sinceReseed ∨ x.reseedAt + 100000000 ≤ s.island)) →
        ∃ u, exec (.drbgReseed true) s = .next u ∧ BitsSet s.pwr.functions u.pwr.functions [5, 6] ∧
          Reports { s with sec := { seededAs s x (drbgUpdate x.drbgKey x.drbgV (drbgDerive (sampleBytes x.samples))) with
                                    reseeds := satAdd64 x.reseeds 1 }
                           pwr := { s.pwr with functions := u.pwr.functions } } u)) ∧
    (∀ healthy : Bool, x.noise ≠ 2 ∨ x.samples.length ≠ 2048 ∨ healthy = false →
      x.drbg = 2 ∨ (x.drbg = 1 ∧ (2 ^ 20 ≤ x.sinceReseed ∨ x.reseedAt + 100000000 ≤ s.island)) →
      ∃ w : Word, (∀ b, b < 32 → (bit w b = true ↔ bit s.pwr.functions b = true ∧ b ≠ 5 ∧ b ≠ 6)) ∧
        exec (.drbgReseed healthy) s = .next { s with sec := { x with drbg := 2 }, pwr := { s.pwr with functions := w } }) ∧
    (∀ engine : BitVec 3, engine.toNat ≤ 4 → x.drbg = 1 →
      let c := 11 + engine.toNat
      let seed : BitVec 256 := BitVec.ofNat 256 (leNat (s.generate 32).1)
      let reseeded (y : Security) : Prop :=
        (∀ e, mapGet 0 y.maskAt e = if e = engine.toNat then s.island else mapGet 0 x.maskAt e) ∧
        (∀ e, mapGet 0 y.maskSeed e = if e = engine.toNat then seed else mapGet 0 x.maskSeed e) ∧
        y = { (s.generate 32).2.sec with maskAt := y.maskAt, maskSeed := y.maskSeed }
      (engine = 0 ∨ (s.port c).stalled = [] → ∃ u, exec (.maskReseed engine) s = .next u ∧ reseeded u.sec ∧
        (∀ d, u.port d = s.port d) ∧ u = { s with sec := u.sec, ports := u.ports }) ∧
      (∀ f, engine ≠ 0 → (s.port c).stalled = [(f, 0)] → 64 < f.length → ∃ v : State, exec (.maskReseed engine) s = .next (v.frameIn c f) ∧
        reseeded v.sec ∧ (∀ d, d ≠ c → v.port d = s.port d) ∧ v.port c = { s.port c with stalled := [] } ∧
        v = { s with sec := v.sec, ports := v.ports }))

/-- R403 to R406: an INSTALL whose wrapped key unwraps puts it in its slot, with its salt and CKID record, and a link key's slot counts
from 0; one that does not unwrap is refused and leaves every key; ERASE empties a slot that nothing open uses; zeroisation empties them
all, and ends every open cipher job and every open hamper request that uses encryption. -/
def Obligations.KeysAreHeld : Prop :=
  (∀ (s : State) (ses : Ses) (rec' : BitVec 640),
    let b (op : Byte) := setByte (toLE rec'.toNat 80) 0 op
    let id := fieldAt (b 1) 4 4
    let cls := id / 2 ^ 24
    let c := 12 + id / 4 % 4
    Writable s ses 0x3110 2 → MayKey s ses id →
    (s.unwrapped (b 1) = none → ∃ u, exec (.keyInstall ses rec') s = .next u ∧ Logs s u 0x4001 0 ∧ Reports s u) ∧
    (fieldAt (b 1) 1 3 = 0 → (cls ≠ 3 → fieldAt (b 1) 8 4 = 0) → zeroBytes (b 1) 0xC 20 →
      (∀ plain, s.unwrapped (b 1) = some plain → fieldAt plain 36 4 = 0 → (cls ≠ 1 → s.key id = none ∧ fieldAt plain 32 4 = 0) →
        (cls = 1 → id / 2 % 2 = 0 → ∀ f ∈ (s.port c).buffer, f.ks ≠ decide (id % 2 = 1)) → s.sec.drbg = 1 →
        ∃ u, exec (.keyInstall ses rec') s = .next u ∧
          u.key id = some { val := BitVec.ofNat 256 (beNat (plain.take 32)), salt := word (fieldAt plain 32 4),
                            ckid := word (fieldAt (b 1) 8 4) } ∧
          (∀ j, j ≠ id → u.key j = s.key j) ∧ (cls ≠ 1 → u.ports = s.ports) ∧
          (cls = 1 → (∀ d, d ≠ c → u.port d = s.port d) ∧
            u.port c = { s.port c with fcnt := (u.port c).fcnt, txKs := if id / 2 % 2 = 0 then decide (id % 2 = 1) else (s.port c).txKs } ∧
            ∀ n, mapGet 0 (u.port c).fcnt n = if n = id % 4 then 0 else mapGet 0 (s.port c).fcnt n) ∧
          u = { s with sec := { s.sec with keys := u.sec.keys }, ports := u.ports }) ∧
      (zeroBytes (b 2) 0x20 48 → s.key id ≠ none → s.keyInUse id = false →
        (cls = 2 → ∀ e ∈ s.sec.keys, e.2 ≠ none → e.1 / 2 ^ 24 % 256 = 3 ∨ e.1 / 2 ^ 24 % 256 = 4 →
          e.1 / 2 ^ 16 % 256 ≠ id / 2 ^ 16 % 256) →
        ∃ u, exec (.keyErase ses rec') s = .next u ∧ (∀ j, u.key j = if j = id then none else s.key j) ∧
          u = { s with sec := { s.sec with keys := u.sec.keys } }))) ∧
  (∀ (s : State) (ses : Ses), Writable s ses 0x3130 1 → s.asOperator (s.role ses) = true →
    ∃ u, exec (.zeroise ses) s = .next u ∧ u.sec = { s.sec with keys := [], drbg := 0, drbgKey := 0, drbgV := 0 } ∧
      (∀ p, p < 40 → (∀ j, (s.part p).job = some j → (u.part p).job = none ∧ (u.part p).cipherResult = 0x8D01) ∧
        ∀ j, (s.part p).ham = some j → j.enc = true → (u.part p).ham = none ∧ (u.part p).hamResult = 0x8A01) ∧
      (∀ b, b < 32 → (bit u.pwr.functions b = true ↔ bit s.pwr.functions b = true ∧ b ≠ 5 ∧ b ≠ 6)) ∧
      (∀ c, 12 ≤ c → c < 16 → (s.port c).state = .up → (u.port c).state = .down ∧ (u.port c).reason = 11) ∧
      (∀ c, (s.port c).state ≠ .up → u.port c = s.port c) ∧
      Recorded s u 0x1D02 0 (if s.mgmt.wedged || s.fatal then 1 else 0) ∧ u.mem.tier = s.mem.tier ∧ u.host = s.host ∧
      (∀ q, (u.tile q).ls = (s.tile q).ls ∧ (u.tile q).regs = (s.tile q).regs))

/-- R407 to R410, R394: a job that R409 accepts is open, and while it is another is refused with NOT_READY. At its turn one that R407 allows
writes what its mode gives to DST and TAGVA, leaves those blocks without a check value, sets Result 0 and counts; one whose tag or padding
fails writes nothing and stops the partition with TAG_FAIL; one that breaks a limit writes nothing and ends with CIPHER_BODY. -/
def Obligations.CipherJobsRun : Prop :=
  (∀ (s : State) (ses : Ses) (rec' : BitVec 512) (p mode : Nat) (row : Ses → BitVec 512 → Instr),
    (row, mode) ∈ ([(.cbc, 1), (.ctr, 2), (.cfb, 3), (.gcm, 4), (.ccm, 5), (.cmac, 6), (.sha256, 7)] :
      List ((Ses → BitVec 512 → Instr) × Nat)) →
    let b := setByte (toLE rec'.toNat 64) 0 (BitVec.ofNat 8 mode)
    let j := parseJob b
    JobAsks s ses p → s.asOwner (s.role ses) p = true → s.ctxPart (fieldAt b 2 2 % 4096) = some p →
    (if j.mode = 7 then j.keyid = 0 else j.keyid / 2 ^ 24 = 4 ∧ j.keyid / 2 ^ 16 % 256 = p ∧ s.key j.keyid ≠ none) →
    jobReservedBad b = false →
    (s.sec.drbg = 1 → (s.part p).job = none → ∃ u, exec (row ses rec') s = .next u ∧
      PartIs s u p { s.part p with job := some (BitVec.ofNat 512 (leNat b)), cipherResult := 1 } ∧ u = { s with parts := u.parts }) ∧
    (s.sec.drbg ≠ 1 ∨ (s.part p).job ≠ none → Busy (row ses rec') s p fun x => { x with cipherResult := 0x4010 })) ∧
  (∀ (s : State) (p : Nat) (b : BitVec 512),
    let j := parseJob (toLE b.toNat 64)
    let u := s.cipherTurn
    JobTurns s p b →
    (j.beyond = true → (u.part p).job = none ∧ (u.part p).cipherResult = 0x8D01 ∧ Recorded s u 0x8D01 0 0 ∧
      u.mem.tier = s.mem.tier ∧ (s.formed p = true → (u.part p).state = 2)) ∧
    (j.beyond = false → JobReads s j →
      (jobResult s j = none → (u.part p).job = none ∧ (u.part p).cipherResult = 0x8101 ∧ Recorded s u 0x8101 0 0 ∧
        u.mem.tier = s.mem.tier ∧ (s.formed p = true → (u.part p).state = 2)) ∧
      ∀ out tag, jobResult s j = some (out, tag) → permits s j.ctx true j.dst out.length → permits s j.ctx true j.tagva tag.length →
        WroteTier [(j.dst, out), (j.tagva, tag)] s u j.ctx ∧
        (∀ i, i < out.length → (u.block (physAt s j.ctx (j.dst + i))).check = none) ∧
        (∀ i, i < tag.length → (u.block (physAt s j.ctx (j.tagva + i))).check = none) ∧
        (u.part p).counter 0x3120 4 = satAdd64 ((s.part p).counter 0x3120 4) 1 ∧
        MoverFrame { withPart s p { s.part p with job := none, cipherResult := 0 } with
          sec := { s.sec with jobTurn := (p + 1) % 40 } } u true))

/-- R411 to R414: FORM is refused in the cases of R412 and changes nothing; else it clears the tiles of the clusters, sets their layouts to 0
and the settings and counters of the partition to their defaults, and State to 1. DISSOLVE is refused while the partition is at work or
holds something, and else zeroes the stores and gives back its groups, its bindings and its owner's sessions. -/
def Obligations.PartitionsAreFormed : Prop :=
  ∀ (s : State) (ses : Ses), Writable s ses 0x2000 5 → s.asOperator (s.role ses) = true →
    let p := s.select ses 0x2000 1 0
    let x := s.part p
    let denied : Prop := x.clusters = 0 ∨
      (∃ q, q < 40 ∧ q ≠ p ∧ s.formed q = true ∧ (x.clusters &&& (s.part q).clusters ≠ 0 ∨ ¬ GidsApart x (s.part q))) ∨
      1024 < quotaOf s p (fun y => y.groupQuota.toNat) ∨ 64 < quotaOf s p (fun y => y.bindQuota.toNat)
    let notReady : Prop := ∃ k ∈ s.partClusters p, s.clusterUp k = false
    let holds : Prop := (s.formed p = true ∧ ∃ t ∈ s.partTiles p, s.tileQuiet t = false) ∨
      (∃ e ∈ s.mem.ctxs, ∃ y, e.2 = some y ∧ y.part.toNat = p) ∨ (∃ e ∈ s.mem.slabs, e.2.owner.toNat = p) ∨ x.winLen ≠ 0 ∨ x.plan ≠ 0xFFFF
    (∀ row code, (row = Instr.form ∧ denied ∧ code = 0x4001) ∨ (row = .form ∧ ¬ denied ∧ notReady ∧ code = 0x4010) ∨
        (row = .dissolve ∧ holds ∧ code = 0x4001) →
      ∃ u, exec (row ses) s = .next u ∧ Logs s u code 0 ∧ PartIs s u p { x with result := BitVec.ofNat 16 code } ∧
        Reports { s with parts := u.parts, free := u.free } u) ∧
    (¬ denied → ¬ notReady → ∃ u, exec (.form ses) s = .next u ∧
      (∀ q, u.tile q = if q ∈ tilesOf s p then
        { s.tile q with ls := [], lsErr := [], tickets := [], vregs := [], masks := [], vsrb := 0 } else s.tile q) ∧
      (∀ k, u.cluster k = if k ∈ s.partClusters p then { s.cluster k with layout := 0 } else s.cluster k) ∧
      PartIs s u p { clusters := x.clusters, sealedMode := x.sealedMode, gidBase := x.gidBase, gidCount := x.gidCount
                     groupQuota := x.groupQuota, bindQuota := x.bindQuota, state := 1 } ∧
      (∀ r, u.region r = if r = p then {} else s.region r) ∧
      u = { s with tiles := u.tiles, clusters := u.clusters, parts := u.parts, trace := { s.trace with regions := u.trace.regions } }) ∧
    (¬ holds → ∃ u, exec (.dissolve ses) s = .next u ∧
      (∀ q, u.tile q = if s.formed p = true ∧ q ∈ tilesOf s p then { s.tile q with ls := [], lsErr := [] } else s.tile q) ∧
      PartIs s u p { x with state := 0, result := 0 } ∧ SessionsClosed s u (.owner (BitVec.ofNat 8 p)) ∧
      (∀ q, mapGet none u.mgmt.ownerCreds q = if q = p then none else mapGet none s.mgmt.ownerCreds q) ∧
      u = { s with tiles := u.tiles, parts := u.parts, sh := { s.sh with groups := s.sh.groups.filter fun g => g.part.toNat ≠ p },
                   bindings := s.bindings.filter fun y => y.part.toNat ≠ p,
                   tag := { s.tag with holder := u.tag.holder, waiting := u.tag.waiting },
                   mgmt := { s.mgmt with sessions := u.mgmt.sessions, selects := u.mgmt.selects, ownerCreds := u.mgmt.ownerCreds } })

/-- R426 to R428, R430: a read of the challenge replaces it with 16 new bytes; a transition that R427 names and its token or role
authorises enters the new state, raises LC_CHANGED and has the row's effect; any other is refused and leaves the state. Both consume the
challenge. -/
def Obligations.TransitionsAreAuthorised : Prop :=
  ∀ (s : State) (ses : Ses),
    (s.pwr.aux = true → s.mayRead (s.role ses) 0x1010 1 = true → s.sec.drbg = 1 →
      exec (.lcChallengeRead ses) s = .next { s with sec := { (s.generate 16).2.sec with
        challenge := some (BitVec.ofNat 128 (leNat (s.generate 16).1)) } }) ∧
    ∀ row target token, (row, target) ∈ ([(.lcToProvisioned, 2), (.lcToField, 3), (.lcToFieldDebug, 4), (.lcToReturn, 5),
        (.lcToManufacture, 1), (.lcToRetired, 6)] : List ((Ses → BitVec 128 → Instr) × Nat)) → Writable s ses 0x1010 2 →
      (¬ MayEnter s ses target token → ∃ u, exec (row ses token) s = .next u ∧ (u.sec.lcResult = 0x4001 ∨ u.sec.lcResult = 0x4010) ∧
        u.sec = { s.sec with challenge := none, lcResult := u.sec.lcResult } ∧ u.tiles = s.tiles ∧ u.mem = s.mem ∧ u.parts = s.parts) ∧
      (MayEnter s ses target token → ∃ u, exec (row ses token) s = .next u ∧ u.lifeCycle = target ∧ u.sec.challenge = none ∧
        u.sec.lcResult = 0 ∧ u.sec.returns = (if target = 1 then s.sec.returns - 1 else s.sec.returns) ∧
        (∀ n, mapGet none u.mgmt.sessions n = match mapGet none s.mgmt.sessions n with
          | some x => if x.role = .maker then some x else none
          | none => none) ∧
        Recorded s u 0x1D01 0 (s.lifeCycle + 256 * target) ∧
        (target = 2 → (∀ n, n < 640 → (u.slab n).state = 1 ∧ 
            (u.slab n).key = BitVec.ofNat 64 (leNat (((fun a : State => (a.generate 8).2)^[n] s).generate 8).1)) ∧
          ∀ q, u.tile q = { s.tile q with ls := [], lsErr := [] }) ∧
        (target = 5 ∨ target = 6 → u.sec.keys = [] ∧ u.mgmt.operatorCred = none ∧ u.mgmt.ownerCreds = [] ∧ u.mem.tier = [] ∧
          u.mem.blocks = [] ∧ (∀ p, u.formed p = false ∧ (u.part p).winLen = 0) ∧
          (∀ r ∈ u.integ.log, r.part.toNat < 40 → r.code.toNat / 4096 ≠ 0xC → r.ctx = 0 ∧ r.stag = 0 ∧ r.detail = 0) ∧
          (s.pwr.converters = true → ∀ q, u.tile q = {})) ∧
        (target = 1 → u.mem.retired = []) ∧
        (target = 1 ∨ target = 3 ∨ target = 4 →
          u.sec.keys = s.sec.keys ∧ u.tiles = s.tiles ∧ u.parts = s.parts ∧ u.mem = { s.mem with retired := u.mem.retired }))

/-- R43, R58, R67 to R69, R79, R80, R82: ISSUE of a descriptor that R69 refuses nowhere, with room in its queue, MFC and MTC of every control
register that exists, ERET with a sound frame and the entry of an exception with a handler and a valid stack complete, each with its own
effect, wherever the instruction stands neither in a delay slot nor at the end of a loop. -/
def Obligations.SequencerFormsComplete : Prop :=
  ∀ (s : State) (t : Path),
    let x := s.seqTile t
    let l := s.lead t
    (∀ v, Fetches s t v → Placed s t →
      (∀ rd : Reg, let a := (x.reg rd).toNat
        let w := storeWord s t a
        let unit := fieldOf (w 0) 28 4
        CleanStore s t → a % 16 = 0 → ¬ headerBad (w 0) (w 2) → a + 16 + 16 * fieldOf (w 0) 20 4 ≤ s.span l → s.unitReady l unit = true →
        (fieldOf (w 0) 27 1 = 1 → s.repro l = false) →
        (if unit = 3 then x.loadQ.length < 16 else if unit = 4 then x.storeQ.length < 16 else x.cmdQ.length < 32) →
        ∃ u, exec (.issue t v rd) s = .next u ∧ (u.tile l).pc = x.pc + 4 ∧ (∀ q, (u.tile l).reg q = x.reg q) ∧
          (let c := descCommand s t a none
           if unit = 3 then (u.tile l).loadQ = x.loadQ ++ [c] else if unit = 4 then (u.tile l).storeQ = x.storeQ ++ [c]
           else (u.tile l).cmdQ = x.cmdQ ++ [c])) ∧
      (∀ (rx : Reg) (cr : BitVec 6),
        (cr.toNat ≤ 0x0E → (cr = 0x0B ∨ cr = 0x0C → v = true) → ∃ u, exec (.mfc t v rx cr) s = .next u ∧ (u.tile l).pc = x.pc + 4 ∧
          (∀ q, q ≠ rx → (u.tile l).reg q = x.reg q) ∧ (∀ w, (cr, w) ∈ crValues s t → rx ≠ 0 → (u.tile l).reg rx = w) ∧
          ∀ q, q ≠ l → u.tile q = s.tile q) ∧
        (cr.toNat ≤ 9 ∨ cr = 0x0E → (cr = 0 → modeFits (x.reg rx)) → ∃ u, exec (.mtc t v rx cr) s = .next u ∧
          (∀ q, (u.tile l).reg q = x.reg q) ∧ (cr = 0 → (u.tile l).mode = x.reg rx) ∧ (cr = 1 → (u.tile l).evbase = x.reg rx) ∧
          (cr = 2 → (u.tile l).stkLo = x.reg rx) ∧ (cr = 3 → (u.tile l).stkHi = x.reg rx) ∧
          (cr = 0x0E → (u.tile l).fireBase = x.reg rx) ∧ ∀ q, q ≠ l → u.tile q = s.tile q)) ∧
      (∀ imm, let sp := (x.reg 30).toNat
        let w (i : Nat) : Word := storeWord s t sp i
        CleanStore s t → stackValid s t → sp + 64 ≤ s.span l → modeFits (w 4) →
        (∀ i, i = 8 ∨ i = 9 ∨ i = 10 → loopActive (w i) = true → loopEnd (w i) ≤ 0x1FFFFC) → (w 1).toNat % 4 = 0 → (w 1).toNat ≤ 0x1FFFFC →
        ∃ u, exec (.eret t v imm) s = .next u ∧ (u.tile l).pc = w 1 ∧ (u.tile l).mode = w 4 ∧ (u.tile l).reg 30 = w 11 ∧
          (∀ q, q ∉ ([28, 29, 30, 31] : List Reg) → (u.tile l).reg q = x.reg q) ∧ ∀ q, q ≠ l → u.tile q = s.tile q)) ∧
    (∀ e, EntryDue s t e → x.waiting = [] → x.evbase ≠ 0 → stackValid s t → CleanStore s t →
      ∃ u, exec (.exceptionEntry t) s = .next u ∧ (u.tile l).pc = x.evbase ∧ (u.tile l).exc = none ∧ (u.tile l).reg 30 = x.reg 30 - 64 ∧
        ∀ q, q ≠ 30 → (u.tile l).reg q = x.reg q)

/-- R168, R170 to R172, R377: CONTEXT_BIND, CONTEXT_UNBIND, MAP, UNMAP, PROTECT and MAPPING_COMPLETE complete for every request that the
conditions of R168 and R170, said here field by field, leave standing, and a hamper WRITE, RESTORE and VERIFY for one that R377 accepts. -/
def Obligations.RequestFormsComplete : Prop :=
  (∀ (s : State) (ses : Ses), let c := s.select ses 0x2201 1 0
    let slot := s.select ses 0x2201 3 0 % 16
    Writable s ses 0x2201 2 →
    (∀ part : BitVec 8, part.toNat < 40 → 102 * part.toNat ≤ c → c ≤ 102 * part.toNat + 101 → s.asOwner (s.role ses) part.toNat = true →
      s.formed part.toNat = true → s.ctxBind c = none → s.slotCtx part.toNat slot = none →
      ∃ u, exec (.contextBind ses part) s = .next u ∧ u.ctxBind c = some ⟨part, BitVec.ofNat 4 slot⟩) ∧
    (∀ b, s.ctxBind c = some b → b.part.toNat < 40 → s.asOwner (s.role ses) b.part.toNat = true →
      (b.slot = 0 → ∀ t ∈ s.partTiles b.part.toNat, s.tileState t = 0) →
      ∃ u, exec (.contextUnbind ses) s = .next u ∧ u.ctxBind c = none ∧ ∀ m ∈ u.mem.maps, m.ctx.toNat ≠ c)) ∧
  (∀ (s : State) (ses : Ses) (rec' : BitVec 256) (p : Nat),
    let b := toLE rec'.toNat 32
    let big : Bool := fieldAt b 1 1 = 1
    let size := if big then 0x40000000 else 0x200000
    let ctx := fieldAt b 2 2
    let count := fieldAt b 4 4
    let va := fieldAt b 8 8
    let pa := fieldAt b 16 8
    let perm := fieldAt b 24 1
    let mapped : Prop := ∀ i, i < count → ∃ m ∈ s.mem.maps, m.ctx.toNat = ctx ∧ m.va = va + i * size ∧ m.big = big
    Writable s ses 0x2210 1 → s.ctxPart ctx = some p → p < 40 → s.asOwner (s.role ses) p = true → (s.part p).mapBusy = false →
    fieldAt b 1 1 ≤ 1 → ctx < 4096 → 1 ≤ count → va % size = 0 → va + count * size ≤ 2 ^ 52 → perm < 4 → zeroBytes b 25 7 →
    (pa % size = 0 → pa + count * size ≤ 2 ^ 44 →
      (∀ i, i < count → (∃ n, slabOf (pa + i * size) = some n ∧ (s.slab n).owner.toNat = p) ∧
        (∀ j, j < size / 0x200000 → (pa + i * size) / 0x200000 + j ∉ s.mem.retired) ∧
        ∀ m ∈ s.mem.maps, m.ctx.toNat = ctx → m.va + m.size ≤ va + i * size ∨ va + i * size + size ≤ m.va) →
      ∃ u, exec (.map ses rec') s = .next u ∧ (u.part p).mapResult = 0 ∧ u.mem.maps.take s.mem.maps.length = s.mem.maps ∧
        ∀ i, i < count → ∃ m ∈ u.mem.maps, m.ctx.toNat = ctx ∧ m.va = va + i * size ∧ m.pa = pa + i * size ∧ m.big = big) ∧
    (pa = 0 → perm = 0 → mapped → ∃ u, exec (.unmap ses rec') s = .next u ∧ (u.part p).mapResult = 1 ∧
      ∀ i, i < count → ∀ m ∈ u.mem.maps, ¬ (m.ctx.toNat = ctx ∧ m.va = va + i * size)) ∧
    (pa = 0 → mapped → ∃ u, exec (.protect ses rec') s = .next u ∧
      ∀ i, i < count → ∀ m ∈ u.mem.maps, m.ctx.toNat = ctx → m.va = va + i * size → m.r = decide (perm % 2 = 1) ∧ m.w = decide (2 ≤ perm))) ∧
  (∀ (s : State) (part : BitVec 8), part.toNat < 40 → (s.part part.toNat).mapBusy = true →
    ∃ u, exec (.mappingComplete part) s = .next u ∧ (u.part part.toNat).mapResult = 0 ∧ (u.part part.toNat).mapBusy = false ∧
      ∀ e ∈ u.mem.stale, e.1 ≠ part) ∧
  (∀ (s : State) (ses : Ses) (rec' : BitVec 512) (p op : Nat) (row : Ses → BitVec 512 → Instr),
    (row, op) ∈ ([(.write, 1), (.restore, 2), (.verify, 3)] : List ((Ses → BitVec 512 → Instr) × Nat)) →
    let b := setByte (toLE rec'.toNat 64) 0 (BitVec.ofNat 8 op)
    let q := hamReq b
    HamperAsks s ses p → p < 40 → s.asOwner (s.role ses) p = true → hamFormBad b = false → s.ctxPart q.ctx.toNat = some p →
    (op ≠ 3 → q.planid = (s.part p).plan.toNat) → (s.part p).winLen ≠ 0 → (s.part p).ham = none →
    (op = 1 → q.enc = true → ∀ k, s.ckptKey p q.keyid = some k → k.ckid.toNat < q.ckid) →
    (op = 2 → s.quiescent p q (s.ckptKey p q.keyid) = true) →
    (s.hamEncrypts p q = true → bit s.pwr.functions 6 = true ∧ s.ckptKey p q.keyid ≠ none) →
    ∃ u, exec (row ses rec') s = .next u ∧ (u.part p).hamResult = 1 ∧ (u.part p).progress = 0 ∧
      ∃ j, (u.part p).ham = some j ∧ j.req = b ∧ j.begun = false)

/-- R263 to R266, R271 to R274, R277, R285, R300: every collective of a group of one module completes at once. For an open slot that the
message cannot complete or fault, a TOKEN, a DONE, a COUNTS and the DATA of an exchange into local store leave their port and are noted;
a CTS that comes early waits in the table; ABORT ends its collective; a RECEIPT at a module that is no candidate is noted. -/
def Obligations.MessageFormsComplete : Prop :=
  (∀ (s : State) (t : Path) (c : Command) (p : Nat) (ctx : BitVec 12) (i : Path → Instr) (key : Nat), CollectiveWaits s t c p ctx →
    rowOf i c → s.freeSlot ctx = some key → AloneReady s t ctx (s.slotFor (s.lead t) c) →
    s.now.toNat + 1000 * (s.part p).deadline.toNat < 2 ^ 64 →
    ∃ u, exec (i t) s = .next u ∧ u.slotAt key = none ∧ ⟨c, true⟩ ∈ (u.tile (s.lead t)).flights ∧
      ∀ d ∈ (u.tile (s.lead t)).cmdQ, d.id ≠ c.id) ∧
  (∀ (s : State) (p : PortCode) (m : Msg) (g : Group) (rest : List (Msg × BitVec 3 × Bool × Nat)) (x : Slot), Names s g m x →
    let key := g.ctx.toNat * 16 + m.slot.toNat
    let q := m.srank.toNat
    (x.sop = 1 → 1 < x.size → x.doneFrom = [] →
      (Delivered s p 4 m g rest → q ∉ x.tokens → ∃ u, exec (.msgToken p) s = .next u ∧ (u.port p.toNat).rxQ = rest ∧
        ∃ y, u.slotAt key = some y ∧ y.tokens = x.tokens ++ [q]) ∧
      (Delivered s p 3 m g rest → fieldAt m.payload 0 4 = 0 → x.transfers = [] → 2 < x.size → x.rank = 0 →
        ∃ u, exec (.msgDone p) s = .next u ∧ (u.port p.toNat).rxQ = rest ∧ ∃ y, u.slotAt key = some y ∧ y.doneFrom = [q])) ∧
    (x.sop = 7 → x.laid = false → q < x.size → q ∉ x.countsFrom → (∃ r, r < x.size ∧ r ≠ q ∧ r ∉ x.countsFrom) →
      Delivered s p 2 m g rest → x.transfers = [] → ∃ u, exec (.msgCounts p) s = .next u ∧ (u.port p.toNat).rxQ = rest ∧
        ∃ y, u.slotAt key = some y ∧ y.countsFrom = x.countsFrom ++ [q]) ∧
    (x.sop = 6 → x.etype = 0 → x.chk = false → x.grantsIn = [] → x.b0.getLsbD 9 = true → s.lead x.tile = x.tile → CleanStore s x.tile →
      Delivered s p 0 m g rest → m.payload.length % 64 = 0 →
      (∃ t tr, x.landing m (fun k => m.offset.toNat / k) (fun k => m.payload.length / k) = some (t, tr) ∧ tr.fin = true) →
      let a := x.addr 4 + 64 * m.offset.toNat
      a + m.payload.length ≤ s.span x.tile → a + m.payload.length ≤ 2 ^ 23 →
      ∃ u, exec (.msgData p) s = .next u ∧ (u.port p.toNat).rxQ = rest ∧ storeBytes u x.tile a m.payload.length = m.payload)) ∧
  (∀ (s : State) (p : PortCode) (m : Msg) (g : Group) (rest : List (Msg × BitVec 3 × Bool × Nat)),
    (Delivered s p 1 m g rest → s.slotOf g m.seq = none → s.earlyCount g.ctx < 4096 → ∃ u, exec (.msgCts p) s = .next u ∧
      (u.port p.toNat).rxQ = rest ∧ u.sh.early = s.sh.early ++ [(g.ctx, m.gid, m.seq, ctsOf m)]) ∧
    (∀ key x, Delivered s p 5 m g rest → s.slotOf g m.seq = some key → s.slotAt key = some x → s.formed x.part = true →
      ∃ u, exec (.msgAbort p) s = .next u ∧ u.slotAt key = none ∧ (u.part x.part).state = 2)) ∧
  (∀ (s v : State) (p : PortCode) (m : Msg) (b : Binding), OutingDelivered s p 9 m b v → s.position b = none →
    BitVec.ofNat 32 (fieldAt m.payload 0 4) = b.a + 1 →
    ∃ u y, exec (.msgReceipt p) s = .next u ∧ u.binding b.gid = some y ∧ y.accepted = b.accepted ∧
      ∃ e ∈ y.receipts, e.outno = b.a + 1 ∧ e.rank = m.srank.toNat)
end

