-- ==== Sys2Proof/Laws/Maps.lean ====
section
/-! SUPPORT. Maps with natural-number keys: what is read after a write, and that every operation keeps the canonical form. -/

namespace Sys2Proof.Machine

variable {α : Type}

@[simp] theorem mapGet_nil (d : α) (k : Nat) : mapGet d [] k = d := rfl

theorem mapGet_mapErase_same (d : α) (m : SMap α) (k : Nat) : mapGet d (mapErase m k) k = d := by
  induction m with
  | nil => rfl
  | cons e m ih =>
    obtain ⟨j, w⟩ := e
    by_cases h : j = k <;> simp [mapErase, mapGet, h, ih]

theorem mapGet_mapErase_other (d : α) (m : SMap α) {k j : Nat} (h : j ≠ k) : mapGet d (mapErase m k) j = mapGet d m j := by
  induction m with
  | nil => rfl
  | cons e m ih =>
    obtain ⟨i, w⟩ := e
    by_cases hi : i = k
    · subst hi
      simp [mapErase, mapGet, ih, Ne.symm h]
    · simp [mapErase, mapGet, hi, ih]

theorem mapGet_mapInsert_other (d v : α) (m : SMap α) {k j : Nat} (h : j ≠ k) :
    mapGet d (mapInsert m k v) j = mapGet d m j := by
  induction m with
  | nil => simp [mapInsert, mapGet, Ne.symm h]
  | cons e m ih =>
    obtain ⟨i, w⟩ := e
    by_cases hi : k < i
    · simp [mapInsert, mapGet, hi, Ne.symm h]
    · simp [mapInsert, mapGet, hi, ih]

theorem mapGet_mapInsert_same (d v : α) (m : SMap α) (k : Nat) (h : ∀ e ∈ m, e.1 ≠ k) : mapGet d (mapInsert m k v) k = v := by
  induction m with
  | nil => simp [mapInsert, mapGet]
  | cons e m ih =>
    obtain ⟨i, w⟩ := e
    have hi : i ≠ k := h (i, w) (by simp)
    have hm : ∀ e ∈ m, e.1 ≠ k := fun e he => h e (by simp [he])
    by_cases hk : k < i
    · simp [mapInsert, mapGet, hk]
    · simp [mapInsert, mapGet, hk, hi, ih hm]

theorem mapErase_keys (m : SMap α) (k : Nat) : ∀ e ∈ mapErase m k, e.1 ≠ k := by
  induction m with
  | nil => simp [mapErase]
  | cons e m ih =>
    obtain ⟨i, w⟩ := e
    by_cases hi : i = k
    · simpa [mapErase, hi] using ih
    · intro e he
      rcases (by simpa [mapErase, hi] using he : e = (i, w) ∨ e ∈ mapErase m k) with rfl | h'
      · exact hi
      · exact ih e h'

/-- What is written at a key is read there. -/
@[simp] theorem mapGet_mapSet_same [DecidableEq α] (d v : α) (m : SMap α) (k : Nat) : mapGet d (mapSet d m k v) k = v := by
  unfold mapSet
  split
  next h => rw [mapGet_mapErase_same, h]
  next => exact mapGet_mapInsert_same d v _ k (mapErase_keys m k)

/-- A write leaves every other key alone. -/
theorem mapGet_mapSet_other [DecidableEq α] (d v : α) (m : SMap α) {k j : Nat} (h : j ≠ k) :
    mapGet d (mapSet d m k v) j = mapGet d m j := by
  unfold mapSet
  split
  · exact mapGet_mapErase_other d m h
  · rw [mapGet_mapInsert_other d v _ h, mapGet_mapErase_other d m h]

/-- A map read after a write. -/
theorem mapGet_mapSet [DecidableEq α] (d v : α) (m : SMap α) (k j : Nat) :
    mapGet d (mapSet d m k v) j = if j = k then v else mapGet d m j := by
  split
  next h => rw [h, mapGet_mapSet_same]
  next h => exact mapGet_mapSet_other d v m h

/-! ### The canonical form -/

/-- The canonical form of a map whose keys are all above a bound. -/
def mapAbove [DecidableEq α] (d : α) : SMap α → Option Nat → Prop
  | [], _ => True
  | (k, v) :: m, lo => v ≠ d ∧ (∀ b ∈ lo, b < k) ∧ mapAbove d m (some k)

theorem mapWf_iff [DecidableEq α] (d : α) (m : SMap α) : mapWf d m = true ↔ mapAbove d m none := by
  have go : ∀ (m : SMap α) (k : Nat) (v : α), mapWf d ((k, v) :: m) = true ↔ v ≠ d ∧ mapAbove d m (some k) := by
    intro m
    induction m with
    | nil => intro k v; simp [mapWf, mapAbove]
    | cons e m ih =>
      obtain ⟨j, w⟩ := e
      intro k v
      simp only [mapWf, Bool.and_eq_true, decide_eq_true_eq, ih, mapAbove]
      simp
      tauto
  cases m with
  | nil => simp [mapWf, mapAbove]
  | cons e m =>
    obtain ⟨k, v⟩ := e
    rw [go]
    simp [mapAbove]

theorem mapAbove_weaken [DecidableEq α] {d : α} {m : SMap α} {lo : Option Nat} (h : mapAbove d m lo) {lo' : Option Nat}
    (hl : ∀ b ∈ lo', ∃ a ∈ lo, b ≤ a) : mapAbove d m lo' := by
  cases m with
  | nil => trivial
  | cons e m =>
    obtain ⟨k, v⟩ := e
    obtain ⟨h1, h2, h3⟩ := h
    refine ⟨h1, ?_, h3⟩
    intro b hb
    obtain ⟨a, ha, hab⟩ := hl b hb
    exact lt_of_le_of_lt hab (h2 a ha)

theorem mapAbove_erase [DecidableEq α] {d : α} {m : SMap α} {lo : Option Nat} (k : Nat) (h : mapAbove d m lo) :
    mapAbove d (mapErase m k) lo := by
  induction m generalizing lo with
  | nil => exact h
  | cons e m ih =>
    obtain ⟨j, w⟩ := e
    obtain ⟨h1, h2, h3⟩ := h
    by_cases hj : j = k
    · simp only [mapErase, hj, if_true]
      refine ih (mapAbove_weaken h3 ?_)
      intro b hb
      exact ⟨j, rfl, le_of_lt (h2 b hb)⟩
    · simp only [mapErase, hj, if_false]
      exact ⟨h1, h2, ih h3⟩

theorem mapAbove_insert [DecidableEq α] {d v : α} {m : SMap α} {lo : Option Nat} {k : Nat} (hv : v ≠ d)
    (h : mapAbove d m lo) (hk : ∀ e ∈ m, e.1 ≠ k) (hlo : ∀ b ∈ lo, b < k) : mapAbove d (mapInsert m k v) lo := by
  induction m generalizing lo with
  | nil => exact ⟨hv, hlo, trivial⟩
  | cons e m ih =>
    obtain ⟨j, w⟩ := e
    obtain ⟨h1, h2, h3⟩ := h
    by_cases hj : k < j
    · simp only [mapInsert, hj, if_true]
      refine ⟨hv, hlo, h1, ?_, h3⟩
      intro b hb
      have : b = k := by simpa using hb.symm
      omega
    · simp only [mapInsert, hj, if_false]
      have hne : j ≠ k := hk (j, w) (by simp)
      refine ⟨h1, h2, ih h3 (fun e he => hk e (by simp [he])) ?_⟩
      intro b hb
      have : b = j := by simpa using hb.symm
      omega

/-- A write keeps a map canonical. -/
theorem mapWf_mapSet [DecidableEq α] {d : α} {m : SMap α} (k : Nat) (v : α) (h : mapWf d m = true) :
    mapWf d (mapSet d m k v) = true := by
  rw [mapWf_iff] at *
  unfold mapSet
  split
  · exact mapAbove_erase k h
  next hv => exact mapAbove_insert hv (mapAbove_erase k h) (mapErase_keys m k) (by simp)

/-- A map changed value by value. -/
theorem mapGet_mapEach [DecidableEq α] (d : α) (m : SMap α) (f : α → α) (hf : f d = d) (k : Nat) :
    mapGet d (mapEach d m f) k = f (mapGet d m k) := by
  have hno : ∀ m : SMap α, k ∉ m.map (·.1) → mapGet d m k = d := by
    intro m h
    induction m with
    | nil => rfl
    | cons e m ih =>
      simp only [List.map_cons, List.mem_cons, not_or] at h
      unfold mapGet
      rw [if_neg (Ne.symm h.1)]
      exact ih h.2
  have key : ∀ (ks : List Nat) (a : SMap α),
      mapGet d (ks.foldl (fun a k => mapSet d a k (f (mapGet d m k))) a) k = if k ∈ ks then f (mapGet d m k) else mapGet d a k := by
    intro ks
    induction ks with
    | nil => intro a; simp
    | cons j ks ih =>
      intro a
      rw [List.foldl_cons, ih, mapGet_mapSet]
      by_cases h : k ∈ ks
      · simp [h]
      · by_cases e : k = j
        · simp [e]
        · simp [h, e]
  unfold mapEach
  rw [key]
  split
  · rfl
  · rename_i h; rw [hno m h, hf]

theorem mapWf_mapEach [DecidableEq α] (d : α) (m : SMap α) (f : α → α) (h : mapWf d m = true) : mapWf d (mapEach d m f) = true := by
  unfold mapEach
  generalize m.map (·.1) = ks
  have key : ∀ (ks : List Nat) (a : SMap α), mapWf d a = true → mapWf d (ks.foldl (fun a k => mapSet d a k (f (mapGet d m k))) a) = true := by
    intro ks
    induction ks with
    | nil => exact fun a h => h
    | cons k ks ih => exact fun a h => ih _ (mapWf_mapSet k _ h)
  exact key ks m h

theorem mapAbove_filter [DecidableEq α] {d : α} (g : Nat × α → Bool) {m : SMap α} {lo : Option Nat} (h : mapAbove d m lo) :
    mapAbove d (m.filter g) lo := by
  induction m generalizing lo with
  | nil => exact h
  | cons e m ih =>
    obtain ⟨j, w⟩ := e
    obtain ⟨h1, h2, h3⟩ := h
    rw [List.filter_cons]
    split
    · exact ⟨h1, h2, ih h3⟩
    · exact ih (mapAbove_weaken h3 fun b hb => ⟨j, rfl, le_of_lt (h2 b hb)⟩)

/-- A map with entries taken away stays canonical. -/
theorem mapWf_filter [DecidableEq α] {d : α} (g : Nat × α → Bool) {m : SMap α} (h : mapWf d m = true) : mapWf d (m.filter g) = true := by
  rw [mapWf_iff] at *
  exact mapAbove_filter g h

theorem mapGet_filter (d : α) (g : Nat → Bool) (m : SMap α) (k : Nat) :
    mapGet d (m.filter fun e => g e.1) k = if g k then mapGet d m k else d := by
  induction m with
  | nil => simp
  | cons e m ih =>
    obtain ⟨j, w⟩ := e
    rw [List.filter_cons]
    by_cases hj : j = k
    · subst hj
      by_cases hg : g j = true
      · simp [hg, mapGet]
      · simp [hg, mapGet, ih]
    · by_cases hg : g j = true
      · simp [hg, mapGet, hj, ih]
      · simp [hg, mapGet, hj, ih]

/-- A string written keeps a byte store canonical. -/
theorem Memory.wf_writeCells {m : List Host.Cell} (a : Nat) (bs : Bytes) (h : Memory.wf m = true) :
    Memory.wf (writeCells m a bs) = true := by
  induction bs generalizing m a with
  | nil => exact h
  | cons b bs ih => exact ih (a + 1) (mapWf_mapSet a b h)

/-- A byte below or beyond a written string reads as before. -/
theorem mapGet_writeCells_outside (m : List Host.Cell) (a : Nat) (bs : Bytes) (i : Nat) (h : i < a ∨ a + bs.length ≤ i) :
    mapGet (0 : Byte) (writeCells m a bs) i = mapGet 0 m i := by
  induction bs generalizing m a with
  | nil => rfl
  | cons b bs ih =>
    simp only [writeCells, List.length_cons] at *
    rw [ih (mapSet 0 m a b) (a + 1) (by omega), mapGet_mapSet_other (0 : Byte) b m (by omega : i ≠ a)]

/-- A byte of a written string reads as written. -/
theorem mapGet_writeCells_inside (m : List Host.Cell) (a : Nat) (bs : Bytes) (i : Nat) (h : i < bs.length) :
    mapGet (0 : Byte) (writeCells m a bs) (a + i) = bs[i] := by
  induction bs generalizing m a i with
  | nil => simp at h
  | cons b bs ih =>
    cases i with
    | zero =>
      simp only [writeCells, Nat.add_zero, List.getElem_cons_zero]
      rw [mapGet_writeCells_outside _ _ _ _ (Or.inl (by omega)), mapGet_mapSet_same]
    | succ i =>
      simp only [writeCells, List.getElem_cons_succ]
      have := ih (mapSet 0 m a b) (a + 1) i (by simpa using h)
      rw [← this]
      congr 1
      omega

end Sys2Proof.Machine
end

