-- ==== Sys2Proof/Laws/State.lean ====
section
/-! SUPPORT. The state after each update: every field but the one an update names stands as it was, and what is written is what is
read. -/

namespace Sys2Proof.Machine

/-! ### A tile replaced -/

@[simp] theorem State.setTile_pending (s : State) (t : Path) (x : Tile) : (s.setTile t x).pending = s.pending := rfl
@[simp] theorem State.setTile_now (s : State) (t : Path) (x : Tile) : (s.setTile t x).now = s.now := rfl
@[simp] theorem State.setTile_island (s : State) (t : Path) (x : Tile) : (s.setTile t x).island = s.island := rfl
@[simp] theorem State.setTile_free (s : State) (t : Path) (x : Tile) : (s.setTile t x).free = s.free := rfl
@[simp] theorem State.setTile_fatal (s : State) (t : Path) (x : Tile) : (s.setTile t x).fatal = s.fatal := rfl
@[simp] theorem State.setTile_wins (s : State) (t : Path) (x : Tile) : (s.setTile t x).wins = s.wins := rfl
@[simp] theorem State.setTile_clusters (s : State) (t : Path) (x : Tile) : (s.setTile t x).clusters = s.clusters := rfl
@[simp] theorem State.setTile_dies (s : State) (t : Path) (x : Tile) : (s.setTile t x).dies = s.dies := rfl
@[simp] theorem State.setTile_parts (s : State) (t : Path) (x : Tile) : (s.setTile t x).parts = s.parts := rfl
@[simp] theorem State.setTile_mem (s : State) (t : Path) (x : Tile) : (s.setTile t x).mem = s.mem := rfl
@[simp] theorem State.setTile_ports (s : State) (t : Path) (x : Tile) : (s.setTile t x).ports = s.ports := rfl
@[simp] theorem State.setTile_sh (s : State) (t : Path) (x : Tile) : (s.setTile t x).sh = s.sh := rfl
@[simp] theorem State.setTile_bindings (s : State) (t : Path) (x : Tile) : (s.setTile t x).bindings = s.bindings := rfl
@[simp] theorem State.setTile_time (s : State) (t : Path) (x : Tile) : (s.setTile t x).time = s.time := rfl
@[simp] theorem State.setTile_integ (s : State) (t : Path) (x : Tile) : (s.setTile t x).integ = s.integ := rfl
@[simp] theorem State.setTile_sec (s : State) (t : Path) (x : Tile) : (s.setTile t x).sec = s.sec := rfl
@[simp] theorem State.setTile_mgmt (s : State) (t : Path) (x : Tile) : (s.setTile t x).mgmt = s.mgmt := rfl
@[simp] theorem State.setTile_tag (s : State) (t : Path) (x : Tile) : (s.setTile t x).tag = s.tag := rfl
@[simp] theorem State.setTile_pwr (s : State) (t : Path) (x : Tile) : (s.setTile t x).pwr = s.pwr := rfl
@[simp] theorem State.setTile_trace (s : State) (t : Path) (x : Tile) : (s.setTile t x).trace = s.trace := rfl
@[simp] theorem State.setTile_host (s : State) (t : Path) (x : Tile) : (s.setTile t x).host = s.host := rfl

/-! ### A tile changed -/

@[simp] theorem State.modTile_pending (s : State) (t : Path) (f : Tile → Tile) : (s.modTile t f).pending = s.pending := rfl
@[simp] theorem State.modTile_now (s : State) (t : Path) (f : Tile → Tile) : (s.modTile t f).now = s.now := rfl
@[simp] theorem State.modTile_island (s : State) (t : Path) (f : Tile → Tile) : (s.modTile t f).island = s.island := rfl
@[simp] theorem State.modTile_free (s : State) (t : Path) (f : Tile → Tile) : (s.modTile t f).free = s.free := rfl
@[simp] theorem State.modTile_fatal (s : State) (t : Path) (f : Tile → Tile) : (s.modTile t f).fatal = s.fatal := rfl
@[simp] theorem State.modTile_wins (s : State) (t : Path) (f : Tile → Tile) : (s.modTile t f).wins = s.wins := rfl
@[simp] theorem State.modTile_clusters (s : State) (t : Path) (f : Tile → Tile) : (s.modTile t f).clusters = s.clusters := rfl
@[simp] theorem State.modTile_dies (s : State) (t : Path) (f : Tile → Tile) : (s.modTile t f).dies = s.dies := rfl
@[simp] theorem State.modTile_parts (s : State) (t : Path) (f : Tile → Tile) : (s.modTile t f).parts = s.parts := rfl
@[simp] theorem State.modTile_mem (s : State) (t : Path) (f : Tile → Tile) : (s.modTile t f).mem = s.mem := rfl
@[simp] theorem State.modTile_ports (s : State) (t : Path) (f : Tile → Tile) : (s.modTile t f).ports = s.ports := rfl
@[simp] theorem State.modTile_sh (s : State) (t : Path) (f : Tile → Tile) : (s.modTile t f).sh = s.sh := rfl
@[simp] theorem State.modTile_bindings (s : State) (t : Path) (f : Tile → Tile) : (s.modTile t f).bindings = s.bindings := rfl
@[simp] theorem State.modTile_time (s : State) (t : Path) (f : Tile → Tile) : (s.modTile t f).time = s.time := rfl
@[simp] theorem State.modTile_integ (s : State) (t : Path) (f : Tile → Tile) : (s.modTile t f).integ = s.integ := rfl
@[simp] theorem State.modTile_sec (s : State) (t : Path) (f : Tile → Tile) : (s.modTile t f).sec = s.sec := rfl
@[simp] theorem State.modTile_mgmt (s : State) (t : Path) (f : Tile → Tile) : (s.modTile t f).mgmt = s.mgmt := rfl
@[simp] theorem State.modTile_tag (s : State) (t : Path) (f : Tile → Tile) : (s.modTile t f).tag = s.tag := rfl
@[simp] theorem State.modTile_pwr (s : State) (t : Path) (f : Tile → Tile) : (s.modTile t f).pwr = s.pwr := rfl
@[simp] theorem State.modTile_trace (s : State) (t : Path) (f : Tile → Tile) : (s.modTile t f).trace = s.trace := rfl
@[simp] theorem State.modTile_host (s : State) (t : Path) (f : Tile → Tile) : (s.modTile t f).host = s.host := rfl

/-! ### A cluster changed -/

@[simp] theorem State.modCluster_pending (s : State) (k : Nat) (f : Cluster → Cluster) : (s.modCluster k f).pending = s.pending := rfl
@[simp] theorem State.modCluster_now (s : State) (k : Nat) (f : Cluster → Cluster) : (s.modCluster k f).now = s.now := rfl
@[simp] theorem State.modCluster_island (s : State) (k : Nat) (f : Cluster → Cluster) : (s.modCluster k f).island = s.island := rfl
@[simp] theorem State.modCluster_free (s : State) (k : Nat) (f : Cluster → Cluster) : (s.modCluster k f).free = s.free := rfl
@[simp] theorem State.modCluster_fatal (s : State) (k : Nat) (f : Cluster → Cluster) : (s.modCluster k f).fatal = s.fatal := rfl
@[simp] theorem State.modCluster_tiles (s : State) (k : Nat) (f : Cluster → Cluster) : (s.modCluster k f).tiles = s.tiles := rfl
@[simp] theorem State.modCluster_wins (s : State) (k : Nat) (f : Cluster → Cluster) : (s.modCluster k f).wins = s.wins := rfl
@[simp] theorem State.modCluster_dies (s : State) (k : Nat) (f : Cluster → Cluster) : (s.modCluster k f).dies = s.dies := rfl
@[simp] theorem State.modCluster_parts (s : State) (k : Nat) (f : Cluster → Cluster) : (s.modCluster k f).parts = s.parts := rfl
@[simp] theorem State.modCluster_mem (s : State) (k : Nat) (f : Cluster → Cluster) : (s.modCluster k f).mem = s.mem := rfl
@[simp] theorem State.modCluster_ports (s : State) (k : Nat) (f : Cluster → Cluster) : (s.modCluster k f).ports = s.ports := rfl
@[simp] theorem State.modCluster_sh (s : State) (k : Nat) (f : Cluster → Cluster) : (s.modCluster k f).sh = s.sh := rfl
@[simp] theorem State.modCluster_bindings (s : State) (k : Nat) (f : Cluster → Cluster) : (s.modCluster k f).bindings = s.bindings := rfl
@[simp] theorem State.modCluster_time (s : State) (k : Nat) (f : Cluster → Cluster) : (s.modCluster k f).time = s.time := rfl
@[simp] theorem State.modCluster_integ (s : State) (k : Nat) (f : Cluster → Cluster) : (s.modCluster k f).integ = s.integ := rfl
@[simp] theorem State.modCluster_sec (s : State) (k : Nat) (f : Cluster → Cluster) : (s.modCluster k f).sec = s.sec := rfl
@[simp] theorem State.modCluster_mgmt (s : State) (k : Nat) (f : Cluster → Cluster) : (s.modCluster k f).mgmt = s.mgmt := rfl
@[simp] theorem State.modCluster_tag (s : State) (k : Nat) (f : Cluster → Cluster) : (s.modCluster k f).tag = s.tag := rfl
@[simp] theorem State.modCluster_pwr (s : State) (k : Nat) (f : Cluster → Cluster) : (s.modCluster k f).pwr = s.pwr := rfl
@[simp] theorem State.modCluster_trace (s : State) (k : Nat) (f : Cluster → Cluster) : (s.modCluster k f).trace = s.trace := rfl
@[simp] theorem State.modCluster_host (s : State) (k : Nat) (f : Cluster → Cluster) : (s.modCluster k f).host = s.host := rfl

/-! ### A die changed -/

@[simp] theorem State.modDie_pending (s : State) (d : Nat) (f : Die → Die) : (s.modDie d f).pending = s.pending := rfl
@[simp] theorem State.modDie_now (s : State) (d : Nat) (f : Die → Die) : (s.modDie d f).now = s.now := rfl
@[simp] theorem State.modDie_island (s : State) (d : Nat) (f : Die → Die) : (s.modDie d f).island = s.island := rfl
@[simp] theorem State.modDie_free (s : State) (d : Nat) (f : Die → Die) : (s.modDie d f).free = s.free := rfl
@[simp] theorem State.modDie_fatal (s : State) (d : Nat) (f : Die → Die) : (s.modDie d f).fatal = s.fatal := rfl
@[simp] theorem State.modDie_tiles (s : State) (d : Nat) (f : Die → Die) : (s.modDie d f).tiles = s.tiles := rfl
@[simp] theorem State.modDie_wins (s : State) (d : Nat) (f : Die → Die) : (s.modDie d f).wins = s.wins := rfl
@[simp] theorem State.modDie_clusters (s : State) (d : Nat) (f : Die → Die) : (s.modDie d f).clusters = s.clusters := rfl
@[simp] theorem State.modDie_parts (s : State) (d : Nat) (f : Die → Die) : (s.modDie d f).parts = s.parts := rfl
@[simp] theorem State.modDie_mem (s : State) (d : Nat) (f : Die → Die) : (s.modDie d f).mem = s.mem := rfl
@[simp] theorem State.modDie_ports (s : State) (d : Nat) (f : Die → Die) : (s.modDie d f).ports = s.ports := rfl
@[simp] theorem State.modDie_sh (s : State) (d : Nat) (f : Die → Die) : (s.modDie d f).sh = s.sh := rfl
@[simp] theorem State.modDie_bindings (s : State) (d : Nat) (f : Die → Die) : (s.modDie d f).bindings = s.bindings := rfl
@[simp] theorem State.modDie_time (s : State) (d : Nat) (f : Die → Die) : (s.modDie d f).time = s.time := rfl
@[simp] theorem State.modDie_integ (s : State) (d : Nat) (f : Die → Die) : (s.modDie d f).integ = s.integ := rfl
@[simp] theorem State.modDie_sec (s : State) (d : Nat) (f : Die → Die) : (s.modDie d f).sec = s.sec := rfl
@[simp] theorem State.modDie_mgmt (s : State) (d : Nat) (f : Die → Die) : (s.modDie d f).mgmt = s.mgmt := rfl
@[simp] theorem State.modDie_tag (s : State) (d : Nat) (f : Die → Die) : (s.modDie d f).tag = s.tag := rfl
@[simp] theorem State.modDie_pwr (s : State) (d : Nat) (f : Die → Die) : (s.modDie d f).pwr = s.pwr := rfl
@[simp] theorem State.modDie_trace (s : State) (d : Nat) (f : Die → Die) : (s.modDie d f).trace = s.trace := rfl
@[simp] theorem State.modDie_host (s : State) (d : Nat) (f : Die → Die) : (s.modDie d f).host = s.host := rfl

/-! ### A partition changed -/

@[simp] theorem State.modPart_pending (s : State) (p : Nat) (f : Part → Part) : (s.modPart p f).pending = s.pending := rfl
@[simp] theorem State.modPart_now (s : State) (p : Nat) (f : Part → Part) : (s.modPart p f).now = s.now := rfl
@[simp] theorem State.modPart_island (s : State) (p : Nat) (f : Part → Part) : (s.modPart p f).island = s.island := rfl
@[simp] theorem State.modPart_free (s : State) (p : Nat) (f : Part → Part) : (s.modPart p f).free = s.free := rfl
@[simp] theorem State.modPart_fatal (s : State) (p : Nat) (f : Part → Part) : (s.modPart p f).fatal = s.fatal := rfl
@[simp] theorem State.modPart_tiles (s : State) (p : Nat) (f : Part → Part) : (s.modPart p f).tiles = s.tiles := rfl
@[simp] theorem State.modPart_wins (s : State) (p : Nat) (f : Part → Part) : (s.modPart p f).wins = s.wins := rfl
@[simp] theorem State.modPart_clusters (s : State) (p : Nat) (f : Part → Part) : (s.modPart p f).clusters = s.clusters := rfl
@[simp] theorem State.modPart_dies (s : State) (p : Nat) (f : Part → Part) : (s.modPart p f).dies = s.dies := rfl
@[simp] theorem State.modPart_mem (s : State) (p : Nat) (f : Part → Part) : (s.modPart p f).mem = s.mem := rfl
@[simp] theorem State.modPart_ports (s : State) (p : Nat) (f : Part → Part) : (s.modPart p f).ports = s.ports := rfl
@[simp] theorem State.modPart_sh (s : State) (p : Nat) (f : Part → Part) : (s.modPart p f).sh = s.sh := rfl
@[simp] theorem State.modPart_bindings (s : State) (p : Nat) (f : Part → Part) : (s.modPart p f).bindings = s.bindings := rfl
@[simp] theorem State.modPart_time (s : State) (p : Nat) (f : Part → Part) : (s.modPart p f).time = s.time := rfl
@[simp] theorem State.modPart_integ (s : State) (p : Nat) (f : Part → Part) : (s.modPart p f).integ = s.integ := rfl
@[simp] theorem State.modPart_sec (s : State) (p : Nat) (f : Part → Part) : (s.modPart p f).sec = s.sec := rfl
@[simp] theorem State.modPart_mgmt (s : State) (p : Nat) (f : Part → Part) : (s.modPart p f).mgmt = s.mgmt := rfl
@[simp] theorem State.modPart_tag (s : State) (p : Nat) (f : Part → Part) : (s.modPart p f).tag = s.tag := rfl
@[simp] theorem State.modPart_pwr (s : State) (p : Nat) (f : Part → Part) : (s.modPart p f).pwr = s.pwr := rfl
@[simp] theorem State.modPart_trace (s : State) (p : Nat) (f : Part → Part) : (s.modPart p f).trace = s.trace := rfl
@[simp] theorem State.modPart_host (s : State) (p : Nat) (f : Part → Part) : (s.modPart p f).host = s.host := rfl

/-! ### A port changed -/

@[simp] theorem State.modPort_pending (s : State) (c : Nat) (f : Port → Port) : (s.modPort c f).pending = s.pending := rfl
@[simp] theorem State.modPort_now (s : State) (c : Nat) (f : Port → Port) : (s.modPort c f).now = s.now := rfl
@[simp] theorem State.modPort_island (s : State) (c : Nat) (f : Port → Port) : (s.modPort c f).island = s.island := rfl
@[simp] theorem State.modPort_free (s : State) (c : Nat) (f : Port → Port) : (s.modPort c f).free = s.free := rfl
@[simp] theorem State.modPort_fatal (s : State) (c : Nat) (f : Port → Port) : (s.modPort c f).fatal = s.fatal := rfl
@[simp] theorem State.modPort_tiles (s : State) (c : Nat) (f : Port → Port) : (s.modPort c f).tiles = s.tiles := rfl
@[simp] theorem State.modPort_wins (s : State) (c : Nat) (f : Port → Port) : (s.modPort c f).wins = s.wins := rfl
@[simp] theorem State.modPort_clusters (s : State) (c : Nat) (f : Port → Port) : (s.modPort c f).clusters = s.clusters := rfl
@[simp] theorem State.modPort_dies (s : State) (c : Nat) (f : Port → Port) : (s.modPort c f).dies = s.dies := rfl
@[simp] theorem State.modPort_parts (s : State) (c : Nat) (f : Port → Port) : (s.modPort c f).parts = s.parts := rfl
@[simp] theorem State.modPort_mem (s : State) (c : Nat) (f : Port → Port) : (s.modPort c f).mem = s.mem := rfl
@[simp] theorem State.modPort_sh (s : State) (c : Nat) (f : Port → Port) : (s.modPort c f).sh = s.sh := rfl
@[simp] theorem State.modPort_bindings (s : State) (c : Nat) (f : Port → Port) : (s.modPort c f).bindings = s.bindings := rfl
@[simp] theorem State.modPort_time (s : State) (c : Nat) (f : Port → Port) : (s.modPort c f).time = s.time := rfl
@[simp] theorem State.modPort_integ (s : State) (c : Nat) (f : Port → Port) : (s.modPort c f).integ = s.integ := rfl
@[simp] theorem State.modPort_sec (s : State) (c : Nat) (f : Port → Port) : (s.modPort c f).sec = s.sec := rfl
@[simp] theorem State.modPort_mgmt (s : State) (c : Nat) (f : Port → Port) : (s.modPort c f).mgmt = s.mgmt := rfl
@[simp] theorem State.modPort_tag (s : State) (c : Nat) (f : Port → Port) : (s.modPort c f).tag = s.tag := rfl
@[simp] theorem State.modPort_pwr (s : State) (c : Nat) (f : Port → Port) : (s.modPort c f).pwr = s.pwr := rfl
@[simp] theorem State.modPort_trace (s : State) (c : Nat) (f : Port → Port) : (s.modPort c f).trace = s.trace := rfl
@[simp] theorem State.modPort_host (s : State) (c : Nat) (f : Port → Port) : (s.modPort c f).host = s.host := rfl

/-! ### A trace region changed -/

@[simp] theorem State.modRegion_pending (s : State) (r : Nat) (f : Region → Region) : (s.modRegion r f).pending = s.pending := rfl
@[simp] theorem State.modRegion_now (s : State) (r : Nat) (f : Region → Region) : (s.modRegion r f).now = s.now := rfl
@[simp] theorem State.modRegion_island (s : State) (r : Nat) (f : Region → Region) : (s.modRegion r f).island = s.island := rfl
@[simp] theorem State.modRegion_free (s : State) (r : Nat) (f : Region → Region) : (s.modRegion r f).free = s.free := rfl
@[simp] theorem State.modRegion_fatal (s : State) (r : Nat) (f : Region → Region) : (s.modRegion r f).fatal = s.fatal := rfl
@[simp] theorem State.modRegion_tiles (s : State) (r : Nat) (f : Region → Region) : (s.modRegion r f).tiles = s.tiles := rfl
@[simp] theorem State.modRegion_wins (s : State) (r : Nat) (f : Region → Region) : (s.modRegion r f).wins = s.wins := rfl
@[simp] theorem State.modRegion_clusters (s : State) (r : Nat) (f : Region → Region) : (s.modRegion r f).clusters = s.clusters := rfl
@[simp] theorem State.modRegion_dies (s : State) (r : Nat) (f : Region → Region) : (s.modRegion r f).dies = s.dies := rfl
@[simp] theorem State.modRegion_parts (s : State) (r : Nat) (f : Region → Region) : (s.modRegion r f).parts = s.parts := rfl
@[simp] theorem State.modRegion_mem (s : State) (r : Nat) (f : Region → Region) : (s.modRegion r f).mem = s.mem := rfl
@[simp] theorem State.modRegion_ports (s : State) (r : Nat) (f : Region → Region) : (s.modRegion r f).ports = s.ports := rfl
@[simp] theorem State.modRegion_sh (s : State) (r : Nat) (f : Region → Region) : (s.modRegion r f).sh = s.sh := rfl
@[simp] theorem State.modRegion_bindings (s : State) (r : Nat) (f : Region → Region) : (s.modRegion r f).bindings = s.bindings := rfl
@[simp] theorem State.modRegion_time (s : State) (r : Nat) (f : Region → Region) : (s.modRegion r f).time = s.time := rfl
@[simp] theorem State.modRegion_integ (s : State) (r : Nat) (f : Region → Region) : (s.modRegion r f).integ = s.integ := rfl
@[simp] theorem State.modRegion_sec (s : State) (r : Nat) (f : Region → Region) : (s.modRegion r f).sec = s.sec := rfl
@[simp] theorem State.modRegion_mgmt (s : State) (r : Nat) (f : Region → Region) : (s.modRegion r f).mgmt = s.mgmt := rfl
@[simp] theorem State.modRegion_tag (s : State) (r : Nat) (f : Region → Region) : (s.modRegion r f).tag = s.tag := rfl
@[simp] theorem State.modRegion_pwr (s : State) (r : Nat) (f : Region → Region) : (s.modRegion r f).pwr = s.pwr := rfl
@[simp] theorem State.modRegion_host (s : State) (r : Nat) (f : Region → Region) : (s.modRegion r f).host = s.host := rfl

/-! ### Values drawn -/

@[simp] theorem State.generate_pending (s : State) (n : Nat) : (s.generate n).2.pending = s.pending := rfl
@[simp] theorem State.generate_now (s : State) (n : Nat) : (s.generate n).2.now = s.now := rfl
@[simp] theorem State.generate_island (s : State) (n : Nat) : (s.generate n).2.island = s.island := rfl
@[simp] theorem State.generate_free (s : State) (n : Nat) : (s.generate n).2.free = s.free := rfl
@[simp] theorem State.generate_fatal (s : State) (n : Nat) : (s.generate n).2.fatal = s.fatal := rfl
@[simp] theorem State.generate_tiles (s : State) (n : Nat) : (s.generate n).2.tiles = s.tiles := rfl
@[simp] theorem State.generate_wins (s : State) (n : Nat) : (s.generate n).2.wins = s.wins := rfl
@[simp] theorem State.generate_clusters (s : State) (n : Nat) : (s.generate n).2.clusters = s.clusters := rfl
@[simp] theorem State.generate_dies (s : State) (n : Nat) : (s.generate n).2.dies = s.dies := rfl
@[simp] theorem State.generate_parts (s : State) (n : Nat) : (s.generate n).2.parts = s.parts := rfl
@[simp] theorem State.generate_mem (s : State) (n : Nat) : (s.generate n).2.mem = s.mem := rfl
@[simp] theorem State.generate_ports (s : State) (n : Nat) : (s.generate n).2.ports = s.ports := rfl
@[simp] theorem State.generate_sh (s : State) (n : Nat) : (s.generate n).2.sh = s.sh := rfl
@[simp] theorem State.generate_bindings (s : State) (n : Nat) : (s.generate n).2.bindings = s.bindings := rfl
@[simp] theorem State.generate_time (s : State) (n : Nat) : (s.generate n).2.time = s.time := rfl
@[simp] theorem State.generate_integ (s : State) (n : Nat) : (s.generate n).2.integ = s.integ := rfl
@[simp] theorem State.generate_mgmt (s : State) (n : Nat) : (s.generate n).2.mgmt = s.mgmt := rfl
@[simp] theorem State.generate_tag (s : State) (n : Nat) : (s.generate n).2.tag = s.tag := rfl
@[simp] theorem State.generate_pwr (s : State) (n : Nat) : (s.generate n).2.pwr = s.pwr := rfl
@[simp] theorem State.generate_trace (s : State) (n : Nat) : (s.generate n).2.trace = s.trace := rfl
@[simp] theorem State.generate_host (s : State) (n : Nat) : (s.generate n).2.host = s.host := rfl
@[simp] theorem State.freeWord_pending (s : State) : s.freeWord.2.pending = s.pending := rfl
@[simp] theorem State.freeWord_now (s : State) : s.freeWord.2.now = s.now := rfl
@[simp] theorem State.freeWord_island (s : State) : s.freeWord.2.island = s.island := rfl
@[simp] theorem State.freeWord_fatal (s : State) : s.freeWord.2.fatal = s.fatal := rfl
@[simp] theorem State.freeWord_tiles (s : State) : s.freeWord.2.tiles = s.tiles := rfl
@[simp] theorem State.freeWord_wins (s : State) : s.freeWord.2.wins = s.wins := rfl
@[simp] theorem State.freeWord_clusters (s : State) : s.freeWord.2.clusters = s.clusters := rfl
@[simp] theorem State.freeWord_dies (s : State) : s.freeWord.2.dies = s.dies := rfl
@[simp] theorem State.freeWord_parts (s : State) : s.freeWord.2.parts = s.parts := rfl
@[simp] theorem State.freeWord_mem (s : State) : s.freeWord.2.mem = s.mem := rfl
@[simp] theorem State.freeWord_ports (s : State) : s.freeWord.2.ports = s.ports := rfl
@[simp] theorem State.freeWord_sh (s : State) : s.freeWord.2.sh = s.sh := rfl
@[simp] theorem State.freeWord_bindings (s : State) : s.freeWord.2.bindings = s.bindings := rfl
@[simp] theorem State.freeWord_time (s : State) : s.freeWord.2.time = s.time := rfl
@[simp] theorem State.freeWord_integ (s : State) : s.freeWord.2.integ = s.integ := rfl
@[simp] theorem State.freeWord_sec (s : State) : s.freeWord.2.sec = s.sec := rfl
@[simp] theorem State.freeWord_mgmt (s : State) : s.freeWord.2.mgmt = s.mgmt := rfl
@[simp] theorem State.freeWord_tag (s : State) : s.freeWord.2.tag = s.tag := rfl
@[simp] theorem State.freeWord_pwr (s : State) : s.freeWord.2.pwr = s.pwr := rfl
@[simp] theorem State.freeWord_trace (s : State) : s.freeWord.2.trace = s.trace := rfl
@[simp] theorem State.freeWord_host (s : State) : s.freeWord.2.host = s.host := rfl

/-! ### Read after write -/

@[simp] theorem State.tile_setTile_same (s : State) (t : Path) (x : Tile) : (s.setTile t x).tile t = x :=
  mapGet_mapSet_same _ _ _ _

theorem State.tile_setTile_other (s : State) {t u : Path} (x : Tile) (h : u ≠ t) : (s.setTile t x).tile u = s.tile u :=
  mapGet_mapSet_other _ _ _ fun e => h (BitVec.eq_of_toNat_eq e)

@[simp] theorem State.tile_modTile_same (s : State) (t : Path) (f : Tile → Tile) : (s.modTile t f).tile t = f (s.tile t) :=
  mapGet_mapSet_same _ _ _ _

theorem State.tile_modTile_other (s : State) {t u : Path} (f : Tile → Tile) (h : u ≠ t) : (s.modTile t f).tile u = s.tile u :=
  mapGet_mapSet_other _ _ _ fun e => h (BitVec.eq_of_toNat_eq e)

@[simp] theorem State.cluster_modCluster_same (s : State) (k : Nat) (f : Cluster → Cluster) :
    (s.modCluster k f).cluster k = f (s.cluster k) := mapGet_mapSet_same _ _ _ _

theorem State.cluster_modCluster_other (s : State) {k j : Nat} (f : Cluster → Cluster) (h : j ≠ k) :
    (s.modCluster k f).cluster j = s.cluster j := mapGet_mapSet_other _ _ _ h

@[simp] theorem State.die_modDie_same (s : State) (d : Nat) (f : Die → Die) : (s.modDie d f).die d = f (s.die d) :=
  mapGet_mapSet_same _ _ _ _

theorem State.die_modDie_other (s : State) {d j : Nat} (f : Die → Die) (h : j ≠ d) : (s.modDie d f).die j = s.die j :=
  mapGet_mapSet_other _ _ _ h

@[simp] theorem State.part_modPart_same (s : State) (p : Nat) (f : Part → Part) : (s.modPart p f).part p = f (s.part p) :=
  mapGet_mapSet_same _ _ _ _

theorem State.part_modPart_other (s : State) {p j : Nat} (f : Part → Part) (h : j ≠ p) : (s.modPart p f).part j = s.part j :=
  mapGet_mapSet_other _ _ _ h

@[simp] theorem State.port_modPort_same (s : State) (c : Nat) (f : Port → Port) : (s.modPort c f).port c = f (s.port c) :=
  mapGet_mapSet_same _ _ _ _

theorem State.port_modPort_other (s : State) {c j : Nat} (f : Port → Port) (h : j ≠ c) : (s.modPort c f).port j = s.port j :=
  mapGet_mapSet_other _ _ _ h

@[simp] theorem State.region_modRegion_same (s : State) (r : Nat) (f : Region → Region) :
    (s.modRegion r f).region r = f (s.region r) := mapGet_mapSet_same _ _ _ _

theorem State.region_modRegion_other (s : State) {r j : Nat} (f : Region → Region) (h : j ≠ r) :
    (s.modRegion r f).region j = s.region j := mapGet_mapSet_other _ _ _ h

/-! ### Reads that a tile's update leaves alone -/

@[simp] theorem State.cluster_setTile (s : State) (t : Path) (x : Tile) (k : Nat) : (s.setTile t x).cluster k = s.cluster k := rfl
@[simp] theorem State.cluster_modTile (s : State) (t : Path) (f : Tile → Tile) (k : Nat) : (s.modTile t f).cluster k = s.cluster k := rfl
@[simp] theorem State.die_setTile (s : State) (t : Path) (x : Tile) (k : Nat) : (s.setTile t x).die k = s.die k := rfl
@[simp] theorem State.die_modTile (s : State) (t : Path) (f : Tile → Tile) (k : Nat) : (s.modTile t f).die k = s.die k := rfl
@[simp] theorem State.part_setTile (s : State) (t : Path) (x : Tile) (k : Nat) : (s.setTile t x).part k = s.part k := rfl
@[simp] theorem State.part_modTile (s : State) (t : Path) (f : Tile → Tile) (k : Nat) : (s.modTile t f).part k = s.part k := rfl
@[simp] theorem State.port_setTile (s : State) (t : Path) (x : Tile) (k : Nat) : (s.setTile t x).port k = s.port k := rfl
@[simp] theorem State.port_modTile (s : State) (t : Path) (f : Tile → Tile) (k : Nat) : (s.modTile t f).port k = s.port k := rfl
@[simp] theorem State.region_setTile (s : State) (t : Path) (x : Tile) (k : Nat) : (s.setTile t x).region k = s.region k := rfl
@[simp] theorem State.region_modTile (s : State) (t : Path) (f : Tile → Tile) (k : Nat) : (s.modTile t f).region k = s.region k := rfl
@[simp] theorem State.lead_setTile (s : State) (t : Path) (x : Tile) (k : Path) : (s.setTile t x).lead k = s.lead k := rfl
@[simp] theorem State.lead_modTile (s : State) (t : Path) (f : Tile → Tile) (k : Path) : (s.modTile t f).lead k = s.lead k := rfl
@[simp] theorem State.panelWidth_setTile (s : State) (t : Path) (x : Tile) (k : Path) : (s.setTile t x).panelWidth k = s.panelWidth k := rfl
@[simp] theorem State.panelWidth_modTile (s : State) (t : Path) (f : Tile → Tile) (k : Path) : (s.modTile t f).panelWidth k = s.panelWidth k := rfl
@[simp] theorem State.members_setTile (s : State) (t : Path) (x : Tile) (k : Path) : (s.setTile t x).members k = s.members k := rfl
@[simp] theorem State.members_modTile (s : State) (t : Path) (f : Tile → Tile) (k : Path) : (s.modTile t f).members k = s.members k := rfl
@[simp] theorem State.partOf_setTile (s : State) (t : Path) (x : Tile) (k : Path) : (s.setTile t x).partOf k = s.partOf k := rfl
@[simp] theorem State.partOf_modTile (s : State) (t : Path) (f : Tile → Tile) (k : Path) : (s.modTile t f).partOf k = s.partOf k := rfl
@[simp] theorem State.repro_setTile (s : State) (t : Path) (x : Tile) (k : Path) : (s.setTile t x).repro k = s.repro k := rfl
@[simp] theorem State.repro_modTile (s : State) (t : Path) (f : Tile → Tile) (k : Path) : (s.modTile t f).repro k = s.repro k := rfl
@[simp] theorem State.clusterUp_setTile (s : State) (t : Path) (x : Tile) (k : Nat) : (s.setTile t x).clusterUp k = s.clusterUp k := rfl
@[simp] theorem State.clusterUp_modTile (s : State) (t : Path) (f : Tile → Tile) (k : Nat) : (s.modTile t f).clusterUp k = s.clusterUp k := rfl
@[simp] theorem State.ownCtx_setTile (s : State) (t : Path) (x : Tile) (k : Path) : (s.setTile t x).ownCtx k = s.ownCtx k := rfl
@[simp] theorem State.ownCtx_modTile (s : State) (t : Path) (f : Tile → Tile) (k : Path) : (s.modTile t f).ownCtx k = s.ownCtx k := rfl
@[simp] theorem State.formed_setTile (s : State) (t : Path) (x : Tile) (k : Nat) : (s.setTile t x).formed k = s.formed k := rfl
@[simp] theorem State.formed_modTile (s : State) (t : Path) (f : Tile → Tile) (k : Nat) : (s.modTile t f).formed k = s.formed k := rfl
@[simp] theorem State.ownerOf_setTile (s : State) (t : Path) (x : Tile) (k : Nat) : (s.setTile t x).ownerOf k = s.ownerOf k := rfl
@[simp] theorem State.ownerOf_modTile (s : State) (t : Path) (f : Tile → Tile) (k : Nat) : (s.modTile t f).ownerOf k = s.ownerOf k := rfl
@[simp] theorem State.poweredDown_setTile (s : State) (t : Path) (x : Tile) (k : Nat) : (s.setTile t x).poweredDown k = s.poweredDown k := rfl
@[simp] theorem State.poweredDown_modTile (s : State) (t : Path) (f : Tile → Tile) (k : Nat) : (s.modTile t f).poweredDown k = s.poweredDown k := rfl

/-! ### Registers of a tile (R40) -/

@[simp] theorem Tile.reg_zero (x : Tile) : x.reg 0 = 0 := rfl

@[simp] theorem Tile.setReg_zero (x : Tile) (v : Word) : x.setReg 0 v = x := rfl

@[simp] theorem Tile.reg_setReg_same (x : Tile) (r : Reg) (v : Word) : (x.setReg r v).reg r = if r = 0 then 0 else v := by
  unfold Tile.setReg Tile.reg
  split
  · rfl
  · exact mapGet_mapSet_same _ _ _ _

theorem Tile.reg_setReg_other (x : Tile) {r q : Reg} (v : Word) (h : q ≠ r) : (x.setReg r v).reg q = x.reg q := by
  unfold Tile.setReg Tile.reg
  split
  · rfl
  · split
    · rfl
    · exact mapGet_mapSet_other _ _ _ fun e => h (BitVec.eq_of_toNat_eq e)

@[simp] theorem Tile.setReg_pc (x : Tile) (r : Reg) (v : Word) : (x.setReg r v).pc = x.pc := by unfold Tile.setReg; split <;> rfl
@[simp] theorem Tile.setReg_delay (x : Tile) (r : Reg) (v : Word) : (x.setReg r v).delay = x.delay := by unfold Tile.setReg; split <;> rfl
@[simp] theorem Tile.setReg_shadow (x : Tile) (r : Reg) (v : Word) : (x.setReg r v).shadow = x.shadow := by unfold Tile.setReg; split <;> rfl
@[simp] theorem Tile.setReg_mode (x : Tile) (r : Reg) (v : Word) : (x.setReg r v).mode = x.mode := by unfold Tile.setReg; split <;> rfl
@[simp] theorem Tile.setReg_evbase (x : Tile) (r : Reg) (v : Word) : (x.setReg r v).evbase = x.evbase := by unfold Tile.setReg; split <;> rfl
@[simp] theorem Tile.setReg_stkLo (x : Tile) (r : Reg) (v : Word) : (x.setReg r v).stkLo = x.stkLo := by unfold Tile.setReg; split <;> rfl
@[simp] theorem Tile.setReg_stkHi (x : Tile) (r : Reg) (v : Word) : (x.setReg r v).stkHi = x.stkHi := by unfold Tile.setReg; split <;> rfl
@[simp] theorem Tile.setReg_fireBase (x : Tile) (r : Reg) (v : Word) : (x.setReg r v).fireBase = x.fireBase := by unfold Tile.setReg; split <;> rfl
@[simp] theorem Tile.setReg_lcount (x : Tile) (r : Reg) (v : Word) : (x.setReg r v).lcount = x.lcount := by unfold Tile.setReg; split <;> rfl
@[simp] theorem Tile.setReg_loops (x : Tile) (r : Reg) (v : Word) : (x.setReg r v).loops = x.loops := by unfold Tile.setReg; split <;> rfl
@[simp] theorem Tile.setReg_timeHi (x : Tile) (r : Reg) (v : Word) : (x.setReg r v).timeHi = x.timeHi := by unfold Tile.setReg; split <;> rfl
@[simp] theorem Tile.setReg_exc (x : Tile) (r : Reg) (v : Word) : (x.setReg r v).exc = x.exc := by unfold Tile.setReg; split <;> rfl
@[simp] theorem Tile.setReg_tickets (x : Tile) (r : Reg) (v : Word) : (x.setReg r v).tickets = x.tickets := by unfold Tile.setReg; split <;> rfl
@[simp] theorem Tile.setReg_run (x : Tile) (r : Reg) (v : Word) : (x.setReg r v).run = x.run := by unfold Tile.setReg; split <;> rfl
@[simp] theorem Tile.setReg_held (x : Tile) (r : Reg) (v : Word) : (x.setReg r v).held = x.held := by unfold Tile.setReg; split <;> rfl
@[simp] theorem Tile.setReg_ended (x : Tile) (r : Reg) (v : Word) : (x.setReg r v).ended = x.ended := by unfold Tile.setReg; split <;> rfl
@[simp] theorem Tile.setReg_waiting (x : Tile) (r : Reg) (v : Word) : (x.setReg r v).waiting = x.waiting := by unfold Tile.setReg; split <;> rfl
@[simp] theorem Tile.setReg_fault (x : Tile) (r : Reg) (v : Word) : (x.setReg r v).fault = x.fault := by unfold Tile.setReg; split <;> rfl
@[simp] theorem Tile.setReg_cmdQ (x : Tile) (r : Reg) (v : Word) : (x.setReg r v).cmdQ = x.cmdQ := by unfold Tile.setReg; split <;> rfl
@[simp] theorem Tile.setReg_loadQ (x : Tile) (r : Reg) (v : Word) : (x.setReg r v).loadQ = x.loadQ := by unfold Tile.setReg; split <;> rfl
@[simp] theorem Tile.setReg_storeQ (x : Tile) (r : Reg) (v : Word) : (x.setReg r v).storeQ = x.storeQ := by unfold Tile.setReg; split <;> rfl
@[simp] theorem Tile.setReg_flights (x : Tile) (r : Reg) (v : Word) : (x.setReg r v).flights = x.flights := by unfold Tile.setReg; split <;> rfl
@[simp] theorem Tile.setReg_nextId (x : Tile) (r : Reg) (v : Word) : (x.setReg r v).nextId = x.nextId := by unfold Tile.setReg; split <;> rfl
@[simp] theorem Tile.setReg_fireN (x : Tile) (r : Reg) (v : Word) : (x.setReg r v).fireN = x.fireN := by unfold Tile.setReg; split <;> rfl
@[simp] theorem Tile.setReg_crash (x : Tile) (r : Reg) (v : Word) : (x.setReg r v).crash = x.crash := by unfold Tile.setReg; split <;> rfl
@[simp] theorem Tile.setReg_ls (x : Tile) (r : Reg) (v : Word) : (x.setReg r v).ls = x.ls := by unfold Tile.setReg; split <;> rfl
@[simp] theorem Tile.setReg_lsErr (x : Tile) (r : Reg) (v : Word) : (x.setReg r v).lsErr = x.lsErr := by unfold Tile.setReg; split <;> rfl
@[simp] theorem Tile.setReg_vregs (x : Tile) (r : Reg) (v : Word) : (x.setReg r v).vregs = x.vregs := by unfold Tile.setReg; split <;> rfl
@[simp] theorem Tile.setReg_masks (x : Tile) (r : Reg) (v : Word) : (x.setReg r v).masks = x.masks := by unfold Tile.setReg; split <;> rfl
@[simp] theorem Tile.setReg_vsrb (x : Tile) (r : Reg) (v : Word) : (x.setReg r v).vsrb = x.vsrb := by unfold Tile.setReg; split <;> rfl
@[simp] theorem Tile.setReg_expSlip (x : Tile) (r : Reg) (v : Word) : (x.setReg r v).expSlip = x.expSlip := by unfold Tile.setReg; split <;> rfl
@[simp] theorem Tile.setReg_vecStopped (x : Tile) (r : Reg) (v : Word) : (x.setReg r v).vecStopped = x.vecStopped := by unfold Tile.setReg; split <;> rfl
@[simp] theorem Tile.setReg_arr (x : Tile) (r : Reg) (v : Word) : (x.setReg r v).arr = x.arr := by unfold Tile.setReg; split <;> rfl
@[simp] theorem Tile.setReg_tlb (x : Tile) (r : Reg) (v : Word) : (x.setReg r v).tlb = x.tlb := by unfold Tile.setReg; split <;> rfl
@[simp] theorem Tile.setLc_pc (x : Tile) (lv : Nat) (v : Word) : (x.setLc lv v).pc = x.pc := rfl
@[simp] theorem Tile.setLc_delay (x : Tile) (lv : Nat) (v : Word) : (x.setLc lv v).delay = x.delay := rfl
@[simp] theorem Tile.setLc_shadow (x : Tile) (lv : Nat) (v : Word) : (x.setLc lv v).shadow = x.shadow := rfl
@[simp] theorem Tile.setLc_mode (x : Tile) (lv : Nat) (v : Word) : (x.setLc lv v).mode = x.mode := rfl
@[simp] theorem Tile.setLc_evbase (x : Tile) (lv : Nat) (v : Word) : (x.setLc lv v).evbase = x.evbase := rfl
@[simp] theorem Tile.setLc_stkLo (x : Tile) (lv : Nat) (v : Word) : (x.setLc lv v).stkLo = x.stkLo := rfl
@[simp] theorem Tile.setLc_stkHi (x : Tile) (lv : Nat) (v : Word) : (x.setLc lv v).stkHi = x.stkHi := rfl
@[simp] theorem Tile.setLc_fireBase (x : Tile) (lv : Nat) (v : Word) : (x.setLc lv v).fireBase = x.fireBase := rfl
@[simp] theorem Tile.setLc_loops (x : Tile) (lv : Nat) (v : Word) : (x.setLc lv v).loops = x.loops := rfl
@[simp] theorem Tile.setLc_timeHi (x : Tile) (lv : Nat) (v : Word) : (x.setLc lv v).timeHi = x.timeHi := rfl
@[simp] theorem Tile.setLc_exc (x : Tile) (lv : Nat) (v : Word) : (x.setLc lv v).exc = x.exc := rfl
@[simp] theorem Tile.setLc_tickets (x : Tile) (lv : Nat) (v : Word) : (x.setLc lv v).tickets = x.tickets := rfl
@[simp] theorem Tile.setLc_run (x : Tile) (lv : Nat) (v : Word) : (x.setLc lv v).run = x.run := rfl
@[simp] theorem Tile.setLc_held (x : Tile) (lv : Nat) (v : Word) : (x.setLc lv v).held = x.held := rfl
@[simp] theorem Tile.setLc_ended (x : Tile) (lv : Nat) (v : Word) : (x.setLc lv v).ended = x.ended := rfl
@[simp] theorem Tile.setLc_waiting (x : Tile) (lv : Nat) (v : Word) : (x.setLc lv v).waiting = x.waiting := rfl
@[simp] theorem Tile.setLc_fault (x : Tile) (lv : Nat) (v : Word) : (x.setLc lv v).fault = x.fault := rfl
@[simp] theorem Tile.setLc_cmdQ (x : Tile) (lv : Nat) (v : Word) : (x.setLc lv v).cmdQ = x.cmdQ := rfl
@[simp] theorem Tile.setLc_loadQ (x : Tile) (lv : Nat) (v : Word) : (x.setLc lv v).loadQ = x.loadQ := rfl
@[simp] theorem Tile.setLc_storeQ (x : Tile) (lv : Nat) (v : Word) : (x.setLc lv v).storeQ = x.storeQ := rfl
@[simp] theorem Tile.setLc_flights (x : Tile) (lv : Nat) (v : Word) : (x.setLc lv v).flights = x.flights := rfl
@[simp] theorem Tile.setLc_nextId (x : Tile) (lv : Nat) (v : Word) : (x.setLc lv v).nextId = x.nextId := rfl
@[simp] theorem Tile.setLc_fireN (x : Tile) (lv : Nat) (v : Word) : (x.setLc lv v).fireN = x.fireN := rfl
@[simp] theorem Tile.setLc_crash (x : Tile) (lv : Nat) (v : Word) : (x.setLc lv v).crash = x.crash := rfl
@[simp] theorem Tile.setLc_ls (x : Tile) (lv : Nat) (v : Word) : (x.setLc lv v).ls = x.ls := rfl
@[simp] theorem Tile.setLc_lsErr (x : Tile) (lv : Nat) (v : Word) : (x.setLc lv v).lsErr = x.lsErr := rfl
@[simp] theorem Tile.setLc_vregs (x : Tile) (lv : Nat) (v : Word) : (x.setLc lv v).vregs = x.vregs := rfl
@[simp] theorem Tile.setLc_masks (x : Tile) (lv : Nat) (v : Word) : (x.setLc lv v).masks = x.masks := rfl
@[simp] theorem Tile.setLc_vsrb (x : Tile) (lv : Nat) (v : Word) : (x.setLc lv v).vsrb = x.vsrb := rfl
@[simp] theorem Tile.setLc_expSlip (x : Tile) (lv : Nat) (v : Word) : (x.setLc lv v).expSlip = x.expSlip := rfl
@[simp] theorem Tile.setLc_vecStopped (x : Tile) (lv : Nat) (v : Word) : (x.setLc lv v).vecStopped = x.vecStopped := rfl
@[simp] theorem Tile.setLc_arr (x : Tile) (lv : Nat) (v : Word) : (x.setLc lv v).arr = x.arr := rfl
@[simp] theorem Tile.setLc_tlb (x : Tile) (lv : Nat) (v : Word) : (x.setLc lv v).tlb = x.tlb := rfl
@[simp] theorem Tile.setLc_regs (x : Tile) (lv : Nat) (v : Word) : (x.setLc lv v).regs = x.regs := rfl
@[simp] theorem Tile.setLoop_pc (x : Tile) (lv : Nat) (v : Word) : (x.setLoop lv v).pc = x.pc := rfl
@[simp] theorem Tile.setLoop_delay (x : Tile) (lv : Nat) (v : Word) : (x.setLoop lv v).delay = x.delay := rfl
@[simp] theorem Tile.setLoop_shadow (x : Tile) (lv : Nat) (v : Word) : (x.setLoop lv v).shadow = x.shadow := rfl
@[simp] theorem Tile.setLoop_mode (x : Tile) (lv : Nat) (v : Word) : (x.setLoop lv v).mode = x.mode := rfl
@[simp] theorem Tile.setLoop_evbase (x : Tile) (lv : Nat) (v : Word) : (x.setLoop lv v).evbase = x.evbase := rfl
@[simp] theorem Tile.setLoop_stkLo (x : Tile) (lv : Nat) (v : Word) : (x.setLoop lv v).stkLo = x.stkLo := rfl
@[simp] theorem Tile.setLoop_stkHi (x : Tile) (lv : Nat) (v : Word) : (x.setLoop lv v).stkHi = x.stkHi := rfl
@[simp] theorem Tile.setLoop_fireBase (x : Tile) (lv : Nat) (v : Word) : (x.setLoop lv v).fireBase = x.fireBase := rfl
@[simp] theorem Tile.setLoop_lcount (x : Tile) (lv : Nat) (v : Word) : (x.setLoop lv v).lcount = x.lcount := rfl
@[simp] theorem Tile.setLoop_timeHi (x : Tile) (lv : Nat) (v : Word) : (x.setLoop lv v).timeHi = x.timeHi := rfl
@[simp] theorem Tile.setLoop_exc (x : Tile) (lv : Nat) (v : Word) : (x.setLoop lv v).exc = x.exc := rfl
@[simp] theorem Tile.setLoop_tickets (x : Tile) (lv : Nat) (v : Word) : (x.setLoop lv v).tickets = x.tickets := rfl
@[simp] theorem Tile.setLoop_run (x : Tile) (lv : Nat) (v : Word) : (x.setLoop lv v).run = x.run := rfl
@[simp] theorem Tile.setLoop_held (x : Tile) (lv : Nat) (v : Word) : (x.setLoop lv v).held = x.held := rfl
@[simp] theorem Tile.setLoop_ended (x : Tile) (lv : Nat) (v : Word) : (x.setLoop lv v).ended = x.ended := rfl
@[simp] theorem Tile.setLoop_waiting (x : Tile) (lv : Nat) (v : Word) : (x.setLoop lv v).waiting = x.waiting := rfl
@[simp] theorem Tile.setLoop_fault (x : Tile) (lv : Nat) (v : Word) : (x.setLoop lv v).fault = x.fault := rfl
@[simp] theorem Tile.setLoop_cmdQ (x : Tile) (lv : Nat) (v : Word) : (x.setLoop lv v).cmdQ = x.cmdQ := rfl
@[simp] theorem Tile.setLoop_loadQ (x : Tile) (lv : Nat) (v : Word) : (x.setLoop lv v).loadQ = x.loadQ := rfl
@[simp] theorem Tile.setLoop_storeQ (x : Tile) (lv : Nat) (v : Word) : (x.setLoop lv v).storeQ = x.storeQ := rfl
@[simp] theorem Tile.setLoop_flights (x : Tile) (lv : Nat) (v : Word) : (x.setLoop lv v).flights = x.flights := rfl
@[simp] theorem Tile.setLoop_nextId (x : Tile) (lv : Nat) (v : Word) : (x.setLoop lv v).nextId = x.nextId := rfl
@[simp] theorem Tile.setLoop_fireN (x : Tile) (lv : Nat) (v : Word) : (x.setLoop lv v).fireN = x.fireN := rfl
@[simp] theorem Tile.setLoop_crash (x : Tile) (lv : Nat) (v : Word) : (x.setLoop lv v).crash = x.crash := rfl
@[simp] theorem Tile.setLoop_ls (x : Tile) (lv : Nat) (v : Word) : (x.setLoop lv v).ls = x.ls := rfl
@[simp] theorem Tile.setLoop_lsErr (x : Tile) (lv : Nat) (v : Word) : (x.setLoop lv v).lsErr = x.lsErr := rfl
@[simp] theorem Tile.setLoop_vregs (x : Tile) (lv : Nat) (v : Word) : (x.setLoop lv v).vregs = x.vregs := rfl
@[simp] theorem Tile.setLoop_masks (x : Tile) (lv : Nat) (v : Word) : (x.setLoop lv v).masks = x.masks := rfl
@[simp] theorem Tile.setLoop_vsrb (x : Tile) (lv : Nat) (v : Word) : (x.setLoop lv v).vsrb = x.vsrb := rfl
@[simp] theorem Tile.setLoop_expSlip (x : Tile) (lv : Nat) (v : Word) : (x.setLoop lv v).expSlip = x.expSlip := rfl
@[simp] theorem Tile.setLoop_vecStopped (x : Tile) (lv : Nat) (v : Word) : (x.setLoop lv v).vecStopped = x.vecStopped := rfl
@[simp] theorem Tile.setLoop_arr (x : Tile) (lv : Nat) (v : Word) : (x.setLoop lv v).arr = x.arr := rfl
@[simp] theorem Tile.setLoop_tlb (x : Tile) (lv : Nat) (v : Word) : (x.setLoop lv v).tlb = x.tlb := rfl
@[simp] theorem Tile.setLoop_regs (x : Tile) (lv : Nat) (v : Word) : (x.setLoop lv v).regs = x.regs := rfl
@[simp] theorem Tile.addTicket_pc (x : Tile) (k : Nat) (n : Word) : (x.addTicket k n).pc = x.pc := rfl
@[simp] theorem Tile.addTicket_delay (x : Tile) (k : Nat) (n : Word) : (x.addTicket k n).delay = x.delay := rfl
@[simp] theorem Tile.addTicket_shadow (x : Tile) (k : Nat) (n : Word) : (x.addTicket k n).shadow = x.shadow := rfl
@[simp] theorem Tile.addTicket_mode (x : Tile) (k : Nat) (n : Word) : (x.addTicket k n).mode = x.mode := rfl
@[simp] theorem Tile.addTicket_evbase (x : Tile) (k : Nat) (n : Word) : (x.addTicket k n).evbase = x.evbase := rfl
@[simp] theorem Tile.addTicket_stkLo (x : Tile) (k : Nat) (n : Word) : (x.addTicket k n).stkLo = x.stkLo := rfl
@[simp] theorem Tile.addTicket_stkHi (x : Tile) (k : Nat) (n : Word) : (x.addTicket k n).stkHi = x.stkHi := rfl
@[simp] theorem Tile.addTicket_fireBase (x : Tile) (k : Nat) (n : Word) : (x.addTicket k n).fireBase = x.fireBase := rfl
@[simp] theorem Tile.addTicket_lcount (x : Tile) (k : Nat) (n : Word) : (x.addTicket k n).lcount = x.lcount := rfl
@[simp] theorem Tile.addTicket_loops (x : Tile) (k : Nat) (n : Word) : (x.addTicket k n).loops = x.loops := rfl
@[simp] theorem Tile.addTicket_timeHi (x : Tile) (k : Nat) (n : Word) : (x.addTicket k n).timeHi = x.timeHi := rfl
@[simp] theorem Tile.addTicket_exc (x : Tile) (k : Nat) (n : Word) : (x.addTicket k n).exc = x.exc := rfl
@[simp] theorem Tile.addTicket_run (x : Tile) (k : Nat) (n : Word) : (x.addTicket k n).run = x.run := rfl
@[simp] theorem Tile.addTicket_held (x : Tile) (k : Nat) (n : Word) : (x.addTicket k n).held = x.held := rfl
@[simp] theorem Tile.addTicket_ended (x : Tile) (k : Nat) (n : Word) : (x.addTicket k n).ended = x.ended := rfl
@[simp] theorem Tile.addTicket_waiting (x : Tile) (k : Nat) (n : Word) : (x.addTicket k n).waiting = x.waiting := rfl
@[simp] theorem Tile.addTicket_fault (x : Tile) (k : Nat) (n : Word) : (x.addTicket k n).fault = x.fault := rfl
@[simp] theorem Tile.addTicket_cmdQ (x : Tile) (k : Nat) (n : Word) : (x.addTicket k n).cmdQ = x.cmdQ := rfl
@[simp] theorem Tile.addTicket_loadQ (x : Tile) (k : Nat) (n : Word) : (x.addTicket k n).loadQ = x.loadQ := rfl
@[simp] theorem Tile.addTicket_storeQ (x : Tile) (k : Nat) (n : Word) : (x.addTicket k n).storeQ = x.storeQ := rfl
@[simp] theorem Tile.addTicket_flights (x : Tile) (k : Nat) (n : Word) : (x.addTicket k n).flights = x.flights := rfl
@[simp] theorem Tile.addTicket_nextId (x : Tile) (k : Nat) (n : Word) : (x.addTicket k n).nextId = x.nextId := rfl
@[simp] theorem Tile.addTicket_fireN (x : Tile) (k : Nat) (n : Word) : (x.addTicket k n).fireN = x.fireN := rfl
@[simp] theorem Tile.addTicket_crash (x : Tile) (k : Nat) (n : Word) : (x.addTicket k n).crash = x.crash := rfl
@[simp] theorem Tile.addTicket_ls (x : Tile) (k : Nat) (n : Word) : (x.addTicket k n).ls = x.ls := rfl
@[simp] theorem Tile.addTicket_lsErr (x : Tile) (k : Nat) (n : Word) : (x.addTicket k n).lsErr = x.lsErr := rfl
@[simp] theorem Tile.addTicket_vregs (x : Tile) (k : Nat) (n : Word) : (x.addTicket k n).vregs = x.vregs := rfl
@[simp] theorem Tile.addTicket_masks (x : Tile) (k : Nat) (n : Word) : (x.addTicket k n).masks = x.masks := rfl
@[simp] theorem Tile.addTicket_vsrb (x : Tile) (k : Nat) (n : Word) : (x.addTicket k n).vsrb = x.vsrb := rfl
@[simp] theorem Tile.addTicket_expSlip (x : Tile) (k : Nat) (n : Word) : (x.addTicket k n).expSlip = x.expSlip := rfl
@[simp] theorem Tile.addTicket_vecStopped (x : Tile) (k : Nat) (n : Word) : (x.addTicket k n).vecStopped = x.vecStopped := rfl
@[simp] theorem Tile.addTicket_arr (x : Tile) (k : Nat) (n : Word) : (x.addTicket k n).arr = x.arr := rfl
@[simp] theorem Tile.addTicket_tlb (x : Tile) (k : Nat) (n : Word) : (x.addTicket k n).tlb = x.tlb := rfl
@[simp] theorem Tile.addTicket_regs (x : Tile) (k : Nat) (n : Word) : (x.addTicket k n).regs = x.regs := rfl
@[simp] theorem Tile.writeLS_pc (x : Tile) (a : Nat) (bs : Bytes) : (x.writeLS a bs).pc = x.pc := rfl
@[simp] theorem Tile.writeLS_delay (x : Tile) (a : Nat) (bs : Bytes) : (x.writeLS a bs).delay = x.delay := rfl
@[simp] theorem Tile.writeLS_shadow (x : Tile) (a : Nat) (bs : Bytes) : (x.writeLS a bs).shadow = x.shadow := rfl
@[simp] theorem Tile.writeLS_mode (x : Tile) (a : Nat) (bs : Bytes) : (x.writeLS a bs).mode = x.mode := rfl
@[simp] theorem Tile.writeLS_evbase (x : Tile) (a : Nat) (bs : Bytes) : (x.writeLS a bs).evbase = x.evbase := rfl
@[simp] theorem Tile.writeLS_stkLo (x : Tile) (a : Nat) (bs : Bytes) : (x.writeLS a bs).stkLo = x.stkLo := rfl
@[simp] theorem Tile.writeLS_stkHi (x : Tile) (a : Nat) (bs : Bytes) : (x.writeLS a bs).stkHi = x.stkHi := rfl
@[simp] theorem Tile.writeLS_fireBase (x : Tile) (a : Nat) (bs : Bytes) : (x.writeLS a bs).fireBase = x.fireBase := rfl
@[simp] theorem Tile.writeLS_lcount (x : Tile) (a : Nat) (bs : Bytes) : (x.writeLS a bs).lcount = x.lcount := rfl
@[simp] theorem Tile.writeLS_loops (x : Tile) (a : Nat) (bs : Bytes) : (x.writeLS a bs).loops = x.loops := rfl
@[simp] theorem Tile.writeLS_timeHi (x : Tile) (a : Nat) (bs : Bytes) : (x.writeLS a bs).timeHi = x.timeHi := rfl
@[simp] theorem Tile.writeLS_exc (x : Tile) (a : Nat) (bs : Bytes) : (x.writeLS a bs).exc = x.exc := rfl
@[simp] theorem Tile.writeLS_tickets (x : Tile) (a : Nat) (bs : Bytes) : (x.writeLS a bs).tickets = x.tickets := rfl
@[simp] theorem Tile.writeLS_run (x : Tile) (a : Nat) (bs : Bytes) : (x.writeLS a bs).run = x.run := rfl
@[simp] theorem Tile.writeLS_held (x : Tile) (a : Nat) (bs : Bytes) : (x.writeLS a bs).held = x.held := rfl
@[simp] theorem Tile.writeLS_ended (x : Tile) (a : Nat) (bs : Bytes) : (x.writeLS a bs).ended = x.ended := rfl
@[simp] theorem Tile.writeLS_waiting (x : Tile) (a : Nat) (bs : Bytes) : (x.writeLS a bs).waiting = x.waiting := rfl
@[simp] theorem Tile.writeLS_fault (x : Tile) (a : Nat) (bs : Bytes) : (x.writeLS a bs).fault = x.fault := rfl
@[simp] theorem Tile.writeLS_cmdQ (x : Tile) (a : Nat) (bs : Bytes) : (x.writeLS a bs).cmdQ = x.cmdQ := rfl
@[simp] theorem Tile.writeLS_loadQ (x : Tile) (a : Nat) (bs : Bytes) : (x.writeLS a bs).loadQ = x.loadQ := rfl
@[simp] theorem Tile.writeLS_storeQ (x : Tile) (a : Nat) (bs : Bytes) : (x.writeLS a bs).storeQ = x.storeQ := rfl
@[simp] theorem Tile.writeLS_flights (x : Tile) (a : Nat) (bs : Bytes) : (x.writeLS a bs).flights = x.flights := rfl
@[simp] theorem Tile.writeLS_nextId (x : Tile) (a : Nat) (bs : Bytes) : (x.writeLS a bs).nextId = x.nextId := rfl
@[simp] theorem Tile.writeLS_fireN (x : Tile) (a : Nat) (bs : Bytes) : (x.writeLS a bs).fireN = x.fireN := rfl
@[simp] theorem Tile.writeLS_crash (x : Tile) (a : Nat) (bs : Bytes) : (x.writeLS a bs).crash = x.crash := rfl
@[simp] theorem Tile.writeLS_vregs (x : Tile) (a : Nat) (bs : Bytes) : (x.writeLS a bs).vregs = x.vregs := rfl
@[simp] theorem Tile.writeLS_masks (x : Tile) (a : Nat) (bs : Bytes) : (x.writeLS a bs).masks = x.masks := rfl
@[simp] theorem Tile.writeLS_vsrb (x : Tile) (a : Nat) (bs : Bytes) : (x.writeLS a bs).vsrb = x.vsrb := rfl
@[simp] theorem Tile.writeLS_expSlip (x : Tile) (a : Nat) (bs : Bytes) : (x.writeLS a bs).expSlip = x.expSlip := rfl
@[simp] theorem Tile.writeLS_vecStopped (x : Tile) (a : Nat) (bs : Bytes) : (x.writeLS a bs).vecStopped = x.vecStopped := rfl
@[simp] theorem Tile.writeLS_arr (x : Tile) (a : Nat) (bs : Bytes) : (x.writeLS a bs).arr = x.arr := rfl
@[simp] theorem Tile.writeLS_tlb (x : Tile) (a : Nat) (bs : Bytes) : (x.writeLS a bs).tlb = x.tlb := rfl
@[simp] theorem Tile.writeLS_regs (x : Tile) (a : Nat) (bs : Bytes) : (x.writeLS a bs).regs = x.regs := rfl

@[simp] theorem Tile.ticket_addTicket_same (x : Tile) (k : Nat) (n : Word) : (x.addTicket k n).ticket k = x.ticket k + n :=
  mapGet_mapSet_same _ _ _ _

theorem Tile.ticket_addTicket_other (x : Tile) {k j : Nat} (n : Word) (h : j ≠ k) : (x.addTicket k n).ticket j = x.ticket j :=
  mapGet_mapSet_other _ _ _ h

/-! ### What the end-of-loop test and the program counter's advance change (R54, R62) -/

/-- Two tiles differ at most in the program counter, the delay slot and the loop registers. -/
def Tile.sameButFlow (x y : Tile) : Prop :=
  y = { x with pc := y.pc, delay := y.delay, lcount := y.lcount, loops := y.loops }

theorem Tile.endTest_flow (lvs : List Nat) (x : Tile) : x.sameButFlow (x.endTest lvs) := by
  induction lvs generalizing x with
  | nil => rfl
  | cons lv rest ih =>
    unfold Tile.endTest
    simp only []
    split
    · split
      · rfl
      · have := ih ((x.setLc lv 0).deactivate lv)
        unfold Tile.sameButFlow at *
        rw [this]; rfl
    · exact ih x

theorem Tile.advance_flow (x : Tile) : x.sameButFlow x.advance := by
  unfold Tile.advance
  split
  · rfl
  · exact Tile.endTest_flow _ x

end Sys2Proof.Machine
end

