-- ==== Sys2Proof/Laws/Seq.lean ====
section
/-! SUPPORT. What the shared operations of the sequencer do: the V mark of an encoding, the checks before an instruction's own,
retirement, and the end-of-loop test. -/

namespace Sys2Proof.Machine

/-! ### The V mark (R47) -/

theorem insnV_encode (cls : Nat) (v : Bool) {rest : Nat} (h : rest < 2 ^ 27) : insnV (encode cls v rest) = v := by
  unfold insnV encode bit word
  rw [BitVec.getLsbD_ofNat]
  cases v
  · simp only [Bool.false_eq_true, if_false, Nat.add_zero]
    rw [Nat.testBit_eq_decide_div_mod_eq]
    have : (cls * 2 ^ 28 + rest) / 2 ^ 27 % 2 = 0 := by omega
    rw [this]; decide
  · simp only [if_true]
    rw [Nat.testBit_eq_decide_div_mod_eq]
    have : (cls * 2 ^ 28 + 2 ^ 27 + rest) / 2 ^ 27 % 2 = 1 := by omega
    rw [this]; decide

@[simp] theorem insnV_encAluR (fn : Nat) (v : Bool) (rd ra rb : Reg) (h : fn < 64) : insnV (encAluR fn v rd ra rb) = v :=
  insnV_encode _ _ (by have := rd.isLt; have := ra.isLt; have := rb.isLt; omega)

theorem insnV_encAluI (fn : Nat) (v : Bool) (rd ra : Reg) (imm : Nat) (h : fn < 8) (hi : imm < 2 ^ 14) :
    insnV (encAluI fn v rd ra imm) = v :=
  insnV_encode _ _ (by have := rd.isLt; have := ra.isLt; omega)

@[simp] theorem insnV_encLui (v : Bool) (rd : Reg) (imm : BitVec 18) : insnV (encLui v rd imm) = v :=
  insnV_encode _ _ (by have := rd.isLt; have := imm.isLt; omega)

@[simp] theorem insnV_encLs (op : Nat) (v : Bool) (rt base : Reg) (off : BitVec 15) (h : op < 4) : insnV (encLs op v rt base off) = v :=
  insnV_encode _ _ (by have := rt.isLt; have := base.isLt; have := off.isLt; omega)

@[simp] theorem insnV_encBr (cond : Nat) (v : Bool) (ra rb : Reg) (off : BitVec 14) (h : cond < 8) : insnV (encBr cond v ra rb off) = v :=
  insnV_encode _ _ (by have := ra.isLt; have := rb.isLt; have := off.isLt; omega)

@[simp] theorem insnV_encJ (kind : Nat) (v : Bool) (off : BitVec 25) (h : kind < 4) : insnV (encJ kind v off) = v :=
  insnV_encode _ _ (by have := off.isLt; omega)

@[simp] theorem insnV_encJr (kind : Nat) (v : Bool) (ra : Reg) (h : kind < 4) : insnV (encJr kind v ra) = v :=
  insnV_encode _ _ (by have := ra.isLt; omega)

@[simp] theorem insnV_encLoop (v : Bool) (level : BitVec 2) (i : Bool) (len count : BitVec 12) :
    insnV (encLoop v level i len count) = v :=
  insnV_encode _ _ (by have := level.isLt; have := len.isLt; have := count.isLt; split <;> omega)

@[simp] theorem insnV_encIssue (v : Bool) (rdesc : Reg) : insnV (encIssue v rdesc) = v :=
  insnV_encode _ _ (by have := rdesc.isLt; omega)

@[simp] theorem insnV_encTicket (op : Nat) (v : Bool) (tk : BitVec 4) (rx : Reg) (imm : BitVec 15) (h : op < 8) :
    insnV (encTicket op v tk rx imm) = v :=
  insnV_encode _ _ (by have := tk.isLt; have := rx.isLt; have := imm.isLt; omega)

@[simp] theorem insnV_encCr (dir : Nat) (v : Bool) (rx : Reg) (cr : BitVec 6) (h : dir < 2) : insnV (encCr dir v rx cr) = v :=
  insnV_encode _ _ (by have := rx.isLt; have := cr.isLt; omega)

@[simp] theorem insnV_encSys (op : Nat) (v : Bool) (imm : BitVec 16) (h : op < 16) : insnV (encSys op v imm) = v :=
  insnV_encode _ _ (by have := imm.isLt; omega)

@[simp] theorem insnV_encVec (vop : Nat) (v : Bool) (vd va vb : Reg) (m : BitVec 3) (h : vop < 64) :
    insnV (encVec vop v vd va vb m) = v :=
  insnV_encode _ _ (by have := vd.isLt; have := va.isLt; have := vb.isLt; have := m.isLt; omega)

/-! ### The checks before an instruction's own (R505) -/

/-- A word that meets none of the first two is what comes next. -/
theorem State.fetchedWord_eq (s : State) (t : Path) (insn : Word) (f : State → Path → State) (ht : activePath t = true)
    (hr : s.canRun (s.lead t) = true) (hp : (s.tile (s.lead t)).pc.toNat < 0x200000)
    (hv : insnV insn = true → s.repro (s.lead t) = false) :
    s.fetchedWord t insn f = .next (f s (s.lead t)) := by
  unfold State.fetchedWord guardUnit
  have hp' : ¬ 0x200000 ≤ (s.tile (s.lead t)).pc.toNat := by omega
  simp only [ht, if_true, hr, Bool.not_true, Bool.false_eq_true, if_false, hp']
  have h1 : (insnV insn && s.repro (s.lead t)) = false := by
    cases h : insnV insn
    · rfl
    · simp [hv h]
  simp [h1]

/-- An instruction that meets none of them is its own effect. -/
theorem State.fetched_eq (s : State) (t : Path) (insn : Word) (placed : Bool) (f : State → Path → State) (ht : activePath t = true)
    (hr : s.canRun (s.lead t) = true) (hp : (s.tile (s.lead t)).pc.toNat < 0x200000)
    (hv : insnV insn = true → s.repro (s.lead t) = false) (hd : (s.tile (s.lead t)).misplaced placed = false) :
    s.fetched t insn placed f = .next (f s (s.lead t)) := by
  unfold State.fetched
  rw [State.fetchedWord_eq s t insn _ ht hr hp hv]
  simp [hd]

/-- A misplaced one raises PLACEMENT. -/
theorem State.fetched_misplaced (s : State) (t : Path) (insn : Word) (placed : Bool) (f : State → Path → State) (ht : activePath t = true)
    (hr : s.canRun (s.lead t) = true) (hp : (s.tile (s.lead t)).pc.toNat < 0x200000)
    (hv : insnV insn = true → s.repro (s.lead t) = false) (hd : (s.tile (s.lead t)).misplaced placed = true) :
    s.fetched t insn placed f = .next (s.raiseExc (s.lead t) 2 none 0 insn) := by
  unfold State.fetched
  rw [State.fetchedWord_eq s t insn _ ht hr hp hv]
  simp [hd]

/-- Their answer is always a next state where the path names an active tile. -/
theorem State.fetched_next (s : State) (t : Path) (insn : Word) (placed : Bool) (f : State → Path → State) (ht : activePath t = true) :
    ∃ u, s.fetched t insn placed f = .next u := by
  unfold State.fetched State.fetchedWord guardUnit
  simp [ht]

/-- Neither in a delay slot nor at an LEND: no instruction is misplaced. -/
theorem Tile.misplaced_placed (x : Tile) (placed : Bool) (h1 : x.delay = none) (h2 : x.atLend = none) : x.misplaced placed = false := by
  unfold Tile.misplaced; simp [h1, h2]

/-- Not both: an instruction that R55 and R64 do not name is not misplaced. -/
theorem Tile.misplaced_free (x : Tile) (h : x.delay = none ∨ x.atLend = none) : x.misplaced false = false := by
  unfold Tile.misplaced; rcases h with h | h <;> simp [h]

/-! ### Retirement (R54, R59, R62) -/

/-- Where no level ends at the program counter the end-of-loop test only goes on. -/
theorem Tile.endTest_atLend (x : Tile) (h : x.atLend = none) : x.endTest [2, 1, 0] = { x with pc := x.pc + 4 } := by
  unfold Tile.atLend at h
  simp only [List.find?_eq_none, List.mem_cons, List.not_mem_nil, or_false, forall_eq_or_imp, forall_eq] at h
  obtain ⟨h2, h1, h0⟩ := h
  simp [Tile.endTest, h2, h1, h0]

theorem Tile.advance_delay (x : Tile) : x.advance.delay = none := by
  have hend : ∀ (lvs : List Nat) (y : Tile), (y.endTest lvs).delay = y.delay := by
    intro lvs
    induction lvs with
    | nil => intro y; rfl
    | cons lv rest ih =>
      intro y
      unfold Tile.endTest
      simp only []
      split
      · split
        · rfl
        · rw [ih]; rfl
      · exact ih y
  unfold Tile.advance
  split
  · rfl
  · rename_i h; rw [hend]; exact h

theorem Tile.advance_some (x : Tile) {d : DelaySlot} (h : x.delay = some d) :
    x.advance = { x with pc := d.target.getD (x.pc + 4), delay := none } := by
  unfold Tile.advance; rw [h]

theorem Tile.advance_none (x : Tile) (h : x.delay = none) (ha : x.atLend = none) : x.advance = { x with pc := x.pc + 4 } := by
  unfold Tile.advance
  split
  · rename_i e; rw [h] at e; cases e
  · exact Tile.endTest_atLend x ha

/-- Every field of a tile but the flow of the program stands after the advance. -/
theorem Tile.advance_eq (x : Tile) : x.advance = { x with pc := x.advance.pc, delay := x.advance.delay, lcount := x.advance.lcount, loops := x.advance.loops } :=
  Tile.advance_flow x

theorem State.retire_eq (s : State) (l : Path) (f : Tile → Tile) :
    s.retire l f =
      if (s.tile l).delay.isSome then (s.setTile l (f { s.tile l with shadow := (s.tile l).shadow - 1 }).advance).settle l
      else s.setTile l (f { s.tile l with shadow := (s.tile l).shadow - 1 }).advance := rfl

/-- Where nothing waits for the boundary, nothing takes effect at it. -/
theorem State.settle_nil (s : State) (l : Path) (h : (s.tile l).waiting = []) : s.settle l = s := by
  unfold State.settle; simp [h]

end Sys2Proof.Machine
end

