-- ==== Sys2Proof/Laws/Store.lean ====
section
/-! SUPPORT. Local store (R41, R158, R159): what a read answers and what a write leaves where no word is in error, byte by byte over
the members of a panel. -/

namespace Sys2Proof.Machine

/-! ### Members of a panel -/

/-- The members of a panel are different tiles. -/
theorem memberAt_inj (l : Path) {i j : Nat} (hi : i < 4) (hj : j < 4) (h : memberAt l i = memberAt l j) : i = j := by
  have h' := congrArg BitVec.toNat h
  simp only [memberAt, pathOf, BitVec.toNat_ofNat] at h'
  omega

/-! ### Words in error -/

theorem State.checkWords_clean (s : State) (m : Path) (lo hi : Nat) (h : (s.tile m).lsErr = []) : s.checkWords m lo hi = (s, true) := by
  unfold State.checkWords Tile.errorsIn
  simp [h]

theorem State.checkPieces_clean (s : State) (l : Path) (h : ∀ i, (s.tile (memberAt l i)).lsErr = []) (ps : List (Nat × Nat × Nat)) :
    ps.foldl (fun (acc : State × Bool) (p : Nat × Nat × Nat) =>
      if acc.2 then acc.1.checkWords (memberAt l p.1) (p.2.1 / 8) ((p.2.1 + p.2.2 - 1) / 8) else acc) (s, true) = (s, true) := by
  induction ps with
  | nil => rfl
  | cons p ps ih =>
    rw [List.foldl_cons]
    simp only [if_true]
    rw [State.checkWords_clean s _ _ _ (h p.1)]
    exact ih

theorem State.checkEdges_clean (s : State) (l : Path) (h : ∀ i, (s.tile (memberAt l i)).lsErr = []) (es : List (Nat × Nat)) :
    es.foldl (fun (acc : State × Bool) (e : Nat × Nat) =>
      if acc.2 then acc.1.checkWords (memberAt l e.1) e.2 e.2 else acc) (s, true) = (s, true) := by
  induction es with
  | nil => rfl
  | cons p ps ih =>
    rw [List.foldl_cons]
    simp only [if_true]
    rw [State.checkWords_clean s _ _ _ (h p.1)]
    exact ih

/-! ### Reads -/

/-- A read where no word is in error answers the bytes and changes nothing. -/
theorem State.readLS_clean (s : State) (l : Path) (h : ∀ i, (s.tile (memberAt l i)).lsErr = []) (a n : Nat) :
    s.readLS l a n = (s, some (s.peekLS l a n)) := by
  unfold State.readLS
  rw [State.checkPieces_clean s l h]
  rfl

theorem State.peekLS_map (s : State) (l : Path) (a n : Nat) : s.peekLS l a n = (List.range n).map fun i => s.lsByte l (a + i) := by
  induction n generalizing a with
  | zero => rfl
  | succ n ih =>
    unfold State.peekLS
    rw [ih, List.range_succ_eq_map, List.map_cons, List.map_map]
    congr 1
    apply List.map_congr_left
    intro i _
    show s.lsByte l (a + 1 + i) = s.lsByte l (a + (i + 1))
    congr 1; omega

theorem toLE_length (w n : Nat) : (toLE w n).length = n := by
  induction n generalizing w with
  | zero => rfl
  | succ n ih => simp [toLE, ih]

theorem toLE_get (w n i : Nat) (h : i < (toLE w n).length) : (toLE w n)[i] = BitVec.ofNat 8 (w / 256 ^ i) := by
  induction n generalizing w i with
  | zero => simp [toLE] at h
  | succ n ih =>
    cases i with
    | zero => simp [toLE]
    | succ i =>
      simp only [toLE, List.getElem_cons_succ]
      rw [ih, Nat.div_div_eq_div_mul]
      congr 2
      rw [Nat.pow_succ, Nat.mul_comm]

/-! ### Writes -/

/-- A write where no word is in error puts the bytes and changes nothing else. -/
theorem State.writeLS_clean (s : State) (l : Path) (h : ∀ i, (s.tile (memberAt l i)).lsErr = []) (a : Nat) (bs : Bytes) :
    s.writeLS l a bs = (s.pokeLS l 5 a bs, true) := by
  unfold State.writeLS
  simp only []
  rw [State.checkEdges_clean s l h]
  simp

/-- A write that stays in one member's store is one change of that member. -/
theorem State.pokeLS_one (s : State) (l : Path) (h : ∀ i, (s.tile (memberAt l i)).lsErr = []) (fuel a : Nat) (bs : Bytes) (hb : bs ≠ [])
    (hl : a % 0x200000 + bs.length ≤ 0x200000) :
    s.pokeLS l (fuel + 1) a bs = s.setTile (memberAt l (a / 0x200000))
      { s.tile (memberAt l (a / 0x200000)) with ls := writeCells (s.tile (memberAt l (a / 0x200000))).ls (a % 0x200000) bs } := by
  unfold State.pokeLS
  have e : bs.isEmpty = false := by cases bs <;> simp_all
  simp only [e, Bool.false_eq_true, if_false]
  rw [List.take_of_length_le (by omega), List.drop_of_length_le (by omega)]
  unfold State.modTile Tile.writeLS
  have hx := h (a / 0x200000)
  cases fuel <;> simp only [State.pokeLS, hx, List.filter_nil, List.isEmpty_nil, if_true]

theorem State.pokeLS_tiles (s : State) (l : Path) (fuel a : Nat) (bs : Bytes) :
    s.pokeLS l fuel a bs = { s with tiles := (s.pokeLS l fuel a bs).tiles } := by
  induction fuel generalizing s a bs with
  | zero => rfl
  | succ n ih =>
    unfold State.pokeLS
    simp only []
    split
    · rfl
    · rw [ih]; rfl

/-- Every tile is as it was but for its store and the errors in it. -/
theorem State.pokeLS_tile (s : State) (l : Path) (fuel a : Nat) (bs : Bytes) (m : Path) :
    (s.pokeLS l fuel a bs).tile m =
      { s.tile m with ls := ((s.pokeLS l fuel a bs).tile m).ls, lsErr := ((s.pokeLS l fuel a bs).tile m).lsErr } := by
  induction fuel generalizing s a bs with
  | zero => rfl
  | succ n ih =>
    unfold State.pokeLS
    simp only []
    split
    · rfl
    · rw [ih]
      by_cases e : m = memberAt l (a / 0x200000)
      · subst e; rw [State.tile_modTile_same]; rfl
      · rw [State.tile_modTile_other _ _ e]

/-- A byte of a panel's store after a write. -/
theorem State.lsByte_pokeLS (s : State) (l : Path) (fuel a : Nat) (bs : Bytes) (b : Nat) (hf : a % 0x200000 + bs.length ≤ fuel * 0x200000)
    (ha : a + bs.length ≤ 0x800000) (hb : b < 0x800000) :
    (s.pokeLS l fuel a bs).lsByte l b = if a ≤ b ∧ b < a + bs.length then bs.getD (b - a) 0 else s.lsByte l b := by
  induction fuel generalizing s a bs with
  | zero =>
    have : bs = [] := List.length_eq_zero_iff.mp (by omega)
    subst this
    rw [if_neg (by simp)]
    rfl
  | succ n ih =>
    unfold State.pokeLS
    simp only []
    split
    · rename_i he
      have : bs = [] := by simpa using he
      subst this
      rw [if_neg (by simp)]
    · rename_i he
      have hne : bs ≠ [] := by simpa using he
      have hpos : 0 < bs.length := List.length_pos_iff.mpr hne
      rw [ih _ _ _ (by rw [List.length_drop]; omega) (by rw [List.length_drop]; omega)]
      rw [List.length_drop]
      have hdiv : a = a / 0x200000 * 0x200000 + a % 0x200000 := by omega
      have hm : ∀ c, (s.modTile (memberAt l (a / 0x200000)) fun x => x.writeLS (a % 0x200000) (bs.take (0x200000 - a % 0x200000))).lsByte l c
          = if c / 0x200000 = a / 0x200000 ∧ c < 0x800000 then
              mapGet 0 (writeCells (s.tile (memberAt l (a / 0x200000))).ls (a % 0x200000) (bs.take (0x200000 - a % 0x200000))) (c % 0x200000)
            else (s.modTile (memberAt l (a / 0x200000)) fun x => x.writeLS (a % 0x200000) (bs.take (0x200000 - a % 0x200000))).lsByte l c := by
        intro c
        split
        · rename_i hc
          unfold State.lsByte
          rw [hc.1, State.tile_modTile_same]
          rfl
        · rfl
      by_cases hsame : b / 0x200000 = a / 0x200000
      · rw [if_neg (by omega), hm b, if_pos ⟨hsame, hb⟩]
        have hb' : b = a / 0x200000 * 0x200000 + b % 0x200000 := by omega
        have hold : s.lsByte l b = mapGet 0 (s.tile (memberAt l (a / 0x200000))).ls (b % 0x200000) := by
          unfold State.lsByte; rw [hsame]
        by_cases hin : a ≤ b ∧ b < a + bs.length
        · rw [if_pos hin]
          obtain ⟨j, hj⟩ : ∃ j, b % 0x200000 = a % 0x200000 + j := ⟨b % 0x200000 - a % 0x200000, by omega⟩
          have hjlt : j < (bs.take (0x200000 - a % 0x200000)).length := by rw [List.length_take]; omega
          rw [hj, mapGet_writeCells_inside _ _ _ j hjlt, List.getElem_take]
          have : b - a = j := by omega
          rw [this, List.getD_eq_getElem?_getD, List.getElem?_eq_getElem (by omega)]
          rfl
        · rw [if_neg hin, hold]
          rw [mapGet_writeCells_outside]
          rw [List.length_take]
          omega
      · have hother : (s.modTile (memberAt l (a / 0x200000)) fun x => x.writeLS (a % 0x200000) (bs.take (0x200000 - a % 0x200000))).lsByte l b
            = s.lsByte l b := by
          unfold State.lsByte
          rw [State.tile_modTile_other]
          intro e
          exact hsame (memberAt_inj l (by omega) (by omega) e)
        rw [hother]
        by_cases hin : a ≤ b ∧ b < a + bs.length
        · rw [if_pos hin, if_pos (by omega)]
          rw [List.getD_eq_getElem?_getD, List.getD_eq_getElem?_getD, List.getElem?_drop]
          congr 2
          omega
        · rw [if_neg hin, if_neg (by omega)]

end Sys2Proof.Machine
end

