-- ==== Sys2Proof/Laws/Aes.lean ====
section
/-! SUPPORT. AES (FIPS 197) and AES-KW (SP 800-38F): the inverse cipher undoes the cipher, and unwrapping undoes wrapping. -/

namespace Sys2Proof.Machine

/-! ### Strings of 16 bytes -/

theorem bytes_four (k : Nat) : ∀ m : Bytes, m.length = k + 4 → ∃ a b c d t, m = a :: b :: c :: d :: t ∧ t.length = k
  | a :: b :: c :: d :: t, h => ⟨a, b, c, d, t, rfl, by simpa using h⟩
  | [], h | [_], h | [_, _], h | [_, _, _], h => by simp at h; try omega
theorem bytes_sixteen (m : Bytes) (h : m.length = 16) : ∃ a b c d e f g i j k l n o p q r, m = [a, b, c, d, e, f, g, i, j, k, l, n, o, p, q, r] := by
  obtain ⟨a, b, c, d, t, rfl, h1⟩ := bytes_four 12 m h
  obtain ⟨e, f, g, i, t, rfl, h2⟩ := bytes_four 8 t h1
  obtain ⟨j, k, l, n, t, rfl, h3⟩ := bytes_four 4 t h2
  obtain ⟨o, p, q, r, t, rfl, h4⟩ := bytes_four 0 t h3
  obtain rfl := List.eq_nil_of_length_eq_zero h4
  exact ⟨a, b, c, d, e, f, g, i, j, k, l, n, o, p, q, r, rfl⟩

theorem xorBytes_length (a b : Bytes) : (xorBytes a b).length = min a.length b.length := by simp [xorBytes]
theorem xorBytes_xorBytes : ∀ a k : Bytes, a.length = k.length → xorBytes (xorBytes a k) k = a
  | [], [], _ => rfl
  | x :: a, y :: k, h => by
    have hx : (x ^^^ y) ^^^ y = x := by rw [BitVec.xor_assoc, BitVec.xor_self, BitVec.xor_zero]
    have := xorBytes_xorBytes a k (by simpa using h)
    simp only [xorBytes] at this
    simp [xorBytes, hx, this]

/-! ### Every step of a round is undone -/

theorem invSbox_sbox : ∀ b : Byte, invSbox (sbox b) = b := by decide +kernel

theorem gmulBits_xor (n : Nat) : ∀ a x y : Byte, gmulBits n a (x ^^^ y) = gmulBits n a x ^^^ gmulBits n a y := by
  induction n with
  | zero => intro a x y; simp [gmulBits]
  | succ n ih =>
    intro a x y
    have hb : bit (x ^^^ y) 0 = (bit x 0 ^^ bit y 0) := by simp [bit]
    have hs : (x ^^^ y) >>> 1 = (x >>> 1) ^^^ (y >>> 1) := by
      apply BitVec.eq_of_getLsbD_eq
      intro i hi
      simp
    simp only [gmulBits, hb, hs, ih]
    have hc : ∀ c d : Byte, c ^^^ d = (a ^^^ c) ^^^ (a ^^^ d) := by
      intro c d
      calc c ^^^ d = (a ^^^ a) ^^^ (c ^^^ d) := by simp
        _ = _ := by ac_rfl
    cases bit x 0 <;> cases bit y 0
    · simp
    · simp only [Bool.false_xor, ↓reduceIte, Bool.false_eq_true]; ac_rfl
    · simp only [Bool.xor_false, ↓reduceIte, Bool.false_eq_true]; ac_rfl
    · simpa using hc _ _
theorem gmul_xor (a x y : Byte) : gmul a (x ^^^ y) = gmul a x ^^^ gmul a y := gmulBits_xor 8 a x y

theorem mix_own : ∀ a : Byte, gmul 14 (gmul 2 a) ^^^ gmul 11 (gmul 1 a) ^^^ gmul 13 (gmul 1 a) ^^^ gmul 9 (gmul 3 a) = a := by decide +kernel
theorem mix_next : ∀ a : Byte, gmul 14 (gmul 3 a) ^^^ gmul 11 (gmul 2 a) ^^^ gmul 13 (gmul 1 a) ^^^ gmul 9 (gmul 1 a) = 0 := by decide +kernel
theorem mix_third : ∀ a : Byte, gmul 14 (gmul 1 a) ^^^ gmul 11 (gmul 3 a) ^^^ gmul 13 (gmul 2 a) ^^^ gmul 9 (gmul 1 a) = 0 := by decide +kernel
theorem mix_last : ∀ a : Byte, gmul 14 (gmul 1 a) ^^^ gmul 11 (gmul 1 a) ^^^ gmul 13 (gmul 3 a) ^^^ gmul 9 (gmul 2 a) = 0 := by decide +kernel

/-- One byte of a column comes back: the four bytes in the order the circulant takes them from its row on. -/
theorem mix_byte (a b c d : Byte) :
    gmul 14 (gmul 2 a ^^^ gmul 3 b ^^^ gmul 1 c ^^^ gmul 1 d) ^^^ gmul 11 (gmul 1 a ^^^ gmul 2 b ^^^ gmul 3 c ^^^ gmul 1 d) ^^^
      gmul 13 (gmul 1 a ^^^ gmul 1 b ^^^ gmul 2 c ^^^ gmul 3 d) ^^^ gmul 9 (gmul 3 a ^^^ gmul 1 b ^^^ gmul 1 c ^^^ gmul 2 d) = a := by
  simp only [gmul_xor]
  calc _ = (gmul 14 (gmul 2 a) ^^^ gmul 11 (gmul 1 a) ^^^ gmul 13 (gmul 1 a) ^^^ gmul 9 (gmul 3 a)) ^^^
      (gmul 14 (gmul 3 b) ^^^ gmul 11 (gmul 2 b) ^^^ gmul 13 (gmul 1 b) ^^^ gmul 9 (gmul 1 b)) ^^^
      (gmul 14 (gmul 1 c) ^^^ gmul 11 (gmul 3 c) ^^^ gmul 13 (gmul 2 c) ^^^ gmul 9 (gmul 1 c)) ^^^
      (gmul 14 (gmul 1 d) ^^^ gmul 11 (gmul 1 d) ^^^ gmul 13 (gmul 3 d) ^^^ gmul 9 (gmul 2 d)) := by ac_rfl
    _ = a := by rw [mix_own, mix_next, mix_third, mix_last]; simp

theorem mixColumn_forward (a b c d : Byte) : mixColumn [2, 3, 1, 1] [a, b, c, d] =
    [gmul 2 a ^^^ gmul 3 b ^^^ gmul 1 c ^^^ gmul 1 d, gmul 1 a ^^^ gmul 2 b ^^^ gmul 3 c ^^^ gmul 1 d,
     gmul 1 a ^^^ gmul 1 b ^^^ gmul 2 c ^^^ gmul 3 d, gmul 3 a ^^^ gmul 1 b ^^^ gmul 1 c ^^^ gmul 2 d] := by
  simp [mixColumn, List.range, List.range.loop]
theorem mixColumn_back (a b c d : Byte) : mixColumn [14, 11, 13, 9] (mixColumn [2, 3, 1, 1] [a, b, c, d]) = [a, b, c, d] := by
  rw [mixColumn_forward]
  have h0 := mix_byte a b c d
  have h1 := mix_byte b c d a
  have h2 := mix_byte c d a b
  have h3 := mix_byte d a b c
  simp only [mixColumn, List.range, List.range.loop, List.map, List.foldl, List.getD, Nat.reduceAdd, Nat.reduceSub, Nat.reduceMod, List.getElem?_cons_zero,
    List.getElem?_cons_succ, Option.getD_some, List.cons.injEq, and_true]
  refine ⟨?_, ?_, ?_, ?_⟩
  · exact (by simp : ∀ z : Byte, 0 ^^^ z = z) _ ▸ h0
  · refine Eq.trans ?_ h1
    simp only [gmul_xor]
    ac_rfl
  · refine Eq.trans ?_ h2
    simp only [gmul_xor]
    ac_rfl
  · refine Eq.trans ?_ h3
    simp only [gmul_xor]
    ac_rfl
theorem mixColumns_back (x : Bytes) (h : x.length = 16) : mixColumns [14, 11, 13, 9] (mixColumns [2, 3, 1, 1] x) = x := by
  obtain ⟨a, b, c, d, e, f, g, i, j, k, l, n, o, p, q, r, rfl⟩ := bytes_sixteen x h
  have split : ∀ a b c d e f g i j k l n o p q r : Byte, ∀ m,
      mixColumns m [a, b, c, d, e, f, g, i, j, k, l, n, o, p, q, r] =
        mixColumn m [a, b, c, d] ++ (mixColumn m [e, f, g, i] ++ (mixColumn m [j, k, l, n] ++ mixColumn m [o, p, q, r])) := by
    intros
    simp [mixColumns, chunks, chunksFuel]
  have four : ∀ m a b c d, ∃ w x y z : Byte, mixColumn m [a, b, c, d] = [w, x, y, z] := by
    intro m a b c d
    exact ⟨_, _, _, _, rfl⟩
  rw [split]
  obtain ⟨a', b', c', d', h1⟩ := four [2, 3, 1, 1] a b c d
  obtain ⟨e', f', g', i', h2⟩ := four [2, 3, 1, 1] e f g i
  obtain ⟨j', k', l', n', h3⟩ := four [2, 3, 1, 1] j k l n
  obtain ⟨o', p', q', r', h4⟩ := four [2, 3, 1, 1] o p q r
  rw [h1, h2, h3, h4]
  simp only [List.cons_append, List.nil_append]
  rw [split, ← h1, ← h2, ← h3, ← h4, mixColumn_back, mixColumn_back, mixColumn_back, mixColumn_back]
  rfl
theorem mixColumns_length (m x : Bytes) (h : x.length = 16) : (mixColumns m x).length = 16 := by
  obtain ⟨a, b, c, d, e, f, g, i, j, k, l, n, o, p, q, r, rfl⟩ := bytes_sixteen x h
  simp [mixColumns, chunks, chunksFuel, mixColumn]

theorem shiftRows_back (x : Bytes) (h : x.length = 16) : (invShiftRows (shiftRows (x.map sbox))).map invSbox = x := by
  obtain ⟨a, b, c, d, e, f, g, i, j, k, l, n, o, p, q, r, rfl⟩ := bytes_sixteen x h
  simp [shiftRows, invShiftRows, List.range, List.range.loop, invSbox_sbox]

/-! ### The cipher -/

theorem aesInvRounds_append (k : Bytes) : ∀ (l : List Bytes) (y : Bytes), l ≠ [] →
    aesInvRounds (l ++ [k]) y = xorBytes ((invShiftRows (mixColumns [14, 11, 13, 9] (aesInvRounds l y))).map invSbox) k
  | [], _, h => absurd rfl h
  | [_], _, _ => rfl
  | _ :: l' :: l, y, _ => aesInvRounds_append k (l' :: l) _ (by simp)
theorem aesRounds_length : ∀ (ks : List Bytes) (b : Bytes), ks ≠ [] → (∀ k ∈ ks, k.length = 16) → (aesRounds ks b).length = 16
  | [], _, h, _ => absurd rfl h
  | [k], b, _, h => by
    rw [aesRounds, xorBytes_length, h k (by simp)]
    simp [shiftRows]
  | _ :: k' :: ks, _, _, h => aesRounds_length (k' :: ks) _ (by simp) fun k hk => h k (List.mem_cons_of_mem _ hk)
theorem aesInvRounds_back : ∀ (ks : List Bytes) (k0 kn x : Bytes), ks ≠ [] → (∀ k ∈ ks, k.length = 16) → k0.length = 16 → x.length = 16 →
    ks.getLast? = some kn → aesInvRounds ((k0 :: ks).reverse.drop 1) (xorBytes (aesRounds ks x) kn) = xorBytes x k0
  | [], _, _, _, h, _, _, _, _ => absurd rfl h
  | [k], k0, kn, x, _, hk, _, hx, hl => by
    obtain rfl : k = kn := by simpa using hl
    show xorBytes ((invShiftRows (xorBytes (xorBytes (shiftRows (x.map sbox)) k) k)).map invSbox) k0 = _
    rw [xorBytes_xorBytes _ _ (by simp [shiftRows, hk k (by simp)]), shiftRows_back x hx]
  | k :: k' :: ks, k0, kn, x, _, hk, _, hx, hl => by
    have hk' : ∀ c ∈ k' :: ks, c.length = 16 := fun c hc => hk c (List.mem_cons_of_mem _ hc)
    have h16 : (shiftRows (x.map sbox)).length = 16 := by simp [shiftRows]
    have hm := mixColumns_length [2, 3, 1, 1] _ h16
    have ih := aesInvRounds_back (k' :: ks) k kn (xorBytes (mixColumns [2, 3, 1, 1] (shiftRows (x.map sbox))) k) (by simp) hk' (hk k (by simp))
      (by rw [xorBytes_length, hm, hk k (by simp)]; rfl) (by simpa using hl)
    rw [xorBytes_xorBytes _ _ (by rw [hm, hk k (by simp)])] at ih
    have e : (k0 :: k :: k' :: ks).reverse.drop 1 = (k :: k' :: ks).reverse.drop 1 ++ [k0] := by
      rw [List.reverse_cons, List.drop_append_of_le_length (by simp)]
    rw [e, aesInvRounds_append _ _ _ (by
      intro h
      have := congrArg List.length h
      simp at this)]
    show xorBytes ((invShiftRows (mixColumns _ (aesInvRounds _ (xorBytes (aesRounds (k' :: ks) _) kn)))).map invSbox) k0 = _
    rw [ih, mixColumns_back _ h16, shiftRows_back x hx]

/-- Round keys as the key schedule gives them: at least two, each of 16 bytes. -/
def roundKeysOk (rk : List Bytes) : Prop := 2 ≤ rk.length ∧ ∀ k ∈ rk, k.length = 16

theorem aesBlock_length (rk : List Bytes) (b : Bytes) (h : roundKeysOk rk) : (aesBlock rk b).length = 16 := by
  obtain ⟨h2, hk⟩ := h
  refine aesRounds_length _ _ (fun h => ?_) fun k hm => hk k (List.mem_of_mem_drop hm)
  have := congrArg List.length h
  simp at this
  omega
/-- The inverse cipher undoes the cipher. -/
theorem aesInvBlock_aesBlock (rk : List Bytes) (b : Bytes) (h : roundKeysOk rk) (hb : b.length = 16) : aesInvBlock rk (aesBlock rk b) = b := by
  obtain ⟨h2, hk⟩ := h
  match rk, h2, hk with
  | k0 :: k1 :: ks, _, hk =>
    have h0 : k0.length = 16 := hk k0 (by simp)
    have ht : ∀ k ∈ k1 :: ks, k.length = 16 := fun k hm => hk k (List.mem_cons_of_mem _ hm)
    obtain ⟨kn, hn⟩ : ∃ kn, (k1 :: ks).getLast? = some kn := ⟨_, List.getLast?_eq_getLast_of_ne_nil (by simp)⟩
    have hr : (k0 :: k1 :: ks).reverse.getD 0 [] = kn := by
      rw [List.getD_eq_getElem?_getD, ← List.head?_eq_getElem?, List.head?_reverse, List.getLast?_cons_cons, hn]
      rfl
    unfold aesInvBlock aesBlock
    rw [hr]
    have := aesInvRounds_back (k1 :: ks) k0 kn (xorBytes b k0) (by simp) ht h0 (by rw [xorBytes_length, hb, h0]; rfl) hn
    rw [xorBytes_xorBytes b k0 (by rw [hb, h0])] at this
    exact this

/-! ### AES-KW -/

theorem pieces_flatten (n : Nat) (hn : 0 < n) : ∀ (r : List Bytes) (fuel : Nat), (∀ x ∈ r, x.length = n) → r.length ≤ fuel →
    chunksFuel n fuel r.flatten = r
  | [], 0, _, _ => rfl
  | [], fuel + 1, _, _ => by simp [chunksFuel]
  | x :: r, 0, _, h => by simp at h
  | x :: r, fuel + 1, hx, h => by
    have h8 : x.length = n := hx x (by simp)
    have hne : (x :: r).flatten.isEmpty = false := by
      cases x with
      | nil => simp at h8; omega
      | cons y x => simp
    have ih := pieces_flatten n hn r fuel (fun y hy => hx y (List.mem_cons_of_mem _ hy)) (by simpa using h)
    rw [chunksFuel, hne]
    simp [← h8] at ih ⊢
    exact ih
theorem chunks_flatten (n : Nat) (hn : 0 < n) (r : List Bytes) (hr : ∀ x ∈ r, x.length = n) : chunks n r.flatten = r := by
  refine pieces_flatten n hn r _ hr ?_
  induction r with
  | nil => simp
  | cons x r ih =>
    have h8 := hr x (by simp)
    have := ih fun y hy => hr y (List.mem_cons_of_mem _ hy)
    simp only [List.flatten_cons, List.length_append, List.length_cons]
    omega

theorem toBE_length (n len : Nat) : (toBE n len).length = len := by rw [toBE, List.length_reverse, toLE_length]

/-- Half-blocks of 8 bytes, and the register A beside them. -/
def halves (n : Nat) (a : Bytes) (r : List Bytes) : Prop := a.length = 8 ∧ r.length = n ∧ ∀ x ∈ r, x.length = 8

theorem halves_getD {n i : Nat} {a : Bytes} {r : List Bytes} (h : halves n a r) (hi : i < n) : (r.getD i []).length = 8 := by
  obtain ⟨-, hl, h8⟩ := h
  rw [List.getD_eq_getElem?_getD, List.getElem?_eq_getElem (by omega)]
  exact h8 _ (List.getElem_mem _)
theorem halves_step {rk : List Bytes} (hk : roundKeysOk rk) {n i t : Nat} {a : Bytes} {r : List Bytes} (h : halves n a r) :
    halves n (xorBytes ((aesBlock rk (a ++ r.getD i [])).take 8) (toBE t 8)) (r.set i ((aesBlock rk (a ++ r.getD i [])).drop 8)) := by
  have hb := aesBlock_length rk (a ++ r.getD i []) hk
  obtain ⟨-, hl, h8⟩ := h
  refine ⟨?_, by simpa using hl, ?_⟩
  · rw [xorBytes_length, List.length_take, hb, toBE_length]
    rfl
  · intro x hx
    rcases List.mem_or_eq_of_mem_set hx with hx | rfl
    · exact h8 x hx
    · rw [List.length_drop, hb]
theorem kwWrapStep_halves {rk : List Bytes} (hk : roundKeysOk rk) (n : Nat) : ∀ (m t : Nat) (a : Bytes) (r : List Bytes), halves n a r →
    halves n (kwWrapStep rk n m t a r).1 (kwWrapStep rk n m t a r).2
  | 0, _, _, _, h => h
  | m + 1, t, _, _, h => kwWrapStep_halves hk n m (t + 1) _ _ (halves_step hk h)
/-- Unwrapping goes back over the steps of wrapping. -/
theorem kwUnwrapStep_kwWrapStep {rk : List Bytes} (hk : roundKeysOk rk) {n : Nat} (hn : 0 < n) : ∀ (m t : Nat) (a : Bytes) (r : List Bytes), halves n a r →
    kwUnwrapStep rk n (t + m) (kwWrapStep rk n m t a r).1 (kwWrapStep rk n m t a r).2 = kwUnwrapStep rk n t a r
  | 0, _, _, _, _ => rfl
  | m + 1, t, a, r, h => by
    have ih := kwUnwrapStep_kwWrapStep hk hn m (t + 1) _ _ (halves_step (i := t % n) (t := t + 1) hk h)
    have hi : t % n < n := Nat.mod_lt _ hn
    have hg := halves_getD h hi
    have hb := aesBlock_length rk (a ++ r.getD (t % n) []) hk
    obtain ⟨ha, hl, h8⟩ := h
    have e1 : ∀ y : Bytes, (r.set (t % n) y).getD (t % n) [] = y := by
      intro y
      simp [List.getD_eq_getElem?_getD, hl, hi]
    have e2 : r.set (t % n) (r.getD (t % n) []) = r := by
      rw [List.getD_eq_getElem?_getD, List.getElem?_eq_getElem (by omega), Option.getD_some, List.set_getElem_self]
    have e3 : aesInvBlock rk (aesBlock rk (a ++ r.getD (t % n) [])) = a ++ r.getD (t % n) [] :=
      aesInvBlock_aesBlock rk _ hk (by rw [List.length_append, ha, hg])
    rw [show t + (m + 1) = t + 1 + m by omega]
    refine ih.trans ?_
    rw [kwUnwrapStep]
    simp only [e1]
    rw [xorBytes_xorBytes _ _ (by rw [List.length_take, hb, toBE_length]; rfl), List.take_append_drop, e3, List.set_set, List.take_left' ha,
      List.drop_left' ha, e2]

/-- Unwrapping undoes wrapping: what was wrapped comes back. -/
theorem kwUnwrap_kwWrap (kek : Bytes) (r : List Bytes) (hk : roundKeysOk (roundKeys kek)) (hr : ∀ x ∈ r, x.length = 8) (hn : r ≠ []) :
    kwUnwrap kek (kwWrap kek r.flatten) = some r.flatten := by
  have hc := chunks_flatten 8 (by omega) r hr
  have h0 : halves r.length (List.replicate 8 (0xA6 : Byte)) r := ⟨by simp, rfl, hr⟩
  have hp : 0 < r.length := List.length_pos_iff.mpr hn
  have hh := kwWrapStep_halves hk r.length (6 * r.length) 0 _ _ h0
  have hu := kwUnwrapStep_kwWrapStep hk hp (6 * r.length) 0 _ _ h0
  have hw : kwWrap kek r.flatten = (kwWrapStep (roundKeys kek) r.length (6 * r.length) 0 (List.replicate 8 0xA6) r).1 ++
      (kwWrapStep (roundKeys kek) r.length (6 * r.length) 0 (List.replicate 8 0xA6) r).2.flatten := by
    simp only [kwWrap, hc]
  generalize kwWrapStep (roundKeys kek) r.length (6 * r.length) 0 (List.replicate 8 0xA6) r = w at hh hu hw
  obtain ⟨h1, h2, h3⟩ := hh
  rw [hw]
  unfold kwUnwrap
  simp only [List.drop_left' h1, List.take_left' h1, chunks_flatten 8 (by omega) _ h3, h2]
  rw [Nat.zero_add] at hu
  rw [hu]
  simp [kwUnwrapStep]
/-- The wrapping of n half-blocks is n + 1 half-blocks. -/
theorem kwWrap_length (kek : Bytes) (r : List Bytes) (hk : roundKeysOk (roundKeys kek)) (hr : ∀ x ∈ r, x.length = 8) :
    (kwWrap kek r.flatten).length = 8 + 8 * r.length := by
  have hh := kwWrapStep_halves hk r.length (6 * r.length) 0 _ _ (show halves r.length (List.replicate 8 (0xA6 : Byte)) r from ⟨by simp, rfl, hr⟩)
  have flat : ∀ l : List Bytes, (∀ x ∈ l, x.length = 8) → l.flatten.length = 8 * l.length := by
    intro l hl
    induction l with
    | nil => rfl
    | cons x l ih =>
      have := hl x (by simp)
      have := ih fun y hy => hl y (List.mem_cons_of_mem _ hy)
      simp only [List.flatten_cons, List.length_append, List.length_cons]
      omega
  obtain ⟨h1, h2, h3⟩ := hh
  simp only [kwWrap, chunks_flatten 8 (by omega) r hr, List.length_append, h1, flat _ h3, h2]

/-! ### Numbers and strings -/

theorem leNat_lt : ∀ b : Bytes, leNat b < 256 ^ b.length
  | [] => by simp [leNat]
  | x :: b => by
    have := leNat_lt b
    have := x.isLt
    simp only [leNat, List.length_cons, Nat.pow_succ]
    omega
theorem toLE_leNat : ∀ b : Bytes, toLE (leNat b) b.length = b
  | [] => rfl
  | x :: b => by
    have h1 : (x.toNat + 256 * leNat b) / 256 = leNat b := by
      have := x.isLt
      omega
    have h2 : BitVec.ofNat 8 (x.toNat + 256 * leNat b) = x := by
      apply BitVec.eq_of_toNat_eq
      have := x.isLt
      simp only [BitVec.toNat_ofNat]
      omega
    simp only [leNat, List.length_cons, toLE, h1, h2, toLE_leNat b]
/-- A record of n bytes is the string it was made from. -/
theorem toLE_record (n : Nat) (b : Bytes) (h : b.length = n) : toLE (BitVec.ofNat (8 * n) (leNat b)).toNat n = b := by
  have hlt := leNat_lt b
  have hp : 256 ^ n = 2 ^ (8 * n) := by rw [Nat.pow_mul]
  rw [BitVec.toNat_ofNat, Nat.mod_eq_of_lt (by rw [← hp, ← h]; exact hlt), ← h, toLE_leNat]

end Sys2Proof.Machine
end

