-- ==== Sys2Proof/Laws/Events.lean ====
section
/-! SUPPORT. What reporting changes: an event's record, its notification and the packets of the trace unit touch the log, the
notification queues and the trace regions, and nothing else (R367, R371, R445, R477). -/

namespace Sys2Proof.Machine

/-- Only the log, the notifications and the trace differ. -/
def State.reported' (s u : State) : Prop :=
  u = { s with integ := { s.integ with log := u.integ.log, nextSeq := u.integ.nextSeq },
               mgmt := { s.mgmt with notifyQ := u.mgmt.notifyQ, notifyLost := u.mgmt.notifyLost, ntfRing := u.mgmt.ntfRing,
                                     ntfHead := u.mgmt.ntfHead, msix1 := u.mgmt.msix1 },
               trace := u.trace }

theorem State.reported'_refl (s : State) : s.reported' s := rfl

theorem State.reported'_trans {s u v : State} (h1 : s.reported' u) (h2 : u.reported' v) : s.reported' v := by
  unfold State.reported' at *
  rw [h2, h1]

/-- A packet pushed changes at most one region. -/
theorem State.pushPacket_cases (s : State) (part : Byte) (path : Path) (kind : Byte) (data : Word) :
    (s.pushPacket part path kind data).1 = s ∨ ∃ r f, (s.pushPacket part path kind data).1 = s.modRegion r f := by
  have key : ∀ (p q : Prop) [Decidable p] [Decidable q] (r : Nat) (f g : Region → Region),
      (if p then (s, false) else if q then (s.modRegion r f, false) else (s.modRegion r g, true)).1 = s ∨
      ∃ r' f', (if p then (s, false) else if q then (s.modRegion r f, false) else (s.modRegion r g, true)).1 = s.modRegion r' f' := by
    intro p q _ _ r f g
    split
    · exact .inl rfl
    · split
      · exact .inr ⟨r, f, rfl⟩
      · exact .inr ⟨r, g, rfl⟩
  exact key _ _ _ _ _

theorem State.modRegion_reports (s : State) (r : Nat) (f : Region → Region) : s.reported' (s.modRegion r f) := rfl

theorem State.pushPacket_reports (s : State) (part : Byte) (path : Path) (kind : Byte) (data : Word) :
    s.reported' (s.pushPacket part path kind data).1 := by
  rcases s.pushPacket_cases part path kind data with h | ⟨r, f, h⟩ <;> rw [h]
  · exact s.reported'_refl
  · exact s.modRegion_reports r f

set_option maxRecDepth 20000 in
theorem State.append_reports (s : State) (r : EventRec) : s.reported' (s.append r) := by
  unfold State.append
  split
  · exact s.reported'_refl
  · have key : ∀ (b mirror lost : Bool) (q : List EventRec) (ring : SMap (BitVec 256)) (head : Word) (n : Nat) (i : Integ) (m : Mgmt),
        (m = if mirror then { s.mgmt with ntfRing := ring, ntfHead := head, msix1 := n } else s.mgmt) →
        s.reported' { s with integ := { s.integ with log := i.log, nextSeq := i.nextSeq }
                             mgmt := if b then { m with notifyQ := q, notifyLost := lost } else s.mgmt } := by
      intro b mirror lost q ring head n i m hm
      subst hm
      unfold State.reported'
      cases b
      · simp only [Bool.false_eq_true, if_false]
      · cases mirror
        · simp only [Bool.false_eq_true, if_false, if_true]
        · simp only [if_true]
    unfold Mgmt.notify
    simp only []
    exact key (s.integ.notified r) s.pwr.pcieUp (s.mgmt.notifyLost || decide (256 ≤ s.mgmt.notifyQ.length))
      ((s.mgmt.notifyQ ++ [r]).drop (s.mgmt.notifyQ.length + 1 - 256))
      (mapSet 0 s.mgmt.ntfRing (s.mgmt.ntfHead.toNat % 64) (BitVec.ofNat 256 (leNat (fit (r.note s.mgmt.notifyLost) 32))))
      (s.mgmt.ntfHead + 1) (s.mgmt.msix1 + 1)
      { s.integ with log := (s.integ.log ++ [r]).drop (s.integ.log.length + 1 - 4096), nextSeq := s.integ.nextSeq + 1 }
      (if s.pwr.pcieUp then s.mgmt.ring r else s.mgmt) rfl

theorem State.eventPacket_reports (s : State) (r : EventRec) : s.reported' (s.eventPacket r).1 := s.pushPacket_reports ..

theorem State.traceLost_reports (s : State) (part : Byte) : s.reported' (s.traceLost part) := by
  have key : ∀ (b : Bool) (r : Nat) (f : Region → Region) (rec' : EventRec),
      s.reported' (if b then (((s.modRegion r f).append rec').eventPacket rec').1 else s) := by
    intro b r f rec'
    split
    · exact State.reported'_trans (State.reported'_trans (s.modRegion_reports r f) (State.append_reports _ _)) (State.eventPacket_reports _ _)
    · exact s.reported'_refl
  exact key ..

theorem State.trace'_reports (s : State) (part : Byte) (path : Path) (kind : Byte) (data : Word) :
    s.reported' (s.trace' part path kind data) := by
  have key : ∀ b : Bool, s.reported' (if b then (s.pushPacket part path kind data).1.traceLost part else (s.pushPacket part path kind data).1) := by
    intro b
    split
    · exact State.reported'_trans (s.pushPacket_reports ..) (State.traceLost_reports _ _)
    · exact s.pushPacket_reports ..
  exact key _

theorem State.log_reports (s : State) (e : Ev) : s.reported' (s.log e) := by
  have h := State.reported'_trans (s.append_reports (s.recordOf e)) (State.eventPacket_reports _ (s.recordOf e))
  have key : ∀ b : Bool, s.reported' (if b then ((s.append (s.recordOf e)).eventPacket (s.recordOf e)).1.traceLost (s.recordOf e).part
      else ((s.append (s.recordOf e)).eventPacket (s.recordOf e)).1) := by
    intro b
    split
    · exact State.reported'_trans h (State.traceLost_reports _ _)
    · exact h
  exact key _

/-- An event of a class other than partition fault and device fatal only reports (R11). -/
theorem State.raise_reports (s : State) (e : Ev) (h8 : e.code / 4096 ≠ 8) (hC : e.code / 4096 ≠ 0xC) : s.reported' (s.raise e) := by
  unfold State.raise State.raiseWith
  simp only []
  rw [if_neg h8, if_neg hC]
  exact s.log_reports e

theorem State.refuse_reports (s : State) (code : Nat) (path : Option Path) (part ctx source cond index sub arg : Nat)
    (h : code / 4096 = 4) : s.reported' (s.refuse code path part ctx source cond index sub arg) :=
  s.raise_reports _ (by simp [h]) (by simp [h])

/-- A record appended while the auxiliary rail is up stays the newest but for a TRACE_LOST record. -/
theorem State.append_log (s : State) (r : EventRec) (h : s.pwr.aux = true) :
    (s.append r).integ.log = (s.integ.log ++ [r]).drop (s.integ.log.length + 1 - 4096) ∧ (s.append r).integ.nextSeq = s.integ.nextSeq + 1 := by
  unfold State.append
  simp [h]

theorem mem_drop_last {α : Type} (xs : List α) (x : α) (n : Nat) (h : n ≤ xs.length) : x ∈ (xs ++ [x]).drop n := by
  rw [List.drop_append_of_le_length h]
  simp

/-- The record of an event stands in the log right after it (R367). -/
theorem State.log_has (s : State) (e : Ev) (h : s.pwr.aux = true) : s.recordOf e ∈ (s.log e).integ.log := by
  have h1 := (s.append_log (s.recordOf e) h).1
  have hlen : s.recordOf e ∈ (s.append (s.recordOf e)).integ.log := by
    rw [h1]; exact mem_drop_last _ _ _ (by omega)
  have hlast : (s.append (s.recordOf e)).integ.log.getLast? = some (s.recordOf e) := by
    rw [h1, List.drop_append_of_le_length (by omega), List.getLast?_append]; rfl
  have hp : ∀ (v : State) (p : Byte) (t : Path) (k : Byte) (d : Word), (v.pushPacket p t k d).1.integ = v.integ ∧ (v.pushPacket p t k d).1.pwr = v.pwr := by
    intro v p t k d
    rcases v.pushPacket_cases p t k d with h | ⟨r, f, h⟩ <;> rw [h] <;> exact ⟨rfl, rfl⟩
  have haux : (s.append (s.recordOf e)).pwr = s.pwr := by
    have := s.append_reports (s.recordOf e)
    rw [this]
  have hkeep : ∀ (v : State) (r rec' : EventRec), v.pwr.aux = true → v.integ.log.getLast? = some r → r ∈ (v.append rec').integ.log := by
    intro v r rec' ha hl
    rw [(v.append_log rec' ha).1]
    obtain ⟨ys, hy⟩ := List.getLast?_eq_some_iff.mp hl
    rw [hy, List.drop_append_of_le_length (by simp; omega), List.mem_append]
    left
    rw [List.drop_append_of_le_length (by simp)]
    simp
  have key : ∀ (b : Bool), s.recordOf e ∈ (if b then ((s.append (s.recordOf e)).eventPacket (s.recordOf e)).1.traceLost (s.recordOf e).part
      else ((s.append (s.recordOf e)).eventPacket (s.recordOf e)).1).integ.log := by
    intro b
    have e1 := hp (s.append (s.recordOf e)) (s.recordOf e).part (s.recordOf e).path 4 (word ((s.recordOf e).code.toNat * 65536 + (s.recordOf e).seqno.toNat % 65536))
    split
    · have key2 : ∀ (v : State) (c : Bool) (r : Nat) (f : Region → Region) (rec' : EventRec), v.pwr.aux = true →
          v.integ.log.getLast? = some (s.recordOf e) → s.recordOf e ∈ v.integ.log →
          s.recordOf e ∈ (if c then (((v.modRegion r f).append rec').eventPacket rec').1 else v).integ.log := by
        intro v c r f rec' ha hl hm
        split
        · unfold State.eventPacket
          rw [(hp _ _ _ _ _).1]
          exact hkeep (v.modRegion r f) _ rec' ha hl
        · exact hm
      refine key2 ((s.append (s.recordOf e)).eventPacket (s.recordOf e)).1 _ _ _ _ ?_ ?_ ?_
      · exact (congrArg Power.aux e1.2).trans ((congrArg Power.aux haux).trans h)
      · exact (congrArg (fun i : Integ => i.log.getLast?) e1.1).trans hlast
      · rw [show ((s.append (s.recordOf e)).eventPacket (s.recordOf e)).1.integ = _ from e1.1]; exact hlen
    · rw [show ((s.append (s.recordOf e)).eventPacket (s.recordOf e)).1.integ = _ from e1.1]; exact hlen
  exact key _

/-! ### Packets and power states of clusters (R470, R479) -/

/-- Only reports differ, and a cluster's packet count, Current and transitions. -/
def State.noted' (s u : State) : Prop :=
  (∀ k, u.cluster k = { s.cluster k with packets := (u.cluster k).packets, current := (u.cluster k).current,
                                         transitions := (u.cluster k).transitions }) ∧
  u = { s with integ := { s.integ with log := u.integ.log, nextSeq := u.integ.nextSeq },
               mgmt := { s.mgmt with notifyQ := u.mgmt.notifyQ, notifyLost := u.mgmt.notifyLost, ntfRing := u.mgmt.ntfRing,
                                     ntfHead := u.mgmt.ntfHead, msix1 := u.mgmt.msix1 },
               trace := u.trace, clusters := u.clusters }

theorem State.noted'_refl (s : State) : s.noted' s := ⟨fun _ => rfl, rfl⟩

theorem State.noted'_trans {s u v : State} (h1 : s.noted' u) (h2 : u.noted' v) : s.noted' v := by
  obtain ⟨a1, b1⟩ := h1
  obtain ⟨a2, b2⟩ := h2
  refine ⟨fun k => ?_, ?_⟩
  · have e2 := a2 k
    rw [a1 k] at e2
    rw [e2]
  · rw [b1] at b2
    rw [b2]

theorem State.noted'_of_reported {s u : State} (h : s.reported' u) : s.noted' u := by
  have hc : u.clusters = s.clusters := by rw [h]
  refine ⟨fun k => ?_, ?_⟩
  · have : u.cluster k = s.cluster k := by unfold State.cluster; rw [hc]
    rw [this]
  · rw [hc]; exact h

/-- A change of what a cluster counts and shows. -/
theorem State.noted'_modCluster (s : State) (k : Nat) (f : Cluster → Cluster)
    (hf : ∀ x : Cluster, f x = { x with packets := (f x).packets, current := (f x).current, transitions := (f x).transitions }) :
    s.noted' (s.modCluster k f) := by
  refine ⟨fun j => ?_, rfl⟩
  by_cases e : j = k
  · subst e; rw [State.cluster_modCluster_same]; exact hf _
  · rw [State.cluster_modCluster_other _ _ e]

theorem State.tilePacket_notes (s : State) (path : Path) (kind : Byte) (data : Word) : s.noted' (s.tilePacket path kind data) := by
  have key : ∀ (b : Bool) (k : Nat) (p : Byte),
      s.noted' (if b then s else (s.modCluster k fun c => { c with packets := c.packets + 1 }).trace' p path kind data) := by
    intro b k p
    split
    · exact s.noted'_refl
    · exact State.noted'_trans (s.noted'_modCluster k _ fun _ => rfl) (State.noted'_of_reported (State.trace'_reports _ _ _ _ _))
  exact key _ _ _

theorem State.setCurrent_notes (s : State) (k : Nat) (new : BitVec 8) : s.noted' (s.setCurrent k new) := by
  unfold State.setCurrent
  simp only []
  split
  · exact s.noted'_refl
  · have key : ∀ (f : Cluster → Cluster) (p : Byte) (t : Path) (kind : Byte) (d : Word) (e : Ev), s.noted' (s.modCluster k f) →
        e.code = 0x1F02 → s.noted' (((s.modCluster k f).trace' p t kind d).raise e) := by
      intro f p t kind d e h1 h2
      exact State.noted'_trans (State.noted'_trans h1 (State.noted'_of_reported (State.trace'_reports _ _ _ _ _)))
        (State.noted'_of_reported (State.raise_reports _ e (by rw [h2]; decide) (by rw [h2]; decide)))
    exact key _ _ _ _ _ _ (s.noted'_modCluster k _ fun _ => rfl) rfl

theorem State.wake_notes (s : State) (k : Nat) : s.noted' (s.wake k) := by
  unfold State.wake
  split
  · exact s.setCurrent_notes k 0
  · exact s.noted'_refl

theorem State.each_notes {α : Type} (f : State → α → State) (h : ∀ (s : State) x, s.noted' (f s x)) (s : State) (xs : List α) :
    s.noted' (s.each xs f) := by
  unfold State.each
  induction xs generalizing s with
  | nil => exact s.noted'_refl
  | cons x xs ih => exact State.noted'_trans (h s x) (ih (f s x))

/-- What is noted leaves the tiles, and which tile acts for a panel. -/
theorem State.noted'_tiles {s u : State} (h : s.noted' u) : u.tiles = s.tiles := by rw [h.2]

theorem State.noted'_tile {s u : State} (h : s.noted' u) (t : Path) : u.tile t = s.tile t := by
  unfold State.tile; rw [State.noted'_tiles h]

theorem State.noted'_width {s u : State} (h : s.noted' u) (t : Path) : u.panelWidth t = s.panelWidth t := by
  unfold State.panelWidth; rw [h.1]

theorem State.noted'_lead {s u : State} (h : s.noted' u) (t : Path) : u.lead t = s.lead t := by
  unfold State.lead; rw [State.noted'_width h]

end Sys2Proof.Machine
end

