-- ==== Sys2Proof/Laws/Flow.lean ====
section
/-! SUPPORT. Laws of the sequencer's own operations (R40 to R65, R82): registers written, sums of sign-extended fields, clean reads and
writes of local store, loop levels left and ended, and the registers that a frame gives back. -/

namespace Sys2Proof.Machine

theorem advance_regs (x : Tile) (r : SMap Word) : ({ x with regs := r } : Tile).advance = { x.advance with regs := r } := by
  have hend : ∀ (lvs : List Nat) (x : Tile), ({ x with regs := r } : Tile).endTest lvs = { x.endTest lvs with regs := r } := by
    intro lvs
    induction lvs with
    | nil => intro x; rfl
    | cons lv rest ih =>
      intro x
      unfold Tile.endTest
      simp only []
      have e1 : ({ x with regs := r } : Tile).loop lv = x.loop lv := rfl
      have e2 : ({ x with regs := r } : Tile).lc lv = x.lc lv := rfl
      rw [e1, e2]
      split
      · split
        · rfl
        · exact ih ((x.setLc lv 0).deactivate lv)
      · exact ih x
  obtain ⟨od, h⟩ : ∃ od, x.delay = od := ⟨_, rfl⟩
  rcases od with _ | d
  · have e1 : x.advance = x.endTest [2, 1, 0] := by unfold Tile.advance; rw [h]
    have e2 : ({ x with regs := r } : Tile).advance = ({ x with regs := r } : Tile).endTest [2, 1, 0] := by
      unfold Tile.advance
      have h' : ({ x with regs := r } : Tile).delay = none := h
      rw [h']
    rw [e1, e2]; exact hend _ x
  · rw [Tile.advance_some x h, Tile.advance_some { x with regs := r } (d := d) h]

theorem setReg_eq (x : Tile) (r : Reg) (w : Word) : x.setReg r w = { x with regs := (x.setReg r w).regs } := by
  unfold Tile.setReg; split <;> rfl

theorem bits5 (b : Word) : shamt b = b.toNat % 32 := by unfold shamt bits; simp

theorem addi_eq (a : Word) (k : BitVec 14) : a + k.signExtend 32 = BitVec.ofInt 32 (a.toInt + k.toInt) := by
  apply BitVec.eq_of_toInt_eq; rw [BitVec.toInt_add, BitVec.toInt_signExtend_of_le (by decide)]; simp

theorem zext_eq (k : BitVec 14) : (k.setWidth 32 : Word) = BitVec.ofNat 32 k.toNat := by
  apply BitVec.eq_of_toNat_eq; simp

theorem andi_eq (a : Word) (k : BitVec 14) : a &&& k.setWidth 32 = a &&& BitVec.ofNat 32 k.toNat := by rw [zext_eq]

theorem ori_eq (a : Word) (k : BitVec 14) : a ||| k.setWidth 32 = a ||| BitVec.ofNat 32 k.toNat := by rw [zext_eq]

theorem sll_eq (a : Word) (k : Nat) : a <<< k = BitVec.ofNat 32 (a.toNat * 2 ^ k) := by
  apply BitVec.eq_of_toNat_eq; simp [BitVec.toNat_shiftLeft, Nat.shiftLeft_eq]

theorem srl_eq (a : Word) (k : Nat) : a >>> k = BitVec.ofNat 32 (a.toNat / 2 ^ k) := by
  apply BitVec.eq_of_toNat_eq
  simp only [BitVec.toNat_ushiftRight, Nat.shiftRight_eq_div_pow, BitVec.toNat_ofNat]
  exact (Nat.mod_eq_of_lt (lt_of_le_of_lt (Nat.div_le_self _ _) a.isLt)).symm

theorem sra_eq (a : Word) (k : Nat) : a.sshiftRight k = BitVec.ofInt 32 (a.toInt / 2 ^ k) := by
  simp only [BitVec.sshiftRight, Int.shiftRight_eq_div_pow]; norm_cast

theorem lui_eq (k : BitVec 18) : (k.setWidth 32 : Word) <<< 14 = BitVec.ofNat 32 (k.toNat * 2 ^ 14) := by
  apply BitVec.eq_of_toNat_eq
  simp [BitVec.toNat_shiftLeft, Nat.shiftLeft_eq]

theorem checkWords_clean (s : State) (m : Path) (lo hi : Nat) (h : (s.tile m).lsErr = []) : s.checkWords m lo hi = (s, true) := by
  unfold State.checkWords Tile.errorsIn
  simp [h]

theorem checks_clean (s : State) (l : Path) (h : ∀ i, (s.tile (memberAt l i)).lsErr = []) (ps : List (Nat × Nat × Nat)) :
    ps.foldl (fun (acc : State × Bool) (p : Nat × Nat × Nat) =>
      if acc.2 then acc.1.checkWords (memberAt l p.1) (p.2.1 / 8) ((p.2.1 + p.2.2 - 1) / 8) else acc) (s, true) = (s, true) := by
  induction ps with
  | nil => rfl
  | cons p ps ih =>
    rw [List.foldl_cons]
    simp only [if_true]
    rw [checkWords_clean s _ _ _ (h p.1)]
    exact ih

theorem readLS_clean (s : State) (l : Path) (h : ∀ i, (s.tile (memberAt l i)).lsErr = []) (a n : Nat) :
    s.readLS l a n = (s, some (s.peekLS l a n)) := by
  unfold State.readLS
  rw [checks_clean s l h]
  rfl

theorem peekLS_map (s : State) (l : Path) (a n : Nat) : s.peekLS l a n = (List.range n).map fun i => s.lsByte l (a + i) := by
  induction n generalizing a with
  | zero => rfl
  | succ n ih =>
    unfold State.peekLS
    rw [ih, List.range_succ_eq_map, List.map_cons, List.map_map]
    congr 1
    apply List.map_congr_left
    intro i _
    show s.lsByte l (a + 1 + i) = s.lsByte l (a + (i + 1))
    congr 1; omega

theorem deactivate_loop (x : Tile) (lv j : Nat) : (x.deactivate lv).loop j = if j = lv then x.loop lv &&& 0x7FFFFFFF else x.loop j := by
  unfold Tile.deactivate Tile.setLoop Tile.loop
  exact mapGet_mapSet _ _ _ _ _

theorem deactivateFrom_loop (x : Tile) (k j : Nat) (hk : k < 3) (hj : j < 3) :
    (x.deactivateFrom k).loop j = if k ≤ j then x.loop j &&& 0x7FFFFFFF else x.loop j := by
  have h2 : List.range 3 = [0, 1, 2] := rfl
  rcases (by omega : k = 0 ∨ k = 1 ∨ k = 2) with rfl | rfl | rfl <;>
  rcases (by omega : j = 0 ∨ j = 1 ∨ j = 2) with rfl | rfl | rfl <;>
  simp [Tile.deactivateFrom, h2, deactivate_loop]

theorem deactivateFrom_eq (x : Tile) (k : Nat) : x.deactivateFrom k = { x with loops := (x.deactivateFrom k).loops } := by
  unfold Tile.deactivateFrom
  generalize (List.range 3).filter (k ≤ ·) = xs
  induction xs generalizing x with
  | nil => rfl
  | cons a xs ih => rw [List.foldl_cons, ih]; rfl

theorem leaveLoops_eq (x : Tile) (a : Word) : x.leaveLoops a = { x with loops := (x.leaveLoops a).loops } := by
  unfold Tile.leaveLoops
  split
  · exact deactivateFrom_eq _ _
  · rfl

theorem active_and (w : Word) : loopActive (w &&& 0x7FFFFFFF) = false := by
  unfold loopActive bit
  rw [BitVec.getLsbD_and]
  simp

theorem and_twice (w : Word) : (w &&& 0x7FFFFFFF) &&& 0x7FFFFFFF = w &&& 0x7FFFFFFF := by
  rw [BitVec.and_assoc]; rfl

theorem active_and' (w : Word) : loopActive (w &&& 2147483647#32) = false := active_and w

theorem and_twice' (w : Word) : (w &&& 2147483647#32) &&& 2147483647#32 = w &&& 2147483647#32 := and_twice w

theorem target14 {n : Nat} (pc : Word) (off : BitVec n) : pc + (off.signExtend 32 <<< 2) = BitVec.ofInt 32 (pc.toInt + 4 * off.toInt) := by
  rw [BitVec.ofInt_add, BitVec.ofInt_mul, BitVec.ofInt_toInt, BitVec.shiftLeft_eq_mul_twoPow, BitVec.mul_comm]
  rfl

theorem regs_id (y : Tile) : ∃ rs, id y = { y with regs := rs } := ⟨y.regs, rfl⟩

theorem target_aligned {n : Nat} (pc : Word) (off : BitVec n) (h : pc.toNat % 4 = 0) : (BitVec.ofInt 32 (pc.toInt + 4 * off.toInt) : Word).toNat % 4 = 0 := by
  rw [BitVec.toNat_ofInt]
  have : pc.toInt % 4 = 0 := by
    rw [BitVec.toInt_eq_toNat_cond]; split <;> omega
  omega

theorem link_regs (pc : Word) : ∀ y : Tile, ∃ rs, y.setReg 31 (y.pc + 8) = { y with regs := rs } := fun y => ⟨_, setReg_eq y 31 _⟩

theorem edges_clean (s : State) (l : Path) (h : ∀ i, (s.tile (memberAt l i)).lsErr = []) (es : List (Nat × Nat)) :
    es.foldl (fun (acc : State × Bool) (e : Nat × Nat) =>
      if acc.2 then acc.1.checkWords (memberAt l e.1) e.2 e.2 else acc) (s, true) = (s, true) := by
  induction es with
  | nil => rfl
  | cons p ps ih =>
    rw [List.foldl_cons]
    simp only [if_true]
    rw [checkWords_clean s _ _ _ (h p.1)]
    exact ih

theorem writeLS_one (s : State) (l : Path) (h : ∀ i, (s.tile (memberAt l i)).lsErr = []) (a : Nat) (bs : Bytes) (hb : bs ≠ [])
    (hl : a % 0x200000 + bs.length ≤ 0x200000) :
    s.writeLS l a bs = (s.setTile (memberAt l (a / 0x200000))
      { s.tile (memberAt l (a / 0x200000)) with ls := writeCells (s.tile (memberAt l (a / 0x200000))).ls (a % 0x200000) bs }, true) := by
  unfold State.writeLS
  simp only []
  rw [edges_clean s l h]
  simp only [if_true]
  congr 1
  unfold State.pokeLS
  have e : bs.isEmpty = false := by cases bs <;> simp_all
  simp only [e, Bool.false_eq_true, if_false]
  rw [List.take_of_length_le (by omega), List.drop_of_length_le (by omega)]
  unfold State.pokeLS
  simp only [List.isEmpty_nil, if_true]
  unfold State.modTile Tile.writeLS
  have hx := h (a / 0x200000)
  simp only [hx, List.filter_nil]

theorem deactivateFrom_lc (x : Tile) (k j : Nat) : (x.deactivateFrom k).lc j = x.lc j := by rw [deactivateFrom_eq]; rfl

theorem setLc_lc (x : Tile) (k j : Nat) (v : Word) : (x.setLc k v).lc j = if j = k then v else x.lc j := mapGet_mapSet _ _ _ _ _

theorem setLoop_lc (x : Tile) (k j : Nat) (v : Word) : (x.setLoop k v).lc j = x.lc j := rfl

theorem setWidth_ofNat {n m : Nat} (x : BitVec n) : x.setWidth m = BitVec.ofNat m x.toNat := by
  apply BitVec.eq_of_toNat_eq; simp

theorem endTest_skip (x : Tile) (lv : Nat) (rest : List Nat) (h : (loopActive (x.loop lv) && loopEnd (x.loop lv) = x.pc.toNat) = false) :
    x.endTest (lv :: rest) = x.endTest rest := by
  rw [Tile.endTest]; simp only []; rw [h]; simp

theorem endTest_back (x : Tile) (lv : Nat) (rest : List Nat) (h : (loopActive (x.loop lv) && loopEnd (x.loop lv) = x.pc.toNat) = true)
    (hc : 1 < (x.lc lv).toNat) : x.endTest (lv :: rest) = { x.setLc lv (x.lc lv - 1) with pc := word (loopStart (x.loop lv)) } := by
  rw [Tile.endTest]; simp only []; rw [h, if_pos rfl, if_pos hc]

theorem endTest_out (x : Tile) (lv : Nat) (rest : List Nat) (h : (loopActive (x.loop lv) && loopEnd (x.loop lv) = x.pc.toNat) = true)
    (hc : ¬ 1 < (x.lc lv).toNat) : x.endTest (lv :: rest) = ((x.setLc lv 0).deactivate lv).endTest rest := by
  rw [Tile.endTest]; simp only []; rw [h, if_pos rfl, if_neg hc]

theorem loopStart_small (w : Word) : loopStart w < 2 ^ 32 := by
  unfold loopStart bits; omega

theorem atLend_some {x : Tile} {lv : Nat} (h : x.atLend = some lv) : lv < 3 ∧ (loopActive (x.loop lv) && loopEnd (x.loop lv) = x.pc.toNat) = true ∧
    (∀ j, lv < j → j < 3 → (loopActive (x.loop j) && loopEnd (x.loop j) = x.pc.toNat) = false) := by
  unfold Tile.atLend at h
  rw [List.find?_cons, List.find?_cons, List.find?_cons, List.find?_nil] at h
  generalize hp : (fun lv => loopActive (x.loop lv) && decide (loopEnd (x.loop lv) = x.pc.toNat)) = p at h
  have hq : ∀ j, (loopActive (x.loop j) && decide (loopEnd (x.loop j) = x.pc.toNat)) = p j := fun j => congrFun hp j
  simp only [hq]
  simp only [hq] at h
  cases h2 : p 2 <;> cases h1 : p 1 <;> cases h0 : p 0 <;> simp [h0, h1, h2] at h <;> subst h <;>
    refine ⟨by decide, by assumption, ?_⟩ <;> intro j hj hj3 <;> first | omega | (rcases (by omega : j = 1 ∨ j = 2) with rfl | rfl <;> first | assumption | omega)

theorem end_back (x : Tile) (lv : Nat) (h : x.atLend = some lv) (hc : 1 < (x.lc lv).toNat) :
    x.endTest [2, 1, 0] = { x.setLc lv (x.lc lv - 1) with pc := word (loopStart (x.loop lv)) } := by
  obtain ⟨h3, hat, hdeep⟩ := atLend_some h
  rcases (by omega : lv = 0 ∨ lv = 1 ∨ lv = 2) with rfl | rfl | rfl
  · rw [endTest_skip _ 2 _ (hdeep 2 (by decide) (by decide)), endTest_skip _ 1 _ (hdeep 1 (by decide) (by decide)), endTest_back _ 0 _ hat hc]
  · rw [endTest_skip _ 2 _ (hdeep 2 (by decide) (by decide)), endTest_back _ 1 _ hat hc]
  · rw [endTest_back _ 2 _ hat hc]

theorem end_out (x : Tile) (lv : Nat) (h : x.atLend = some lv) (hc : ¬ 1 < (x.lc lv).toNat)
    (hout : ∀ j, j < lv → loopActive (x.loop j) = true → loopEnd (x.loop j) ≠ x.pc.toNat) :
    x.endTest [2, 1, 0] = { (x.setLc lv 0).deactivate lv with pc := x.pc + 4 } := by
  obtain ⟨h3, hat, hdeep⟩ := atLend_some h
  have hsk : ∀ j, j < lv → (loopActive (((x.setLc lv 0).deactivate lv).loop j) &&
      loopEnd (((x.setLc lv 0).deactivate lv).loop j) = ((x.setLc lv 0).deactivate lv).pc.toNat) = false := by
    intro j hj
    have e : ((x.setLc lv 0).deactivate lv).loop j = x.loop j := (deactivate_loop _ _ _).trans (if_neg (by omega))
    rw [e]
    cases ha : loopActive (x.loop j)
    · rfl
    · have := hout j hj ha
      rw [Bool.true_and]
      exact decide_eq_false this
  rcases (by omega : lv = 0 ∨ lv = 1 ∨ lv = 2) with rfl | rfl | rfl
  · rw [endTest_skip _ 2 _ (hdeep 2 (by decide) (by decide)), endTest_skip _ 1 _ (hdeep 1 (by decide) (by decide)), endTest_out _ 0 _ hat hc]; rfl
  · rw [endTest_skip _ 2 _ (hdeep 2 (by decide) (by decide)), endTest_out _ 1 _ hat hc, endTest_skip _ 0 _ (hsk 0 (by decide))]; rfl
  · rw [endTest_out _ 2 _ hat hc, endTest_skip _ 1 _ (hsk 1 (by decide)), endTest_skip _ 0 _ (hsk 0 (by decide))]; rfl

theorem drained_iff (x : Tile) : x.drained = true ↔ x.cmdQ = [] ∧ x.loadQ = [] ∧ x.storeQ = [] ∧ x.flights = [] := by
  unfold Tile.drained; simp [and_assoc]

theorem advance_run (x : Tile) (r : Run) : ({ x with run := r } : Tile).advance.run = r := by rw [Tile.advance_eq]

theorem span_le (s : State) (l : Path) : s.span l ≤ 0x800000 := by
  unfold State.span State.panelWidth
  split
  · split <;> decide
  · decide

theorem chunksFuel_wordsOf : ∀ (n : Nat) (bs : Bytes) (fuel : Nat), bs.length = 4 * n → n < fuel →
    (chunksFuel 4 fuel bs).map (fun c => word (leNat c)) = (List.range n).map fun i => word (leNat ((List.range 4).map fun j => bs.getD (4 * i + j) 0)) := by
  intro n
  induction n with
  | zero =>
    intro bs fuel hl hf
    have : bs = [] := List.length_eq_zero_iff.mp (by omega)
    subst this
    cases fuel <;> rfl
  | succ n ih =>
    intro bs fuel hl hf
    match fuel, bs, hl with
    | f + 1, b0 :: b1 :: b2 :: b3 :: rest, hl =>
      unfold chunksFuel
      simp only [List.isEmpty_cons, Bool.false_eq_true, if_false, List.map_cons]
      rw [show List.range (n + 1) = 0 :: (List.range n).map Nat.succ from List.range_succ_eq_map, List.map_cons, List.map_map]
      congr 1
      have := ih rest f (by simp at hl; omega) (by omega)
      simp only [List.drop_succ_cons, List.drop_zero]
      rw [this]
      apply List.map_congr_left
      intro i _
      show _ = word (leNat ((List.range 4).map fun j => (b0 :: b1 :: b2 :: b3 :: rest).getD (4 * (i + 1) + j) 0))
      congr 3
      funext j
      rw [show 4 * (i + 1) + j = (4 * i + j) + 4 by omega]
      rfl

theorem restore_spec (x : Tile) (g : Nat → Word) :
    let y := x.restore ((List.range 16).map g)
    y.mode = g 4 ∧ y.lc 0 = g 5 ∧ y.lc 1 = g 6 ∧ y.lc 2 = g 7 ∧ y.loop 0 = g 8 ∧ y.loop 1 = g 9 ∧ y.loop 2 = g 10 ∧
      y.reg 30 = g 11 ∧ y.reg 28 = g 12 ∧ y.reg 29 = g 13 ∧ y.reg 31 = g 14 ∧ y.pc = g 1 ∧
      (∀ q, q ∉ ([28, 29, 30, 31] : List Reg) → y.reg q = x.reg q) ∧
      y = { x with mode := y.mode, lcount := y.lcount, loops := y.loops, regs := y.regs, pc := y.pc, delay := none, shadow := 0 } := by
  simp only []
  have hlc : ∀ (x : Tile) k w j, (x.setLc k w).lc j = if j = k then w else x.lc j := fun _ _ _ _ => mapGet_mapSet _ _ _ _ _
  have hlp : ∀ (x : Tile) k w j, (x.setLoop k w).loop j = if j = k then w else x.loop j := fun _ _ _ _ => mapGet_mapSet _ _ _ _ _
  have a1 : ∀ (x : Tile) r w, (x.setReg r w).lcount = x.lcount := fun x r w => by rw [setReg_eq]
  have a2 : ∀ (x : Tile) r w, (x.setReg r w).loops = x.loops := fun x r w => by rw [setReg_eq]
  have hr : ∀ (x : Tile) (r : Reg) w q, r ≠ 0 → (x.setReg r w).reg q = if q = r then w else x.reg q := by
    intro x r w q h0
    by_cases h : q = r
    · subst h; rw [Tile.reg_setReg_same, if_neg h0, if_pos rfl]
    · rw [Tile.reg_setReg_other _ _ h, if_neg h]
  obtain ⟨y, hy⟩ : ∃ y, y = (((({ x with mode := g 4 } : Tile).setLc 0 (g 5)).setLc 1 (g 6)).setLc 2 (g 7)) := ⟨_, rfl⟩
  obtain ⟨z, hz⟩ : ∃ z, z = ((y.setLoop 0 (g 8)).setLoop 1 (g 9)).setLoop 2 (g 10) := ⟨_, rfl⟩
  obtain ⟨u, hu⟩ : ∃ u, u = (((z.setReg 28 (g 12)).setReg 29 (g 13)).setReg 31 (g 14)).setReg 30 (g 11) := ⟨_, rfl⟩
  have key : x.restore ((List.range 16).map g) = { u with pc := g 1, delay := none, shadow := 0 } := by
    have hg : ∀ i, i < 16 → ((List.range 16).map g).getD i 0 = g i := by
      intro i hi
      rw [List.getD_eq_getElem?_getD, List.getElem?_map, List.getElem?_range hi]; rfl
    unfold Tile.restore
    simp only [hg 4 (by decide), hg 5 (by decide), hg 6 (by decide), hg 7 (by decide), hg 8 (by decide), hg 9 (by decide), hg 10 (by decide),
      hg 11 (by decide), hg 12 (by decide), hg 13 (by decide), hg 14 (by decide), hg 1 (by decide)]
    rw [hu, hz, hy]
  have ylc : ∀ j, y.lc j = if j = 2 then g 7 else if j = 1 then g 6 else if j = 0 then g 5 else x.lc j := by
    intro j; rw [hy, hlc, hlc, hlc]; rfl
  have zloop : ∀ j, z.loop j = if j = 2 then g 10 else if j = 1 then g 9 else if j = 0 then g 8 else x.loop j := by
    intro j; rw [hz, hlp, hlp, hlp, hy]; rfl
  have zlc : z.lcount = y.lcount := by rw [hz]; rfl
  have ureg : ∀ q, u.reg q = if q = 30 then g 11 else if q = 31 then g 14 else if q = 29 then g 13 else if q = 28 then g 12 else x.reg q := by
    intro q; rw [hu, hr _ _ _ _ (by decide), hr _ _ _ _ (by decide), hr _ _ _ _ (by decide), hr _ _ _ _ (by decide), hz, hy]; rfl
  have ulc : u.lcount = y.lcount := by rw [hu, a1, a1, a1, a1, zlc]
  have ulp : u.loops = z.loops := by rw [hu, a2, a2, a2, a2]
  have hx : u = { x with mode := g 4, lcount := u.lcount, loops := u.loops, regs := u.regs } := by
    have zx : z = { x with mode := g 4, lcount := z.lcount, loops := z.loops } := by rw [hz, hy]; rfl
    have ux : u = { z with regs := u.regs } := by
      rw [hu]
      generalize g 12 = w1; generalize g 13 = w2; generalize g 14 = w3; generalize g 11 = w4
      rw [setReg_eq ((z.setReg 28 w1).setReg 29 w2 |>.setReg 31 w3), setReg_eq ((z.setReg 28 w1).setReg 29 w2), setReg_eq (z.setReg 28 w1), setReg_eq z]
    rw [ux, zx]
  have hm : u.mode = g 4 := by rw [hx]
  have flc : ∀ j, ({ u with pc := g 1, delay := none, shadow := 0 } : Tile).lc j = y.lc j := by
    intro j; show mapGet _ u.lcount j = mapGet _ y.lcount j; rw [ulc]
  have flp : ∀ j, ({ u with pc := g 1, delay := none, shadow := 0 } : Tile).loop j = z.loop j := by
    intro j; show mapGet _ u.loops j = mapGet _ z.loops j; rw [ulp]
  have frg : ∀ q, ({ u with pc := g 1, delay := none, shadow := 0 } : Tile).reg q = u.reg q := fun _ => rfl
  rw [key, flc, flc, flc, flp, flp, flp, frg, frg, frg, frg, ylc, ylc, ylc, zloop, zloop, zloop, ureg, ureg, ureg, ureg]
  refine ⟨hm, by simp, by simp, by simp, by simp, by simp, by simp, by simp, by simp, by simp, by simp, rfl, ?_, ?_⟩
  · intro q hq
    simp only [List.mem_cons, List.not_mem_nil, or_false, not_or] at hq
    rw [frg, ureg, if_neg hq.2.2.1, if_neg hq.2.2.2, if_neg hq.2.1, if_neg hq.1]
  · rw [hm]
    conv => lhs; rw [hx]

end Sys2Proof.Machine
end

