-- ==== Sys2Proof/Laws/Panel.lean ====
section
/-! SUPPORT. Laws of panels (R42): the lowest member, the members in order, and the path words they have. -/

namespace Sys2Proof.Machine

theorem clusterOf_pathOf {k n : Nat} (hk : k < 40) (hn : n < 64) : clusterOf (pathOf k n) = k := by
  simp only [clusterOf, dieOf, bits, pathOf, BitVec.toNat_ofNat]
  omega

theorem tileNo_pathOf {k n : Nat} (hk : k < 40) (hn : n < 64) : tileNo (pathOf k n) = n := by
  simp only [tileNo, bits, pathOf, BitVec.toNat_ofNat]
  omega

theorem clusterOf_lt {t : Path} (h : activePath t = true) : clusterOf t < 40 := by
  have hb := t.isLt
  simp only [activePath, Bool.and_eq_true, decide_eq_true_eq] at h
  have h9 := h.1.2
  unfold bits at h9
  unfold clusterOf dieOf bits
  generalize t.toNat = n at *
  omega

theorem tileNo_le {t : Path} (h : activePath t = true) : tileNo t ≤ 31 := by
  simp only [activePath, Bool.and_eq_true, decide_eq_true_eq] at h
  exact h.2

theorem State.panelWidth_cases (s : State) (t : Path) : s.panelWidth t = 1 ∨ s.panelWidth t = 2 ∨ s.panelWidth t = 4 := by
  unfold State.panelWidth
  split <;> first | (split <;> simp) | simp

theorem State.lead_tileNo (s : State) {t : Path} (h : activePath t = true) :
    tileNo (s.lead t) = tileNo t / s.panelWidth t * s.panelWidth t := by
  have hn := tileNo_le h
  refine tileNo_pathOf (clusterOf_lt h) ?_
  rcases s.panelWidth_cases t with w | w | w <;> rw [w] <;> omega

theorem State.lead_cluster (s : State) {t : Path} (h : activePath t = true) : clusterOf (s.lead t) = clusterOf t := by
  have hn := tileNo_le h
  refine clusterOf_pathOf (clusterOf_lt h) ?_
  rcases s.panelWidth_cases t with w | w | w <;> rw [w] <;> omega

theorem State.lead_width (s : State) {t : Path} (h : activePath t = true) : s.panelWidth (s.lead t) = s.panelWidth t := by
  have hn := tileNo_le h
  have hl := s.lead_tileNo h
  have hg : tileNo (s.lead t) / 4 = tileNo t / 4 := by
    rcases s.panelWidth_cases t with w | w | w <;> rw [hl, w] <;> omega
  have hle : tileNo (s.lead t) ≤ 31 := by omega
  generalize hw : s.lead t = l at *
  have hc : clusterOf l = clusterOf t := by rw [← hw]; exact s.lead_cluster h
  unfold State.panelWidth
  rw [if_pos hle, if_pos hn, hc, hg]

theorem State.lead_lead (s : State) {t : Path} (h : activePath t = true) : s.lead (s.lead t) = s.lead t := by
  have e : s.lead (s.lead t) = pathOf (clusterOf (s.lead t)) (tileNo (s.lead t) / s.panelWidth (s.lead t) * s.panelWidth (s.lead t)) := rfl
  rw [e, s.lead_cluster h, s.lead_width h, s.lead_tileNo h]
  have : tileNo t / s.panelWidth t * s.panelWidth t / s.panelWidth t * s.panelWidth t = tileNo t / s.panelWidth t * s.panelWidth t := by
    rcases s.panelWidth_cases t with w | w | w <;> rw [w] <;> omega
  rw [this]
  rfl

theorem State.members_lead (s : State) {t : Path} (h : activePath t = true) :
    s.members (s.lead t) = (List.range (s.panelWidth (s.lead t))).map (memberAt (s.lead t)) := by
  unfold State.members memberAt
  have : tileNo (s.lead t) / s.panelWidth (s.lead t) * s.panelWidth (s.lead t) = tileNo (s.lead t) := by
    rw [s.lead_width h, s.lead_tileNo h]
    rcases s.panelWidth_cases t with w | w | w <;> rw [w] <;> omega
  rw [this]

theorem State.memberAt_lead (s : State) {t : Path} (h : activePath t = true) : memberAt (s.lead t) 0 = s.lead t := by
  unfold memberAt
  rw [s.lead_cluster h, s.lead_tileNo h]
  rfl

end Sys2Proof.Machine
end

