-- ==== Sys2Proof/Laws/Members.lean ====
section
/-! SUPPORT. Laws of what acts on each member of a panel or each tile of a unit (R19, R22, R42): path words are distinct, and a doorbell's
work on a list of members is its work on each of them. -/

namespace Sys2Proof.Machine

theorem refusal_chain (A B C D E : Bool) (R : Prop) [Decidable R] (x : Option (Nat × Nat))
    (hx : x = if A = true then some (0x4001, 1) else if False then some (0x4001, 2) else if B = true then some (0x4001, 3)
      else if R then some (0x4001, 4) else if C = true then some (0x4001, 5) else if D = true then some (0x4010, 1)
      else if E = true then some (0x4010, 2) else none) :
    ((A = true ∨ B = true ∨ R ∨ C = true) → ∃ c, x = some (0x4001, c)) ∧
    (¬ (A = true ∨ B = true ∨ R ∨ C = true) → (D = true ∨ E = true) → ∃ c, x = some (0x4010, c)) ∧
    (¬ (A = true ∨ B = true ∨ R ∨ C = true) → ¬ (D = true ∨ E = true) → x = none) := by
  subst hx
  by_cases hr : R <;> cases A <;> cases B <;> cases C <;> cases D <;> cases E <;> simp [hr]

theorem win_setResult (s : State) (win : WinAddr) (r : BitVec 4) : (s.setResult win r).win win = ⟨r, (s.win win).seq + 1⟩ ∧
    ∀ w, w ≠ win → (s.setResult win r).win w = s.win w := by
  unfold State.setResult State.win
  refine ⟨?_, fun w hw => ?_⟩
  · exact mapGet_mapSet_same _ _ _ _
  · exact mapGet_mapSet_other _ _ _ (fun e => hw (BitVec.eq_of_toNat_eq e))

theorem pathOf_inj {k k' n n' : Nat} (hk : k < 40) (hk' : k' < 40) (hn : n < 64) (hn' : n' < 64) (h : pathOf k n = pathOf k' n') : k = k' ∧ n = n' := by
  have h := congrArg BitVec.toNat h
  simp only [pathOf, BitVec.toNat_ofNat] at h
  omega

theorem pathOf_inj' {k n n' : Nat} (hn : n < 64) (hn' : n' < 64) (h : pathOf k n = pathOf k n') : n = n' := by
  have h := congrArg BitVec.toNat h
  simp only [pathOf, BitVec.toNat_ofNat] at h
  omega

theorem nodup_cluster (k : Nat) : (clusterTiles k).Nodup := by
  unfold clusterTiles
  apply List.Nodup.map_on _ List.nodup_range
  intro a ha b hb h
  rw [List.mem_range] at ha hb
  exact pathOf_inj' (by omega) (by omega) h

theorem nodup_clusters (ks : List Nat) (hn : ks.Nodup) (hk : ∀ k ∈ ks, k < 40) : (ks.flatMap clusterTiles).Nodup := by
  rw [List.nodup_flatMap]
  refine ⟨fun k _ => nodup_cluster k, ?_⟩
  refine hn.imp_of_mem ?_
  intro a b ha hb hab x hx hy
  unfold clusterTiles at hx hy
  rw [List.mem_map] at hx hy
  obtain ⟨i, hi, rfl⟩ := hx
  obtain ⟨j, hj, e⟩ := hy
  rw [List.mem_range] at hi hj
  exact hab (pathOf_inj (hk a ha) (hk b hb) (by omega) (by omega) e.symm).1

theorem nodup_members (s : State) (t : Path) : (s.members t).Nodup := by
  unfold State.members
  apply List.Nodup.map_on _ List.nodup_range
  intro a ha b hb h
  rw [List.mem_range] at ha hb
  have h64 : tileNo t < 64 := Nat.mod_lt _ (by decide)
  have hw : s.panelWidth t = 1 ∨ (tileNo t ≤ 31 ∧ (s.panelWidth t = 2 ∨ s.panelWidth t = 4)) := by
    unfold State.panelWidth
    split
    · rename_i h31
      split
      · exact .inr ⟨h31, .inl rfl⟩
      · exact .inr ⟨h31, .inr rfl⟩
      · exact .inl rfl
    · exact .inl rfl
  rcases hw with e | ⟨h31, e | e⟩ <;> rw [e] at ha hb h
  · omega
  · have := pathOf_inj' (by omega) (by omega) h; omega
  · have := pathOf_inj' (by omega) (by omega) h; omega

/-- What START or STOP makes of a runner: it takes effect at once, or waits for the boundary (R19, R56). -/
def laterFn (b : Later) (f : Tile → Tile) (x : Tile) : Tile := if x.atBoundary then f x else { x with waiting := x.waiting ++ [b] }

/-- What a doorbell of command 0, 1, 2, 4 or 5 makes of a member, as a function. -/
def memberFn (cmd : Nat) (arg : BitVec 40) (lead : Bool) (x : Tile) : Tile :=
  match cmd with
  | 1 => if lead then laterFn (.start (arg.setWidth 32)) (fun y => y.startAt (arg.setWidth 32)) x else x
  | 2 => if lead then laterFn (.stop .stopped) (Tile.stopTo .stopped) x else x
  | 4 => x.clearFault
  | 5 => if lead then (numbers 16 fun k => bit arg k).foldl (fun y k => { y with tickets := mapSet 0 y.tickets k 0 }) x else x
  | _ => x

/-- A state's tile `t` becomes `f` of it; nothing else changes. -/
def oneTile (a u : State) (t : Path) (f : Tile → Tile) : Prop :=
  (∀ q, u.tile q = if q = t then f (a.tile t) else a.tile q) ∧ u = { a with tiles := u.tiles }

theorem oneTile_mod (a : State) (t : Path) (f : Tile → Tile) : oneTile a (a.modTile t f) t f := by
  refine ⟨fun q => ?_, rfl⟩
  by_cases e : q = t
  · subst e; rw [State.tile_modTile_same, if_pos rfl]
  · rw [State.tile_modTile_other _ _ e, if_neg e]

theorem oneTile_same (a : State) (t : Path) : oneTile a a t id := by
  refine ⟨fun q => ?_, rfl⟩
  split
  · rename_i e; rw [e]; rfl
  · rfl

theorem oneTile_ite {a u v : State} {t : Path} {f g : Tile → Tile} (c : Prop) [Decidable c] (h1 : oneTile a u t f) (h2 : oneTile a v t g) :
    oneTile a (if c then u else v) t (fun x => if c then f x else g x) := by
  by_cases h : c
  · simp only [h, if_true]; exact h1
  · simp only [h, if_false]; exact h2

/-- What waits or takes effect at once is one tile's matter, where its effect is. -/
theorem oneTile_atNext (a : State) (t : Path) (b : Later) (f : Tile → Tile) (h : oneTile a (a.applyLater t b) t f) :
    oneTile a (a.atNext t b) t (laterFn b f) := by
  unfold State.atNext
  by_cases hb : (a.tile t).atBoundary = true
  · rw [if_pos hb]
    refine ⟨fun q => ?_, h.2⟩
    rw [h.1]; unfold laterFn; rw [if_pos hb]
  · rw [if_neg hb]
    have h1 := oneTile_mod a t fun x => { x with waiting := x.waiting ++ [b] }
    refine ⟨fun q => ?_, h1.2⟩
    rw [h1.1]; unfold laterFn; rw [if_neg hb]

theorem apply_member (a : State) (cmd : Nat) (arg : BitVec 40) (t : Path) (hc : cmd ∈ [0, 1, 2, 4, 5]) :
    oneTile a (a.applyDoorbell cmd arg t) t (memberFn cmd arg (decide (a.lead t = t))) := by
  have hite : ∀ (u : State) (f : Tile → Tile), oneTile a u t f →
      oneTile a (if a.lead t = t then u else a) t (fun x => if decide (a.lead t = t) = true then f x else x) := by
    intro u f h
    have := oneTile_ite (a.lead t = t) h (oneTile_same a t)
    simpa only [decide_eq_true_eq, id] using this
  unfold State.applyDoorbell memberFn
  simp only [List.mem_cons, List.not_mem_nil, or_false] at hc
  rcases hc with rfl | rfl | rfl | rfl | rfl
  · exact oneTile_same a t
  · exact hite _ _ (oneTile_atNext a t _ _ (oneTile_mod a t _))
  · exact hite _ _ (oneTile_atNext a t _ _ (oneTile_mod a t _))
  · exact oneTile_mod a t _
  · exact hite _ _ (oneTile_mod a t _)

theorem apply_members (cmd : Nat) (arg : BitVec 40) (hc : cmd ∈ [0, 1, 2, 4, 5]) (ms : List Path) (hn : ms.Nodup) (a : State) :
    (∀ q, (a.each ms fun a t => a.applyDoorbell cmd arg t).tile q = if q ∈ ms then memberFn cmd arg (decide (a.lead q = q)) (a.tile q) else a.tile q) ∧
    (a.each ms fun a t => a.applyDoorbell cmd arg t) = { a with tiles := (a.each ms fun a t => a.applyDoorbell cmd arg t).tiles } := by
  unfold State.each
  induction ms generalizing a with
  | nil => exact ⟨fun q => by simp, rfl⟩
  | cons m ms ih =>
    rw [List.nodup_cons] at hn
    obtain ⟨h1, h2⟩ := apply_member a cmd arg m hc
    obtain ⟨i1, i2⟩ := ih hn.2 (a.applyDoorbell cmd arg m)
    rw [List.foldl_cons]
    have hlead : ∀ q, (a.applyDoorbell cmd arg m).lead q = a.lead q := by intro q; rw [h2]; rfl
    refine ⟨fun q => ?_, ?_⟩
    · rw [i1, hlead, h1]
      by_cases e : q = m
      · subst e
        rw [if_neg hn.1, if_pos rfl, if_pos (by simp)]
      · rw [if_neg e]
        by_cases hq : q ∈ ms
        · rw [if_pos hq, if_pos (by simp [hq])]
        · rw [if_neg hq, if_neg (by simp [hq, e])]
    · rw [i2, h2]

theorem refuse_keeps_tile {s s1 : State} (h : s.reported' s1) (l : Path) : s1.tile l = s.tile l := State.noted'_tile (State.noted'_of_reported h) l

theorem each_arr (f : ArrayLevel → ArrayLevel) (ms : List Path) (s : State) :
    (∀ q, ∃ ar, (s.each ms fun a t => a.modTile t fun x => { x with arr := f x.arr }).tile q = { s.tile q with arr := ar }) ∧
    (s.each ms fun a t => a.modTile t fun x => { x with arr := f x.arr }) = { s with tiles := (s.each ms fun a t => a.modTile t fun x => { x with arr := f x.arr }).tiles } := by
  unfold State.each
  induction ms generalizing s with
  | nil => exact ⟨fun q => ⟨_, rfl⟩, rfl⟩
  | cons m ms ih =>
    rw [List.foldl_cons]
    obtain ⟨i1, i2⟩ := ih (s.modTile m fun x => { x with arr := f x.arr })
    refine ⟨fun q => ?_, ?_⟩
    · obtain ⟨ar, h⟩ := i1 q
      rw [h]
      by_cases e : q = m
      · subst e; rw [State.tile_modTile_same]; exact ⟨_, rfl⟩
      · rw [State.tile_modTile_other _ _ e]; exact ⟨_, rfl⟩
    · rw [i2]; rfl

theorem arrayIdle_tiles (s : State) (l : Path) : (∀ q, ∃ ar, (s.arrayIdle l).tile q = { s.tile q with arr := ar }) ∧ s.arrayIdle l = { s with tiles := (s.arrayIdle l).tiles } := by
  unfold State.arrayIdle
  split
  · exact ⟨fun q => ⟨_, rfl⟩, rfl⟩
  · exact each_arr _ _ _

theorem drainVec_none (s : State) (l : Path) (fuel : Nat) (h : (s.tile l).headOf 1 = none) : s.drainVec l fuel = s := by
  cases fuel with
  | zero => rfl
  | succ n => unfold State.drainVec; rw [h]

theorem headOf_none (x : Tile) (h : ∀ c ∈ x.cmdQ, c.unit ≠ 1) : x.headOf 1 = none := by
  unfold Tile.headOf
  rw [List.find?_eq_none]
  intro c hc
  have : c ∈ x.cmdQ := hc
  have h' := h c this
  simp only [decide_eq_true_eq]
  exact fun e => h' (BitVec.eq_of_toNat_eq e)

end Sys2Proof.Machine
end

