-- ==== Sys2Proof/Laws/VectorUnit.lean ====
section
/-! SUPPORT. Laws of the vector engine's operations (R135 to R146): lanes and masks read and written one by one, what is counted and noted,
and folds of loads and stores over the active lanes. -/

namespace Sys2Proof.Machine

theorem setLanes_get (x : Tile) (r : Nat) (g : Nat → Nat) (L : List Nat) (hL : ∀ i ∈ L, i < 32) (q i : Nat) (hi : i < 32) :
    (x.setLanes r (L.map fun i => (i, g i))).lane q i = if q = r ∧ i ∈ L then g i % 2 ^ 32 else x.lane q i := by
  unfold Tile.setLanes Tile.lane
  simp only []
  have : ∀ (m : SMap Word), (mapGet 0 (((L.map fun i => (i, g i))).foldl (fun m e => mapSet 0 m (32 * r + e.1) (word e.2)) m) (32 * q + i)).toNat
      = if q = r ∧ i ∈ L then g i % 2 ^ 32 else (mapGet 0 m (32 * q + i)).toNat := by
    induction L with
    | nil => intro m; simp
    | cons a L ih =>
      intro m
      rw [List.map_cons, List.foldl_cons, ih (fun i h => hL i (List.mem_cons_of_mem _ h))]
      have ha := hL a (List.mem_cons_self ..)
      by_cases h : q = r ∧ i ∈ L
      · rw [if_pos h, if_pos ⟨h.1, List.mem_cons_of_mem _ h.2⟩]
      · rw [if_neg h, mapGet_mapSet]
        by_cases e : 32 * q + i = 32 * r + a
        · have e1 : q = r := by omega
          have e2 : i = a := by omega
          rw [if_pos e, if_pos ⟨e1, by rw [e2]; exact List.mem_cons_self ..⟩, e2]
          simp [word]
        · rw [if_neg e, if_neg]
          rintro ⟨h1, h2⟩
          rcases List.mem_cons.mp h2 with h2 | h2
          · exact e (by rw [h1, h2])
          · exact h ⟨h1, h2⟩
  exact this x.vregs

theorem setLanes_eq (x : Tile) (r : Nat) (ws : List (Nat × Nat)) : x.setLanes r ws = { x with vregs := (x.setLanes r ws).vregs } := rfl

theorem activeLanes_lt (m : Word) : ∀ i ∈ activeLanes m, i < 32 := by
  intro i h
  unfold activeLanes numbers at h
  exact List.mem_range.mp (List.mem_filter.mp h).1

theorem mem_activeLanes (m : Word) (i : Nat) (h : i < 32) : i ∈ activeLanes m ↔ bit m i = true := by
  unfold activeLanes numbers
  rw [List.mem_filter, List.mem_range]
  exact ⟨fun h' => h'.2, fun h' => ⟨h, h'⟩⟩

theorem filterMap_some (L : List Nat) (h : Nat → Option Nat) (g : Nat → Nat) (hh : ∀ i, h i = some (g i)) :
    (L.filterMap fun i => (h i).map fun v => (i, v)) = L.map fun i => (i, g i) := by
  induction L with
  | nil => rfl
  | cons a L ih => rw [List.filterMap_cons, hh a, ih]; rfl

theorem bit_maskOf (f : Nat → Bool) (i : Nat) (hi : i < 32) : bit (maskOf f) i = f i := by
  have key : ∀ n, ((List.range n).map fun i => if f i then 2 ^ i else 0).sum < 2 ^ n ∧
      ∀ i, i < n → (((List.range n).map fun i => if f i then 2 ^ i else 0).sum).testBit i = f i := by
    intro n
    induction n with
    | zero => exact ⟨by simp, fun i h => absurd h (by omega)⟩
    | succ n ih =>
      obtain ⟨i1, i2⟩ := ih
      rw [List.range_succ, List.map_append, List.sum_append]
      generalize ((List.range n).map fun i => if f i then 2 ^ i else 0).sum = S at *
      have e : ([n].map fun i => if f i then 2 ^ i else 0).sum = if f n then 2 ^ n else 0 := by simp
      rw [e]
      refine ⟨?_, fun i h => ?_⟩
      · split <;> omega
      · by_cases hf : f n = true
        · rw [if_pos hf, Nat.add_comm]
          by_cases e : i = n
          · subst e
            rw [Nat.testBit_two_pow_add_eq, Nat.testBit_lt_two_pow i1, hf]; rfl
          · rw [Nat.testBit_two_pow_add_gt (by omega), i2 i (by omega)]
        · rw [if_neg hf, Nat.add_zero]
          by_cases e : i = n
          · subst e
            rw [Nat.testBit_lt_two_pow i1]
            simp at hf
            exact hf.symm
          · exact i2 i (by omega)
  unfold bit maskOf word
  rw [BitVec.getLsbD_ofNat]
  simp only [hi, decide_true, Bool.true_and]
  exact (key 32).2 i hi

theorem lane_lt (x : Tile) (r i : Nat) : x.lane r i < 2 ^ 32 := (mapGet 0 x.vregs (32 * r + i)).isLt

theorem laneClass_eq (k a : Nat) : k < 4 → laneClass (k % 4) a = (match k with
     | 0 => a / 2 ^ 23 % 256 = 255 && a % 2 ^ 23 ≠ 0
     | 1 => a / 2 ^ 23 % 256 = 255 && a % 2 ^ 23 = 0
     | 2 => a % 2 ^ 31 = 0
     | _ => a / 2 ^ 23 % 256 = 0 && a % 2 ^ 23 ≠ 0 : Bool) := by
  intro hk
  unfold laneClass
  interval_cases k
  · rfl
  · rfl
  · show (decide _ && decide _) = decide _
    rw [Bool.eq_iff_iff]
    simp only [Bool.and_eq_true, decide_eq_true_eq]
    omega
  · rfl

theorem each_members (l : Path) (g : Nat → Tile → Tile) (n : Nat) (hn : n ≤ 4) (s : State) :
    (∀ j, j < n → (s.each (List.range n) fun a j => a.modTile (memberAt l j) (g j)).tile (memberAt l j) = g j (s.tile (memberAt l j))) ∧
    (∀ q, (∀ j, j < n → q ≠ memberAt l j) → (s.each (List.range n) fun a j => a.modTile (memberAt l j) (g j)).tile q = s.tile q) ∧
    (s.each (List.range n) fun a j => a.modTile (memberAt l j) (g j)) = { s with tiles := (s.each (List.range n) fun a j => a.modTile (memberAt l j) (g j)).tiles } := by
  induction n with
  | zero => exact ⟨fun j h => absurd h (by omega), fun _ _ => rfl, rfl⟩
  | succ n ih =>
    obtain ⟨i1, i2, i3⟩ := ih (by omega)
    have e : (s.each (List.range (n + 1)) fun a j => a.modTile (memberAt l j) (g j)) = (s.each (List.range n) fun a j => a.modTile (memberAt l j) (g j)).modTile (memberAt l n) (g n) := by
      unfold State.each; rw [List.range_succ, List.foldl_append]; rfl
    rw [e]
    generalize (s.each (List.range n) fun a j => a.modTile (memberAt l j) (g j)) = u at *
    refine ⟨fun j hj => ?_, fun q hq => ?_, ?_⟩
    · by_cases h : j = n
      · subst h
        rw [State.tile_modTile_same, i2 _ fun k hk h => absurd (memberAt_inj l (by omega) (by omega) h) (by omega)]
      · rw [State.tile_modTile_other _ _ fun h' => h (memberAt_inj l (by omega) (by omega) h'), i1 j (by omega)]
    · rw [State.tile_modTile_other _ _ (hq n (by omega)), i2 q fun j hj => hq j (by omega)]
    · rw [i3]; rfl

theorem effect_congr (c : VecCtx) (x z : Tile) (h1 : z.vregs = x.vregs) (h2 : z.masks = x.masks) (h3 : z.vsrb = x.vsrb) :
    c.effect z = { z with vregs := (c.effect x).vregs, masks := (c.effect x).masks, vsrb := (c.effect x).vsrb } := by
  have hm : ∀ k, z.mask k = x.mask k := fun k => by unfold Tile.mask; rw [h2]
  have hl : ∀ r i, z.lane r i = x.lane r i := fun r i => by unfold Tile.lane; rw [h1]
  have hsl : ∀ r ws, z.setLanes r ws = { z with vregs := (x.setLanes r ws).vregs, masks := (x.setLanes r ws).masks, vsrb := (x.setLanes r ws).vsrb } := by
    intro r ws; unfold Tile.setLanes; simp only [h1, ← h2, ← h3]
  have hsm : ∀ k w, z.setMask k w = { z with vregs := (x.setMask k w).vregs, masks := (x.setMask k w).masks, vsrb := (x.setMask k w).vsrb } := by
    intro k w; unfold Tile.setMask; split
    · rw [← h1, ← h2, ← h3]
    · simp only [h2, ← h1, ← h3]
  have hv : c.laneValue z = c.laneValue x := by
    funext i; unfold VecCtx.laneValue; simp only [hl]
  have hnb : c.narrowBytes z = c.narrowBytes x := by unfold VecCtx.narrowBytes; simp only [hl, hm]
  unfold VecCtx.effect
  simp only [hm, hl, hv, hnb]
  split
  · exact hsm _ _
  · split
    case _ => exact hsm _ _
    case _ => exact hsl _ _
    case _ => exact hsm _ _
    case _ => exact hsm _ _
    case _ => exact hsm _ _
    case _ => exact hsm _ _
    case _ => rw [h1.symm, h2.symm]
    case _ => exact hsl _ _
    case _ => exact hsl _ _
    case _ => exact hsl _ _
    case _ => exact hsl _ _
    case _ => exact hsl _ _
    case _ => exact hsl _ _

theorem wake_up (s : State) (k : Nat) : (s.wake k).clusterUp k = s.clusterUp k ∧ (s.wake k).fatal = s.fatal := by
  have hf : (s.wake k).fatal = s.fatal := by rw [(s.wake_notes k).2]
  refine ⟨?_, hf⟩
  unfold State.wake
  split
  · rename_i h
    unfold State.setCurrent
    simp only []
    split
    · rfl
    · have key : ∀ (f : Cluster → Cluster) (p : Byte) (t : Path) (kind : Byte) (d : Word) (e : Ev), e.code = 0x1F02 →
          (((s.modCluster k f).trace' p t kind d).raise e).cluster k = f (s.cluster k) := by
        intro f p t kind d e h2
        have r1 := State.trace'_reports (s.modCluster k f) p t kind d
        have r2 := State.raise_reports ((s.modCluster k f).trace' p t kind d) e (by rw [h2]; decide) (by rw [h2]; decide)
        have c := State.reported'_trans r1 r2
        have : (((s.modCluster k f).trace' p t kind d).raise e).clusters = (s.modCluster k f).clusters := by rw [c]
        unfold State.cluster
        rw [this]
        exact State.cluster_modCluster_same s k f
      unfold State.clusterUp
      rw [key _ _ _ _ _ _ rfl]
      simp only [h]
      rfl
  · rfl

theorem bits_encVec (vop : Nat) (v : Bool) (vd va vb : Reg) (m : BitVec 3) (h : vop < 64) :
    bits (encVec vop v vd va vb m) 21 6 = vop ∧ bits (encVec vop v vd va vb m) 16 5 = vd.toNat ∧ bits (encVec vop v vd va vb m) 11 5 = va.toNat ∧
    bits (encVec vop v vd va vb m) 6 5 = vb.toNat ∧ bits (encVec vop v vd va vb m) 3 3 = m.toNat ∧ bits (encVec vop v vd va vb m) 0 3 = 0 := by
  have h1 := vd.isLt
  have h2 := va.isLt
  have h3 := vb.isLt
  have h4 := m.isLt
  have e : (encVec vop v vd va vb m).toNat = 10 * 2 ^ 28 + (if v then 2 ^ 27 else 0) + (vop * 2 ^ 21 + vd.toNat * 2 ^ 16 + va.toNat * 2 ^ 11 + vb.toNat * 2 ^ 6 + m.toNat * 2 ^ 3) := by
    unfold encVec encode word
    rw [BitVec.toNat_ofNat, Nat.mod_eq_of_lt]
    split <;> omega
  unfold bits
  rw [e]
  generalize vd.toNat = a at *
  generalize va.toNat = b at *
  generalize vb.toNat = c at *
  generalize m.toNat = d at *
  cases v <;> simp only [if_true, if_false, Bool.false_eq_true] <;> omega

theorem noted'_setTile {s u : State} (l : Path) (y : Tile) (h : s.noted' u) : (s.setTile l y).noted' (u.setTile l y) := by
  have ht := State.noted'_tiles h
  refine ⟨fun k => h.1 k, ?_⟩
  have h2 := h.2
  unfold State.setTile
  rw [ht]
  generalize mapSet {} s.tiles l.toNat y = T
  conv => lhs; rw [h2]

theorem modTile_setTile (s : State) (l : Path) (f : Tile → Tile) : s.modTile l f = s.setTile l (f (s.tile l)) := rfl

theorem setTile_setTile_noted {s u v : State} (l : Path) (y z : Tile) (h1 : (s.setTile l y).noted' u) (h2 : (u.setTile l z).noted' v) :
    ∃ s0 : State, s0.noted' v ∧ (∀ q, s0.tile q = (s.setTile l z).tile q) ∧ s0 = { s with tiles := s0.tiles } := by
  refine ⟨((s.setTile l y).setTile l z), State.noted'_trans (noted'_setTile l z h1) h2, fun q => ?_, rfl⟩
  by_cases e : q = l
  · subst e; rw [State.tile_setTile_same, State.tile_setTile_same]
  · rw [State.tile_setTile_other _ _ e, State.tile_setTile_other _ _ e, State.tile_setTile_other _ _ e]

def stepOf (s : State) (l : Path) : Word := match s.partOf l with | some p => (s.part p).step | none => 0

theorem headOf_append (xs : List Command) (c : Command) (x : Tile) (hx : x.cmdQ = xs ++ [c]) (h : ∀ c ∈ xs, c.unit ≠ 1) (hc : c.unit = 1) :
    x.headOf 1 = some c := by
  have e : x.headOf 1 = x.cmdQ.find? fun c => c.unit.toNat = 1 := rfl
  rw [e, hx, List.find?_append]
  have : xs.find? (fun c => decide (c.unit.toNat = 1)) = none := by
    rw [List.find?_eq_none]
    intro d hd
    have := h d hd
    simp only [decide_eq_true_eq]
    exact fun e => this (BitVec.eq_of_toNat_eq e)
  rw [this]
  have hc' : c.unit.toNat = 1 := by rw [hc]; rfl
  simp [hc']

theorem filter_fresh (xs : List Command) (n : Nat) (h : ∀ c ∈ xs, c.id ≠ n) : xs.filter (fun c => c.id ≠ n) = xs := by
  rw [List.filter_eq_self]
  intro c hc
  simpa using h c hc

theorem advance_queue (x : Tile) (q : List Command) (n : Nat) : ({ x with cmdQ := q, nextId := n } : Tile).advance = { x.advance with cmdQ := q, nextId := n } := by
  have hend : ∀ (lvs : List Nat) (x : Tile), ({ x with cmdQ := q, nextId := n } : Tile).endTest lvs = { x.endTest lvs with cmdQ := q, nextId := n } := by
    intro lvs
    induction lvs with
    | nil => intro x; rfl
    | cons lv rest ih =>
      intro x
      unfold Tile.endTest
      simp only []
      have e1 : ({ x with cmdQ := q, nextId := n } : Tile).loop lv = x.loop lv := rfl
      have e2 : ({ x with cmdQ := q, nextId := n } : Tile).lc lv = x.lc lv := rfl
      rw [e1, e2]
      split
      · split
        · rfl
        · exact ih ((x.setLc lv 0).deactivate lv)
      · exact ih x
  obtain ⟨od, h⟩ : ∃ od, x.delay = od := ⟨_, rfl⟩
  rcases od with _ | d
  · have e1 : x.advance = x.endTest [2, 1, 0] := by unfold Tile.advance; rw [h]
    have e2 : ({ x with cmdQ := q, nextId := n } : Tile).advance = ({ x with cmdQ := q, nextId := n } : Tile).endTest [2, 1, 0] := by
      unfold Tile.advance
      have h' : ({ x with cmdQ := q, nextId := n } : Tile).delay = none := h
      rw [h']
    rw [e1, e2]; exact hend _ x
  · rw [Tile.advance_some x h, Tile.advance_some { x with cmdQ := q, nextId := n } (d := d) h]

theorem countPart_ctr (s : State) (p : Option Nat) (idx sub n : Nat) :
    (∀ q, (s.countPart p idx sub n).part q = { s.part q with ctr := ((s.countPart p idx sub n).part q).ctr }) ∧
    s.countPart p idx sub n = { s with parts := (s.countPart p idx sub n).parts } := by
  unfold State.countPart
  split
  · split
    · exact ⟨fun _ => rfl, rfl⟩
    · rename_i k _
      refine ⟨fun q => ?_, rfl⟩
      by_cases e : q = k
      · subst e; rw [State.part_modPart_same]; rfl
      · rw [State.part_modPart_other _ _ e]
  · exact ⟨fun _ => rfl, rfl⟩

/-- Nothing but counters and reports. -/
def countsNotes (s u : State) : Prop :=
  (∀ p, u.part p = { s.part p with ctr := (u.part p).ctr }) ∧ ({ s with parts := u.parts } : State).noted' u

theorem countsNotes_noted {s u : State} (h : s.noted' u) : countsNotes s u := by
  have : u.parts = s.parts := by rw [h.2]
  refine ⟨fun p => by unfold State.part; rw [this], ?_⟩
  rw [this]; exact h

theorem countsNotes_count (s : State) (p : Option Nat) (idx sub n : Nat) : countsNotes s (s.countPart p idx sub n) := by
  obtain ⟨h1, h2⟩ := countPart_ctr s p idx sub n
  refine ⟨h1, ?_⟩
  rw [← h2]; exact State.noted'_refl _

theorem countsNotes_trans {s u v : State} (h1 : countsNotes s u) (h2 : countsNotes u v) : countsNotes s v := by
  obtain ⟨a1, b1⟩ := h1
  obtain ⟨a2, b2⟩ := h2
  refine ⟨fun p => by rw [a2 p, a1 p], ?_⟩
  have : ({ s with parts := v.parts } : State).noted' { u with parts := v.parts } := by
    refine ⟨fun k => b1.1 k, ?_⟩
    have e := b1.2
    generalize v.parts = P
    conv => lhs; rw [e]
  exact State.noted'_trans this b2

theorem countsNotes_tile {s u : State} (h : countsNotes s u) (t : Path) : u.tile t = s.tile t := (State.noted'_tile h.2 t).trans rfl

theorem countsNotes_width {s u : State} (h : countsNotes s u) (t : Path) : u.panelWidth t = s.panelWidth t := (State.noted'_width h.2 t).trans rfl

theorem runVec_notes (s : State) (l : Path) (w sa sb pc step mode : Word) :
    countsNotes (s.vecEffect l w sa sb pc step mode) (s.runVec l w sa sb pc step mode) := by
  unfold State.runVec
  simp only []
  split
  · exact countsNotes_noted (State.noted'_refl _)
  · exact countsNotes_trans (countsNotes_trans (countsNotes_count _ _ _ _ _) (countsNotes_count _ _ _ _ _)) (countsNotes_noted (State.tilePacket_notes _ _ _ _))

theorem find_none_of {α : Type} (p : α → Bool) (xs : List α) (h : ∀ x ∈ xs, p x = false) : xs.find? p = none := by
  rw [List.find?_eq_none]; intro x hx; rw [h x hx]; simp

theorem foldl_collect {σ α β : Type} (f : σ × Option (List β) → α → σ × Option (List β)) (s : σ) (g : α → β)
    (hf : ∀ ws a, f (s, some ws) a = (s, some (ws ++ [g a]))) (L : List α) (ws : List β) :
    L.foldl f (s, some ws) = (s, some (ws ++ L.map g)) := by
  induction L generalizing ws with
  | nil => simp
  | cons a L ih => rw [List.foldl_cons, hf, ih]; simp

theorem vecLoad_gen (rd : State → Path → Nat → Nat → State × Option Bytes) (he : @State.readLS = rd) (s : State) (l : Path) (c : VecCtx) (x : Tile)
    (hrd : ∀ a, rd s l a 4 = (s, some (s.peekLS l a 4))) :
    s.vecLoad l c x = (s, some ((activeLanes (x.mask c.m)).map fun i => (i, leNat (s.peekLS l (c.laneAddr x i) 4)))) := by
  unfold State.vecLoad
  rw [he]
  refine (foldl_collect _ s (fun i => (i, leNat (s.peekLS l (c.laneAddr x i) 4))) ?_ _ []).trans ?_
  · intro ws a
    simp only [hrd]
  · rw [List.nil_append]

theorem vecLoad_clean (s : State) (l : Path) (hc : ∀ i, (s.tile (memberAt l i)).lsErr = []) (c : VecCtx) (x : Tile) :
    s.vecLoad l c x = (s, some ((activeLanes (x.mask c.m)).map fun i => (i, leNat (s.peekLS l (c.laneAddr x i) 4)))) :=
  vecLoad_gen _ rfl s l c x fun a => State.readLS_clean s l hc a 4

/-- A fold over members, each step of which changes only the vector registers of its member. -/
theorem loadFold (vl : State → Path → VecCtx → Tile → State × Option (List (Nat × Nat))) (W : State → VecCtx → Tile → List (Nat × Nat))
    (s : State) (l : Path) (hc : ∀ i, (s.tile (memberAt l i)).lsErr = []) 
    (hvl : ∀ a : State, (∀ i, (a.tile (memberAt l i)).lsErr = []) → ∀ c x, vl a l c x = (a, some (W a c x)))
    (hW : ∀ a : State, (∀ q, a.tile q = { s.tile q with vregs := (a.tile q).vregs }) → ∀ c x, W a c x = W s c x)
    (C : Nat → VecCtx) (n : Nat) (hn : n ≤ 4) (f : State → Nat → State)
    (hf : ∀ a j ws, vl a l (C j) (a.tile (memberAt l j)) = (a, some ws) → f a j = a.modTile (memberAt l j) fun x => x.setLanes (C j).vd ws) :
    (∀ j, j < n → (s.each (List.range n) f).tile (memberAt l j) = (s.tile (memberAt l j)).setLanes (C j).vd (W s (C j) (s.tile (memberAt l j)))) ∧
    (∀ q, (∀ j, j < n → q ≠ memberAt l j) → (s.each (List.range n) f).tile q = s.tile q) ∧ (s.each (List.range n) f) = { s with tiles := (s.each (List.range n) f).tiles } ∧
    (∀ q, (s.each (List.range n) f).tile q = { s.tile q with vregs := ((s.each (List.range n) f).tile q).vregs }) := by
  induction n with
  | zero => exact ⟨fun j h => absurd h (by omega), fun _ _ => rfl, rfl, fun _ => rfl⟩
  | succ n ih =>
    obtain ⟨i1, i2, i3, i4⟩ := ih (by omega)
    have e : s.each (List.range (n + 1)) f = f (s.each (List.range n) f) n := by
      unfold State.each; rw [List.range_succ, List.foldl_append]; rfl
    rw [e]
    generalize s.each (List.range n) f = u0 at *
    have hc0 : ∀ i, (u0.tile (memberAt l i)).lsErr = [] := fun i => by rw [i4]; exact hc i
    have hnn : u0.tile (memberAt l n) = s.tile (memberAt l n) := i2 _ fun k hk h => absurd (memberAt_inj l (by omega) (by omega) h) (by omega)
    rw [hf u0 n _ (hvl u0 hc0 _ _), hW u0 i4, hnn]
    refine ⟨fun j hj => ?_, fun q hq => ?_, ?_, fun q => ?_⟩
    · by_cases h : j = n
      · subst h; rw [State.tile_modTile_same, hnn]
      · rw [State.tile_modTile_other _ _ fun h' => h (memberAt_inj l (by omega) (by omega) h'), i1 j (by omega)]
    · rw [State.tile_modTile_other _ _ (hq n (by omega)), i2 q fun j hj => hq j (by omega)]
    · rw [i3]; rfl
    · by_cases h : q = memberAt l n
      · subst h; rw [State.tile_modTile_same, hnn]; rfl
      · rw [State.tile_modTile_other _ _ h]; exact i4 q

def plainPart (s4 u : State) : Prop := u = { s4 with tiles := u.tiles }

theorem filterMap_none {α β : Type} (L : List α) (f : α → Option β) (h : ∀ a ∈ L, f a = none) : L.filterMap f = [] := by
  induction L with
  | nil => rfl
  | cons a L ih => rw [List.filterMap_cons, h a (List.mem_cons_self ..), ih fun b hb => h b (List.mem_cons_of_mem _ hb)]

theorem move_load (vl : State → Path → VecCtx → Tile → State × Option (List (Nat × Nat))) (he : @State.vecLoad = vl) (a : State) (l : Path) (c : VecCtx) (t : Path)
    (hc : c.vop = 0x38 ∨ c.vop = 0x3A) (ws : List (Nat × Nat)) (h : vl a l c (a.tile t) = (a, some ws)) :
    a.vecMove l c t = a.modTile t fun x => x.setLanes c.vd ws := by
  unfold State.vecMove
  rw [if_pos hc, he, h]

/-- Only local stores differ. -/
def onlyLs (s u : State) : Prop := (∀ q, u.tile q = { s.tile q with ls := (u.tile q).ls }) ∧ u = { s with tiles := u.tiles }

theorem onlyLs_trans {s u v : State} (h1 : onlyLs s u) (h2 : onlyLs u v) : onlyLs s v := by
  refine ⟨fun q => ?_, ?_⟩
  · rw [h2.1 q, h1.1 q]
  · rw [h2.2, h1.2]

/-- One word written. -/
theorem write_word (s : State) (l : Path) (w n : Nat) (hn : n ≤ 4) (A : Nat) (hA : A % 4 = 0) (hS : A + 4 ≤ n * 0x200000) (h : ∀ i, (s.tile (memberAt l i)).lsErr = []) :
    onlyLs s (s.writeLS l A (toLE w 4)).1 ∧ (∀ q, (∀ j, j < n → q ≠ memberAt l j) → (s.writeLS l A (toLE w 4)).1.tile q = s.tile q) ∧
    (∀ b, b < 0x800000 → (s.writeLS l A (toLE w 4)).1.lsByte l b = if A ≤ b ∧ b < A + 4 then BitVec.ofNat 8 (w / 256 ^ (b - A)) else s.lsByte l b) := by
  rw [State.writeLS_clean s l h]
  have hlen : (toLE w 4).length = 4 := toLE_length w 4
  have h1 := State.pokeLS_one s l h 4 A (toLE w 4) (by intro e; rw [e] at hlen; simp at hlen) (by rw [hlen]; omega)
  have hlt : A / 0x200000 < n := by omega
  simp only []
  refine ⟨?_, fun q hq => ?_, fun b hb => ?_⟩
  · rw [h1]
    refine ⟨fun q => ?_, rfl⟩
    by_cases e : q = memberAt l (A / 0x200000)
    · subst e; rw [State.tile_setTile_same]
    · rw [State.tile_setTile_other _ _ e]
  · rw [h1, State.tile_setTile_other _ _ (hq _ hlt)]
  · rw [State.lsByte_pokeLS s l 5 A (toLE w 4) b (by rw [hlen]; omega) (by rw [hlen]; omega) hb, hlen]
    by_cases c : A ≤ b ∧ b < A + 4
    · rw [if_pos c, if_pos c]
      have : b - A < (toLE w 4).length := by rw [hlen]; omega
      rw [List.getD_eq_getElem?_getD, List.getElem?_eq_getElem this, Option.getD_some, toLE_get]
    · rw [if_neg c, if_neg c]

/-- A fold of steps each of which changes only stores and acts on bytes as given. -/
theorem each_bytes {α : Type} (l : Path) (n : Nat) (s : State) (f : State → α → State) (F : Nat → Byte → α → Byte) (xs : List α)
    (h : ∀ a : State, onlyLs s a → ∀ x ∈ xs, onlyLs a (f a x) ∧ (∀ q, (∀ j, j < n → q ≠ memberAt l j) → (f a x).tile q = a.tile q) ∧
      (∀ b, b < 0x800000 → (f a x).lsByte l b = F b (a.lsByte l b) x)) :
    onlyLs s (s.each xs f) ∧ (∀ q, (∀ j, j < n → q ≠ memberAt l j) → (s.each xs f).tile q = s.tile q) ∧
    (∀ b, b < 0x800000 → (s.each xs f).lsByte l b = xs.foldl (F b) (s.lsByte l b)) := by
  have key : ∀ (ys : List α) (a : State), onlyLs s a → (∀ x ∈ ys, x ∈ xs) →
      onlyLs a (a.each ys f) ∧ (∀ q, (∀ j, j < n → q ≠ memberAt l j) → (a.each ys f).tile q = a.tile q) ∧
      (∀ b, b < 0x800000 → (a.each ys f).lsByte l b = ys.foldl (F b) (a.lsByte l b)) := by
    intro ys
    induction ys with
    | nil => intro a _ _; exact ⟨⟨fun _ => rfl, rfl⟩, fun _ _ => rfl, fun _ _ => rfl⟩
    | cons y ys ih =>
      intro a ha hy
      obtain ⟨g1, g2, g3⟩ := h a ha y (hy y (List.mem_cons_self ..))
      obtain ⟨i1, i2, i3⟩ := ih (f a y) (onlyLs_trans ha g1) fun x hx => hy x (List.mem_cons_of_mem _ hx)
      have e : a.each (y :: ys) f = (f a y).each ys f := rfl
      rw [e]
      refine ⟨onlyLs_trans g1 i1, fun q hq => by rw [i2 q hq, g2 q hq], fun b hb => by rw [i3 b hb, g3 b hb]; rfl⟩
  exact key xs s ⟨fun _ => rfl, rfl⟩ fun _ h => h

theorem foldl_keep {α β : Type} (F : β → α → β) (xs : List α) (h : ∀ x ∈ xs, ∀ b, F b x = b) (b : β) : xs.foldl F b = b := by
  induction xs generalizing b with
  | nil => rfl
  | cons x xs ih => rw [List.foldl_cons, h x (List.mem_cons_self ..), ih fun y hy => h y (List.mem_cons_of_mem _ hy)]

/-- The last that acts decides. -/
theorem foldl_last {β : Type} (c : Nat → Prop) [DecidablePred c] (v : Nat → β) (xs : List Nat) (hs : xs.Pairwise (· < ·)) (x : Nat) (hx : x ∈ xs) (hc : c x)
    (hl : ∀ y ∈ xs, c y → y ≤ x) (b : β) : xs.foldl (fun acc i => if c i then v i else acc) b = v x := by
  induction xs generalizing b with
  | nil => simp at hx
  | cons y ys ih =>
    rw [List.foldl_cons]
    rw [List.pairwise_cons] at hs
    rcases List.mem_cons.mp hx with h | h
    · subst h
      rw [if_pos hc]
      refine foldl_keep _ _ (fun z hz b => ?_) _
      rw [if_neg]
      intro hcz
      have := hl z (List.mem_cons_of_mem _ hz) hcz
      have := hs.1 z hz
      omega
    · exact ih hs.2 h (fun z hz => hl z (List.mem_cons_of_mem _ hz)) _

theorem foldl_only {β : Type} (F : β → Nat → β) (n j : Nat) (hj : j < n) (h : ∀ k, k < n → k ≠ j → ∀ b, F b k = b) (b : β) : (List.range n).foldl F b = F b j := by
  induction n with
  | zero => omega
  | succ n ih =>
    rw [List.range_succ, List.foldl_append]
    show F ((List.range n).foldl F b) n = _
    by_cases e : j = n
    · subst e
      rw [foldl_keep F (List.range j) (fun x hx b => h x (by have := List.mem_range.mp hx; omega) (by have := List.mem_range.mp hx; omega) b)]
    · rw [h n (by omega) (fun h => e h.symm), ih (by omega) fun k hk => h k (by omega)]

theorem activeLanes_sorted (m : Word) : (activeLanes m).Pairwise (· < ·) := by
  unfold activeLanes numbers
  exact List.Pairwise.filter _ List.pairwise_lt_range

end Sys2Proof.Machine
end

