-- ==== Sys2Proof/Laws/Units.lean ====
section
/-! SUPPORT. Laws of the units' shared operations: what a sample changes, bytes poked into the store of a panel, checked reads, the arrays of
a panel, and the members a layout names. -/

namespace Sys2Proof.Machine

/-- Sampling changes clusters only in their checkers. -/
def chkOnly (s u : State) : Prop := ∀ k, u.cluster k = { s.cluster k with chk := (u.cluster k).chk }

theorem chkOnly_trans {s u v : State} (h1 : chkOnly s u) (h2 : chkOnly u v) : chkOnly s v := fun k => by rw [h2 k, h1 k]

theorem chkOnly_mod (s : State) (k : Nat) (f : Cluster → Cluster) (hf : ∀ x, f x = { x with chk := (f x).chk }) : chkOnly s (s.modCluster k f) := by
  intro j
  by_cases e : j = k
  · subst e; rw [State.cluster_modCluster_same]; exact hf _
  · rw [State.cluster_modCluster_other _ _ e]

theorem chkOnly_same {s u : State} (h : u.clusters = s.clusters) : chkOnly s u := fun k => by
  have : u.cluster k = s.cluster k := by unfold State.cluster; rw [h]
  rw [this]

theorem skipSample_chk (s : State) (k cause : Nat) : chkOnly s (s.skipSample k cause) := by
  have key : ∀ (f g : Cluster → Cluster) (i : Integ) (b : Bool) (e : Ev), (∀ x, f x = { x with chk := (f x).chk }) → (∀ x, g x = { x with chk := (g x).chk }) → e.code = 0x1C01 →
      chkOnly s (if b then (({ s.modCluster k f with integ := i } : State).modCluster k g).raise e else ({ s.modCluster k f with integ := i } : State)) := by
    intro f g i b e hf hg he
    have h1 : chkOnly s ({ s.modCluster k f with integ := i } : State) := chkOnly_mod s k f hf
    split
    · refine chkOnly_trans h1 (chkOnly_trans (chkOnly_mod _ k g hg) ?_)
      have r := State.raise_reports (({ s.modCluster k f with integ := i } : State).modCluster k g) e (by rw [he]; decide) (by rw [he]; decide)
      exact chkOnly_same (by rw [r])
    · exact h1
  unfold State.skipSample
  simp only []
  exact key _ _ _ _ _ (fun _ => rfl) (fun _ => rfl) rfl

theorem candidate_chk (s : State) (l : Path) (stag mode : Word) (c : Capture) : chkOnly s (s.candidate l stag mode c) := by
  have key : ∀ (p q b : Bool) (s0 : State) (k : Nat) (f g : Cluster → Cluster) (i : Integ), chkOnly s s0 → (∀ x, f x = { x with chk := (f x).chk }) → (∀ x, g x = { x with chk := (g x).chk }) →
      chkOnly s (if p then (if q then (s0.modCluster k f).skipSample k 3 else if b then ({ (s0.modCluster k f).modCluster k g with integ := i } : State) else (s0.modCluster k f).skipSample k 4) else s0) := by
    intro p q b s0 k f g i h0 hf hg
    have h1 := chkOnly_trans h0 (chkOnly_mod s0 k f hf)
    split
    · split
      · exact chkOnly_trans h1 (skipSample_chk _ k _)
      · split
        · exact chkOnly_trans h1 (chkOnly_mod _ k g hg)
        · exact chkOnly_trans h1 (skipSample_chk _ k _)
    · exact h0
  unfold State.candidate
  simp only []
  have e : ∀ (b : Prop) [Decidable b] (x y : State), (if b then x else y) = if decide b then x else y := fun b _ x y => by by_cases h : b <;> simp [h]
  rw [e (_ + _ ≤ _)]
  exact key _ _ _ _ _ _ _ _ (chkOnly_same rfl) (fun _ => rfl) (fun _ => rfl)

theorem each_chk (l : Path) (stag mode : Word) (cands : List Capture) (s : State) : chkOnly s (s.each cands fun a x => a.candidate l stag mode x) := by
  unfold State.each
  induction cands generalizing s with
  | nil => exact chkOnly_same rfl
  | cons c cs ih => exact chkOnly_trans (candidate_chk s l stag mode c) (ih _)

theorem pokeLS_only (l : Path) (fuel a : Nat) (bs : Bytes) (s : State) (h : ∀ i, (s.tile (memberAt l i)).lsErr = []) :
    onlyLs s (s.pokeLS l fuel a bs) := by
  induction fuel generalizing s a bs with
  | zero => exact ⟨fun _ => rfl, rfl⟩
  | succ n ih =>
    unfold State.pokeLS
    simp only []
    split
    · exact ⟨fun _ => rfl, rfl⟩
    · have h1 : onlyLs s (s.modTile (memberAt l (a / 0x200000)) fun x => x.writeLS (a % 0x200000) (bs.take (0x200000 - a % 0x200000))) := by
        refine ⟨fun q => ?_, rfl⟩
        by_cases e : q = memberAt l (a / 0x200000)
        · subst e; rw [State.tile_modTile_same]
          unfold Tile.writeLS
          rw [h, List.filter_nil]
          have := h (a / 0x200000)
          generalize s.tile (memberAt l (a / 0x200000)) = X at this ⊢
          cases X
          dsimp only at this ⊢
          rw [this]
        · rw [State.tile_modTile_other _ _ e]
      exact onlyLs_trans h1 (ih _ _ _ fun i => by rw [h1.1]; exact h i)

theorem pokeLS_others (l : Path) (n fuel a : Nat) (bs : Bytes) (s : State) (ha : a + bs.length ≤ n * 0x200000) (q : Path) (hq : ∀ j, j < n → q ≠ memberAt l j) :
    (s.pokeLS l fuel a bs).tile q = s.tile q := by
  induction fuel generalizing s a bs with
  | zero => rfl
  | succ k ih =>
    unfold State.pokeLS
    simp only []
    split
    · rfl
    · rename_i hb
      have hpos : 0 < bs.length := by
        cases bs with
        | nil => simp at hb
        | cons _ _ => simp
      rw [ih, State.tile_modTile_other _ _ (hq _ (by omega))]
      rw [List.length_drop]; omega

def doWrites (s : State) (l : Path) (ws : List (Nat × Bytes)) : State := s.each ws fun a w => (a.writeLS l w.1 w.2).1

theorem foldl_cover {α β : Type} (c : α → Prop) [DecidablePred c] (v : α → β) (xs : List α) (b : β) :
    ((∀ x ∈ xs, ¬ c x) → xs.foldl (fun acc x => if c x then v x else acc) b = b) ∧
    (∀ x ∈ xs, c x → (∀ y ∈ xs, c y → y = x) → xs.foldl (fun acc x => if c x then v x else acc) b = v x) := by
  refine ⟨fun h => foldl_keep _ _ (fun x hx b => if_neg (h x hx)) b, ?_⟩
  have key : ∀ (xs : List α) (x : α) (b : β), (∀ y ∈ xs, c y → y = x) → (b = v x ∨ ∃ y ∈ xs, c y) → xs.foldl (fun acc x => if c x then v x else acc) b = v x := by
    intro xs x
    induction xs with
    | nil => intro b _ hb; rcases hb with h | ⟨y, hy, _⟩; exact h; simp at hy
    | cons y ys ih =>
      intro b hy hb
      rw [List.foldl_cons]
      by_cases e : c y
      · rw [if_pos e]
        have := hy y (List.mem_cons_self ..) e
        subst this
        exact ih _ (fun z hz => hy z (List.mem_cons_of_mem _ hz)) (Or.inl rfl)
      · rw [if_neg e]
        refine ih _ (fun z hz => hy z (List.mem_cons_of_mem _ hz)) ?_
        rcases hb with h | ⟨z, hz, hc⟩
        · exact Or.inl h
        · rcases List.mem_cons.mp hz with h | h
          · subst h; exact absurd hc e
          · exact Or.inr ⟨z, h, hc⟩
  exact fun x hx hc hy => key xs x b hy (Or.inr ⟨x, hx, hc⟩)

theorem checkLS_gen (rd : State → Path → Nat → Nat → State × Option Bytes) (he : @State.readLS = rd) (s : State) (l : Path)
    (hrd : ∀ a n, ∃ bs, rd s l a n = (s, some bs)) (rs : List (Nat × Nat)) : s.checkLS l rs = (s, true) := by
  unfold State.checkLS
  rw [he]
  have key : ∀ (f : State × Bool → Nat × Nat → State × Bool), (∀ r, f (s, true) r = (s, true)) → rs.foldl f (s, true) = (s, true) := by
    intro f hf
    induction rs with
    | nil => rfl
    | cons r rs ih => rw [List.foldl_cons, hf, ih]
  refine key _ fun r => ?_
  obtain ⟨bs, h⟩ := hrd r.1 r.2
  simp only [h, if_true]

theorem checkLS_clean (s : State) (l : Path) (h : ∀ i, (s.tile (memberAt l i)).lsErr = []) (rs : List (Nat × Nat)) : s.checkLS l rs = (s, true) :=
  checkLS_gen _ rfl s l (fun a n => ⟨_, State.readLS_clean s l h a n⟩) rs

theorem finish_flights (fl : List Flight) (c : Command) (h : ∀ f ∈ fl, f.cmd.id ≠ c.id) :
    ((fl ++ [(⟨c, false⟩ : Flight)]).map fun f : Flight => if f.cmd.id = c.id then { f with finished := true } else f) = fl ++ [⟨c, true⟩] := by
  rw [List.map_append]
  congr 1
  · have : (fl.map fun f : Flight => if f.cmd.id = c.id then { f with finished := true } else f) = fl.map id :=
      List.map_congr_left fun f hf => if_neg (h f hf)
    rw [this, List.map_id]
  · simp

theorem arrays_spec (s : State) (l : Path) (f : ArrayLevel → ArrayLevel) (hm : s.members l = (List.range (s.panelWidth l)).map (memberAt l)) :
    (∀ q, (s.arrays l f).tile q = { s.tile q with arr := ((s.arrays l f).tile q).arr }) ∧
    (∀ q, (∀ j, j < s.panelWidth l → q ≠ memberAt l j) → (s.arrays l f).tile q = s.tile q) ∧ s.arrays l f = { s with tiles := (s.arrays l f).tiles } := by
  have e : s.arrays l f = s.each (List.range (s.panelWidth l)) fun a j => a.modTile (memberAt l j) fun x => { x with arr := f x.arr } := by
    unfold State.arrays State.each; rw [hm, List.foldl_map]
  obtain ⟨b1, b2, b3⟩ := each_members l (fun _ x => { x with arr := f x.arr }) (s.panelWidth l) (by rcases s.panelWidth_cases l with h | h | h <;> omega) s
  rw [e]
  refine ⟨fun q => ?_, b2, b3⟩
  by_cases h : ∃ j, j < s.panelWidth l ∧ q = memberAt l j
  · obtain ⟨j, hj, rfl⟩ := h; rw [b1 j hj]
  · rw [b2 q fun j hj h' => h ⟨j, hj, h'⟩]

theorem zipIdx_map_range {β : Type} (f : Nat → β) (m : Nat) : ((List.range m).map f).zipIdx = (List.range m).map fun i => (f i, i) := by
  apply List.ext_getElem
  · simp
  · intro i h1 h2; simp

theorem writeD_eq (s : State) (l : Path) (d : ArrCmd) (f : Nat → Bytes × Bytes) (m : Nat) :
    s.writeD l d ((List.range m).map f) = doWrites s l ((List.range m).flatMap fun r => [(d.daddr + r * d.dstr, (f r).1), (d.dscl + r * (d.n / 16), (f r).2)]) := by
  unfold State.writeD doWrites
  rw [zipIdx_map_range]
  unfold State.each
  rw [List.foldl_map, List.foldl_flatMap]
  congr 1
  funext a r
  simp only [List.foldl_cons, List.foldl_nil]
  by_cases h : (f r).2 = []
  · rw [h]; rfl
  · have : (f r).2.isEmpty = false := by cases hh : (f r).2 <;> simp_all
    rw [this]; rfl

theorem members_iff {s : State} {t : Path} (ha : activePath t = true) (q : Path) :
    q ∉ s.members (s.lead t) ↔ ∀ j, j < s.panelWidth (s.lead t) → q ≠ memberAt (s.lead t) j := by
  rw [s.members_lead ha]
  constructor
  · intro h j hj e
    exact h (List.mem_map.mpr ⟨j, List.mem_range.mpr hj, e.symm⟩)
  · intro h hm
    obtain ⟨j, hj, e⟩ := List.mem_map.mp hm
    exact h j (List.mem_range.mp hj) e.symm

theorem range_getElem? {α : Type} (f : Nat → α) (n i : Nat) (h : i < n) : ((List.range n).map f)[i]? = some (f i) := by
  rw [List.getElem?_map, List.getElem?_range h]; rfl

theorem arrays_each (s : State) (l : Path) (f : ArrayLevel → ArrayLevel) (hm : s.members l = (List.range (s.panelWidth l)).map (memberAt l)) (q : Path) (hq : q ∈ s.members l) :
    (s.arrays l f).tile q = { s.tile q with arr := f (s.tile q).arr } := by
  have e : s.arrays l f = s.each (List.range (s.panelWidth l)) fun a j => a.modTile (memberAt l j) fun x => { x with arr := f x.arr } := by
    unfold State.arrays State.each; rw [hm, List.foldl_map]
  obtain ⟨b1, b2, b3⟩ := each_members l (fun _ x => { x with arr := f x.arr }) (s.panelWidth l) (by rcases s.panelWidth_cases l with h | h | h <;> omega) s
  rw [hm] at hq
  obtain ⟨j, hj, rfl⟩ := List.mem_map.mp hq
  rw [e]; exact b1 j (List.mem_range.mp hj)

/-- A fold that changes tiles with distinct paths. -/
theorem each_distinct {α : Type} (P : α → Path) (F : α → Tile → Tile) (xs : List α) (hn : (xs.map P).Nodup) (s : State) :
    (∀ x ∈ xs, (s.each xs fun a x => a.modTile (P x) (F x)).tile (P x) = F x (s.tile (P x))) ∧
    (∀ q, (∀ x ∈ xs, q ≠ P x) → (s.each xs fun a x => a.modTile (P x) (F x)).tile q = s.tile q) ∧
    (s.each xs fun a x => a.modTile (P x) (F x)) = { s with tiles := (s.each xs fun a x => a.modTile (P x) (F x)).tiles } := by
  unfold State.each
  induction xs generalizing s with
  | nil => exact ⟨fun x h => by simp at h, fun _ _ => rfl, rfl⟩
  | cons x xs ih =>
    rw [List.map_cons, List.nodup_cons] at hn
    obtain ⟨i1, i2, i3⟩ := ih hn.2 (s.modTile (P x) (F x))
    rw [List.foldl_cons]
    refine ⟨fun y hy => ?_, fun q hq => ?_, ?_⟩
    · rcases List.mem_cons.mp hy with h | h
      · subst h
        rw [i2 _ fun z hz e => hn.1 (by rw [e]; exact List.mem_map.mpr ⟨z, hz, rfl⟩), State.tile_modTile_same]
      · rw [i1 y h, State.tile_modTile_other]
        intro e
        exact hn.1 (by rw [← e]; exact List.mem_map.mpr ⟨y, h, rfl⟩)
    · rw [i2 q fun y hy => hq y (List.mem_cons_of_mem _ hy), State.tile_modTile_other _ _ (hq x (List.mem_cons_self ..))]
    · rw [i3]; rfl

theorem pathOf_tile_inj {k n n' : Nat} (hn : n < 64) (hn' : n' < 64) (h : pathOf k n = pathOf k n') : n = n' := pathOf_inj' hn hn' h

theorem code_eq (layout : BitVec 16) (g : Nat) (_hg : g < 8) : layoutCode layout g = layout.toNat / 4 ^ g % 4 := by
  unfold layoutCode bits
  rw [Nat.pow_mul]; rfl

theorem setTickets_one (s : State) (t : Path) (tk : SMap Word) : s.setTickets [t] tk = s.modTile t fun x => { x with tickets := tk } := rfl

theorem foldl_flat {α β σ : Type} (f : σ → β → σ) (g : α → List β) (L : List α) (s : σ) : (L.flatMap g).foldl f s = L.foldl (fun a x => (g x).foldl f a) s := by
  induction L generalizing s with
  | nil => rfl
  | cons x L ih => rw [List.flatMap_cons, List.foldl_append, List.foldl_cons, ih]

theorem applyLayout_eq (s : State) (k : Nat) (layout : BitVec 16) : s.applyLayout k layout =
    (s.each ((s.layoutGroups k layout).flatMap fun g => (List.range 4).map fun i => (g, i)) fun a x => a.modTile (pathOf k (4 * x.1 + x.2)) fun y =>
      { y with tickets := s.shownTickets (pathOf k (4 * x.1 + x.2 / codeWidth (layoutCode layout x.1) * codeWidth (layoutCode layout x.1))) }).modCluster k fun c => { c with layout := layout } := by
  have h : (s.each (s.layoutGroups k layout) fun a g => a.each (List.range 4) fun b i => b.setTickets [pathOf k (4 * g + i)] (s.shownTickets (pathOf k (4 * g + i / codeWidth (layoutCode layout g) * codeWidth (layoutCode layout g)))))
      = s.each ((s.layoutGroups k layout).flatMap fun g => (List.range 4).map fun i => (g, i)) fun a x => a.modTile (pathOf k (4 * x.1 + x.2)) fun y =>
      { y with tickets := s.shownTickets (pathOf k (4 * x.1 + x.2 / codeWidth (layoutCode layout x.1) * codeWidth (layoutCode layout x.1))) } := by
    unfold State.each
    rw [foldl_flat]
    simp only [setTickets_one, List.foldl_map]
  unfold State.applyLayout
  simp only []
  rw [h]

theorem vecRun_none (s : State) (l : Path) (h : (s.tile l).headOf 1 = none) : s.vecRun l = s := by
  unfold State.vecRun
  generalize (s.tile l).cmdQ.length = n
  cases n with
  | zero => rfl
  | succ n => unfold State.drainVec; rw [h]

end Sys2Proof.Machine
end

