-- ==== Sys2Proof/Tests/Slice0.lean ====
section
/-! SUPPORT. Tests: terms that WellFormed refuses, single steps whose results are worked out by hand from the rules, and for each
statement a state and operands that meet its hypotheses. -/

open Sys2Proof Sys2Proof.Machine

namespace Sys2Proof.Tests

set_option Elab.async false

/-! ### Small states -/

/-- Every rail up, every unit reported ready. -/
def powered : Power :=
  { main := true, converters := true, bridge := true, pcieRef := true, pcieUp := true, tiersTrained := true, lclk := 1000
    functions := 0xFFFFFFFF }

/-- Tile 0 of cluster 0, and its window. -/
def t0 : Path := pathOf 0 0

/-- Session 1: the maker's, who acts as operator and owner in Manufacture. -/
def maker : Session := { role := .maker, key := 0, mirror := false }

/-- A page of context 0 at virtual and physical address 0. -/
def page0 : PageMap := { ctx := 0, va := 0, pa := 0, big := false, r := true, w := true }

/-- A module that is up, with partition 0 on cluster 0, context 0 in its slot 0, one slab and one page of its own, session 1, and tile 0
as given. -/
def up (x : Tile) : State :=
  { State.reset with
    pwr := powered, now := 5, island := 1000000000000
    clusters := [(0, { ready := true })]
    dies := [(0, { railsGood := true, tclk := 1650 }), (1, { railsGood := true }), (2, { railsGood := true }), (3, { railsGood := true })]
    parts := [(0, { clusters := 1, state := 1, gidCount := 16, groupQuota := 8, bindQuota := 8 })]
    mem := { ctxs := [(0, some ⟨0, 0⟩)], slabs := [(0, { owner := 0 }), (639, { owner := 0xFE })], maps := [page0] }
    sec := { noise := 2, drbg := 1 }
    mgmt := { sessions := [(1, some maker)] }
    tiles := [(0, x)] }

/-- Tile 0 runs and its program counter is at 0x100. -/
def runs : Tile := { run := .running, pc := 0x100 }

/-- The state a meaning answers. -/
def after (o : Out) : State :=
  match o with
  | .next u => u
  | _ => State.reset

/-- A module whose tile 0 alone is not in its first state has a clean store where that tile's is. -/
theorem clean_up (x : Tile) (h : x.lsErr = []) (t : Path) : CleanStore (up x) t := by
  intro i
  show (mapGet {} [(0, x)] _).lsErr = []
  unfold mapGet mapGet
  split
  · exact h
  · rfl

/-! ### Ill-formed commands are refused (R8, R411, R464, R474) -/

theorem test_wf_active_tile : (Instr.add (pathOf 0 32) false 1 2 3).wf = false ∧ (Instr.add (pathOf 0 31) false 1 2 3).wf = true := by decide +kernel
theorem test_wf_path_bits : (Instr.mma 1).wf = false := by decide +kernel
theorem test_wf_any_tile : (Instr.underlayStepUp (pathOf 0 33)).wf = false ∧ (Instr.underlayStepUp (pathOf 0 32)).wf = true := by decide +kernel
theorem test_wf_cluster : (Instr.resync 40).wf = false ∧ (Instr.resync 39).wf = true := by decide +kernel
theorem test_wf_partition : (Instr.launchFire 40).wf = false ∧ (Instr.mappingComplete 0xFF).wf = false := by decide +kernel
theorem test_wf_self_test : (Instr.clusterSelfTest 0 (.fail 33 1)).wf = false ∧ (Instr.clusterSelfTest 0 (.fail 0 7)).wf = false := by decide +kernel
theorem test_wf_site : (Instr.parityError (.checker 40)).wf = false := by decide +kernel
theorem test_wf_collector : (Instr.faultRingHeartbeat 5 false 0).wf = false := by decide +kernel
theorem test_wf_engine : (Instr.maskReseed 5).wf = false := by decide +kernel
theorem test_wf_slab : (Instr.slabScrubDone 640).wf = false := by decide +kernel
theorem test_wf_channel : (Instr.readaheadExpire true 48).wf = false ∧ (Instr.readaheadExpire false 384).wf = false := by decide +kernel
theorem test_wf_sensor : (Instr.thermalTrip 28 0).wf = false := by decide +kernel
theorem test_wf_debug : (Instr.debugAccess (.readStore t0 0x1FFFFF 2)).wf = false ∧ (Instr.debugAccess (.readMemory 0x60000000000 1)).wf = false := by
  decide +kernel
theorem test_ill_formed_faults : exec (.resync 40) State.reset = .fault .noSuchUnit := by rfl

/-! ### Single steps, worked out by hand -/

/-- R48: 0xFFFFFFFF + 2 wraps to 1. -/
theorem test_add_wraps : ((after (exec (.add t0 false 3 1 2) (up { runs with regs := [(1, 0xFFFFFFFF), (2, 2)] }))).tile t0).reg 3 = 1 := by
  decide +kernel
/-- R40: a write to s0 is dropped, and the program goes on. -/
theorem test_write_s0 : ((after (exec (.addi t0 false 0 0 5) (up runs))).tile t0).reg 0 = 0 ∧
    ((after (exec (.addi t0 false 0 0 5) (up runs))).tile t0).pc = 0x104 := by decide +kernel
/-- R48: SRA keeps the sign, SRL does not, and MULHU is the upper half of the unsigned product. -/
theorem test_sra : ((after (exec (.sra t0 false 3 1 2) (up { runs with regs := [(1, 0x80000000), (2, 36)] }))).tile t0).reg 3 = 0xF8000000 := by
  decide +kernel
theorem test_srl : ((after (exec (.srl t0 false 3 1 2) (up { runs with regs := [(1, 0x80000000), (2, 36)] }))).tile t0).reg 3 = 0x08000000 := by
  decide +kernel
theorem test_mulhu : ((after (exec (.mulhu t0 false 3 1 1) (up { runs with regs := [(1, 0xFFFFFFFF)] }))).tile t0).reg 3 = 0xFFFFFFFE := by
  decide +kernel
/-- R48: -1 is below 1 as a signed number and above it as an unsigned one. -/
theorem test_slt : ((after (exec (.slt t0 false 3 1 2) (up { runs with regs := [(1, 0xFFFFFFFF), (2, 1)] }))).tile t0).reg 3 = 1 := by decide +kernel
theorem test_sltu : ((after (exec (.sltu t0 false 3 1 2) (up { runs with regs := [(1, 0xFFFFFFFF), (2, 1)] }))).tile t0).reg 3 = 0 := by decide +kernel
theorem test_lui : ((after (exec (.lui t0 false 3 0x3FFFF) (up runs))).tile t0).reg 3 = 0xFFFFC000 := by decide +kernel
/-- R10, R49: LW puts the bytes together little-endian; LHU does not extend the sign. -/
theorem test_lw : ((after (exec (.lw t0 false 3 0 8) (up { runs with ls := [(8, 0x78), (9, 0x56), (10, 0x34), (11, 0x12)] }))).tile t0).reg 3 =
    0x12345678 := by decide +kernel
theorem test_lhu : ((after (exec (.lhu t0 false 3 0 2) (up { runs with ls := [(2, 0xFE), (3, 0xFF)] }))).tile t0).reg 3 = 0xFFFE := by decide +kernel
/-- R50: JAL writes s31 with the address after the delay slot, and its delay slot comes next. -/
theorem test_jal : ((after (exec (.jal t0 false 4) (up runs))).tile t0).reg 31 = 0x108 ∧
    ((after (exec (.jal t0 false 4) (up runs))).tile t0).delay = some ⟨0x100, some 0x110⟩ := by decide +kernel
/-- R60: a LOOP of count 0 goes on behind its body of LEN + 1 words. -/
theorem test_loop_zero : ((after (exec (.loop t0 false 0 true 2 0) (up runs))).tile t0).pc = 0x110 := by decide +kernel
/-- R51: TADV of 0 is illegal; TADV of 3 adds 3. -/
theorem test_tadv : ((after (exec (.tadv t0 false 5 0 3) (up { runs with tickets := [(5, 0xFFFFFFFF)] }))).tile t0).ticket 5 = 2 := by decide +kernel
theorem test_tadv_zero : ((after (exec (.tadv t0 false 5 0 0) (up runs))).tile t0).exc.map (·.cause) = some 1 := by decide +kernel
/-- R58: a MODE with NARROW 3 is refused. -/
theorem test_mode_narrow : ((after (exec (.mtc t0 false 1 0) (up { runs with regs := [(1, 0xC0)] }))).tile t0).exc.map (·.cause) = some 1 := by
  decide +kernel
/-- R55: a branch in a delay slot raises PLACEMENT. -/
theorem test_placement : ((after (exec (.j t0 false 0) (up { runs with delay := some ⟨0xFC, none⟩ }))).tile t0).exc.map (·.cause) = some 2 := by
  decide +kernel
/-- R139, R141: VADD.I saturates under MODE.SAT, and wraps without. -/
theorem test_vadd_sat : ((after (exec (.vaddI t0 false 1 2 2 0) (up { runs with mode := 0x100, vregs := [(64, 0x7FFFFFFF)] }))).tile t0).lane 1 0 =
    0x7FFFFFFF := by decide +kernel
theorem test_vadd_wrap : ((after (exec (.vaddI t0 false 1 2 2 0) (up { runs with vregs := [(64, 0x7FFFFFFF)] }))).tile t0).lane 1 0 = 0xFFFFFFFE := by
  decide +kernel
/-- R138: 1.5 + 2.5 = 4 in fp32. -/
theorem test_vadd_f : ((after (exec (.vaddF t0 false 1 2 3 0) (up { runs with vregs := [(64, 0x3FC00000), (96, 0x40200000)] }))).tile t0).lane 1 0 =
    0x40800000 := by decide +kernel
/-- R19, R28: a START by a context that does not own the tile is DENIED, one by the owner starts it. -/
theorem test_start_denied : (after (exec (.start (tileWin t0) 1 0 0x40) (up {}))).win (tileWin t0) = ⟨1, 1⟩ := by decide +kernel
theorem test_start : ((after (exec (.start (tileWin t0) 0 0 0x40) (up {}))).tile t0).pc = 0x40 ∧
    ((after (exec (.start (tileWin t0) 0 0 0x40) (up {}))).tile t0).run = .running := by decide +kernel
/-- R27, R56: a STOP that meets a delay slot waits behind it. -/
theorem test_stop_waits : ((after (exec (.stop (tileWin t0) 0 0 0) (up { runs with delay := some ⟨0xFC, none⟩ }))).tile t0).run = .running := by
  decide +kernel
theorem test_stop_comes : ((after (exec (.nop t0 false 0) (after (exec (.stop (tileWin t0) 0 0 0)
    (up { runs with delay := some ⟨0xFC, none⟩ }))))).tile t0).run = .stopped := by decide +kernel
/-- R199: the CRC-32C of "123456789" is 0xE3069283, as the standards that R178 names give it. -/
theorem test_crc32c : crc32c [0x31, 0x32, 0x33, 0x34, 0x35, 0x36, 0x37, 0x38, 0x39] = 0xE3069283 := by decide +kernel
/-- R384, R407: SHA-256 of the empty message, FIPS 180-4. -/
theorem test_sha256 : (sha256 []).take 8 = [0xE3, 0xB0, 0xC4, 0x42, 0x98, 0xFC, 0x1C, 0x14] := by decide +kernel
/-- R407: CMAC of the empty message under the AES-256 key of NIST SP 800-38B is 028962F61B7BF89EFC6B551F4667D983. -/
theorem test_cmac : cmac (toBE 0x603DEB1015CA71BE2B73AEF0857D77811F352C073B6108D72D9810A30914DFF4 32) [] =
    toBE 0x028962F61B7BF89EFC6B551F4667D983 16 := by decide +kernel
/-- R457: block 0x700 is the first of the user area; with the lock free a write is kept in both banks. -/
theorem test_tag_write : let s := { up {} with tag := { rfField := true } }
    (after (exec (.extendedWriteSingleBlock 0 0 0x700 0x11223344) s)).tag.bank0 = [(0x1C00, 0x44), (0x1C01, 0x33), (0x1C02, 0x22), (0x1C03, 0x11)] := by
  decide +kernel
/-- Log entry 1: an empty queue lets a nanosecond pass. -/
theorem test_tick : (after (step State.reset)).island = 1 := by decide +kernel

/-! ### States that meet the hypotheses of the statements: the sequencer -/

/-- Tile 0 behind a taken branch, in its delay slot. -/
def inSlot : Tile := { runs with delay := some ⟨0xFC, some 0x40⟩ }
/-- Tile 0 at the LEND of level 0, whose body is the four words up to 0x100, with the count given. -/
def atEnd (count : Word) : Tile := { runs with loops := [(0, loopWord 0x3D 3)], lcount := [(0, count)] }
/-- Tile 0 at the end of the range. -/
def atTop : Tile := { runs with pc := 0x1FFFFC }
/-- A MMA command of tile 0 with SIG to ticket 3. -/
def mmaCmd : Command := { id := 7, unit := 0, w0 := 0x00038000, waitV := 0, mode := 0, stag := 0, work := .desc [] }
/-- Tile 0 with work it has issued. -/
def busy : Tile := { runs with flights := [⟨mmaCmd, true⟩] }

theorem witness_AluResults : Ready (up runs) t0 false ∧ Ready (up runs) t0 true ∧ Ready (up inSlot) t0 false := by
  unfold Ready Fetches; decide +kernel

/-- An address that is not a multiple of 2, the last of the span, and the first beyond it. -/
theorem witness_StoreAccessesAct : Ready (up { runs with regs := [(1, 0x1FFFFC)] }) t0 false ∧
    lsAddress (up { runs with regs := [(1, 0x1FFFFC)] }) t0 1 1 % 2 ≠ 0 ∧
    (lsAddress (up { runs with regs := [(1, 0x1FFFFC)] }) t0 1 4 % 4 = 0 ∧
      (up { runs with regs := [(1, 0x1FFFFC)] }).span ((up { runs with regs := [(1, 0x1FFFFC)] }).lead t0) ≤
        lsAddress (up { runs with regs := [(1, 0x1FFFFC)] }) t0 1 4) ∧
    (lsAddress (up { runs with regs := [(1, 0x1FFFFC)] }) t0 1 0 % 4 = 0 ∧
      lsAddress (up { runs with regs := [(1, 0x1FFFFC)] }) t0 1 0 <
        (up { runs with regs := [(1, 0x1FFFFC)] }).span ((up { runs with regs := [(1, 0x1FFFFC)] }).lead t0)) := by
  unfold Ready Fetches; decide +kernel
theorem witness_clean : CleanStore (up { runs with regs := [(1, 0x1FFFFC)] }) t0 := clean_up _ rfl _

/-- BR.EQ of s0 with itself is taken and BR.NE is not; at the end of the range a step back stays in it and one ahead leaves it. -/
theorem witness_ProgramFlowGoes : Fetches (up atTop) t0 false ∧ Placed (up atTop) t0 ∧ ((up atTop).seqTile t0).pc.toNat % 4 = 0 ∧
    (BitVec.ofInt 32 (((up atTop).seqTile t0).pc.toInt + 4 * (-1 : BitVec 14).toInt) : Word).toNat < 0x200000 ∧
    0x200000 ≤ (BitVec.ofInt 32 (((up atTop).seqTile t0).pc.toInt + 4 * (1 : BitVec 14).toInt) : Word).toNat ∧
    0x200000 ≤ (BitVec.ofInt 32 (((up atTop).seqTile t0).pc.toInt + 4 * (1 : BitVec 25).toInt) : Word).toNat := by
  unfold Fetches Placed; decide +kernel
theorem witness_jr : Fetches (up { runs with regs := [(1, 0x1FFFFC), (2, 0x102), (3, 0x200000)] }) t0 true ∧
    Placed (up { runs with regs := [(1, 0x1FFFFC), (2, 0x102), (3, 0x200000)] }) t0 ∧ Instr.jalr t0 true 1 ≠ .jalr t0 true 31 := by
  unfold Fetches Placed; decide +kernel

/-- A LOOP by a register, a body that ends at the last word of the range, and one a word longer. -/
theorem witness_LoopsStart : Fetches (up { runs with pc := 0x1FFFF4, regs := [(5, 9)] }) t0 false ∧
    Placed (up { runs with pc := 0x1FFFF4, regs := [(5, 9)] }) t0 ∧ ((up { runs with pc := 0x1FFFF4 }).seqTile t0).pc.toNat % 4 = 0 ∧
    (5 : BitVec 12).toNat < 32 ∧ ((up { runs with pc := 0x1FFFF4, regs := [(5, 9)] }).seqTile t0).reg 5 ≠ 0 ∧
    0x1FFFF4 + 4 * ((1 : BitVec 12).toNat + 1) ≤ 0x1FFFFC ∧ 0x1FFFFC < 0x1FFFF4 + 4 * ((2 : BitVec 12).toNat + 1) := by
  unfold Fetches Placed; decide +kernel

theorem witness_LoopEndsGoBack : Ready (up (atEnd 2)) t0 false ∧ ((up (atEnd 2)).seqTile t0).atLend = some 0 ∧
    1 < (((up (atEnd 2)).seqTile t0).lc 0).toNat ∧ Ready (up (atEnd 1)) t0 false ∧ ((up (atEnd 1)).seqTile t0).atLend = some 0 ∧
    (((up (atEnd 1)).seqTile t0).lc 0).toNat ≤ 1 := by
  unfold Ready Fetches; decide +kernel

/-- Equal has been reached, one less has not; the difference counts modulo 2^32. -/
theorem witness_TicketInstructionsAct : Ready (up { runs with tickets := [(3, 5)] }) t0 true ∧ hasReached 5 5 ∧ ¬ hasReached 5 6 ∧
    hasReached 2 0xFFFFFFFF := by
  unfold Ready Fetches hasReached; decide +kernel

theorem witness_ControlRegistersAct : Ready (up runs) t0 true ∧ Placed (up runs) t0 ∧ modeFits (((up runs).seqTile t0).reg 0) ∧
    (0x0A, BitVec.ofNat 32 ((up runs).lead t0).toNat) ∈ crValues (up runs) t0 ∧ 0x0E < (0x0F : BitVec 6).toNat ∧
    (((up runs).seqTile t0).atLend = none ∨ ((up runs).seqTile t0).delay.isSome) := by
  unfold Ready Fetches Placed modeFits; decide +kernel
theorem witness_mtc_other : ∀ f, ((0x0D : BitVec 6), f) ∉ crWrites := by
  intro f h
  simp [crWrites] at h

theorem witness_BadFetchesRaise : Fetches (up { runs with regs := [(1, 0xC0)] }) t0 false ∧ Placed (up { runs with regs := [(1, 0xC0)] }) t0 ∧
    ¬ modeFits (((up { runs with regs := [(1, 0xC0)] }).seqTile t0).reg 1) ∧ Fetches (up inSlot) t0 true ∧ ¬ Placed (up inSlot) t0 ∧
    Fetches (up (atEnd 2)) t0 true ∧ ¬ Placed (up (atEnd 2)) t0 ∧
    ((up { runs with pc := 0x200000 }).canRun ((up { runs with pc := 0x200000 }).lead t0) = true ∧
      0x200000 ≤ ((up { runs with pc := 0x200000 }).seqTile t0).pc.toNat) := by
  unfold Fetches Placed modeFits; decide +kernel
theorem witness_isReserved : isReserved 0xB0000000 ∧ isReserved 0x00000001 ∧ isReserved 0xA1400000 := by
  refine ⟨?_, ?_, ?_⟩
  · show True
    trivial
  · show 0x0F < fieldOf 1 6 6 ∨ nonzero 1 0 6
    exact Or.inr (by unfold nonzero; decide)
  · show fieldOf 0xA1400000 21 6 ∉ vecCodes ∨ nonzero 0xA1400000 0 3
    exact Or.inl (by decide +kernel)

theorem witness_SystemInstructionsAct : Ready (up runs) t0 false ∧ Placed (up runs) t0 ∧ ((up runs).seqTile t0).flights = [] ∧
    ((up runs).seqTile t0).cmdQ = [] ∧ Ready (up busy) t0 false ∧ Placed (up busy) t0 ∧ ((up busy).seqTile t0).flights ≠ [] ∧
    (15 : BitVec 16).toNat < 16 ∧ 16 ≤ (16 : BitVec 16).toNat := by
  unfold Ready Fetches Placed; decide +kernel

/-- A TRAP waits. -/
def trapped : Exc := ⟨6, 0x104, 5, 0, false, false, false, 0⟩
/-- Tile 0 with a stack of 64 bytes below 0x1000 and a handler at 0x400. -/
def stacked : Tile := { runs with evbase := 0x400, stkLo := 0xFC0, stkHi := 0x1000, regs := [(30, 0x1000)], exc := some trapped }

theorem witness_ExceptionsReturn : EntryDue (up stacked) t0 trapped ∧ ((up stacked).seqTile t0).evbase ≠ 0 ∧ stackValid (up stacked) t0 ∧
    EntryDue (up { stacked with evbase := 0 }) t0 trapped ∧ EntryDue (up { stacked with stkLo := 0xFC4 }) t0 trapped ∧
    ¬ stackValid (up { stacked with stkLo := 0xFC4 }) t0 := by
  unfold EntryDue stackValid; decide +kernel
/-- A frame of zeros is a good one; an EPC of 2 is not; a stack that ends at the end of the span; and no stack. -/
theorem witness_EretRestores : Fetches (up { stacked with exc := none }) t0 false ∧ Placed (up { stacked with exc := none }) t0 ∧
    stackValid (up { stacked with exc := none }) t0 ∧ 0x1000 + 64 ≤ (up { stacked with exc := none }).span t0 ∧
    (up { stacked with ls := [(0x1004, 2)] }).lsByte t0 0x1004 = 2 ∧
    stackValid (up { runs with stkLo := 0x1000, stkHi := 0x200000, regs := [(30, 0x200000)] }) t0 ∧
    (up runs).span t0 < 0x200000 + 64 ∧ ¬ stackValid (up runs) t0 := by
  unfold Fetches Placed stackValid; decide +kernel
theorem witness_eret_clean : CleanStore (up { stacked with exc := none }) t0 := clean_up _ rfl _

/-! ### The whole block -/

theorem witness_StepRunsFrontCommand : ({ up runs with pending := [.add t0 false 1 2 3] } : State).pending = Instr.add t0 false 1 2 3 :: [] := rfl

/-- Nothing waits: at reset, with the bridge up, and with an accepted request whose outcome is due; and a frame waits at reset. -/
theorem witness_EmptyQueueTicks : State.reset.pending = [] ∧ State.reset.mgmt.frameQ = [] ∧ State.reset.pwr.bridge = false ∧
    State.reset.pwr.converters = false ∧ (up runs).pending = [] ∧ (up runs).mgmt.frameQ = [] ∧ (up runs).pwr.bridge = true ∧
    (up runs).fatal = false := by decide +kernel

theorem witness_EveryCommandAnswers : (Instr.add t0 false 1 2 3).wf = true ∧ exec (.resync 40) State.reset = .fault .noSuchUnit ∧
    ∃ u, exec (.resync 39) State.reset = .next u := ⟨by decide, rfl, _, rfl⟩

theorem witness_LifeCycleFollowsItsEdges : movesLife (.resync 39) = false ∧ (∃ u, exec (.resync 39) State.reset = .next u) ∧
    State.reset.lifeOk = true ∧ ∃ u, goesOn State.reset u := ⟨by decide, ⟨_, rfl⟩, by decide +kernel, _, rfl⟩

/-- A frame with an empty queue but for it, at reset; and the state after reset is safe. -/
theorem witness_SafetyIsKept : State.reset.safe ∧ ({ State.reset with mgmt := { frameQ := [(.mirror, [])] } } : State).mgmt.frameQ = (.mirror, []) :: [] := by
  unfold State.safe; decide +kernel

/-- The state after reset is canonical and goes on; so does one whose tile 0, tier memory and host memory hold bytes. -/
theorem witness_MemoriesStayCanonical : State.reset.memWf = true ∧ (∃ u, goesOn State.reset u) ∧
    ({ up { ls := [(0, 1), (0x1FFFFF, 2)] } with host := [(7, 7)] } : State).memWf = true ∧
    ¬ ({ up { ls := [(0x1FFFFF, 2), (0, 1)] } with host := [(7, 7)] } : State).memWf = true :=
  ⟨by decide +kernel, ⟨_, rfl⟩, by decide +kernel, by decide +kernel⟩
/-! ### States that meet the hypotheses: doorbells, queues, firing -/

/-- A tile's window has a good doorbell where nothing of R28 to R31 stands against it. -/
theorem not_denied (s : State) (t : Path) (cmd : Nat) (ctx : BitVec 12) (arg : BitVec 40) (p : Nat) (h1 : s.fatal = false)
    (h2 : activePath t = true) (h3 : s.unitCtx (.tile t) = some ctx) (h4 : argFits cmd arg.toNat) (h5 : s.unitOwner (.tile t) = some p)
    (h6 : (s.part p).state ≠ 2) : ¬ DoorbellDenied s (.tile t) cmd ctx 0 arg := by
  rintro (h | ⟨q, hq, h⟩ | h | h | h | ⟨_, q, hq, h⟩)
  · simp [h1] at h
  · cases hq
    simp [h2] at h
  · exact h h3
  · exact h h4
  · exact h rfl
  · rw [h5] at hq
    cases hq
    exact h6 h

/-- A doorbell that is denied for the context, one that is not ready, and two that are accepted. -/
theorem witness_DoorbellsAct_denied : (up runs).unitAt (tileWin t0) = some (.tile t0) ∧ DoorbellDenied (up runs) (.tile t0) 2 1 0 0 :=
  ⟨by decide +kernel, Or.inr (Or.inr (Or.inl (by decide +kernel)))⟩
theorem witness_DoorbellsAct_notReady : ¬ DoorbellDenied { up runs with clusters := [] } (.tile t0) 2 0 0 0 ∧
    DoorbellNotReady { up runs with clusters := [] } (.tile t0) := by
  refine ⟨not_denied _ _ _ _ _ 0 rfl (by decide) (by decide +kernel) (by unfold argFits; decide) (by decide +kernel) (by decide +kernel), ?_⟩
  exact ⟨t0, List.mem_singleton.mpr rfl, Or.inr (by decide +kernel)⟩
theorem witness_DoorbellsAct : ¬ DoorbellDenied (up runs) (.tile t0) 2 0 0 0 ∧ ¬ DoorbellDenied (up runs) (.tile t0) 1 0 0 0x1FFFFC ∧
    ¬ DoorbellNotReady (up runs) (.tile t0) := by
  refine ⟨not_denied _ _ _ _ _ 0 rfl (by decide) (by decide +kernel) (by unfold argFits; decide) (by decide +kernel) (by decide +kernel),
    not_denied _ _ _ _ _ 0 rfl (by decide) (by decide +kernel) (by unfold argFits; decide) (by decide +kernel) (by decide +kernel), ?_⟩
  rintro ⟨t, ht, h⟩
  have e : t = t0 := List.mem_singleton.mp ht
  subst e
  revert h
  decide +kernel

/-- The descriptor at 0 of a store of zeros is refused for no reason. -/
theorem good_descriptor (x : Tile) (h : ∀ i, storeWord (up x) t0 0 i = 0) (h' : (up x).unitReady ((up x).lead t0) 0 = true)
    (h'' : (up x).span ((up x).lead t0) = 0x200000) : ∀ reason, ¬ descRefused (up x) t0 0 reason := by
  intro reason hd
  unfold descRefused at hd
  simp only [h, h''] at hd
  rcases hd with ⟨_, hd⟩ | ⟨_, _, hd⟩ | ⟨_, _, _, hd, _⟩
  · revert hd
    unfold headerBad nonzero modeFits
    decide +kernel
  · have e : (up x).unitReady ((up x).lead t0) 0 = false := hd
    rw [h'] at e
    cases e
  · revert hd
    decide +kernel

theorem zeros_of_store (x : Tile) (h : ∀ a, (up x).lsByte ((up x).lead t0) a = 0) (i : Nat) : storeWord (up x) t0 0 i = 0 := by
  unfold storeWord
  simp [h, List.range, List.range.loop, leNat]

/-- A descriptor at 4 is refused; with 32 commands waiting its queue is full; an empty queue has room. -/
theorem witness_CommandsAreIssuedAndComplete : Ready (up { runs with regs := [(1, 4)] }) t0 false ∧
    descRefused (up { runs with regs := [(1, 4)] }) t0 4 0x4001 ∧ Ready (up { runs with cmdQ := List.replicate 32 mmaCmd }) t0 false ∧
    ¬ roomFor ((up { runs with cmdQ := List.replicate 32 mmaCmd }).seqTile t0) 0 ∧ roomFor ((up runs).seqTile t0) 0 := by
  refine ⟨by unfold Ready Fetches; decide +kernel, Or.inl ⟨rfl, Or.inl (by decide)⟩, by unfold Ready Fetches; decide +kernel, ?_, ?_⟩
  · unfold roomFor; decide +kernel
  · unfold roomFor; decide +kernel
theorem witness_CommandsComplete : ((up busy).seqTile t0).flights[0]? = some ⟨mmaCmd, true⟩ ∧ mmaCmd.item = none ∧ mmaCmd.unit ≠ 1 ∧
    (up busy).fatal = false ∧ (up busy).clusterUp (clusterOf ((up busy).lead t0)) = true ∧
    ((up { runs with flights := [⟨mmaCmd, false⟩] }).seqTile t0).flights[0]? = some ⟨mmaCmd, false⟩ := by decide +kernel

/-- A firing table of one item at 0x800, whose descriptor lies at 0 and which has no successor. -/
def table : List Host.Cell := (0x800, 1) :: (List.range 8).map fun i => (0x828 + i, 0xFF)
/-- Tile 0 before and in firing mode. -/
def armed : Tile := { fireBase := 0x800, ls := table }
def fires : Tile := { armed with run := .firing, fireN := 1 }

theorem witness_FiringsRun : tableGood (up armed) t0 1 ∧ ¬ (up armed).faultStopped t0 = true ∧ itemFires (up armed) t0 0 ∧
    (up armed).actsOn (.tile t0) = (up armed).members t0 ∧ (up armed).lead ((up armed).lead t0) = (up armed).lead t0 ∧
    (up armed).lead t0 ∈ (up armed).members t0 ∧ (up fires).tile t0 = fires := by
  unfold tableGood itemFires; decide +kernel
theorem witness_setFiring : ¬ DoorbellDenied (up armed) (.tile t0) 6 0 0 1 ∧ CleanStore (up armed) t0 :=
  ⟨not_denied _ _ _ _ _ 0 rfl (by decide) (by decide +kernel) (by unfold argFits; decide) (by decide +kernel) (by decide +kernel),
    clean_up _ rfl _⟩
theorem witness_ItemsFire : Fires (up fires) t0 ∧ tableGood (up fires) t0 ((up fires).seqTile t0).fireN ∧ 0 < ((up fires).seqTile t0).fireN ∧
    itemFires (up fires) t0 0 ∧ itemNum (up fires) t0 0 4 4 = 0 := by
  refine ⟨⟨by decide, rfl, by decide +kernel, by decide +kernel, clean_up _ rfl _⟩, ?_⟩
  unfold tableGood itemFires; decide +kernel
/-- The command of item 0, done. -/
def itemFlight : Flight := ⟨{ mmaCmd with item := some 0 }, true⟩
theorem witness_ItemsComplete : ((up { fires with flights := [itemFlight] }).seqTile t0).flights[0]? = some itemFlight ∧
    itemFlight.finished = true ∧ itemFlight.cmd.item = some 0 ∧ tableGood (up { fires with flights := [itemFlight] }) t0 1 := by
  unfold tableGood; decide +kernel

/-! ### The vector engine -/

theorem vec_free (x : Tile) (h : ((up x).seqTile t0).vecStopped = false) (h1 : ((up x).seqTile t0).cmdQ = [])
    (h2 : ((up x).seqTile t0).loadQ ++ ((up x).seqTile t0).storeQ = []) (h3 : ((up x).seqTile t0).waiting = []) : VecFree (up x) t0 := by
  unfold VecFree
  simp [h, h1, h2, h3]
theorem witness_VectorInstructionsRun : Ready (up runs) t0 false ∧ VecFree (up runs) t0 ∧ fieldOf ((up runs).seqTile t0).mode 6 2 ≠ 2 ∧
    ((up runs).seqTile t0).flights = [] := by
  refine ⟨?_, vec_free _ (by decide +kernel) (by decide +kernel) (by decide +kernel) (by decide +kernel), by decide +kernel, by decide +kernel⟩
  unfold Ready Fetches; decide +kernel
theorem witness_vecFits : vecFits 0x00 31 31 31 7 ∧ vecFits 0x09 7 31 3 7 ∧ ¬ vecFits 0x09 8 0 0 0 ∧ ¬ vecFits 0x28 0 1 0 0 ∧
    vecFits 0x2E 15 0 0 0 ∧ ¬ vecFits 0x2E 16 0 0 0 := by
  refine ⟨?_, ?_, ?_, ?_, ?_, ?_⟩ <;> (unfold vecFits; decide +kernel)
/-- The last 128 bytes of the span, and indices that name its last word. -/
theorem witness_VectorLoadsAndStoresRun : Ready (up { runs with regs := [(1, 0x1FFF80)] }) t0 false ∧
    vecAddressesOk (up { runs with regs := [(1, 0x1FFF80)] }) t0 false 1 0 0 ∧ VecFree (up { runs with regs := [(1, 0x1FFF80)] }) t0 := by
  refine ⟨?_, ?_, vec_free _ (by decide +kernel) (by decide +kernel) (by decide +kernel) (by decide +kernel)⟩
  · unfold Ready Fetches; decide +kernel
  · unfold vecAddressesOk
    rw [if_neg (by decide)]
    decide +kernel
theorem witness_vldx : vecAddressesOk (up { runs with regs := [(1, 0x1FFFFC)] }) t0 true 1 0 0 := by
  intro j i h
  have hj : j = 0 := by
    have w : (up { runs with regs := [(1, 0x1FFFFC)] }).panelWidth ((up { runs with regs := [(1, 0x1FFFFC)] }).lead t0) = 1 := by decide +kernel
    have := h.1
    omega
  subst hj
  have hi := h.2.1
  have all : ∀ i, i < 32 → vecAddress (up { runs with regs := [(1, 0x1FFFFC)] }) t0 true 1 0 0 i % 4 = 0 ∧
      vecAddress (up { runs with regs := [(1, 0x1FFFFC)] }) t0 true 1 0 0 i + 4 ≤
        (up { runs with regs := [(1, 0x1FFFFC)] }).span ((up { runs with regs := [(1, 0x1FFFFC)] }).lead t0) := by decide +kernel
  exact all i hi

/-! ### The array, rows and transfers -/

/-- A descriptor's command: unit, header, body words. -/
def unitCmd (unit : BitVec 4) (blen : Nat) (body : List Word) : Command :=
  { id := 0, unit := unit, w0 := BitVec.ofNat 32 (unit.toNat * 2 ^ 28 + blen * 2 ^ 20), waitV := 0, mode := 0, stag := 0, work := .desc body }
/-- An array command on 1 × 16 × 16 elements: A at 0x1000, B at 0x2000, D at 0x4000. -/
def arrayCmd (op fab fd stride opx : Nat) : Command :=
  unitCmd 0 4 [BitVec.ofNat 32 (op * 2 ^ 28 + fab * 2 ^ 24 + fab * 2 ^ 20 + fd * 2 ^ 16), 0x00010010, 0x00100000, 0x1000, 0x2000, 0, 0x4000,
    BitVec.ofNat 32 (stride * 65536 + stride), 8, 0, 0, 0, 0, 0, 0, BitVec.ofNat 32 opx]
/-- One command for each operation of the array, in the order of their OP. -/
def arrayCmds : List Command :=
  [arrayCmd 0 0 5 1 0, arrayCmd 1 0 5 1 0, arrayCmd 2 0 5 1 0, arrayCmd 3 0 5 1 0, arrayCmd 4 0 5 1 1, arrayCmd 5 5 5 4 0, arrayCmd 6 3 5 4 0]

/-- A command waits first for its unit in a tile that holds nothing else. -/
theorem waits_alone (s : State) (t : Path) (n : Nat) (c : Command) (h : activePath t = true) (h1 : s.fatal = false)
    (h2 : s.clusterUp (clusterOf (s.lead t)) = true) (h3 : (s.seqTile t).headOf n = some c) (h4 : c.isVec = false)
    (h5 : (s.seqTile t).waitOk c = true) (h6 : (s.seqTile t).flights = []) : Waits s t n c :=
  ⟨h, h1, h2, h3, h4, h5, by simp [h6]⟩

theorem witness_ArrayOperationsRun : ∀ c ∈ arrayCmds, Waits (up { cmdQ := [c] }) t0 0 c ∧ ((up { cmdQ := [c] }).seqTile t0).underlayRuns = false ∧
    (arrCmd c).fault ((up { cmdQ := [c] }).panelWidth ((up { cmdQ := [c] }).lead t0)) ((up { cmdQ := [c] }).span ((up { cmdQ := [c] }).lead t0)) = none ∧
    (arrCmd c).badNibble ((up { cmdQ := [c] }).lsByte ((up { cmdQ := [c] }).lead t0)) = none ∧ (arrCmd c).wsp = 0 ∧
    (arrCmd c).askip = false ∧ 0 < (arrCmd c).n := by
  unfold Waits; decide +kernel
theorem witness_arrayOps : arrayCmds.map (fun c => (arrCmd c).op) = arrayOps.map (·.2) := by decide
theorem witness_arrayWrites : writesFit (up { cmdQ := [arrayCmd 0 0 5 1 0] }) t0
    (arrayWrites (up { cmdQ := [arrayCmd 0 0 5 1 0] }) t0 (arrCmd (arrayCmd 0 0 5 1 0))) := by
  unfold writesFit; decide +kernel
theorem witness_array_clean (c : Command) : CleanStore (up { cmdQ := [c] }) t0 := clean_up _ rfl _

/-- An UNDERLAY of one microsecond. -/
def underlayCmd : Command := unitCmd 0 4 [0x70000000, 1, 0, 0, 0, 0, 0, 0, 0, 0, 0, 0, 0, 0, 0, 0]
theorem witness_UnderlayCommandsRun : Waits (up { cmdQ := [underlayCmd] }) t0 0 underlayCmd ∧ (arrCmd underlayCmd).op = 7 ∧
    ((up { cmdQ := [underlayCmd] }).seqTile t0).underlayRuns = false ∧ (arrCmd underlayCmd).fault 1 0x200000 = none := by
  unfold Waits; decide +kernel
/-- A gap of 2,000 + 2,500 ns before the first step down, and one nanosecond less; a rise after 2,500 ns, and one less. -/
theorem witness_UnderlayLevelsStep : validPath t0 = true ∧
    (({ level := 8, gapLevel := 8, since := 1000000000000 - 4500 } : ArrayLevel).since + (up {}).pwr.holdTime.toNat + 2500 * (8 - 8 + 1) ≤ (up {}).island) ∧
    ((up {}).island < ({ level := 8, gapLevel := 8, since := 1000000000001 - 4500 } : ArrayLevel).since + (up {}).pwr.holdTime.toNat + 2500) ∧
    (({ level := 7, since := 1000000000000 - 2500, rising := true } : ArrayLevel).since + 2500 ≤ (up {}).island) ∧
    (up {}).island < ({ level := 7, since := 1000000000001 - 2500, rising := true } : ArrayLevel).since + 2500 := by decide +kernel
theorem witness_PanelsAndLevelsAct : Writable (up {}) 1 0x2120 2 ∧ (up {}).select 1 0x2120 1 0 = (pathOf 0 0).toNat ∧
    (up {}).ownerOf 0 = some 0 ∧ (up {}).asOwner ((up {}).role 1) 0 = true ∧ (∀ g, g < 8 → (0xAAAA : BitVec 16).toNat / 4 ^ g % 4 ≠ 3) ∧
    ∀ i, i < 32 → (up {}).layoutQuiet (pathOf 0 i) = true := by
  unfold Writable; decide +kernel

/-- A reduction of one row of 16 fp32 elements at 0x1000 into 0x4000, and a ROUTE of one token to one of four experts. -/
def redCmd (rop : Nat) : Command := unitCmd 2 2 [BitVec.ofNat 32 (rop * 2 ^ 24 + 5 * 2 ^ 20), 0x00010010, 0x1000, 0x00040000, 0x4000, 0, 0, 0]
def occCmd : Command := unitCmd 1 2 [0x01500000, 0x00010010, 0x1000, 0x00040000, 0x4000, 0, 0, 0]
def qy4Cmd : Command := unitCmd 1 2 [0x02500000, 0x00010010, 0x1000, 0x00040000, 0x4000, 0x00010000, 0x5000, 0]
def routeOne : Command := unitCmd 2 3 [0x80000001, 0x00010004, 0x00020001, 0x1000, 0x2000, 0x00010000, 0x3000, 0x4000, 0, 0, 0, 0]

theorem witness_reductions : ∀ n ∈ [1, 2, 3, 4, 5], Waits (up { cmdQ := [redCmd n] }) t0 2 (redCmd n) ∧ (rowCmd (redCmd n)).op = n ∧
    (rowCmd (redCmd n)).redBad 0x200000 = false ∧
    writesFit (up { cmdQ := [redCmd n] }) t0 (redWrites (up { cmdQ := [redCmd n] }) t0 (rowCmd (redCmd n))) := by
  unfold Waits writesFit; decide +kernel
theorem witness_RowOperationsRun : Waits (up { cmdQ := [occCmd] }) t0 1 occCmd ∧ AloneInVector (up { cmdQ := [occCmd] }) t0 occCmd ∧
    (rowCmd occCmd).op = 1 ∧ (rowCmd occCmd).occBad 0x200000 = false ∧
    Waits (up { cmdQ := [qy4Cmd] }) t0 1 qy4Cmd ∧ AloneInVector (up { cmdQ := [qy4Cmd] }) t0 qy4Cmd ∧
    (rowCmd qy4Cmd).op = 2 ∧ (rowCmd qy4Cmd).qy4Bad 0x200000 = false := by
  unfold Waits AloneInVector; decide +kernel
theorem witness_block_writes : writesFit (up { cmdQ := [occCmd] }) t0 (occWrites (up { cmdQ := [occCmd] }) t0 (rowCmd occCmd)) ∧
    writesFit (up { cmdQ := [qy4Cmd] }) t0 (qy4Writes (up { cmdQ := [qy4Cmd] }) t0 qy4Cmd (rowCmd qy4Cmd)) := by
  unfold writesFit; decide +kernel
theorem witness_RoutesAreGiven : Waits (up { cmdQ := [routeOne] }) t0 2 routeOne ∧ routeOne.rop = 0x80 ∧ (routeCmd routeOne).bad 0x200000 = false ∧
    (∀ k r, k < (routeCmd routeOne).t → r < (routeCmd routeOne).ksel →
      (routeEntry (up { cmdQ := [routeOne] }) t0 (routeCmd routeOne) k r).2 < (routeCmd routeOne).e ∨
      (routeEntry (up { cmdQ := [routeOne] }) t0 (routeCmd routeOne) k r).2 = 0xFFFFFFFF) := by
  refine ⟨by unfold Waits; decide +kernel, by decide +kernel, by decide +kernel, fun k r hk hr => ?_⟩
  have e : (routeCmd routeOne).t = 1 ∧ (routeCmd routeOne).ksel = 1 := by decide +kernel
  have hk' : k = 0 := by omega
  have hr' : r = 0 := by omega
  subst hk' hr'
  decide +kernel

/-! ### Transfers between tier memory and the store -/

theorem physAt_page0 (s : State) (h : s.mem.maps = [page0]) {va : Nat} (hv : va < 0x200000) : physAt s 0 va = va := by
  have e : page0.holds 0 va = true := by simp [PageMap.holds, PageMap.size, page0, hv]
  unfold physAt
  have f : (s.mem.maps.find? fun p => p.holds 0 va) = some page0 := by rw [h]; exact List.find?_cons_of_pos e
  rw [f]
  show 0 + (va - 0) = va
  omega
theorem permits_page0 (s : State) (h : s.mem.maps = [page0]) (w : Bool) {va len : Nat} (hb : va + len ≤ 0x200000) : permits s 0 w va len := by
  intro i hi
  have e : page0.holds 0 (va + i) = true := by
    have : va + i < 0x200000 := by omega
    simp [PageMap.holds, PageMap.size, page0, this]
  exact ⟨page0, by rw [h]; exact List.find?_cons_of_pos e, by cases w <;> rfl⟩
theorem translates_page0 (s : State) (h : s.mem.maps = [page0]) (who : Mover) (ht : s.tlbOf who = []) : Translates s who 0 := by
  refine ⟨by simp [ht], fun p hp _ => ?_⟩
  rw [h, List.mem_singleton] at hp
  subst hp
  refine ⟨by decide, by decide, fun q hq va _ _ => ?_⟩
  rw [h, List.mem_singleton] at hq
  exact hq.symm

/-- An access command: its body words 0 to 9. -/
def accessCmd (unit : BitVec 4) (op taddr laddr rows rb tstr lstr xaddr aux : Nat) : Command :=
  unitCmd unit 3 [BitVec.ofNat 32 (op * 2 ^ 28), BitVec.ofNat 32 taddr, 0, BitVec.ofNat 32 laddr, BitVec.ofNat 32 (rows * 65536), BitVec.ofNat 32 rb,
    BitVec.ofNat 32 tstr, BitVec.ofNat 32 (lstr * 65536), BitVec.ofNat 32 xaddr, BitVec.ofNat 32 aux, 0, 0]
/-- Tile 0 with one command in the queue of its unit. -/
def loads (c : Command) : Tile := { loadQ := [c] }
def stores (c : Command) : Tile := { storeQ := [c] }

/-- Two rows of a COPY, one of a GATHER and of a PREFETCH, and a TRANSPOSE of 16 elements. -/
def copyIn : Command := accessCmd 3 0 0x1000 0x2000 2 32 64 2 0 0
def gatherOne : Command := accessCmd 3 3 0x1000 0x2000 1 32 32 2 0x3000 0
def transposeOne : Command := accessCmd 3 2 0x1000 0x2000 1 16 16 1 0 0
def prefetchOne : Command := accessCmd 3 4 0x1000 0 1 512 512 0 0 0
def copyOut : Command := accessCmd 4 0 0x1000 0x2000 2 32 64 2 0 0

theorem accesses_page0 (x : Tile) (unit : Nat) (c : Command) (h : Waits (up x) t0 unit c)
    (h0 : (((up x).seqTile t0).flights.filter fun f => f.cmd.unit.toNat = unit).length < 4) (h1 : x.lsErr = [])
    (h2 : (accCmd c).bad unit ((up x).span ((up x).lead t0)) = false) (h3 : (up x).slotCtx 0 (accCmd c).cslot = some 0)
    (h4 : (up x).accReady t0 unit c = true) (h5 : (up x).members ((up x).lead t0) = [t0]) (h6 : x.tlb = [])
    (h7 : (up x).partOf ((up x).lead t0) = some 0) : Accesses (up x) t0 unit c 0 0 := by
  refine ⟨h, h0, clean_up _ h1 _, h2, h7, h3, h4, fun m hm => translates_page0 _ rfl _ ?_⟩
  rw [h5, List.mem_singleton] at hm
  subst hm
  exact h6

theorem witness_TransfersMoveRows : ∀ c ∈ [copyIn, gatherOne, transposeOne, prefetchOne], Accesses (up (loads c)) t0 3 c 0 0 := by
  have all : ∀ c ∈ [copyIn, gatherOne, transposeOne, prefetchOne], Waits (up (loads c)) t0 3 c ∧
      ((up (loads c)).seqTile t0).flights = [] ∧ (accCmd c).bad 3 ((up (loads c)).span ((up (loads c)).lead t0)) = false ∧
      (up (loads c)).slotCtx 0 (accCmd c).cslot = some 0 ∧ (up (loads c)).accReady t0 3 c = true ∧
      (up (loads c)).members ((up (loads c)).lead t0) = [t0] ∧ (up (loads c)).partOf ((up (loads c)).lead t0) = some 0 := by
    unfold Waits; decide +kernel
  intro c hc
  obtain ⟨h1, h2, h3, h4, h5, h6, h7⟩ := all c hc
  exact accesses_page0 _ 3 c h1 (by rw [h2]; decide) rfl h3 h4 h5 h6 rfl h7
theorem witness_access_ops : [copyIn, gatherOne, transposeOne, prefetchOne].map (fun c => (accCmd c).op) = [0, 3, 2, 4] ∧ (accCmd copyIn).chk = false := by
  decide
theorem witness_rowsReadable : rowsReadable (up (loads copyIn)) 0 (accCmd copyIn) ∧ rowsReadable (up (loads transposeOne)) 0 (accCmd transposeOne) := by
  constructor
  · intro r hr
    have e : (accCmd copyIn).rows = 2 ∧ (accCmd copyIn).taddr = 0x1000 ∧ (accCmd copyIn).tstr = 64 ∧ (accCmd copyIn).rb = 32 := by decide
    obtain ⟨e1, e2, e3, e4⟩ := e
    rw [e2, e3, e4]
    exact permits_page0 _ rfl _ (by omega)
  · intro r hr
    have e : (accCmd transposeOne).rows = 1 ∧ (accCmd transposeOne).taddr = 0x1000 ∧ (accCmd transposeOne).tstr = 16 ∧
      (accCmd transposeOne).rb = 16 := by decide
    obtain ⟨e1, e2, e3, e4⟩ := e
    rw [e2, e3, e4]
    exact permits_page0 _ rfl _ (by omega)
theorem witness_gather_rows : ∀ r, r < (accCmd gatherOne).rows → gatherIndex (up (loads gatherOne)) t0 (accCmd gatherOne) r ≠ 0xFFFFFFFF →
    permits (up (loads gatherOne)) 0 false ((accCmd gatherOne).taddr + gatherIndex (up (loads gatherOne)) t0 (accCmd gatherOne) r * (accCmd gatherOne).tstr)
      (accCmd gatherOne).rb := by
  intro r hr _
  have e : (accCmd gatherOne).rows = 1 := by decide
  have hr' : r = 0 := by omega
  subst hr'
  have i : gatherIndex (up (loads gatherOne)) t0 (accCmd gatherOne) 0 = 0 := by decide +kernel
  rw [i]
  exact permits_page0 _ rfl _ (by decide)
theorem witness_StoresMoveRows : Accesses (up (stores copyOut)) t0 4 copyOut 0 0 ∧ (accCmd copyOut).op = 0 ∧
    ∀ r, r < (accCmd copyOut).rows → permits (up (stores copyOut)) 0 true ((accCmd copyOut).taddr + r * (accCmd copyOut).tstr) (accCmd copyOut).rb := by
  refine ⟨accesses_page0 _ 4 _ (by unfold Waits; decide +kernel) (by decide +kernel) rfl (by decide +kernel) (by decide +kernel) (by decide +kernel)
    (by decide +kernel) rfl (by decide +kernel), by decide, fun r hr => ?_⟩
  have e : (accCmd copyOut).rows = 2 ∧ (accCmd copyOut).taddr = 0x1000 ∧ (accCmd copyOut).tstr = 64 ∧ (accCmd copyOut).rb = 32 := by decide
  obtain ⟨e1, e2, e3, e4⟩ := e
  rw [e2, e3, e4]
  exact permits_page0 _ rfl _ (by omega)

/-- A segment of one block of 4,096 bytes of 0 at 0x1000: header, a table with one code, and a block of kind 2. -/
def segment : List Host.Cell :=
  [(0x1000, 0x59), (0x1001, 0x42), (0x1002, 0x46), (0x1003, 0x31), (0x1004, 1), (0x1006, 1), (0x1008, 0xA0), (0x1010, 1), (0x1090, 0x10),
   (0x1093, 0x80), (0x1094, 0x89), (0x1095, 0x41), (0x1096, 0xF9), (0x1097, 0x98)]
/-- The module with bytes in tier memory. -/
def withTier (cells : List Host.Cell) (s : State) : State := { s with mem := { s.mem with tier := cells } }
def expandOne : Command := accessCmd 3 1 0x1000 0x2000 1 4096 0 0 0 0
def compressOne : Command := accessCmd 4 1 0x1000 0x2000 1 4096 0 0 0x4000 4352

theorem accesses_tier (cells : List Host.Cell) (x : Tile) (unit : Nat) (c : Command) (h : Waits (withTier cells (up x)) t0 unit c)
    (h0 : (((withTier cells (up x)).seqTile t0).flights.filter fun f => f.cmd.unit.toNat = unit).length < 4) (h1 : x.lsErr = [])
    (h2 : (accCmd c).bad unit ((withTier cells (up x)).span ((withTier cells (up x)).lead t0)) = false)
    (h3 : (withTier cells (up x)).slotCtx 0 (accCmd c).cslot = some 0) (h4 : (withTier cells (up x)).accReady t0 unit c = true)
    (h5 : (withTier cells (up x)).members ((withTier cells (up x)).lead t0) = [t0]) (h6 : x.tlb = [])
    (h7 : (withTier cells (up x)).partOf ((withTier cells (up x)).lead t0) = some 0) : Accesses (withTier cells (up x)) t0 unit c 0 0 := by
  refine ⟨h, h0, clean_up _ h1 _, h2, h7, h3, h4, fun m hm => translates_page0 _ rfl _ ?_⟩
  rw [h5, List.mem_singleton] at hm
  subst hm
  exact h6

theorem witness_expand : Accesses (withTier segment (up (loads expandOne))) t0 3 expandOne 0 0 :=
  accesses_tier _ _ 3 _ (by unfold Waits; decide +kernel) (by decide +kernel) rfl (by decide +kernel) (by decide +kernel) (by decide +kernel)
    (by decide +kernel) rfl (by decide +kernel)
theorem witness_SegmentsAreCoded : (accCmd expandOne).op = 1 ∧
    segHdrBad (virtBytes (withTier segment (up (loads expandOne))) 0 0x1000 144) (accCmd expandOne).rb = false ∧
    tableOk (codeLengths (slice (virtBytes (withTier segment (up (loads expandOne))) 0 0x1000 144) 16 128)) = true ∧
    fieldAt (virtBytes (withTier segment (up (loads expandOne))) 0 0x1000 144) 8 4 = 160 ∧
    fieldAt (virtBytes (withTier segment (up (loads expandOne))) 0 0x1000 144) 6 2 = 1 := by decide +kernel
set_option maxRecDepth 100000 in
theorem witness_expandsTo : expandsTo (canon (codeLengths (slice (virtBytes (withTier segment (up (loads expandOne))) 0 0x1000 144) 16 128)))
    (virtBytes (withTier segment (up (loads expandOne))) 0 0x1000 160) 144 [List.replicate 4096 0] := by
  unfold expandsTo expandsTo; decide +kernel
theorem witness_segment_permits : permits (withTier segment (up (loads expandOne))) 0 false 0x1000 160 := permits_page0 _ rfl _ (by decide)
theorem witness_compress : Accesses (up (stores compressOne)) t0 4 compressOne 0 0 ∧ permits (up (stores compressOne)) 0 true 0x1000 4352 := by
  refine ⟨accesses_page0 _ 4 _ (by unfold Waits; decide +kernel) (by decide +kernel) rfl (by decide +kernel) (by decide +kernel) (by decide +kernel)
    (by decide +kernel) rfl (by decide +kernel), permits_page0 _ rfl _ (by decide)⟩

/-- A program image at 0x1000: one word of code to 0x100, no descriptors. -/
def image : List Host.Cell := [(0x1000, 0x59), (0x1001, 0x53), (0x1002, 0x51), (0x1003, 0x31), (0x1004, 1), (0x1008, 0x20), (0x100C, 1), (0x1011, 1), (0x1020, 5)]
def progOne : Command := accessCmd 3 5 0x1000 0 1 48 0 0 0x3000 0x10
theorem witness_progload : Accesses (withTier image (up (loads progOne))) t0 3 progOne 0 0 :=
  accesses_tier _ _ 3 _ (by unfold Waits; decide +kernel) (by decide +kernel) rfl (by decide +kernel) (by decide +kernel) (by decide +kernel)
    (by decide +kernel) rfl (by decide +kernel)
theorem witness_ProgramsAreLoaded : (accCmd progOne).op = 5 ∧
    (withTier image (up (loads progOne))).loadTargetBad (some 0) (BitVec.ofNat 16 (fieldOf (accCmd progOne).aux 0 16)) (fieldOf (accCmd progOne).aux 16 2)
      (some t0) = none ∧
    loadPlan (virtBytes (withTier image (up (loads progOne))) 0 0x1000 48) 48 false = .write 0x100 [5, 0, 0, 0] 0x110 [] := by decide +kernel
/-- The owner's request for the same image into tile 1: context 0, path 0x0010, width code 0, address 0x1000. -/
def loadRecord : BitVec 128 := 0x00000000000010000000000000100000
theorem witness_programLoadRequest : Writable (withTier image (up {})) 1 0x2220 1 ∧ (withTier image (up {})).ctxPart 0 = some 0 ∧
    fieldAt (toLE loadRecord.toNat 16) 2 2 = 0x10 ∧ fieldAt (toLE loadRecord.toNat 16) 8 8 = 0x1000 ∧ fieldAt (toLE loadRecord.toNat 16) 5 3 = 0 ∧
    (withTier image (up {})).asOwner ((withTier image (up {})).role 1) 0 = true ∧ (withTier image (up {})).slotBusy 0 0x2220 = false ∧
    (withTier image (up {})).loadTargetBad (some 0) 0x10 0 none = none ∧
    loadPlan (virtBytes (withTier image (up {})) 0 0x1000 36) 36 false = .write 0x100 [5, 0, 0, 0] 0x110 [] ∧
    36 = max 32 (max (fieldAt (virtBytes (withTier image (up {})) 0 0x1000 36) 8 4 + 4 * fieldAt (virtBytes (withTier image (up {})) 0 0x1000 36) 12 4) 0) ∧
    fieldAt (virtBytes (withTier image (up {})) 0 0x1000 36) 24 2 = 0 ∧
    (withTier image (up {})).answers (.tile 0x10) 0 0x1000 36 = true := by
  unfold Writable; decide +kernel
theorem witness_load_translates : Translates (withTier image (up {})) (.tile 0x10) 0 ∧ CleanStore (withTier image (up {})) 0x10 :=
  ⟨translates_page0 _ rfl _ (by decide +kernel), clean_up {} rfl _⟩

/-! ### Contexts, mappings and slabs -/

/-- Session 1 has selected context 1 and slot 1 of 0x2201. -/
def picks (l : List (Nat × Nat × Nat)) (s : State) : State := l.foldl (fun u e => u.setSelect 1 e.1 e.2.1 0 e.2.2) s
theorem witness_ContextsAreBound : let s := picks [(0x2201, 1, 101), (0x2201, 3, 1)] (up {})
    Writable s 1 0x2201 2 ∧ s.select 1 0x2201 1 0 = 101 ∧ (0 : BitVec 8) ≠ 0xFF ∧ s.ctxBind 101 = none ∧
    s.slotCtx 0 (s.select 1 0x2201 3 0 % 16) = none ∧ s.asOwner (s.role 1) 0 = true ∧ s.formed 0 = true ∧ 102 * 0 ≤ 101 ∧ 101 ≤ 102 * 0 + 101 := by
  unfold Writable; decide +kernel
theorem witness_contextUnbind : (picks [(0x2201, 1, 0)] (up {})).ctxBind ((picks [(0x2201, 1, 0)] (up {})).select 1 0x2201 1 0) = some ⟨0, 0⟩ ∧
    (picks [(0x2201, 1, 0)] (up {})).asOwner ((picks [(0x2201, 1, 0)] (up {})).role 1) 0 = true ∧
    ((picks [(0x2201, 1, 0)] (up {})).partTiles 0).all (fun t => (picks [(0x2201, 1, 0)] (up {})).tileState t = 0) = true := by decide +kernel

/-- A mapping record: address, physical address, permissions, of one small page of context 0. -/
def mapping (va pa perm : Nat) : BitVec 256 := BitVec.ofNat 256 (2 ^ 32 + va * 2 ^ 64 + pa * 2 ^ 128 + perm * 2 ^ 192)
theorem witness_MappingsChange : MayMap (up {}) 1 (mapRecord 1 (mapping 0x200000 0x200000 3)) 0 ∧ MayMap (up {}) 1 (mapRecord 2 (mapping 0 0 0)) 0 ∧
    MayMap (up {}) 1 (mapRecord 3 (mapping 0 0 1)) 0 ∧ MayMap (up {}) 1 (mapRecord 3 (mapping 0 0 3)) 0 := by
  unfold MayMap Writable; decide +kernel
theorem witness_protect : (page0 ∈ (up {}).mem.maps ∧ ofRequest (mapRecord 3 (mapping 0 0 1)) page0 ∧ page0.w = true ∧
      (mapRecord 3 (mapping 0 0 1)).perm < 2) ∧ (mapRecord 3 (mapping 0 0 3)).perm = 3 :=
  ⟨⟨List.mem_singleton.mpr rfl, ⟨by decide, 0, by decide, by decide⟩, rfl, by decide⟩, by decide⟩
/-- Partition 0 with a request that waits, and partition 39, the last, with none. -/
theorem witness_mappingComplete : (39 : BitVec 8).toNat < 40 ∧ ((up {}).part 39).mapBusy = false ∧
    (({ up {} with parts := [(0, { clusters := 1, state := 1, mapBusy := true })] } : State).part 0).mapBusy = true := by decide +kernel

/-! ### Slabs and lines -/

theorem witness_SlabsAndLinesAnswer : (picks [(0x2230, 1, 3)] (up {})).select 1 0x2230 1 0 = 3 ∧ SlabFree (picks [(0x2230, 1, 3)] (up {})) 3 ∧
    Writable (picks [(0x2230, 1, 3)] (up {})) 1 0x2230 2 ∧ (picks [(0x2230, 1, 3)] (up {})).asOperator ((picks [(0x2230, 1, 3)] (up {})).role 1) = true ∧
    ((39 : BitVec 8).toNat < 40 ∧ ¬ ((picks [(0x2230, 1, 3)] (up {})).slab 3).owner.toNat < 40) := by
  unfold SlabFree Writable; decide +kernel
/-- Slab 3, which partition 0 owns. -/
def owned3 : State := picks [(0x2230, 1, 3)] { up {} with mem := { (up {}).mem with slabs := [(0, { owner := 0 }), (3, { owner := 0 }), (639, { owner := 0xFE })] } }
theorem witness_rekey : owned3.select 1 0x2230 1 0 = 3 ∧ SlabFree owned3 3 ∧ Writable owned3 1 0x2230 4 ∧
    owned3.asOwner (owned3.role 1) (owned3.slab 3).owner.toNat = true := by
  unfold SlabFree Writable; decide +kernel
theorem witness_slabScrubDone : (639 : BitVec 10).toNat < 640 ∧
    ((({ up {} with mem := { slabs := [(639, { owner := 0xFE, state := 1 })] } } : State).slab 639).state = 1) ∧ (up {}).pwr.tiersTrained = true ∧
    ((up {}).slab 0).state ≠ 1 := by decide +kernel
/-- The first bytes of slab 0, and the last of its first line. -/
theorem witness_MemoryAnswers : LineAnswers (up {}) 0 512 ∧ LineAnswers (up {}) 511 1 ∧ LineAnswers (up {}) 0 0 := by
  refine ⟨⟨rfl, rfl, by decide, 0, by decide, by decide +kernel⟩, ⟨rfl, rfl, by decide, 0, by decide, by decide +kernel⟩,
    ⟨rfl, rfl, by decide, 0, by decide, by decide +kernel⟩⟩
/-- An entry of channel 383 that has waited. -/
def ahead : ReadAhead := { line := 0, chan := 383, part := 0, home := none, via := page0, filled := 0 }
theorem witness_readaheadExpire : (383 : BitVec 9).toNat < 384 ∧ (47 : BitVec 9).toNat < 48 ∧
    (({ up {} with mem := { (up {}).mem with readAhead := [ahead] } } : State).mem.readAhead.find?
      fun e => e.chan = 0 + (383 : BitVec 9).toNat && !e.hit && e.filled + 20000 ≤ (up {}).island) = some ahead := by decide +kernel
theorem witness_retirePage : Writable (up {}) 1 0x2250 5 ∧ (up {}).asOperator ((up {}).role 1) = true ∧ (0x200000 : BitVec 64).toNat % 0x200000 = 0 ∧
    slabOf (0x200000 : BitVec 64).toNat ≠ none := by
  unfold Writable; decide +kernel
/-- A window of 38,400 requests with one busiest channel, and one request fewer. -/
theorem witness_imbalanceWindow : 38400 ≤ (([(3, 38399), (7, 1)] : List (Nat × Nat)).map (·.2)).sum ∧
    (∀ e ∈ ([(3, 38399), (7, 1)] : List (Nat × Nat)), e = (3, 38399) ∨ e.2 < 38399) ∧ (([(3, 38399)] : List (Nat × Nat)).map (·.2)).sum < 38400 := by decide

/-! ### Spans -/

theorem mapGet_beyond (m : List Host.Cell) (a : Nat) (h : ∀ e ∈ m, e.1 < a) : mapGet (0 : Byte) m a = 0 := by
  induction m with
  | nil => rfl
  | cons e m im =>
    have he := h e List.mem_cons_self
    have hm := im fun e he => h e (List.mem_cons_of_mem _ he)
    obtain ⟨k, v⟩ := e
    unfold mapGet
    split
    · rename_i hk
      exact absurd hk (Nat.ne_of_lt he)
    · exact hm
theorem readCells_zeros (m : List Host.Cell) (a len : Nat) (h : ∀ e ∈ m, e.1 < a) : readCells m a len = zeros len := by
  induction len generalizing a with
  | zero => rfl
  | succ n ih =>
    unfold readCells
    rw [mapGet_beyond m a h, ih (a + 1) fun e he => Nat.lt_succ_of_lt (h e he)]
    rfl
set_option maxRecDepth 100000 in
theorem crc_zeros : crc32c (zeros 4096) = 0x98F94189 := by decide +kernel

/-- Tier memory with bytes and block check values. -/
def withBlocks (cells : List Host.Cell) (blocks : SMap Block) (s : State) : State := { s with mem := { s.mem with tier := cells, blocks := blocks } }
/-- Blocks of zeros with their check value, by number. -/
def zeroBlocks (l : List Nat) : SMap Block := l.map fun b => (b, { check := some 0x98F94189 })

theorem good_block (s : State) (pa : Nat) (v : Word) (hb : s.block pa = { check := some v })
    (h : crc32c (readCells s.mem.tier (pa / 4096 * 4096) 4096) = v) : s.verify pa = .good := by
  unfold State.verify
  rw [hb]
  have e : ((List.range 8).find? fun i => mapGet (0 : BitVec 24) ([] : SMap (BitVec 24)) i ≠ 0) = none := by decide
  simp only [e]
  unfold State.tierBytes
  rw [if_pos h]
theorem zero_verified (s : State) (pa : Nat) (hb : s.block pa = { check := some 0x98F94189 }) (h : ∀ e ∈ s.mem.tier, e.1 < pa / 4096 * 4096) :
    s.verify pa = .good :=
  good_block s pa _ hb (by rw [readCells_zeros _ _ _ h, crc_zeros])

theorem verified_blocks (s : State) (hm : s.mem.maps = [page0]) {va len : Nat} (hb : (va + len + 4095) / 4096 * 4096 ≤ 0x200000)
    (hv : ∀ b, va / 4096 ≤ b → b < (va + len + 4095) / 4096 → s.verify (4096 * b) = .good) : verified s 0 va len := by
  have h1 : va / 4096 * 4096 ≤ (va + len + 4095) / 4096 * 4096 := Nat.mul_le_mul_right _ (Nat.div_le_div_right (by omega))
  have h2 : va / 4096 * 4096 + ((va + len + 4095) / 4096 * 4096 - va / 4096 * 4096) ≤ 0x200000 := by
    rw [Nat.add_sub_cancel' h1]
    exact hb
  refine ⟨permits_page0 s hm false h2, fun i hi => ?_⟩
  have e : va / 4096 * 4096 + 4096 * i = 4096 * (va / 4096 + i) := by omega
  rw [e, physAt_page0 s hm (by omega)]
  exact hv _ (by omega) (by omega)

/-- A span of 4,096 elements: its record at 0, hyper-parameters at 0x1000, and its planes, all zeros, from 0x2000 on; every block has its
check value. -/
def spanCells : List Host.Cell :=
  [(0x0, 0x1), (0x9, 0x10), (0x11, 0x20), (0x19, 0x40), (0x21, 0x60), (0x29, 0x70), (0x39, 0x80), (0x49, 0x90), (0x51, 0x10)]
def spanBlocks : SMap Block := (0, { check := some 0xA93E8F86 }) :: zeroBlocks [1, 2, 3, 4, 5, 6, 7, 8, 9]
/-- A training-state command on the span, and on the block behind its planes. -/
def trainCmd (top va : Nat) : Command := unitCmd 5 2 [BitVec.ofNat 32 (top * 2 ^ 24), 0, BitVec.ofNat 32 va, 0, 0, 0, 0, 0]
def trains (c : Command) : State := withBlocks spanCells (spanBlocks ++ zeroBlocks [10]) (up { cmdQ := [c] })

theorem span_zero (c : Command) (b : Nat) (h : 1 ≤ b) (h' : b < 11) : (trains c).verify (4096 * b) = .good := by
  refine zero_verified _ _ ?_ ?_
  · have all : ∀ b, b < 11 → 1 ≤ b → (trains c).block (4096 * b) = { check := some 0x98F94189 } := by
      intro b h1 h2
      show mapGet {} (spanBlocks ++ zeroBlocks [10]) (4096 * b / 4096) = _
      revert b
      decide +kernel
    exact all b h' h
  · intro e he
    have all : ∀ e ∈ spanCells, e.1 < 4096 := by decide
    have := all e he
    omega
set_option maxRecDepth 100000 in
theorem span_crc : crc32c (readCells spanCells 0 4096) = 0xA93E8F86 := by decide +kernel
theorem span_record (c : Command) : (trains c).verify 0 = .good := good_block _ 0 0xA93E8F86 rfl span_crc
theorem span_verified (c : Command) {va len : Nat} (h : (va + len + 4095) / 4096 ≤ 11) : verified (trains c) 0 va len := by
  refine verified_blocks _ rfl (by omega) fun b h1 h2 => ?_
  by_cases hb : b = 0
  · subst hb
    exact span_record c
  · exact span_zero c b (by omega) (by omega)

theorem one_page (s : State) (h : s.mem.maps = [page0]) (ctx : BitVec 12) :
    ∀ a ∈ s.mem.maps, ∀ b ∈ s.mem.maps, a.ctx = ctx → b.ctx = ctx → a ≠ b → a.pa + a.size ≤ b.pa ∨ b.pa + b.size ≤ a.pa := by
  intro a ha b hb _ _ hab
  rw [h, List.mem_singleton] at ha hb
  exact absurd (ha.trans hb.symm) hab

theorem trains_page0 (c : Command) (op : Nat) (h : Waits (trains c) t0 5 c) (h1 : c.top = op) (h2 : (trains c).engineFree t0 = true) (h3 : tsBad c = false)
    (h4 : (trains c).partOf ((trains c).lead t0) = some 0) (h5 : (trains c).slotCtx 0 (fieldOf (c.body.getD 0 0) 20 4) = some 0)
    (h6 : (trains c).tsReady t0 c = true) : Trains (trains c) t0 c op 0 0 :=
  ⟨h, h1, h2, h3, h4, h5, h6, translates_page0 _ rfl _ rfl, one_page _ rfl _⟩
theorem witness_Trains : ∀ e ∈ [(trainCmd 0xE0 0, 0xE0), (trainCmd 0xE1 0xA000, 0xE1), (trainCmd 0xE2 0xA000, 0xE2), (trainCmd 0xE3 0, 0xE3)],
    Trains (trains e.1) t0 e.1 e.2 0 0 := by
  have all : ∀ e ∈ [(trainCmd 0xE0 0, 0xE0), (trainCmd 0xE1 0xA000, 0xE1), (trainCmd 0xE2 0xA000, 0xE2), (trainCmd 0xE3 0, 0xE3)],
      Waits (trains e.1) t0 5 e.1 ∧ e.1.top = e.2 ∧ (trains e.1).engineFree t0 = true ∧ tsBad e.1 = false ∧
      (trains e.1).partOf ((trains e.1).lead t0) = some 0 ∧ (trains e.1).slotCtx 0 (fieldOf (e.1.body.getD 0 0) 20 4) = some 0 ∧
      (trains e.1).tsReady t0 e.1 = true := by
    unfold Waits; decide +kernel
  intro e he
  obtain ⟨h1, h2, h3, h4, h5, h6, h7⟩ := all e he
  exact trains_page0 _ _ h1 h2 h3 h4 h5 h6 h7
theorem witness_SpanReadable : SpanReadable (trains (trainCmd 0xE0 0)) (trainCmd 0xE0 0) 0 ∧ SpanReadable (trains (trainCmd 0xE3 0)) (trainCmd 0xE3 0) 0 := by
  have e : ∀ n ∈ [0xE0, 0xE3], tsAddress (trainCmd n 0) = 0 ∧ (spanOf (trains (trainCmd n 0)) (trainCmd n 0) 0).bad = false ∧
      (spanOf (trains (trainCmd n 0)) (trainCmd n 0) 0).hva = 0x1000 := by decide +kernel
  have one : ∀ n ∈ [0xE0, 0xE3], SpanReadable (trains (trainCmd n 0)) (trainCmd n 0) 0 := by
    intro n hn
    obtain ⟨h1, h2, h3⟩ := e n hn
    exact ⟨by rw [h1]; exact span_verified _ (by decide), h2, by rw [h3]; exact span_verified _ (by decide)⟩
  exact ⟨one _ (by decide), one _ (by decide)⟩
/-- STAGE of the partition's step 0 into norm slot 0; all planes lie in the checked blocks. -/
theorem witness_SpansAreStagedAndCommitted : tsStep (trainCmd 0xE0 0) = ((trains (trainCmd 0xE0 0)).part 0).step ∧
    mapGet false ((trains (trainCmd 0xE0 0)).part 0).normMarks (fieldOf ((trainCmd 0xE0 0).body.getD 0 0) 0 10) = false ∧
    (spanOf (trains (trainCmd 0xE0 0)) (trainCmd 0xE0 0) 0).n = 4096 ∧ (spanOf (trains (trainCmd 0xE0 0)) (trainCmd 0xE0 0) 0).opt = 1 ∧
    (spanOf (trains (trainCmd 0xE0 0)) (trainCmd 0xE0 0) 0).gva = 0x4000 ∧ (spanOf (trains (trainCmd 0xE0 0)) (trainCmd 0xE0 0) 0).ssva = 0x9000 := by
  decide +kernel
theorem witness_span_planes (c : Command) : (∀ r ∈ [(0x4000, 8192), (0x6000, 1), (0x7000, 4096), (0x8000, 64), (0x2000, 8192), (0x9000, 128)],
      verified (trains c) 0 r.1 r.2 ∧ permits (trains c) 0 true (r.1 / 4096 * 4096) (wholeBlocks r.2)) ∧ permits (trains c) 0 true 0x9000 4096 := by
  refine ⟨fun r hr => ?_, permits_page0 _ rfl _ (by decide)⟩
  have b : (r.1 + r.2 + 4095) / 4096 ≤ 11 ∧ r.1 / 4096 * 4096 + wholeBlocks r.2 ≤ 0x200000 := by
    have all : ∀ r ∈ [(0x4000, 8192), (0x6000, 1), (0x7000, 4096), (0x8000, 64), (0x2000, 8192), (0x9000, 128)],
        (r.1 + r.2 + 4095) / 4096 ≤ 11 ∧ r.1 / 4096 * 4096 + wholeBlocks r.2 ≤ 0x200000 := by decide
    exact all r hr
  exact ⟨span_verified c b.1, permits_page0 _ rfl _ b.2⟩
/-- COMMIT after a pass of its own step: the verdict's registers of partition 0. -/
theorem witness_commit : tsStep (trainCmd 0xE3 0) = ({ clusters := 1, state := 1, lastVerdict := 1 } : Part).verdictStep := by decide
/-- The sum of zeros at 0xA000 passes; a limit below a skip count of 0 is none, and a limit of 0 is reached at once. -/
theorem witness_StepsAreJudged : verified (trains (trainCmd 0xE2 0xA000)) 0 (tsAddress (trainCmd 0xE2 0xA000)) 4 ∧
    tsStep (trainCmd 0xE2 0xA000) = ((trains (trainCmd 0xE2 0xA000)).part 0).step ∧ permits (trains (trainCmd 0xE1 0xA000)) 0 true 0xA000 4096 ∧
    tsAddress (trainCmd 0xE1 0xA000) = 0xA000 := by
  refine ⟨?_, by decide +kernel, permits_page0 _ rfl _ (by decide), by decide⟩
  have e : tsAddress (trainCmd 0xE2 0xA000) = 0xA000 := by decide
  rw [e]
  exact span_verified _ (by decide)

/-! ### Collectives -/

/-- Group 5 of context 0, of this module alone and of two modules. -/
def alone : Group := { gid := 5, gtag := 0x11, axes := 1, ctx := 0, base := 0, extent := 0x20211, part := 0 }
def pair : Group := { alone with extent := 0x20212 }
/-- The module with a group and open slots, and a port's frames delivered. -/
def joined (g : Group) (slots : SMap (Option Slot)) (x : Tile) : State := { up x with sh := { groups := [g], slots := slots } }
def hears (m : Msg) (s : State) : State := { s with ports := [(2, { state := .up, rxQ := [(m, 1, false, 2)] })] }

/-- A collective on group 5, sequence number 1. -/
def shCmd (b0 src dst seg arg : Nat) : Command :=
  unitCmd 5 3 [BitVec.ofNat 32 b0, 0x00050001, BitVec.ofNat 32 src, 0, BitVec.ofNat 32 dst, 0, BitVec.ofNat 32 seg, BitVec.ofNat 32 arg, 0, 0, 0, 0]
/-- A BARRIER, and a BROADCAST of one unit from 0x1000 to 0x2000 of the store. -/
def barrierCmd : Command := shCmd 0x01040000 0 0 0 0
def broadcastCmd : Command := shCmd 0x02000600 0x1000 0x2000 1 0
/-- An open slot of the pair, for a command, at this member of rank 0. -/
def slotOf5 (c : Command) : Slot :=
  { body := c.body, tile := t0, cmd := c.id, stag := 0, opened := 0, deadline := 4, part := 0, gid := 5, seq := 1, rank := 0, size := 2 }

theorem waits_joined (g : Group) (slots : SMap (Option Slot)) (c : Command) (h : Waits (joined g slots { cmdQ := [c] }) t0 5 c)
    (h1 : (joined g slots { cmdQ := [c] }).shReady ((joined g slots { cmdQ := [c] }).lead t0) c = true)
    (h2 : (joined g slots { cmdQ := [c] }).shRefusal ((joined g slots { cmdQ := [c] }).lead t0) c = none)
    (h3 : (joined g slots { cmdQ := [c] }).shCtx ((joined g slots { cmdQ := [c] }).lead t0) c = some (0, 0)) :
    CollectiveWaits (joined g slots { cmdQ := [c] }) t0 c 0 0 := ⟨h, h1, h2, h3⟩
theorem witness_CollectivesOpen : CollectiveWaits (joined pair [] { cmdQ := [barrierCmd] }) t0 barrierCmd 0 0 ∧ rowOf .barrier barrierCmd ∧
    (joined pair [] { cmdQ := [barrierCmd] }).freeSlot 0 = some 0 := by
  refine ⟨by unfold CollectiveWaits Waits; decide +kernel, Or.inl ⟨(.barrier, 1), by simp [collectives], rfl, by decide⟩, by decide +kernel⟩
/-- Sixteen slots are open. -/
def full : SMap (Option Slot) := (List.range 16).map fun k => (k, some { slotOf5 barrierCmd with seq := 0x100 })
theorem witness_noSlot : CollectiveWaits (joined pair full { cmdQ := [barrierCmd] }) t0 barrierCmd 0 0 ∧
    (joined pair full { cmdQ := [barrierCmd] }).freeSlot 0 = none ∧ rowOf .shuttleSlotOpen { barrierCmd with checked := true } := by
  refine ⟨by unfold CollectiveWaits Waits; decide +kernel, by decide +kernel, Or.inr ⟨rfl, rfl⟩⟩
theorem witness_CollectivesOfOneComplete : CollectiveWaits (joined alone [] { cmdQ := [broadcastCmd] }) t0 broadcastCmd 0 0 ∧
    rowOf .broadcast broadcastCmd ∧ (joined alone [] { cmdQ := [broadcastCmd] }).freeSlot 0 = some 0 ∧
    (joined alone [] { cmdQ := [broadcastCmd] }).now.toNat + 1000 * ((joined alone [] { cmdQ := [broadcastCmd] }).part 0).deadline.toNat < 2 ^ 64 := by
  refine ⟨by unfold CollectiveWaits Waits; decide +kernel, Or.inl ⟨(.broadcast, 2), by simp [collectives], rfl, by decide⟩, by decide +kernel, by decide +kernel⟩
theorem witness_AloneReady : AloneReady (joined alone [] { cmdQ := [broadcastCmd] }) t0 0
    ((joined alone [] { cmdQ := [broadcastCmd] }).slotFor ((joined alone [] { cmdQ := [broadcastCmd] }).lead t0) broadcastCmd) := by
  have reads : aloneReads (joined alone [] { cmdQ := [broadcastCmd] }) t0 0
      ((joined alone [] { cmdQ := [broadcastCmd] }).slotFor ((joined alone [] { cmdQ := [broadcastCmd] }).lead t0) broadcastCmd) = [(true, 0x1000, 64)] := by
    decide +kernel
  have writes : (aloneWrites (joined alone [] { cmdQ := [broadcastCmd] }) t0 0
      ((joined alone [] { cmdQ := [broadcastCmd] }).slotFor ((joined alone [] { cmdQ := [broadcastCmd] }).lead t0) broadcastCmd)).map
        (fun w => (w.1, w.2.1, w.2.2.length)) = [(true, 0x2000, 64)] := by decide +kernel
  refine ⟨by decide +kernel, clean_up { cmdQ := [broadcastCmd] } rfl _, rfl, translates_page0 _ rfl _ rfl, one_page _ rfl _, ?_, ?_, ?_, ?_, ?_, ?_⟩
  · rw [reads]
    intro a ha
    rw [List.mem_singleton] at ha
    subst ha
    rw [if_pos rfl]
    decide +kernel
  · intro h
    exact absurd h (by decide +kernel)
  · intro w hw
    have hm := List.mem_map_of_mem (f := fun w : Bool × Nat × Bytes => (w.1, w.2.1, w.2.2.length)) hw
    rw [writes, List.mem_singleton] at hm
    simp only [Prod.mk.injEq] at hm
    obtain ⟨h1, h2, h3⟩ := hm
    rw [if_pos h1, h2, h3]
    decide +kernel
  · intro h
    exact absurd h (by decide +kernel)
  · intro h
    exact absurd h (by decide +kernel)
  · intro e he
    exact absurd he (by simp [joined])

/-- A message of group 5 from rank 1 for slot 0. -/
def message (mt : BitVec 4) (payload : Bytes) : Msg :=
  { gid := 5, seq := 1, mt := mt, slot := 0, srank := 1, offset := 0, dest := 0, gtag := 0x11, payload := payload }
/-- BROADCASTs of two units from rank 1 and from rank 0, and an ALLTOALLV. -/
def fromPeer : Slot := slotOf5 (shCmd 0x02000600 0x1000 0x2000 2 1)
def toPeer : Slot := slotOf5 (shCmd 0x02000600 0x1000 0x2000 2 0)
def rowsSlot : Slot := slotOf5 (shCmd 0x07000000 0 0 1 4)
def talks (x : Slot) (m : Msg) : State := hears m (joined pair [(0, some x)] {})

theorem delivered_talks (x : Slot) (m : Msg) (mt : BitVec 4) (h : m.mt = mt) (hg : m.gid = 5) (ht : m.gtag = 0x11) :
    Delivered (talks x m) 2 mt m pair [] :=
  ⟨rfl, ⟨1, false, 2, rfl⟩, h, by rw [hg]; rfl, by rw [ht]; rfl⟩
theorem names_talks (x : Slot) (m : Msg) (hs : m.slot = 0) (hg : x.gid = m.gid) (hq : x.seq = m.seq) (hp : x.part = 0) : Names (talks x m) pair m x :=
  ⟨by rw [hs]; rfl, hg, hq, by rw [hp]; rfl⟩
theorem witness_CollectiveMessagesAreTaken : Names (talks fromPeer (message 0 (zeros 64))) pair (message 0 (zeros 64)) fromPeer ∧
    Delivered (talks fromPeer (message 0 (zeros 64))) 2 0 (message 0 (zeros 64)) pair [] ∧
    fromPeer.landing (message 0 (zeros 64)) (fun k => (message 0 (zeros 64)).offset.toNat / k) (fun k => (message 0 (zeros 64)).payload.length / k) =
      some (0, ⟨1, false, true, 0, 2⟩) :=
  ⟨names_talks _ _ rfl rfl rfl rfl, delivered_talks _ _ _ rfl rfl rfl, by decide +kernel⟩
theorem witness_counts_done_token : Names (talks rowsSlot (message 2 (zeros 4))) pair (message 2 (zeros 4)) rowsSlot ∧ rowsSlot.sop = 7 ∧
    Delivered (talks rowsSlot (message 2 (zeros 4))) 2 2 (message 2 (zeros 4)) pair [] ∧ 1 ∉ rowsSlot.countsFrom ∧ 1 < rowsSlot.size ∧
    toPeer.doneAll 1 2 = false ∧ fromPeer.doneAll 1 0 = true ∧ (slotOf5 barrierCmd).sop = 1 ∧ 1 ∉ (slotOf5 barrierCmd).tokens :=
  ⟨names_talks _ _ rfl rfl rfl rfl, by decide, delivered_talks _ _ _ rfl rfl rfl, by decide, by decide, by decide +kernel, by decide +kernel,
    by decide, by decide⟩
/-- A grant of both units, and a CTS for a collective that has not opened. -/
def grantMsg : Msg := message 1 (toLE 1 4 ++ toLE toPeer.ctsW1 4 ++ toLE 2 4 ++ toLE 0 4 ++ toLE 2 4 ++ toLE 0 4 ++ toLE 2 4)
theorem witness_cts : Delivered (talks toPeer grantMsg) 2 1 grantMsg pair [] ∧ (talks toPeer grantMsg).slotOf pair grantMsg.seq = some 0 ∧
    (talks toPeer grantMsg).slotAt 0 = some toPeer ∧ (talks toPeer grantMsg).formed toPeer.part = true ∧
    fieldAt grantMsg.payload 4 4 = toPeer.ctsW1 ∧ fieldAt grantMsg.payload 8 4 = toPeer.seg ∧ fieldAt grantMsg.payload 12 4 = toPeer.arg.toNat ∧
    fieldAt grantMsg.payload 16 4 = toPeer.size ∧ fieldAt grantMsg.payload 0 4 = 1 ∧ toPeer.ragged = false ∧ toPeer.fits (ctsOf grantMsg) = some 0 ∧
    (hears grantMsg (joined pair [] {})).slotOf pair grantMsg.seq = none ∧ (hears grantMsg (joined pair [] {})).earlyCount pair.ctx < 4096 :=
  ⟨delivered_talks _ _ _ rfl rfl rfl, by decide +kernel, by decide +kernel, by decide +kernel, by decide +kernel, by decide +kernel, by decide +kernel,
    by decide +kernel, by decide +kernel, by decide +kernel, by decide +kernel, by decide +kernel, by decide +kernel⟩
theorem witness_abort_deadline : Delivered (talks toPeer (message 5 [])) 2 5 (message 5 []) pair [] ∧
    (talks toPeer (message 5 [])).slotAt ((0 : BitVec 12).toNat * 16 + (0 : BitVec 4).toNat) = some toPeer ∧
    toPeer.deadline.toNat < (talks toPeer (message 5 [])).now.toNat ∧
    ¬ ({ toPeer with deadline := 5 } : Slot).deadline.toNat < (talks toPeer (message 5 [])).now.toNat :=
  ⟨delivered_talks _ _ _ rfl rfl rfl, by decide +kernel, by decide +kernel, by decide +kernel⟩

/-! ### Outings -/

/-- An outing span of 16,384 elements: its record at 0, hyper-parameters at 0x1000, planes from 0x2000 on, and the binding's 24 slots and
result block from 0x30000 on. -/
def outCells : List Host.Cell :=
  [(0x0, 0x1), (0x9, 0x40), (0xC, 0xFF), (0xD, 0xFF), (0xE, 0xFF), (0xF, 0xFF), (0x11, 0x20), (0x19, 0xA0), (0x21, 0x20), (0x22, 0x1),
   (0x29, 0xA0), (0x2A, 0x1), (0x34, 0xA0), (0x39, 0x10)]
def outBlocks : SMap Block := (0, { check := some 0x8C786EC8 }) :: zeroBlocks ((List.range 72).map (· + 1))
/-- The group of this module and one of two sites, and a binding to it. -/
def siteAlone : Group := { alone with axes := 8 }
def sitePair : Group := { siteAlone with extent := 0x40211 }
def bound : Binding := { gid := 5, part := 0, ctx := 0, clen := 4096, xva := 0x30000, stva := 0, nspan := 1 }
/-- An outing command for outing 0 on the span. -/
def outingCmd (top b0 va : Nat) : Command := unitCmd 5 2 [BitVec.ofNat 32 (top * 2 ^ 24 + b0), 0, BitVec.ofNat 32 va, 0, 0x00050000, 0, 0, 0]
/-- The module with a binding, in the step in which outing 0 is due. -/
def outs (g : Group) (b : Binding) (q : List Command) : State :=
  withBlocks outCells outBlocks { up { cmdQ := q } with
    parts := [(0, { clusters := 1, state := 1, gidCount := 16, groupQuota := 8, bindQuota := 8, period := 1, step := 1 })]
    sh := { groups := [g], rings := g.extent }
    bindings := [b] }

theorem outs_zero (g : Group) (b : Binding) (q : List Command) (k : Nat) (h : 1 ≤ k) (h' : k < 73) : (outs g b q).verify (4096 * k) = .good := by
  refine zero_verified _ _ ?_ ?_
  · have all : ∀ k, k < 73 → 1 ≤ k → (outs g b q).block (4096 * k) = { check := some 0x98F94189 } := by
      intro k h1 h2
      show mapGet {} outBlocks (4096 * k / 4096) = _
      revert k
      decide +kernel
    exact all k h' h
  · intro e he
    have all : ∀ e ∈ outCells, e.1 < 4096 := by decide
    have := all e he
    omega
set_option maxRecDepth 100000 in
theorem out_crc : crc32c (readCells outCells 0 4096) = 0x8C786EC8 := by decide +kernel
theorem outs_verified (g : Group) (b : Binding) (q : List Command) {va len : Nat} (h : (va + len + 4095) / 4096 ≤ 73) : verified (outs g b q) 0 va len := by
  refine verified_blocks _ rfl (by omega) fun k h1 h2 => ?_
  by_cases hk : k = 0
  · subst hk
    exact good_block _ 0 0x8C786EC8 rfl out_crc
  · exact outs_zero g b q k (by omega) (by omega)
theorem outs_held (g : Group) (b : Binding) (q : List Command) {va len : Nat} (h : (va + len + 4095) / 4096 ≤ 73) : Held (outs g b q) 0 (va, len) :=
  ⟨outs_verified g b q h, permits_page0 _ rfl _ (by
    have := Nat.div_add_mod (va + len + 4095) 4096
    have := Nat.mod_lt (va + len + 4095) (show 0 < 4096 by decide)
    show va + len ≤ 0x200000
    omega)⟩

theorem waits_outs (g : Group) (b : Binding) (c : Command) (op : Nat) (h : Waits (outs g b [c]) t0 5 c) (h1 : c.top = op) (h2 : outBad c = false)
    (h3 : (outs g b [c]).outReady t0 c = true) (h4 : (outs g b [c]).partOf ((outs g b [c]).lead t0) = some 0)
    (h5 : (outs g b [c]).slotCtx 0 (fieldOf (c.body.getD 0 0) 20 4) = some 0) (h6 : (outs g b [c]).binding (outCmd c).gid = some b) (h7 : b.ctx = 0)
    (h8 : b.xva % 4096 = 0 ∧ b.clen % 4096 = 0) : OutingWaits (outs g b [c]) t0 c op 0 0 b :=
  ⟨h, h1, h2, h3, h4, h5, h6, h7, h8.1, h8.2, translates_page0 _ rfl _ rfl, one_page _ rfl _⟩
def packCmd : Command := outingCmd 0xE4 0 0
def exchangeCmd : Command := outingCmd 0xE5 0x80000 0
def applyCmd : Command := outingCmd 0xE6 0 0
def fetchCmd : Command := outingCmd 0xE7 0 0
/-- The bitmap of outing 0, of this module alone, on the base {}. -/
def bitmap0 : Bitmap := { outno := 0, alpha := 0, b := 1, l := 0, pub := 0, s := 1, app := {}, deadline := 0, pubAt := 0 }
/-- The binding when outing 0 has ended with status 0. -/
def applied : Binding := { bound with accepted := { outno := 0, b := 1, l := 0, alpha := 0 }, bitmaps := [(bitmap0, 0)], statuses := [(0, 0)] }

theorem witness_OutingWaits : OutingWaits (outs siteAlone bound [packCmd]) t0 packCmd 0xE4 0 0 bound ∧
    OutingWaits (outs siteAlone bound [exchangeCmd]) t0 exchangeCmd 0xE5 0 0 bound ∧
    OutingWaits (outs siteAlone applied [applyCmd]) t0 applyCmd 0xE6 0 0 applied ∧
    OutingWaits (outs siteAlone bound [fetchCmd]) t0 fetchCmd 0xE7 0 0 bound := by
  refine ⟨waits_outs _ _ _ _ ?_ (by decide) (by decide) (by decide +kernel) (by decide +kernel) (by decide +kernel) (by decide +kernel) rfl (by decide),
    waits_outs _ _ _ _ ?_ (by decide) (by decide) (by decide +kernel) (by decide +kernel) (by decide +kernel) (by decide +kernel) rfl (by decide),
    waits_outs _ _ _ _ ?_ (by decide) (by decide) (by decide +kernel) (by decide +kernel) (by decide +kernel) (by decide +kernel) rfl (by decide),
    waits_outs _ _ _ _ ?_ (by decide) (by decide) (by decide +kernel) (by decide +kernel) (by decide +kernel) (by decide +kernel) rfl (by decide)⟩ <;>
  (unfold Waits; decide +kernel)
theorem out_span (g : Group) (b : Binding) (q : List Command) (c : Command) (h : tsAddress c = 0) (hb : (outSpanOf (outs siteAlone bound []) fetchCmd 0).bad b.clen = false) :
    OutSpanFits (outs g b q) c 0 b := by
  refine ⟨by rw [h]; exact outs_verified g b q (by decide), by rw [h]; exact permits_page0 _ rfl _ (by decide), ?_⟩
  have e : outSpanOf (outs g b q) c 0 = outSpanOf (outs siteAlone bound []) fetchCmd 0 := by
    unfold outSpanOf
    rw [h]
    rfl
  rw [e]
  exact hb
theorem witness_OutSpanFits : OutSpanFits (outs siteAlone bound [packCmd]) packCmd 0 bound ∧ OutSpanFits (outs siteAlone applied [applyCmd]) applyCmd 0 applied :=
  ⟨out_span _ _ _ _ (by decide) (by decide +kernel), out_span _ _ _ _ (by decide) (by decide +kernel)⟩
theorem witness_OutingsArePackedAndApplied : (outs siteAlone bound [packCmd]).packOut bound (outSpanOf (outs siteAlone bound [packCmd]) packCmd 0) (tsStep packCmd) = false ∧
    (∀ r ∈ [(0x2000, 32768), (0xA000, 32768)], verified (outs siteAlone bound [packCmd]) 0 r.1 r.2) ∧
    Held (outs siteAlone bound [packCmd]) 0 (0x1A000, 65536) ∧ permits (outs siteAlone bound [packCmd]) 0 true 0x30000 (wholeBlocks 160) ∧
    Apart [(0x30000, wholeBlocks 160), (0, 4096), (0x2000, 32768), (0xA000, 32768), (0x1A000, 65536)] ∧
    bound.slotVa (tsStep packCmd) ((outs siteAlone bound [packCmd]).ownRank bound) + 0 = 0x30000 := by
  refine ⟨by decide +kernel, ?_, outs_held _ _ _ (by decide), permits_page0 _ rfl _ (by decide), by unfold Apart; decide, by decide +kernel⟩
  intro r hr
  have all : ∀ r ∈ [(0x2000, 32768), (0xA000, 32768)], (r.1 + r.2 + 4095) / 4096 ≤ 73 := by decide
  exact outs_verified _ _ _ (all r hr)
theorem witness_OutingsAreApplied : applied.bitmapFor (tsStep applyCmd) = some (bitmap0, 0) ∧ bitmap0.outno = tsStep applyCmd ∧
    (∃ e ∈ applied.statuses, e.1 = tsStep applyCmd ∧ e.2 ≤ 1) ∧ (outSpanOf (outs siteAlone applied [applyCmd]) applyCmd 0).id = bitmap0.app ∧
    verified (outs siteAlone applied [applyCmd]) 0 0x1000 64 ∧
    (∀ r ∈ [(0x2000, 32768), (0xA000, 32768), (0x12000, 32768), (0x1A000, 65536)], Held (outs siteAlone applied [applyCmd]) 0 r) ∧
    verified (outs siteAlone applied [applyCmd]) 0 0x30000 (24 * 4096) ∧ (outs siteAlone applied [applyCmd]).ownRank applied < 8 ∧
    Apart [(0x30000, 24 * 4096), (0, 4096), (0x1000, 4096), (0x2000, 32768), (0xA000, 32768), (0x12000, 32768), (0x1A000, 65536)] := by
  refine ⟨by decide +kernel, by decide, ⟨_, List.mem_singleton.mpr rfl, by decide, by decide⟩, by decide +kernel, outs_verified _ _ _ (by decide), ?_,
    outs_verified _ _ _ (by decide), by decide +kernel, by unfold Apart; decide⟩
  intro r hr
  have all : ∀ r ∈ [(0x2000, 32768), (0xA000, 32768), (0x12000, 32768), (0x1A000, 65536)], (r.1 + r.2 + 4095) / 4096 ≤ 73 := by decide
  exact outs_held _ _ _ (all r hr)
theorem witness_out_span_fields : (outSpanOf (outs siteAlone bound []) fetchCmd 0).n = 16384 ∧ (outSpanOf (outs siteAlone bound []) fetchCmd 0).plen = 160 ∧
    (outSpanOf (outs siteAlone bound []) fetchCmd 0).poff = 0 ∧ (outSpanOf (outs siteAlone bound []) fetchCmd 0).wva = 0x2000 ∧
    (outSpanOf (outs siteAlone bound []) fetchCmd 0).eva = 0x1A000 ∧ (outSpanOf (outs siteAlone bound []) fetchCmd 0).ova = 0x12000 ∧
    (outSpanOf (outs siteAlone bound []) fetchCmd 0).hva = 0x1000 := by decide +kernel
theorem witness_OutingsGoOn : tsStep exchangeCmd = bound.a + 1 ∧ bound.exch = none ∧ bound.fetch = none ∧ bound.gid = (outCmd exchangeCmd).gid ∧
    verified (outs siteAlone bound [exchangeCmd]) 0 (bound.slotVa (tsStep exchangeCmd) ((outs siteAlone bound [exchangeCmd]).ownRank bound)) bound.clen := by
  refine ⟨by decide, rfl, rfl, by decide, ?_⟩
  have e : bound.slotVa (tsStep exchangeCmd) ((outs siteAlone bound [exchangeCmd]).ownRank bound) = 0x30000 := by decide +kernel
  rw [e]
  exact outs_verified _ _ _ (by decide)

/-- A message of an outing from rank 1. -/
def outMsg (mt : BitVec 4) (payload : Bytes) : Msg := { message mt payload with seq := 0 }
def outHears (b : Binding) (m : Msg) : State := hears m (outs sitePair b [])
theorem out_delivered (b : Binding) (m : Msg) (mt : BitVec 4) (h : m.mt = mt) (hg : m.gid = 5) (ht : m.gtag = 0x11) (hb : b.gid = 5) :
    ∃ v, OutingDelivered (outHears b m) 2 mt m b v := by
  refine ⟨(outHears b m).modPort 2 fun x => ({ x with rxQ := [] } : Port).giveBack 1 false 2, sitePair, ?_, by rw [hg]; rfl, by rw [ht]; rfl, ?_, hb, ?_⟩
  · have e : (decide (m.mt = mt) && !false) = true := by rw [h]; simp
    exact if_pos e
  · exact List.find?_cons_of_pos (by rw [hb]; rfl)
  · exact List.find?_cons_of_pos (by rw [hb]; rfl)
/-- A CONTRIB of 64 bytes: outing 0, two sites, 4,096 bytes in all. -/
def contrib : Msg := outMsg 8 (toLE 0 4 ++ zeros 10 ++ [2, 0] ++ zeros 4 ++ toLE 4096 4 ++ zeros 40 ++ zeros 64)
theorem witness_contrib : (∃ v, OutingDelivered (outHears bound contrib) 2 8 contrib bound v) ∧ BitVec.ofNat 32 (fieldAt contrib.payload 0 4) = bound.a + 1 ∧
    fieldAt contrib.payload 0xE 1 = (outHears bound contrib).sites bound ∧ fieldAt contrib.payload 0x14 4 = bound.clen ∧
    contrib.srank.toNat < (outHears bound contrib).sites bound ∧ contrib.offset.toNat * 64 + (contrib.payload.drop 64).length ≤ bound.clen :=
  ⟨out_delivered _ _ _ rfl rfl rfl rfl, by decide +kernel, by decide +kernel, by decide +kernel, by decide +kernel, by decide +kernel⟩
theorem witness_contrib_memory : Translates (outHears bound contrib) (.slice (dieOf bound.ts.l)) 0 ∧ permits (outHears bound contrib) 0 true 0x30000 (64 + 8192) :=
  ⟨translates_page0 _ rfl _ rfl, permits_page0 _ rfl _ (by decide)⟩
/-- A bitmap of outing 0 that rank 1 publishes, on the base {}, and a receipt. -/
def bitmapMsg : Msg := outMsg 10 (zeros 64 ++ toLE 0 4 ++ toLE 0 4 ++ [3, 0, 1, 2] ++ toLE 0xFFFFFFFF 4 ++ zeros 44)
def receiptMsg : Msg := outMsg 9 (zeros 64 ++ [3, 0])
theorem witness_bitmap_receipt : (∃ v, OutingDelivered (outHears bound bitmapMsg) 2 10 bitmapMsg bound v) ∧
    (parseBitmap (slice bitmapMsg.payload 64 64)).outno = bound.a + 1 ∧ (parseBitmap (slice bitmapMsg.payload 64 64)).app = bound.accepted ∧
    (parseBitmap (slice bitmapMsg.payload 64 64)).pub.toNat ∈ (outHears bound bitmapMsg).candidates bound ∧
    (∃ v, OutingDelivered (outHears bound receiptMsg) 2 9 receiptMsg bound v) ∧ BitVec.ofNat 32 (fieldAt receiptMsg.payload 0 4) = bound.a + 1 :=
  ⟨out_delivered _ _ _ rfl rfl rfl rfl, by decide +kernel, by decide +kernel, by decide +kernel, out_delivered _ _ _ rfl rfl rfl rfl, by decide +kernel⟩
/-- An exchange of outing 0 that opened long ago. -/
def openExch : Exchange := { outno := 0, tile := t0, cmd := 0, stag := 0, waitAll := false }
def waiting : Binding := { bound with exch := some openExch, openAt := [(0, 0)] }
def later (b : Binding) : State := { outs sitePair b [] with now := 6000000000 }
theorem witness_out_deadlines : (later waiting).binding 5 = some waiting ∧ (later waiting).position waiting = some 0 ∧
    (later waiting).deadlineOf waiting 0 0 = some 5000000000 ∧ (5000000000 : DWord) < (later waiting).now ∧
    waiting.a + 1 = openExch.outno ∧ waiting.bitmapFor 0 = none ∧
    (later waiting).deadlineOf waiting 0 (((later waiting).candidates waiting).length + 1) = some 5300000000 ∧ (5300000000 : DWord) < (later waiting).now ∧
    (later waiting).deadlineOf waiting 0 ((later waiting).candidates waiting).length = some 5200000000 ∧
    (later waiting).formed waiting.part.toNat = true ∧
    ({ waiting with bitmaps := [(bitmap0, 0)] } : Binding).bitmapFor 0 = some (bitmap0, 0) ∧
    (0 : DWord).toNat + 1000000 * ((later waiting).part 0).takeover.toNat < (later waiting).now.toNat := by decide +kernel
/-- An open fetch from rank 1, asked and found busy long ago; and its answers. -/
def fetch0 : Fetch := { tile := t0, cmd := 0, stag := 0, outno := 0, span := 0, sidx := 0, peer := 1, began := 0, asked := 0 }
def fetching : Binding := { bound with fetch := some fetch0 }
def snapreq (sidx : Nat) : Msg := outMsg 11 (zeros 0x18 ++ toLE sidx 2 ++ zeros 0x26 ++ toLE 0 4 ++ toLE 0 4 ++ toLE 16384 4)
def snapdata (flags : Byte) : Msg := outMsg 12 (zeros 0xF ++ [flags] ++ zeros 0x30 ++ zeros 64)
theorem witness_SnapshotsAreFetched : (∃ v, OutingDelivered (outHears bound (snapreq 1)) 2 11 (snapreq 1) bound v) ∧ bound.nspan ≤ fieldAt (snapreq 1).payload 0x18 2 ∧
    (∃ v, OutingDelivered (outHears bound (snapreq 0)) 2 11 (snapreq 0) bound v) ∧ fieldAt (snapreq 0).payload 0x18 2 < bound.nspan ∧
    (∃ v, OutingDelivered (outHears fetching (snapdata 2)) 2 12 (snapdata 2) fetching v) ∧ fieldAt (snapdata 2).payload 0xF 1 / 2 % 2 = 1 ∧
    (snapdata 1).srank.toNat = fetch0.peer ∧ fieldAt (snapdata 1).payload 0 4 = fetch0.outno.toNat ∧ fieldAt (snapdata 1).payload 0x18 2 = fetch0.sidx.toNat ∧
    fieldAt (snapdata 1).payload 0xF 1 % 2 = 1 ∧ fieldAt (snapdata 0).payload 0xF 1 % 2 = 0 ∧
    (snapdata 0).offset.toNat * 64 + ((snapdata 0).payload.drop 64).length ≤ 4 * 16384 ∧
    covered (4 * 16384 / 64) [((snapdata 0).offset.toNat, ((snapdata 0).payload.drop 64).length / 64)] = false :=
  ⟨out_delivered _ _ _ rfl rfl rfl rfl, by decide +kernel, out_delivered _ _ _ rfl rfl rfl rfl, by decide +kernel, out_delivered _ _ _ rfl rfl rfl rfl,
    by decide +kernel, by decide +kernel, by decide +kernel, by decide +kernel, by decide +kernel, by decide +kernel, by decide +kernel, by decide +kernel⟩
theorem witness_fetch_limits : ({ fetching with fetch := some { fetch0 with busyAt := some 0 } } : Binding).fetch = some { fetch0 with busyAt := some 0 } ∧
    fetch0.asked.toNat + 1000000 ≤ (later fetching).now.toNat ∧ (later fetching).binding 5 = some fetching ∧ fetch0.busyAt = none ∧
    fetch0.asked.toNat + 1000000 * ((later fetching).part fetching.part.toNat).takeover.toNat < (later fetching).now.toNat := by decide +kernel
theorem leNat_zeros (l : Bytes) (h : ∀ b ∈ l, b = 0) : leNat l = 0 := by
  induction l with
  | nil => rfl
  | cons b l ih =>
    have e : b = 0 := h b List.mem_cons_self
    subst e
    unfold leNat
    rw [ih fun b hb => h b (List.mem_cons_of_mem _ hb)]
    rfl
theorem outs_plane (g : Group) (b : Binding) (q : List Command) {va size i : Nat} (h : 4096 ≤ va) (h' : va + size * i + size ≤ 0x200000) :
    planeAt (outs g b q) 0 va size i = 0 := by
  unfold planeAt virtBytes
  refine leNat_zeros _ fun x hx => ?_
  obtain ⟨j, hj, rfl⟩ := List.mem_map.mp hx
  have hj' := List.mem_range.mp hj
  rw [physAt_page0 _ rfl (by omega)]
  refine mapGet_beyond outCells _ fun e he => ?_
  have all : ∀ e ∈ outCells, e.1 < 4096 := by decide
  have := all e he
  omega
theorem outs_bf16 (g : Group) (b : Binding) (q : List Command) (va first n : Nat) (h : 4096 ≤ va) (h' : va + 2 * (first + n) ≤ 0x200000) :
    bf16Plane (outs g b q) 0 va first n = List.replicate n 0 := by
  unfold bf16Plane
  refine List.eq_replicate_iff.mpr ⟨by simp, fun x hx => ?_⟩
  obtain ⟨j, hj, rfl⟩ := List.mem_map.mp hx
  have hj' := List.mem_range.mp hj
  rw [outs_plane g b q h (by omega)]
theorem outs_fp32 (g : Group) (b : Binding) (q : List Command) (va first n : Nat) (h : 4096 ≤ va) (h' : va + 4 * (first + n) ≤ 0x200000) :
    fp32Plane (outs g b q) 0 va first n = List.replicate n 0 := by
  unfold fp32Plane
  refine List.eq_replicate_iff.mpr ⟨by simp, fun x hx => ?_⟩
  obtain ⟨j, hj, rfl⟩ := List.mem_map.mp hx
  have hj' := List.mem_range.mp hj
  rw [outs_plane g b q h (by omega)]
/-- Every difference of planes of zeros is finite. -/
theorem witness_packed : packChunk 1 (bf16Plane (outs siteAlone bound [packCmd]) 0 0x2000 0 16384) (bf16Plane (outs siteAlone bound [packCmd]) 0 0xA000 0 16384)
    (fp32Plane (outs siteAlone bound [packCmd]) 0 0x1A000 0 16384) ≠ none := by
  rw [outs_bf16 _ _ _ _ _ _ (by decide) (by decide), outs_bf16 _ _ _ _ _ _ (by decide) (by decide), outs_fp32 _ _ _ _ _ _ (by decide) (by decide)]
  unfold packChunk
  have w : anyWild (List.zipWith add32 (List.zipWith sub32 (List.replicate 16384 0) (List.replicate 16384 0)) (List.replicate 16384 0)) = false := by
    rw [List.zipWith_replicate', List.zipWith_replicate']
    unfold anyWild
    rw [List.any_replicate]
    have z : f32 (add32 (sub32 0 0) 0) = f32 0 := by decide +kernel
    rw [z]
    rfl
  simp only [w]
  intro h
  cases h

/-! ### Bring-up, resets, power -/

/-- The island right after the auxiliary rail has risen, with the input in range. -/
def dark : State := { up {} with pwr := { main := true }, clusters := [], dies := [], now := 0 }
/-- The module with its converters on and nothing else. -/
def dawn : State := { up {} with pwr := { main := true, converters := true, functions := 3 }, clusters := [(0, { testing := true })], dies := [(0, { railsGood := true })] }

theorem witness_BringUpFollowsItsSteps :
    ({ dark with pwr := { dark.pwr with aux := false } } : State).pwr.aux = false ∧
    (dark.pwr.aux = true ∧ dark.mgmt.powerSetting = 1 ∧ dark.pwr.converters = false) ∧
    (dawn.pwr.converters = true ∧ bit dawn.pwr.functions 21 = false ∧ ∃ b ∈ [21, 1, 7, 20], bit dawn.pwr.functions b = false) ∧
    (dawn.pwr.converters = true ∧ (dawn.die (3 : BitVec 2).toNat).railsGood = false) ∧
    ((0 : BitVec 6).toNat < 40 ∧ dawn.fatal = false ∧ (dawn.cluster (0 : BitVec 6).toNat).testing = true ∧
      (dawn.die ((0 : BitVec 6).toNat / 10)).railsGood = true ∧ bit dawn.pwr.functions 1 = true ∧ (dawn.cluster 0).ready = false ∧
      (32 : BitVec 6).toNat ≤ 32 ∧ 1 ≤ (6 : BitVec 8).toNat ∧ (6 : BitVec 8).toNat ≤ 6) ∧
    (let s : State := { dawn with pwr := { dawn.pwr with bridge := true, pcieRef := true } };
      s.pwr.bridge = true ∧ s.pwr.pcieRef = true ∧ s.pwr.pcieUp = false ∧ bit s.pwr.functions 2 = false) ∧
    (up {}).pwr.pcieUp = true ∧
    (let s : State := { up {} with pwr := { powered with tiersTrained := false } };
      s.pwr.tiersTrained = false ∧ s.pwr.bridge = true ∧ s.fatal = false ∧ s.sec.drbg = 1 ∧ ∀ d, d < 4 → (s.die d).railsGood = true) := by
  decide +kernel

/-- A request of the partition is open in the hamper unit. -/
def hampered : HamJob := { req := [], role := .maker, enc := false, coord := 0, rings := 0, step := 0, time := 0, held := [] }
/-- The module with every converter off. -/
def off (s : State) : State := { s with pwr := { s.pwr with converters := false } }

theorem witness_ResetsKeepWhatTheyMust :
    (Writable (up {}) 1 0x1140 2 ∧ Writable (up {}) 1 0x1140 3 ∧ (up {}).asOperator ((up {}).role 1) = true ∧ (up {}).pwr.converters = true ∧
      (up {}).pwr.main = true) ∧
    (off (up {})).pwr.converters = false ∧ (off (up {})).pwr.main = true ∧ Writable (off (up {})) 1 0x1140 3 ∧
    ((up {}).pwr.pcieUp = true ∧ (∀ p, p < 40 → ((up {}).part p).ham = none)) ∧
    (let s := (up {}).modPart 0 fun x => { x with ham := some hampered };
      s.pwr.converters = true ∧ s.pwr.pcieUp = true ∧ 0 < 40 ∧ (s.part 0).ham = some hampered) ∧
    ((up {}).pwr.aux = true ∧ (up {}).pwr.main = true) ∧
    (let s : State := { up {} with pwr := { powered with tripAt := some 5 } };
      s.pwr.tripAt = some 5 ∧ 5 + 10000000 ≤ s.island ∧ s.pwr.converters = true) := by
  unfold Writable; decide +kernel

/-- The module with sensor n as given. -/
def senses (n : Nat) (x : Sensor) : State := { up {} with pwr := { powered with sensors := [(n, x)] } }

theorem witness_PowerAndClocksChange :
    (let s := senses 0 { temp := 90000, highest := 90000 };
      s.pwr.aux = true ∧ s.fatal = false ∧
      (¬ crosses s 0 94999 (s.warnAt 0) ∧ ¬ crosses s 0 94999 (s.throttleAt 0) ∧ ¬ crosses s 0 94999 (thermalTable 0).2.2) ∧
      (crosses s 0 95000 (s.warnAt 0) ∧ ¬ crosses s 0 95000 (thermalTable 0).2.2) ∧
      (hasThrottle 0 = true ∧ crosses s 0 100000 (s.throttleAt 0) ∧ ¬ crosses s 0 100000 (thermalTable 0).2.2) ∧
      crosses s 0 110000 (thermalTable 0).2.2 ∧ s.pwr.tripAt = none) ∧
    (let s := senses 27 { temp := 62000, throttled := true, belowSince := some 7 };
      (27 : BitVec 5).toNat ≤ 27 ∧ s.pwr.aux = true ∧ (s.sensor 27).throttled = true ∧ (s.sensor 27).belowSince = some 7 ∧
      7 + 100000000 ≤ s.island) ∧
    (let s := senses 27 { temp := 62000, throttled := true, belowSince := some 1000000000000 };
      (s.sensor 27).throttled = true ∧ (s.sensor 27).belowSince = some 1000000000000 ∧ s.island < 1000000000000 + 100000000) ∧
    (Writable (up {}) 1 0x1100 2 ∧ (up {}).asOperator ((up {}).role 1) = true ∧
      400 ≤ (1650 : BitVec 16).toNat ∧ (1650 : BitVec 16).toNat ≤ 1650 ∧ (1650 : BitVec 16).toNat % 25 = 0) ∧
    ((up {}).die 0).railsGood = true := by
  unfold Writable crosses; decide +kernel
theorem witness_powerStates :
    (let s := up {};
      (0 : BitVec 6).toNat < 40 ∧ (s.cluster 0).ready = true ∧ (s.cluster 0).current = 0 ∧ ((clusterTiles 0).all fun t => s.tileQuiet t) = true ∧
      ((clusterAll 0).all fun t => (s.tile t).arr.level == 0) = true) ∧
    (let s : State := { up {} with clusters := [(0, { current := 4, target := 3 })] };
      s.fatal = false ∧ (s.cluster 0).current = 4 ∧ ((clusterAll 0).all fun t => (s.tile t).arr.level == 0) = true ∧ (s.cluster 0).chk.backlog = [] ∧
      (s.cluster 0).target = 3) ∧
    (let s : State := { up {} with clusters := [(0, { current := 5, target := 2 })] };
      s.fatal = false ∧ (s.cluster 0).current = 5 ∧ (s.cluster 0).testing = false ∧ (s.cluster 0).target ≠ 3) ∧
    (let s := picks [(0x1110, 1, 0)] (up {});
      Writable s 1 0x1110 2 ∧ s.mayPower (s.role 1) (s.select 1 0x1110 1 0) = true ∧ (s.cluster (s.select 1 0x1110 1 0)).current ≠ 4 ∧
      (s.cluster (s.select 1 0x1110 1 0)).current ≠ 5 ∧ s.powerBusy (s.select 1 0x1110 1 0) = false) ∧
    (Writable (up {}) 1 0x1110 5 ∧ ∀ c, c < 16 → ((up {}).port c).state = .off) := by
  unfold Writable; decide +kernel

/-! ### Captures, the tag, the management port -/

/-- A capture record: slot 3, identity 7, 128 bytes at window offset 128. -/
def replayRec : BitVec 384 := BitVec.ofNat 384 (leNat ([2, 3, 0, 0] ++ toLE 7 4 ++ toLE 128 8 ++ List.replicate 32 0))

theorem witness_CapturesAreKept :
    ((up {}).asOperator ((up {}).role 1) = true ∧ Writable (up {}) 1 0x1140 5 ∧ Writable (up {}) 1 0x3030 4 ∧ (up {}).trace.frozen = false) ∧
    ({ up {} with trace := { frozen := true } } : State).trace.frozen = true ∧
    (let s := picks [(0x3210, 1, 0)] ((up {}).modPart 0 fun x => { x with lastCkid := 7, winBase := 0x1000, winLen := 0x1000 });
     let b := toLE replayRec.toNat 48;
      Writable s 1 0x3210 2 ∧ s.select 1 0x3210 1 0 = 0 ∧ s.asOwner (s.role 1) 0 = true ∧ fieldAt b 1 1 ≤ 3 ∧ fieldAt b 2 2 = 0 ∧
      fieldAt b 4 4 = (s.part 0).lastCkid.toNat ∧ fieldAt b 8 8 % 128 = 0 ∧ (s.part 0).winLen ≠ 0 ∧ s.inWindow 0 (fieldAt b 8 8) 128 = true ∧
      (s.part 0).ham = none) := by
  unfold Writable; decide +kernel

/-- The tag in an RF field, its lock with the given holder. -/
def tagged (h : Option TagHolder) (mode : TagMode) : State := { up {} with tag := { rfField := true, holder := h, mode := mode } }

theorem witness_TagAnswers :
    (Heard (tagged none .ready) 0 0 ∧ Heard (tagged none .selected) 0x10 0 ∧ ¬ Heard (tagged none .quiet) 0 0) ∧
    ((0x700 : BitVec 16).toNat < 0x800 ∧ 0x700 ≤ (0x700 : BitVec 16).toNat ∧ (tagged none .ready).tag.holder = none) ∧
    (tagged (some .controller) .ready).tag.holder ≠ none ∧
    ((tagged none .ready).tag.rfField = true ∧ bit (4 : BitVec 8) 2 = true ∧ (tagged none .ready).tag.mode ≠ .quiet ∧
      (∀ i, i < (0 : BitVec 8).toNat → (0 : BitVec 64).getLsbD i = Config.tagUid.getLsbD i)) ∧
    (bit (0x20 : BitVec 8) 5 = true ∧ ~~~ Config.tagUid ≠ Config.tagUid ∧ (tagged none .selected).tag.mode = .selected) ∧
    secondSince (tagged none .ready) (tagged none .ready).tag.writeAt ∧ secondSince (tagged none .ready) (tagged none .ready).tag.refuseAt := by
  refine ⟨?_, by decide +kernel, by decide +kernel, ⟨rfl, by decide, by decide +kernel, fun i h => absurd h (Nat.not_lt_zero i)⟩,
    ⟨by decide, fun h => ?_, rfl⟩, fun t h => ?_, fun t h => ?_⟩
  · refine ⟨?_, ?_, ?_⟩ <;> simp [Heard, tagged, bit]
  · have := congrArg (fun v => v.getLsbD 0) h
    simp at this
  · simp [tagged] at h
  · simp [tagged] at h
theorem witness_tagLock :
    (Writable (tagged none .ready) 1 0x3300 3 ∧ (tagged none .ready).tag.holder = none) ∧
    ((tagged (some .publishing) .ready).tag.holder = some .publishing ∧ (tagged (some .publishing) .ready).tag.waiting = none ∧
      (tagged (some .publishing) .ready).pwr.aux = true) ∧
    ((tagged (some (.session 2)) .ready).tag.holder = some (.session 2) ∧ (2 : Ses) ≠ 1) ∧
    (let s := picks [(0x3300, 1, 0xC00)] (tagged (some (.session 1)) .ready);
      Writable s 1 0x3300 2 ∧ s.tag.holder = some (.session 1) ∧ s.role 1 = .maker ∧ s.makerOpen = true) ∧
    (let s := tagged (some (.session 1)) .ready;
      s.tag.holder = some (.session 1) ∧ s.pwr.aux = true ∧ s.tag.lastWrite + 1000000000 ≤ s.island) ∧
    (let s : State := { up {} with tag := { holder := some (.session 1), lastWrite := 1000000000000 } };
      s.tag.holder = some (.session 1) ∧ s.island < s.tag.lastWrite + 1000000000) ∧
    ((up {}).pwr.aux = true ∧ (up {}).tag.holder = none ∧ (up {}).tag.statusAt = none) := by
  unfold Writable; decide +kernel

/-- A record that waits to be sent. -/
def note : EventRec := { seqno := 1, code := 0x1F01, path := 0, time := 0, part := 0xFE, flags := 0, ctx := 0, stag := 0, detail := 0 }

theorem witness_ManagementPortRuns :
    ((up {}).pwr.aux = true ∧ (up {}).fatal = false ∧ (up {}).pwr.pcieUp = true ∧ (up {}).mgmt.mbxBusy = false ∧
      (3 : BitVec 11).toNat ≤ ([1, 2, 3, 4] : Bytes).length ∧ (3 : BitVec 11).toNat ≤ 1536) ∧
    (let s : State := { up {} with mgmt := { link := 2, notifyQ := [note] } };
      s.mgmt.link = 2 ∧ s.mgmt.beaconAt + 100000000 ≤ s.island ∧ s.mgmt.link ≠ 0 ∧ s.mgmt.notifyQ = note :: [] ∧
      s.mgmt.notifyDst.toNat % 2 ^ 48 ≠ 0) ∧
    (let s : State := { up {} with mgmt := { link := 1, notifyDst := 0, notifyQ := [note] } };
      s.mgmt.link ≠ 2 ∧ s.mgmt.link ≠ 0 ∧ s.mgmt.notifyDst.toNat % 2 ^ 48 = 0) ∧
    ({ up {} with mgmt := { mbxBusy := true } } : State).mgmt.mbxBusy = true ∧
    (up {}).pathOpen .mirror = true ∧
    (mapGet none (up {}).mgmt.sessions (1 : Ses).toNat = some maker ∧ maker.lastAt + 60000000000 ≤ (up {}).island) ∧
    (let s : State := { up {} with island := 5 };
      mapGet none s.mgmt.sessions (1 : Ses).toNat = some maker ∧ s.island < maker.lastAt + 60000000000) := by
  decide +kernel

/-! ### Requests, credentials, debug -/

theorem cmacFold_length (rk : List Bytes) (h : roundKeysOk rk) :
    ∀ (l : List Bytes) (x : Bytes), l ≠ [] → (l.foldl (fun x b => aesBlock rk (xorBytes x b)) x).length = 16
  | [], _, h => absurd rfl h
  | [b], x, _ => aesBlock_length _ _ h
  | b :: b' :: l, x, _ => cmacFold_length rk h (b' :: l) _ (by simp)
theorem cmacBlocks_ne (k1 k2 : Bytes) : ∀ l, cmacBlocks k1 k2 l ≠ []
  | [] => by simp [cmacBlocks]
  | [b] => by unfold cmacBlocks; split <;> simp
  | b :: b' :: l => by simp [cmacBlocks]
theorem cmac_zero_length (msg : Bytes) : (cmac (zeros 32) msg).length = 16 :=
  cmacFold_length (roundKeys (zeros 32)) (by unfold roundKeysOk; decide +kernel) _ _ (cmacBlocks_ne _ _ _)
theorem bytes8 (m : Bytes) (h : m.length = 8) : ∃ a b c d e f g i, m = [a, b, c, d, e, f, g, i] := by
  obtain ⟨a, b, c, d, t, rfl, h1⟩ := bytes_four 4 m h
  obtain ⟨e, f, g, i, t, rfl, h2⟩ := bytes_four 0 t h1
  obtain rfl := List.eq_nil_of_length_eq_zero h2
  exact ⟨a, b, c, d, e, f, g, i, rfl⟩

/-- The heads of a GET and a CLOSE of session 1 with SEQ 7; a SET of no session; an OPEN by the operator, but for its proof. -/
def getHead : Bytes := [1, 1, 1, 0, 7, 0, 0, 0, 1, 0x10, 0, 0, 0, 0, 0, 0]
def closeHead : Bytes := [1, 4, 1, 0, 7, 0, 0, 0, 0, 0, 0, 0, 0, 0, 0, 0]
def setFrame : Bytes := [1, 2, 0, 0, 0, 0, 0, 0, 4, 0x10, 0, 0, 0, 0, 0, 0]
def openHead : Bytes := [1, 3, 0, 0, 0, 0, 0, 0, 0, 0, 0, 0, 0, 0, 36, 0, 1, 0xFF, 0, 0, 0, 0, 0, 0, 0, 0, 0, 0, 0, 0, 0, 0, 0, 0, 0, 0]
def getFrame : Bytes := getHead ++ frameMac 0 getHead
def closeFrame : Bytes := closeHead ++ frameMac 0 closeHead
def getAsked : Frame := { type := 1, ses := 1, seq := 7, idx := 0x1001, sub := 0, data := [], body := getHead, mac := frameMac 0 getHead }
def closeAsked : Frame := { type := 4, ses := 1, seq := 7, idx := 0, sub := 0, data := [], body := closeHead, mac := frameMac 0 closeHead }
def setAsked : Frame := { type := 2, ses := 0, seq := 0, idx := 0x1004, sub := 0, data := [], body := setFrame, mac := [] }
def me : Source := .port 0

theorem frameMac_bytes (b : Bytes) : ∃ a c d e f g h i, frameMac 0 b = [a, c, d, e, f, g, h, i] :=
  bytes8 _ (by
    have : toBE (0 : BitVec 256).toNat 32 = zeros 32 := by decide
    unfold frameMac
    rw [this, List.length_take, cmac_zero_length]
    rfl)
theorem get_parsed : parseFrame getFrame = some getAsked := by
  obtain ⟨a, c, d, e, f, g, h, i, hm⟩ := frameMac_bytes getHead
  unfold getFrame getAsked
  rw [hm]
  simp [parseFrame, getHead, fieldAt, slice, fit, leNat, zeros]
theorem close_parsed : parseFrame closeFrame = some closeAsked := by
  obtain ⟨a, c, d, e, f, g, h, i, hm⟩ := frameMac_bytes closeHead
  unfold closeFrame closeAsked
  rw [hm]
  simp [parseFrame, closeHead, fieldAt, slice, fit, leNat, zeros]
theorem set_parsed : parseFrame setFrame = some setAsked := by decide +kernel
/-- The operator's credential is 0, the life cycle is Provisioned, and a challenge waits for the caller on the port. -/
def provisioned : State := { up {} with sec := { noise := 2, drbg := 1, lc := 2 }, mgmt := { sessions := [(1, some maker)], operatorCred := some 0, challenges := [(srcKey me, 0, 1000000000000)] } }

/-- An OPEN by the operator with its proof. -/
def openProof : Bytes := cmac (zeros 32) ([0] ++ toBE Config.serial.toNat 16 ++ toBE 0 16 ++ [1, 0xFF] ++ zeros 16)
def openAsked : Frame :=
  { type := 3, ses := 0, seq := 0, idx := 0, sub := 0, data := openHead.drop 16 ++ openProof, body := openHead ++ openProof, mac := [] }
theorem open_parsed : parseFrame (openHead ++ openProof) = some openAsked := by
  have h : openProof.length = 16 := cmac_zero_length _
  have e : (openHead ++ openProof).take 52 = openHead ++ openProof := List.take_of_length_le (by simp [openHead, h])
  have d : ((openHead ++ openProof).drop 16).take 36 = openHead.drop 16 ++ openProof := by
    rw [List.drop_append_of_le_length (by decide)]
    exact List.take_of_length_le (by simp [openHead, h])
  simp [openAsked, openHead, h, parseFrame, fieldAt, slice, fit, leNat, zeros] at e d ⊢
theorem open_fits : OpenFits provisioned me openAsked .operator 0 0 2 := by
  have h : openProof.length = 16 := cmac_zero_length _
  refine ⟨by simp [openAsked, openHead, h], by simp [openAsked, openHead, fieldAt, slice, fit, leNat, zeros],
    .inl ⟨by simp [openAsked, openHead, fieldAt, slice, fit, leNat, zeros], by simp [openAsked, openHead, fieldAt, slice, fit, leNat, zeros], rfl, rfl⟩,
    .inr (by decide +kernel), by decide +kernel, ?_, by decide, by decide, by decide +kernel, ?_⟩
  · have d : openAsked.data.drop 20 = openProof := by simp [openAsked, openHead]
    have e : toBE (0 : BitVec 256).toNat 32 = zeros 32 := by decide
    have t : slice openAsked.data 20 16 = openProof := by
      unfold slice fit
      rw [d, List.take_of_length_le (Nat.le_of_eq h), h]
      exact List.append_nil _
    have a : slice openAsked.data 0 2 = [1, 0xFF] := by simp [openAsked, openHead, slice, fit, zeros]
    have b : slice openAsked.data 4 16 = zeros 16 := by simp [openAsked, openHead, slice, fit, zeros]
    rw [a, b, e, t]
    rfl
  · intro m h1 h2
    obtain rfl : m = 1 := by omega
    decide +kernel
theorem port_only {p : Prop} (h : me = .mirror) : p := by simp [me] at h
theorem witness_RequestsAreAnswered :
    (Asks (up {}) me getFrame getAsked 1 ∧ ¬ (getAsked.idx = 0x1010 ∧ getAsked.sub = 1) ∧ ¬ (getAsked.idx = 0x3140 ∧ getAsked.sub = 1) ∧
      InSession (up {}) me getAsked maker) ∧
    (Asks (up {}) me setFrame setAsked 2 ∧ setAsked.ses = 0 ∧
      ((counted (up {}) me).writeObject 0 setAsked.idx setAsked.sub setAsked.data).1.pathOpen me = true) ∧
    (Asks provisioned me (openHead ++ openProof) openAsked 3 ∧ OpenFits provisioned me openAsked .operator 0 0 2) ∧
    (Asks (up {}) me closeFrame closeAsked 4 ∧ InSession (up {}) me closeAsked maker) ∧
    parseFrame [1, 5] = none ∧
    (let x : Session := { maker with lastSeq := some 7, lastReq := getHead };
     let s : State := { up {} with mgmt := { sessions := [(1, some x)] } };
     Asks s me getFrame getAsked 1 ∧ getAsked.ses ≠ 0 ∧ mapGet none s.mgmt.sessions getAsked.ses = some x ∧
       (x.mirror = true ↔ me = .mirror) ∧ x.lastSeq = some 7 ∧ getAsked.seq ≤ (7 : Word).toNat ∧ frameMac x.key getAsked.body = getAsked.mac ∧
       getAsked.body = x.lastReq) :=
  ⟨⟨⟨rfl, rfl, port_only, get_parsed, rfl⟩, by decide, by decide, by decide, by decide +kernel, by decide, by simp only [getAsked, maker], fun n h => by simp [maker] at h⟩,
    ⟨⟨rfl, rfl, port_only, set_parsed, rfl⟩, rfl, by decide +kernel⟩, ⟨⟨rfl, rfl, port_only, open_parsed, rfl⟩, open_fits⟩,
    ⟨⟨rfl, rfl, port_only, close_parsed, rfl⟩, by decide, by decide +kernel, by decide, by simp only [closeAsked, maker], fun n h => by simp [maker] at h⟩, by decide +kernel,
    ⟨rfl, rfl, port_only, get_parsed, rfl⟩, by decide, by decide +kernel, by decide, rfl, by decide, by simp only [getAsked, maker], rfl⟩
theorem witness_requestsQueued :
    (let s : State := { up {} with mgmt := { handling := true } };
     s.pathOpen me = true ∧ parseFrame setFrame = some setAsked ∧ setAsked.type = 2 ∧ s.mgmt.handling = true ∧
       s.mgmt.frameQ.length < 32) ∧
    (let s : State := { up {} with mgmt := { handling := true, frameQ := List.replicate 32 (me, setFrame) } };
     s.mgmt.handling = true ∧ 32 ≤ s.mgmt.frameQ.length) := by
  decide +kernel
theorem witness_settingsTaken :
    (Writable (up {}) 1 0x2110 1 ∧ objectLength 0x2110 1 = some 2 ∧ selectTest 0x2110 1 0x10 = some true) ∧
    (Writable (up {}) 1 0x2201 1 ∧ selectTest 0x2201 1 4079 = some true ∧ objectLength 0x2201 1 = some 2) ∧
    (up {}).asOperator ((up {}).role 1) = true ∧ Writable (up {}) 1 0x1020 2 ∧ Writable (up {}) 1 0x1020 3 ∧ Writable (up {}) 1 0x1020 4 ∧
    Writable (up {}) 1 0x1100 6 ∧ Writable (up {}) 1 0x2250 4 ∧ Writable (up {}) 1 0x3000 1 ∧
    (let s := picks [(0x2700, 1, 0)] (up {}); Writable s 1 0x2700 2 ∧ s.asOwner (s.role 1) 0 = true ∧ s.trainBusy 0 = false) ∧
    ((up {}).pwr.aux = true ∧ (up {}).unserved 0x5000 = false ∧ objectLength 0x5000 0 = none) ∧
    (objectLength 0x1020 4 ≠ some ([1, 2] : Bytes).length ∧ (up {}).unserved 0x1020 = false) ∧
    (let s : State := { up {} with sec := { lc := 6 } };
      s.lifeCycle = 6 ∧ s.mayWrite (s.role 0) 0x1010 2 = false) := by
  unfold Writable; decide +kernel

/-- Provisioned, with session 1 the operator's. -/
def operated : State := { up {} with sec := { noise := 2, drbg := 1, lc := 2 }, mgmt := { sessions := [(1, some { role := .operator, key := 0, mirror := false })] } }
/-- Partition 0 has its root key. -/
def rooted : State := { operated with sec := { noise := 2, drbg := 1, lc := 2, keys := [(rootKeyId 0, some ⟨0, 0, 0⟩)] } }
/-- A credential request for the operator, or for the owner of partition 0; the wrapped bytes are 0. -/
def credRec (role : Nat) : BitVec 384 := BitVec.ofNat 384 (role * 256)
def inLife (lc : BitVec 8) : State := { up {} with sec := { noise := 2, drbg := 1, lc := lc } }

theorem witness_CredentialsAndDebugAreGated :
    (Writable operated 1 0x3140 3 ∧ slice (toLE (credRec 1).toNat 48) 3 5 = List.replicate 5 0 ∧ fieldAt (toLE (credRec 1).toNat 48) 1 1 = 1 ∧
      2 ≤ operated.lifeCycle ∧ operated.lifeCycle ≤ 4 ∧ operated.mgmt.operatorCred = none ∧ operated.asOperator (operated.role 1) = true ∧
      slice (toLE (credRec 1).toNat 48) 8 40 = List.replicate 40 0) ∧
    (Writable rooted 1 0x3140 3 ∧ slice (toLE (credRec 2).toNat 48) 3 5 = List.replicate 5 0 ∧ fieldAt (toLE (credRec 2).toNat 48) 1 1 = 2 ∧
      fieldAt (toLE (credRec 2).toNat 48) 2 1 = 0 ∧ rooted.formed 0 = true ∧ rooted.asOperator (rooted.role 1) = true ∧
      (rooted.key (rootKeyId 0)).map Key.bytes = some (toBE (0 : BitVec 256).toNat 32)) ∧
    ((up {}).lifeCycle = 1 ∧ DebugOpen (up {}) t0 ∧ (0x1FFFFF : BitVec 21).toNat + 1 ≤ 0x200000) ∧
    ((inLife 2).lifeCycle = 2 ∧ DebugOpen (inLife 2) (pathOf 1 0) ∧ validPath t0 = true ∧ (inLife 2).partOf t0 = some 0) ∧
    ((slabOf (0 : BitVec 44).toNat).isSome = true ∧ (slabOf ((0 : BitVec 44).toNat + (4 - 1))).isSome = true) ∧
    (inLife 3).lifeCycle = 3 ∧ (inLife 6).lifeCycle = 6 := by
  unfold Writable DebugOpen; decide +kernel

/-! ### Ports -/

/-- The module with one port as given. -/
def wired (c : Nat) (x : Port) : State := { up {} with ports := [(c, x)] }
/-- The same, its cipher engine freshly seeded. -/
def fresh (c : Nat) (x : Port) : State := { wired c x with sec := { noise := 2, drbg := 1, maskAt := [(1, 1000000000000)] } }
/-- A frame with its CRC. -/
def withCrc (bs : Bytes) : Bytes := bs ++ toLE (crc32c bs).toNat 4
/-- A data frame of one payload unit of zeros to module 0; a control frame of W0 and W1. -/
def dataOf (fseq : Nat) : Bytes := withCrc (toLE fseq 4 ++ toLE 1 4 ++ zeros 116)
def ctlOf (w0 w1 : Nat) : Bytes := withCrc (toLE w0 4 ++ toLE w1 4 ++ zeros 52)
def sentF : SentFrame := { fseq := 0, vc := 0, ks := false, flits := 2, bytes := zeros 128, sentAt := 0 }
/-- A message of partition 0 that waits on VC 0. -/
def waitsHere : OutMsg :=
  { vc := 0, part := some 0, ctx := 0, msg := { gid := 5, seq := 0, mt := 0, slot := 0, srank := 0, offset := 0, dest := 1, gtag := 0, payload := zeros 64 } }
/-- Partition 0 of its given form, with a message that waits on port 0. -/
def sends (x : Part) : State := { wired 0 { state := .up, txQ := [waitsHere] } with parts := [(0, x)] }
def plain : Part := { clusters := 1, state := 1 }

theorem witness_FramesAndCreditsFlow :
    ((wired 12 { state := .up }).fatal = false ∧ ((wired 12 { state := .up }).port 12).state = .up ∧ (wired 12 { state := .up }).maskFresh 12 = false) ∧
    ((wired 0 { state := .up }).maskFresh 0 = true ∧ ([] : Bytes).length ≤ 64 ∧ dataOk 0 (zeros 65) = false ∧ 64 < (zeros 65).length) ∧
    (64 < (dataOf 0).length ∧ dataOk 0 (dataOf 0) = true ∧ frameRpn (dataOf 0) ≠ (3 : BitVec 4).toNat) ∧
    (((wired 0 { state := .up }).port 0).await = false ∧ Machine.ahead (dataOf 0) ((wired 0 { state := .up }).port 0) = 1) ∧
    (dataOk 0 (dataOf 0xFFFFFF) = true ∧ Machine.ahead (dataOf 0xFFFFFF) ((wired 0 { state := .up }).port 0) ≤ 0) ∧
    (dataOk 0 (dataOf 5) = true ∧ 1 < Machine.ahead (dataOf 5) ((wired 0 { state := .up }).port 0)) ∧
    ((wired 0 { state := .up }).openFrame 0 (dataOf 0) = some (zeros 64) ∧
      (parseMsg (slice (dataOf 0) 16 16) (zeros 64)).dest.toNat = (wired 0 { state := .up }).sh.coords.toNat % 2 ^ 17 ∧
      (parseMsg (slice (dataOf 0) 16 16) (zeros 64)).mt = 0) ∧
    ((fresh 12 { state := .up }).maskFresh 12 = true ∧ dataOk 12 (dataOf 0) = true ∧ (fresh 12 { state := .up }).openFrame 12 (dataOf 0) = none ∧
      ((fresh 12 { state := .up }).port 12).tagFails < 3 ∧ 3 ≤ ((fresh 12 { state := .up, tagFails := 3 }).port 12).tagFails) := by
  decide +kernel
theorem witness_framesSent :
    (NoneSending (wired 0 { state := .up, again := [sentF] }) ∧ ((wired 0 { state := .up, again := [sentF] }).port 0).again = sentF :: [] ∧
      (wired 0 { state := .up, again := [sentF] }).slotOpen 0 sentF.vc = true) ∧
    (let s : State := { wired 0 { state := .up, again := [sentF] } with parts := [(0, { plain with sealedMode := true, vc := 2 })] };
      (s.port 0).again = sentF :: [] ∧ s.slotOpen 0 sentF.vc = false) ∧
    (((sends plain).port 0).again = [] ∧ ((sends plain).port 0).closing = none ∧ (sends plain).canEncrypt 0 = true ∧
      ((sends plain).nextMsg 0).map (·.msg) = some (some waitsHere) ∧
      (sends plain).debitFor 0 waitsHere.vc (frameFlits waitsHere.msg.payload.length) = some false) ∧
    (let s : State := { sends { plain with repro := true } with sh := { slots := [(0, some { slotOf5 barrierCmd with seq := 9 })] } };
      s.canEncrypt 0 = true ∧ (s.nextMsg 0).map (·.msg) = some none) ∧
    (wired 0 { state := .up }).nextMsg 0 = none ∧ (wired 0 { state := .up }).controlOpen 0 = true := by
  refine ⟨⟨fun b h => ?_, by decide +kernel⟩, by decide +kernel⟩
  simp [wired, up, State.reset] at h
theorem witness_creditComes :
    CtlArrives (wired 0 { state := .up }) 0 9 (ctlOf 0x90000000 0) ∧
    BitVec.ofNat 4 (fieldAt (ctlOf 0x90000000 0) 3 1) = ((wired 0 { state := .up }).port 0).lastNakn ∧
    CtlArrives (wired 0 { state := .up }) 0 9 (ctlOf 0x91000000 0) ∧
    BitVec.ofNat 4 (fieldAt (ctlOf 0x91000000 0) 3 1) ≠ ((wired 0 { state := .up }).port 0).lastNakn ∧
    ((wired 0 { state := .up }).port 0).replays < 15 := by
  unfold CtlArrives; decide +kernel

/-- A port that training, with its lanes locked. -/
def training : Port := { state := .training, lanes := 0xFFFF, trainAt := 1000000000000 }
def sampledPort (d : Nat) : Port := { training with sampled := 4, delays := [d, d, d, d], seen := true, seenRx := true, seenTx := true }

theorem witness_PortsTrainAndFail :
    ((up {}).fatal = false ∧ ((up {}).port 0).enable = true ∧ bit (up {}).pwr.functions (12 + portEngine 0) = true ∧ ((up {}).port 0).state = .off ∧
      siteMode 0 = false) ∧
    (siteMode 12 = true ∧ ((up {}).port 12).state = .off ∧ (up {}).linkKeys 12 = false ∧
      ({ up {} with sec := { keys := [(linkKeyId 12 0 0, some ⟨0, 0, 0⟩), (linkKeyId 12 1 0, some ⟨0, 0, 0⟩)] } } : State).linkKeys 12 = true) ∧
    (((wired 0 training).port 0).state = .training ∧ (wired 0 training).island ≤ ((wired 0 training).port 0).trainAt + 500000000 ∧
      ((wired 0 training).port 0).lanes = 0xFFFF ∧ (wired 0 training).maskFresh 0 = true ∧ ((wired 0 training).port 0).sampled < 4 ∧
      (wired 0 training).controlOpen 0 = true) ∧
    ((wired 0 { training with trainAt := 0 }).port 0).trainAt + 500000000 < (wired 0 { training with trainAt := 0 }).island ∧
    (CtlArrives (wired 0 { state := .up }) 0 8 (ctlOf 0x84000002 1) ∧ fieldAt (ctlOf 0x84000002 1) 0 4 / 2 ^ 26 % 2 = 1) ∧
    (CtlArrives (wired 0 { state := .up }) 0 8 (ctlOf 0x80000002 1) ∧ CtlArrives (wired 0 training) 0 8 (ctlOf 0x80000002 1) ∧
      fieldAt (ctlOf 0x80000002 1) 0 4 / 2 ^ 26 % 2 = 0 ∧ fieldAt (ctlOf 0x80000002 1) 0 4 % 16 = 0 / 4 * 4 + (0 % 4 + 2) % 4 ∧
      fieldAt (ctlOf 0x80000002 1) 0 4 / 16 % 2 = 0 ∧ fieldAt (ctlOf 0x80000002 1) 4 2 = 1) ∧
    (CtlArrives (wired 0 training) 0 8 (ctlOf 0x80000001 1) ∧ fieldAt (ctlOf 0x80000001 1) 0 4 % 16 ≠ 2) ∧
    (CtlArrives (wired 0 (sampledPort 520)) 0 8 (ctlOf 0x80000002 1) ∧ 4 ≤ (sampledPort 520).sampled ∧
      ((sampledPort 520).delays.take 4).sum ≤ 520 * 32 * 4 ∧ ¬ ((sampledPort 16641).delays.take 4).sum ≤ 520 * 32 * 4) ∧
    ((fresh 12 training).maskFresh 12 = true ∧ ctlOk 12 (ctlOf 0x80000002 1) = true ∧ (fresh 12 training).ctagOk 12 (ctlOf 0x80000002 1) = false ∧
      fieldAt (ctlOf 0x80000002 1) 0 4 / 2 ^ 28 = 8) ∧
    (CtlArrives (wired 0 { state := .up }) 0 10 (ctlOf 0xA0000000 0) ∧ ({ wired 0 { state := .up } with time := { stepped := true } } : State).time.stepped = true) := by
  refine ⟨?_, ?_, ?_, ?_, ?_, ?_, ?_, ?_, ?_, ?_⟩ <;> (try unfold CtlArrives) <;> decide +kernel
theorem witness_portsFail :
    (((wired 0 { state := .up, buffer := [sentF] }).port 0).state = .up ∧ sentF ∈ ((wired 0 { state := .up, buffer := [sentF] }).port 0).buffer ∧
      sentF.sentAt + deadlineOf 0 < (wired 0 { state := .up, buffer := [sentF] }).island) ∧
    (((wired 12 { state := .up }).port 12).buffer = [] ∧ ((wired 12 { state := .up }).port 12).lastCtl + deadlineOf 12 < (wired 12 { state := .up }).island) ∧
    (wired 0 { state := .up, lastCtl := 1000000000000 }).island ≤ ((wired 0 { state := .up, lastCtl := 1000000000000 }).port 0).lastCtl + deadlineOf 0 ∧
    (((wired 0 { state := .up, closing := some 7 }).port 0).closing = some 7 ∧ ((wired 0 { state := .up, closing := some 7 }).port 0).buffer = []) ∧
    (let s := picks [(0x2400, 1, 0)] (wired 0 { state := .up });
      Writable s 1 0x2400 2 ∧ s.asOperator (s.role 1) = true ∧ s.select 1 0x2400 1 0 < 16 ∧ (s.port (s.select 1 0x2400 1 0)).state = .up ∧
      s.slotsUsing (s.select 1 0x2400 1 0) = [] ∧ (s.port (s.select 1 0x2400 1 0)).txQ = []) ∧
    ((up {}).port 0).state = .off ∧ ((wired 0 training).port 0).state ≠ .up ∧ ((wired 0 training).port 0).state ≠ .off := by
  unfold Writable; decide +kernel

/-! ### Groups, plans, launches, the counter, checkers -/

/-- A record of 32 bytes. -/
def rec32 (b : Bytes) : BitVec 256 := BitVec.ofNat 256 (leNat b)
/-- REGISTER of group 5 of context 0 on axis 0, extents 2, 1, 1, 1; BIND of group 5 with a span list at 0x3000 and exchange room at 0x30000. -/
def groupRec : Bytes := [1, 1, 5, 0, 0, 0, 0x11, 0, 0, 0, 0, 0] ++ toLE 0x20212 4 ++ zeros 16
def bindRec : Bytes := [1, 0, 5, 0] ++ toLE 4096 4 ++ toLE 0x30000 8 ++ toLE 0 8 ++ [1, 0, 0, 0, 0, 0, 0, 0]
/-- The site ring is two modules long on axis 0, or on axis 3. -/
def ringed (gs : List Group) (bs : List Binding) : State := { up {} with sh := { groups := gs, rings := 0x20212 }, bindings := bs }
def sealedSlot (idx : Nat) (s : State) : State := s.modPart 0 fun x => x.hold idx

theorem witness_GroupsAndOutingsAreBound :
    (MayGroup (ringed [] []) 1 (toLE (rec32 groupRec).toNat 32) 0 ∧
      ((ringed [] []).part 0).gidBase.toNat ≤ fieldAt groupRec 2 2 ∧ fieldAt groupRec 2 2 < 0 + ((ringed [] []).part 0).gidCount.toNat ∧
      0 < ((ringed [] []).part 0).groupQuota.toNat ∧ (ringed [] []).sh.groups = [] ∧ fieldAt groupRec 1 1 ≠ 0 ∧
      (∀ x, x < 4 → 1 ≤ extent (ringed [] []).sh.rings.toNat x ∧
         (fieldAt groupRec 1 1 / 2 ^ x % 2 = 1 → 1 ≤ extent (fieldAt groupRec 0xC 4) x ∧
           extent (fieldAt groupRec 0xC 4) x ≤ extent (ringed [] []).sh.rings.toNat x) ∧
         (fieldAt groupRec 1 1 / 2 ^ x % 2 = 0 → extent (fieldAt groupRec 0xC 4) x = 1) ∧
         offsetOn (ringed [] []) (fieldAt groupRec 8 4) x < extent (fieldAt groupRec 0xC 4) x) ∧
      (ringed [] []).slotBusy 0 0x2510 = false ∧ (sealedSlot 0x2510 (ringed [] [])).slotBusy 0 0x2510 = true) ∧
    (MayGroup (ringed [pair] []) 1 (toLE (rec32 groupRec).toNat 32) 0 ∧ pair ∈ (ringed [pair] []).sh.groups ∧ pair.gid.toNat = 5 ∧ pair.part.toNat = 0 ∧
      (ringed [pair] []).sh.slots = []) ∧
    (MayBind (ringed [sitePair] []) 1 (toLE (rec32 bindRec).toNat 32) sitePair ∧ sitePair.axes = 8 ∧ 2 ≤ extent sitePair.extent.toNat 3 ∧
      0 < ((ringed [sitePair] []).part 0).bindQuota.toNat ∧ (ringed [sitePair] []).binding 5 = none ∧ fieldAt bindRec 4 4 ≠ 0 ∧
      fieldAt bindRec 4 4 % 4096 = 0 ∧ fieldAt bindRec 8 8 % 4096 = 0 ∧ fieldAt bindRec 0x10 8 % 128 = 0 ∧ fieldAt bindRec 0x18 2 ≠ 0 ∧
      (ringed [sitePair] []).slotBusy 0 0x2610 = false ∧ (sealedSlot 0x2610 (ringed [sitePair] [])).slotBusy 0 0x2610 = true) ∧
    (MayBind (ringed [sitePair] [bound]) 1 (toLE (rec32 bindRec).toNat 32) sitePair ∧ (ringed [sitePair] [bound]).binding 5 ≠ none ∧
      (ringed [sitePair] [bound]).outingBusy 5 = false) := by
  refine ⟨?_, ?_, ?_, ?_⟩ <;> (try unfold MayGroup) <;> (try unfold MayBind) <;> unfold Writable zeroBytes <;> decide +kernel

/-- ADMIT or WITHDRAW of plan 7, which needs g pages of 1 GiB and one of 2 MiB of tier 1. -/
def planRec (op : Byte) (g : Nat) : Bytes := [op, 0, 7, 0] ++ toLE g 4 ++ toLE 1 4 ++ zeros 20
def planned (l : Bool) : State := picks [(0x2010, 1, 0)] ((up {}).modPart 0 fun x => { x with plan := if l then 7 else 0xFFFF })

theorem witness_PlansAreAdmitted :
    (Writable (planned false) 1 0x2010 2 ∧ (planned false).select 1 0x2010 1 0 = 0 ∧ (planned false).asOwner ((planned false).role 1) 0 = true ∧
      fieldAt (planRec 1 0) 1 1 = 0 ∧ zeroBytes (planRec 1 0) 0x17 9 ∧ fieldAt (planRec 1 0) 2 2 ≠ 0xFFFF ∧ toLE (rec32 (planRec 1 0)).toNat 32 = planRec 1 0) ∧
    ((planned false).slotBusy 0 0x2010 = false ∧ ((planned false).part 0).plan = 0xFFFF ∧
      ((planned false).groupsOf 0).length + fieldAt (planRec 1 0) 0x14 2 ≤ ((planned false).part 0).groupQuota.toNat ∧
      fieldAt (planRec 1 0) 0x16 1 ≤ (planned false).freeSlots 0) ∧
    ((planned true).slotBusy 0 0x2010 = false ∧ fieldAt (planRec 2 0) 2 2 = ((planned true).part 0).plan.toNat) ∧
    ((sealedSlot 0x2010 (planned false)).slotBusy 0 0x2010 = true ∧ (sealedSlot 0x2010 (planned true)).slotBusy 0 0x2010 = true) := by
  unfold Writable zeroBytes; decide +kernel
theorem witness_framesSuffice : framesSuffice 0 1 ((planned false).freeFrames 0 1).1 ((planned false).freeFrames 0 1).2 ∧
    framesSuffice 0 0 ((planned false).freeFrames 0 2).1 ((planned false).freeFrames 0 2).2 ∧
    (let fr := (planned false).freeFrames 0 1; (3 - min 3 fr.1) * 2 ^ 30 + (1 - (fr.2 - 512 * min 3 fr.1)) * 2 ^ 21 ≠ 0) := by
  unfold framesSuffice; decide +kernel

/-- ARM of partition 0's launch at a count, or CANCEL: context 0, tile 0's window. -/
def launchRec (op : Byte) (count : Nat) : Bytes := [op, 0, 0, 0] ++ toLE (tileWin t0).toNat 4 ++ zeros 8 ++ toLE count 8 ++ zeros 8
def launches (x : Part) : State := { picks [(0x2920, 1, 0)] (up {}) with parts := [(0, x)], time := { dstate := 2 } }

theorem witness_LaunchesFire :
    (∀ b ∈ [launchRec 1 10005, launchRec 1 10004, launchRec 2 0], toLE (rec32 b).toNat 32 = b ∧ fieldAt b 1 1 = 0 ∧ fieldAt b 2 2 = 0 ∧
      slice b 0x18 8 = List.replicate 8 0 ∧ fieldAt b 4 4 = (tileWin t0).toNat ∧ fieldAt b 8 8 = 0) ∧
    (Writable (launches plain) 1 0x2920 2 ∧ (launches plain).select 1 0x2920 1 0 = 0 ∧ (launches plain).asOwner ((launches plain).role 1) 0 = true ∧
      (launches plain).unitAt (tileWin t0) = some (.tile t0) ∧ (launches plain).unitOwner (.tile t0) = some 0) ∧
    (((launches plain).part 0).launchStatus ≠ 1 ∧ (launches plain).time.dstate = 2 ∧ (launches plain).now.toNat + 10000 ≤ fieldAt (launchRec 1 10005) 0x10 8 ∧
      fieldAt (launchRec 1 10004) 0x10 8 < (launches plain).now.toNat + 10000) ∧
    (let s := launches { plain with launchStatus := 1, launchCount := 5 };
      (s.part 0).launchStatus = 1 ∧ s.now.toNat ≤ (s.part 0).launchCount.toNat ∧ fieldAt (launchRec 2 0) 0x10 8 = 0) ∧
    (let s := launches { plain with launchStatus := 1, launchCount := 4 };
      (s.part 0).launchStatus = 1 ∧ (s.part 0).launchCount.toNat < s.now.toNat) := by
  unfold Writable; decide +kernel

/-- The module with its counter's state, and port 3 up with the DISC of a better module. -/
def timed (x : TimeSys) : State := { up {} with time := x, ports := [(3, { state := .up, disc := some (0, 0, 0, 1000000000000) })] }

theorem witness_TheCounterIsDisciplined :
    (let s := timed { role := 1, priority := 7 };
      s.time.role = 1 ∧ s.time.priority ≠ 255 ∧ s.isRoot = false ∧ s.pwr.bridge = true ∧ s.fatal = false ∧
      s.time.listenFrom + 1000000000 ≤ s.island ∧ s.time.heard = []) ∧
    (let s := timed { withinSince := some 0, parent := 3, dstate := 1, stepped := true };
      s.time.withinSince = some 0 ∧ s.time.parent ≠ 0xFF ∧ s.time.dstate ≠ 2 ∧ s.time.stepped = true ∧ 0 + 1000000 ≤ s.island) ∧
    (let s := timed { withinSince := some 1000000000000, parent := 3, dstate := 1, stepped := true };
      s.time.withinSince = some 1000000000000 ∧ s.island < 1000000000000 + 1000000) ∧
    (let s : State := { up {} with time := { parent := 3, everLocked := true, dstate := 2 } };
      s.time.parent ≠ 0xFF ∧ s.parentCandidate s.time.parent.toNat = false ∧ s.bestParent = none ∧ s.time.everLocked = true ∧ s.time.dstate ≠ 3) ∧
    (let s := timed { parent := 5 };
      s.time.parent ≠ 0xFF ∧ s.parentCandidate s.time.parent.toNat = false ∧ s.bestParent = some 3 ∧
      (s.port 3).disc = some (0, 0, 0, 1000000000000)) ∧
    (up {}).time.parent = 0xFF := by
  decide +kernel

/-- A capture that re-execution confirms: an accumulator of no terms. -/
def capture0 : Capture := { kind := 0, row := 0, op := 0, start := [0], terms := [[]], ends := [0], bytes := 8 }
/-- Cluster 0's checker holds a capture. -/
def holdsCapture (c : Capture) : State :=
  { up {} with clusters := [(0, { ready := true, chk := { backlog := [c], used := 8 } })], parts := [(0, { plain with fence := 1, fenceWait := [0] })] }
def injects (lc : BitVec 8) (x : Integ) : State := { inLife lc with integ := x, mgmt := { sessions := [(1, some { maker with role := if lc = 1 then .maker else .operator })] } }

theorem witness_CheckersAndErrorsAct :
    (let s := holdsCapture capture0;
      s.fatal = false ∧ s.poweredDown 0 = false ∧ (s.cluster 0).chk.backlog = capture0 :: [] ∧ s.integ.armed = false ∧
      firstDiff capture0.expect (capture0.seen false) = none ∧ capture0.id ∈ (s.part 0).fenceWait ∧ (s.part 0).fence = 1 ∧
      (s.cluster 0).chk.seededAt + 1000000000 ≤ s.island ∧ s.sec.drbg = 1) ∧
    firstDiff { capture0 with ends := [1] }.expect ({ capture0 with ends := [1] }.seen false) ≠ none ∧
    (let s : State := { up {} with clusters := [(0, { chk := { seededAt := 1000000000000 } })] };
      s.island < (s.cluster 0).chk.seededAt + 1000000000) ∧
    (let s := picks [(0x3001, 1, 0)] (up {});
      Writable s 1 0x3001 2 ∧ s.asOwner (s.role 1) (s.select 1 0x3001 1 0) = true ∧ (s.part (s.select 1 0x3001 1 0)).fence ≠ 1) ∧
    (let s := injects 1 { injKind := 3 };
      s.asOperator (s.role 1) = true ∧ Writable s 1 0x3020 3 ∧ s.lifeCycle = 1 ∧ validPath s.integ.injTarget = true ∧ 1 ≤ s.integ.injKind.toNat ∧
      s.integ.injKind.toNat ≤ 3) ∧
    (let s := injects 4 { injKind := 5, injTarget := pathOf 1 0 };
      s.asOperator (s.role 1) = true ∧ Writable s 1 0x3020 3 ∧ s.lifeCycle = 4 ∧ validPath s.integ.injTarget = true ∧
      s.partOf s.integ.injTarget = none ∧ s.integ.injKind = 5) ∧
    Writable (up {}) 1 0x3010 7 ∧
    ((up {}).pwr.converters = true ∧ (up {}).fatal = false ∧ validPath t0 = true ∧ siteOk (.array t0) = true ∧ siteOk .cipher = true ∧
      (4 : BitVec 3).toNat ≤ 4) := by
  unfold Writable; decide +kernel

/-! ### Checkpoints -/

/-- A shard table of one shard of 4,096 bytes at 0x1000, which goes to 0x2000 in the window; and the page with it at 0. -/
def shardCells : List Host.Cell := [(0x6, 1), (0x9, 0x10), (0x11, 0x10), (0x19, 0x20)]
def shardBlocks : SMap Block := [(0, { check := some 0x30B3EFA6 }), (1, { check := some 0x98F94189 })]
/-- The fields of a WRITE, a VERIFY and a RESTORE of checkpoint 7 of plan 0xFFFF in context 0. -/
def writeReq : Bytes := [1, 0, 0, 0] ++ toLE 7 4 ++ toLE 0 8 ++ toLE 1 4 ++ [0, 0, 0xFF, 0xFF] ++ toLE 0 8 ++ toLE 0x4000 8 ++ toLE 0x5000 8 ++ zeros 16
def verifyReq : Bytes := [3, 0, 0, 0] ++ toLE 7 4 ++ zeros 44 ++ [1] ++ zeros 11
def restoreReq : Bytes := [2, 0, 0, 0] ++ toLE 7 4 ++ toLE 0 8 ++ toLE 1 4 ++ [0, 0, 0xFF, 0xFF] ++ zeros 28 ++ [1] ++ zeros 11
/-- Partition 0 with a window of 1 MiB and a request open. -/
def windowed (j : Option HamJob) : Part := { clusters := 1, state := 1, gidCount := 16, groupQuota := 8, bindQuota := 8, ham := j, winBase := 0x1000000, winLen := 0x100000 }
def hams (cells : List Host.Cell) (blocks : SMap Block) (j : Option HamJob) : State :=
  withBlocks cells blocks { picks [(0x2800, 1, 0)] (up {}) with parts := [(0, windowed j)] }
def job (req : Bytes) : HamJob := { req := req, role := .maker, enc := false, coord := 0, rings := 0, step := 0, time := 0, held := [] }
/-- The shard of the table. -/
def shard0 : Shard := { sidx := 0, cls := 0, etype := 0, rc := 1, ridx := 0, va := 0x1000, len := 0x1000, hoff := 0x2000, pidx := 0, reservedBad := false }
set_option maxRecDepth 100000 in
theorem shard_crc : crc32c (readCells shardCells 0 4096) = 0x30B3EFA6 := by decide +kernel
theorem hams_verified (j : Option HamJob) {va len : Nat} (h : (va + len + 4095) / 4096 ≤ 2) : verified (hams shardCells shardBlocks j) 0 va len := by
  refine verified_blocks _ rfl (by omega) fun k h1 h2 => ?_
  obtain rfl | rfl : k = 0 ∨ k = 1 := by omega
  · exact good_block _ 0 0x30B3EFA6 rfl shard_crc
  · refine zero_verified _ _ rfl fun e he => ?_
    have all : ∀ e ∈ shardCells, e.1 < 4096 := by decide
    have := all e he
    omega
theorem page_table (j : Option HamJob) (i : Nat) (h : i < 0x200000) : physAt (hams shardCells shardBlocks j) 0 i = i := physAt_page0 _ rfl h
/-- The host answers the module's accesses to the window without an error; the answer is free (log 130). -/
theorem hams_turns (cells : List Host.Cell) (blocks : SMap Block) (j : HamJob) (hc : (hamReq j.req).ctx = 0) (he : j.enc = false)
    (h : Config.windowError 0 = false) : HamTurns (hams cells blocks (some j)) 0 j := by
  refine ⟨by decide, rfl, ?_, by rfl, by simp [he], rfl, h, ?_⟩
  · show (hams cells blocks (some j)).turnPart 0 _ = some 0
    rfl
  · rw [hc]
    exact translates_page0 _ rfl _ rfl
theorem shards_read (j : Option HamJob) : shardsOf (hams shardCells shardBlocks j) (hamReq writeReq) = [shard0] := by
  have e : virtBytes (hams shardCells shardBlocks j) 0 0 64 = readCells shardCells 0 64 := by
    refine List.ext_getElem (by rw [virtBytes, List.length_map, List.length_range]; decide +kernel) fun i h1 h2 => ?_
    have hi : i < 64 := by simpa [virtBytes] using h1
    simp only [virtBytes, List.getElem_map, List.getElem_range]
    rw [page_table j (0 + i) (by omega)]
    show mapGet 0 shardCells (0 + i) = _
    have all : ∀ i, i < 64 → some (mapGet (0 : Byte) shardCells (0 + i)) = (readCells shardCells 0 64)[i]? := by decide +kernel
    have := all i hi
    rw [List.getElem?_eq_getElem h2] at this
    exact Option.some.inj this
  show [parseShard (virtBytes _ (hamReq writeReq).ctx ((hamReq writeReq).stva + 64 * 0) 64)] = _
  have c : (hamReq writeReq).ctx = 0 := by decide +kernel
  have v : (hamReq writeReq).stva + 64 * 0 = 0 := by decide +kernel
  rw [c, v, e]
  have : parseShard (readCells shardCells 0 64) = shard0 := by
    unfold parseShard shard0
    congr 1
  rw [this]

def image0 : Image := imageFor shard0
theorem witness_CheckpointsAreWritten (answered : Config.windowError 0 = false) :
    (let s := hams shardCells shardBlocks none;
      HamperAsks s 1 0 ∧ s.hamRefusal (s.role 1) 0 writeReq = none ∧ setByte (toLE (BitVec.ofNat 512 (leNat writeReq)).toNat 64) 0 1 = writeReq) ∧
    (let s := hams shardCells shardBlocks (some (job writeReq));
      HamperAsks s 1 0 ∧ s.hamRefusal (s.role 1) 0 writeReq = some (0x4010, 5)) ∧
    (let s := hams shardCells shardBlocks (some (job writeReq));
     let q := hamReq writeReq;
      HamTurns s 0 (job writeReq) ∧ q.op = 1 ∧ ShardsReadable s q ∧ shardsOf s q ≠ [] ∧ verified s q.ctx q.ctlva (32 * q.nctl) ∧ q.enc = false ∧
      controlItems s q = [] ∧ rangesOverlap ((writeRanges q [shard0]).map Prod.snd) = false ∧
      ∀ r ∈ (writeRanges q [shard0]).map Prod.snd, r.1 + r.2 ≤ (s.part 0).winLen.toNat) ∧
    (let j : HamJob := { job writeReq with begun := true, todo := [image0] };
     let s := hams shardCells shardBlocks (some j);
      HamTurns s 0 j ∧ j.begun = true ∧ j.todo = image0 :: [] ∧ image0.src = none ∧ j.chunk * 1048576 ≤ image0.len ∧ image0.va % 4096 = 0 ∧
      image0.len % 4096 = 0 ∧ image0.len = 4096 ∧ verified s 0 image0.va 4096) := by
  refine ⟨⟨?_, by decide +kernel, by decide +kernel⟩, ⟨?_, by decide +kernel⟩, ⟨hams_turns _ _ _ (by decide +kernel) rfl answered, by decide +kernel, ?_, ?_, ?_,
    by decide +kernel, ?_, by decide +kernel, by decide +kernel⟩, hams_turns _ _ _ (by decide +kernel) rfl answered, rfl, rfl, rfl, by decide, by decide, by decide,
    rfl, hams_verified _ (by decide)⟩
  · unfold HamperAsks Writable; decide +kernel
  · unfold HamperAsks Writable; decide +kernel
  · refine ⟨?_, ?_, ?_⟩
    · have e : hamReq writeReq = { op := 1, enc := false, ctx := 0, ckid := 7, stva := 0, nshard := 1, nctl := 0, planid := 0xFFFF, ctlva := 0, maddr := 0x4000, ctloff := 0x5000, keyid := 0, nman := 0 } := by
        unfold hamReq
        congr 1
      rw [e]
      exact hams_verified _ (by decide)
    · rw [shards_read]
      decide
    · rw [shards_read]
      intro i x y _ h
      cases i <;> simp at h
  · rw [shards_read]
    simp
  · have e : (hamReq writeReq).ctx = 0 ∧ (hamReq writeReq).ctlva = 0 ∧ 32 * (hamReq writeReq).nctl = 0 := by decide +kernel
    rw [e.1, e.2.1, e.2.2]
    exact hams_verified _ (by decide)
  · have e : (hamReq writeReq).nctl = 0 := by decide +kernel
    simp [controlItems, e]
/-- The window cannot be reached. -/
theorem witness_windowFails : (let s : State := { hams [] [] (some (job writeReq)) with pwr := { powered with pcieUp := false } };
    (s.part 0).ham = some (job writeReq) ∧ s.turnPart s.sec.hamTurn (fun q => (s.part q).ham.isSome) = some 0 ∧ s.partAnswers 0 = true ∧
      (job writeReq).enc = false ∧ s.pwr.pcieUp = false ∧ (hamReq (job writeReq).req).op ≠ 3) :=
  ⟨rfl, rfl, rfl, rfl, rfl, by decide +kernel⟩

/-- An OBJECT item: the seed of 0x2700:02 is 5. Its manifest of no entries, in the window at 0, with the control section at 0x1000. -/
def item0 : Bytes := [1, 0, 0, 0x27, 2, 8, 0, 0, 5] ++ zeros 23
def itemDigest : Bytes :=
  [26, 145, 159, 147, 186, 205, 165, 181, 202, 43, 202, 214, 104, 118, 67, 65, 190, 175, 249, 110, 68, 83, 2, 182, 44, 90, 147, 145, 42, 32, 29, 153]
def manifest0 : Manifest :=
  { off := 0, bias := 0
    raw := toLE 0x4D4B4359 4 ++ [1, 0, 0, 0] ++ toLE 7 4 ++ zeros 28 ++ [0xFF, 0xFF, 1, 0] ++ zeros 20 ++ toLE 0x1000 8 ++ zeros 8 ++ itemDigest ++ zeros 16 }
/-- The module with the checkpoint in its window. -/
def holdsCk (cells : List Host.Cell) (j : Option HamJob) : State :=
  { hams cells [(0, { check := some 0x98F94189 }), (1, { check := some 0x98F94189 })] j with
    host := writeCells (writeCells [] 0x1000000 manifest0.raw) 0x1001000 item0 }
def control0 : Image := { sidx := 0xFFFFE, len := 32, off := 0x1000, src := some manifest0, digest := itemDigest }
def shardImage0 : Image := { sidx := 0, cls := 0, va := 0, len := 0x200000, off := 0x2000, src := some manifest0 }
theorem item_digest : sha256 item0 = itemDigest := by decide +kernel
def verifyJob : HamJob := job verifyReq
/-- The VERIFY at its one image, and a RESTORE at its control section or at a shard of two chunks. -/
def verifying : HamJob := { verifyJob with begun := true, mans := [manifest0], todo := [control0] }
def settingBack : HamJob := { job restoreReq with begun := true, mans := [manifest0], todo := [control0] }
def restoring : HamJob := { job restoreReq with begun := true, mans := [manifest0], todo := [shardImage0] }
theorem read_well : (match (holdsCk [] (some verifyJob)).readManifest 0 (hamReq verifyReq) none (zeros 16) with
    | .ok m => decide (m = manifest0)
    | .error _ => false) = true := by decide +kernel
theorem manifest_read : (holdsCk [] (some verifyJob)).readManifests 0 (hamReq verifyReq) none [zeros 16] = .ok [manifest0] := by
  have h := read_well
  split at h
  · rename_i m hm
    rw [of_decide_eq_true h] at hm
    simp only [State.readManifests, hm]
  · cases h
theorem ck_verified (j : Option HamJob) {va len : Nat} (h : (va + len + 4095) / 4096 ≤ 2) : verified (holdsCk [] j) 0 va len := by
  refine verified_blocks _ rfl (by omega) fun k h1 h2 => ?_
  obtain rfl | rfl : k = 0 ∨ k = 1 := by omega
  · exact zero_verified _ _ rfl fun e he => by cases he
  · exact zero_verified _ _ rfl fun e he => by cases he
theorem ck_turns (j : HamJob) (hc : (hamReq j.req).ctx = 0) (he : j.enc = false) (h : Config.windowError 0 = false) :
    HamTurns (holdsCk [] (some j)) 0 j := by
  refine ⟨by decide, rfl, ?_, by rfl, by simp [he], rfl, h, ?_⟩
  · show (holdsCk [] (some j)).turnPart 0 _ = some 0
    rfl
  · rw [hc]
    exact translates_page0 _ rfl _ rfl
theorem first_list : virtBytes (holdsCk [] (some verifyJob)) 0 0 16 = zeros 16 := by
  refine List.eq_replicate_iff.mpr ⟨by rw [virtBytes, List.length_map, List.length_range], fun b hb => ?_⟩
  obtain ⟨i, _, rfl⟩ := List.mem_map.mp hb
  rfl

theorem witness_CheckpointsAreRestored (answered : Config.windowError 0 = false) :
    (HamperAsks (hams shardCells shardBlocks none) 1 0 ∧
      (hams shardCells shardBlocks none).hamRefusal ((hams shardCells shardBlocks none).role 1) 0 restoreReq = none ∧
      (hams shardCells shardBlocks none).hamRefusal ((hams shardCells shardBlocks none).role 1) 0 verifyReq = none) ∧
    (HamTurns (holdsCk [] (some verifyJob)) 0 verifyJob ∧ (hamReq verifyReq).op = 3 ∧ verifyJob.begun = false ∧
      ManifestsRead (holdsCk [] (some verifyJob)) 0 (hamReq verifyReq) none [manifest0] ∧
      ((holdsCk [] (some verifyJob)).manifestsBad 0 (hamReq verifyReq) [] [manifest0]).isNone = true ∧ imagesRead 3 [] [manifest0] = [control0]) ∧
    (HamTurns (holdsCk [] (some verifying)) 0 verifying ∧ verifying.todo = control0 :: [] ∧ control0.src = some manifest0 ∧
      verifying.chunk * 1048576 < control0.len ∧ (holdsCk [] (some verifying)).imageChunk 0 none manifest0 0xFFFFE 0x1000 32 0 = some item0 ∧
      control0.len ≤ (verifying.chunk + 1) * 1048576 ∧ sha256 (verifying.moved ++ item0) = control0.digest) ∧
    (HamTurns (holdsCk [] (some settingBack)) 0 settingBack ∧ (hamReq restoreReq).op = 2 ∧ control0.sidx = 0xFFFFE ∧
      (holdsCk [] (some settingBack)).asOwner settingBack.role 0 = true ∧ chunks 32 item0 = [item0] ∧ ItemFits (holdsCk [] (some settingBack)) 0 item0 ∧
      (holdsCk [] (some settingBack)).settingFree 0 (itemIndex item0) = true ∧ itemKind item0 = 1) ∧
    (HamTurns (holdsCk [] (some restoring)) 0 restoring ∧ restoring.todo = shardImage0 :: [] ∧ (restoring.chunk + 1) * 1048576 < shardImage0.len ∧
      FramesApart (holdsCk [] (some restoring)) 0 ∧ permits (holdsCk [] (some restoring)) 0 true 0 1048576 ∧
      ((holdsCk [] (some restoring)).imageChunk 0 none manifest0 0 0x2000 0x200000 0).isSome = true) := by
  refine ⟨⟨?_, by decide +kernel, by decide +kernel⟩,
    ⟨ck_turns _ (by decide +kernel) rfl answered, by decide +kernel, rfl, ⟨?_, ?_⟩, by decide +kernel, by decide +kernel⟩,
    ⟨ck_turns _ (by decide +kernel) rfl answered, rfl, rfl, by decide, by decide +kernel, by decide, item_digest⟩,
    ⟨ck_turns _ (by decide +kernel) rfl answered, by decide +kernel, rfl, by decide +kernel, by decide +kernel, ?_, by decide +kernel, by decide +kernel⟩,
    ck_turns _ (by decide +kernel) rfl answered, rfl, by decide, one_page _ rfl _, permits_page0 _ rfl _ (by decide), ?_⟩
  · unfold HamperAsks Writable; decide +kernel
  · have e : (hamReq verifyReq).ctx = 0 ∧ (hamReq verifyReq).maddr = 0 ∧ 16 * (hamReq verifyReq).nman = 16 := by decide +kernel
    rw [e.1, e.2.1, e.2.2]
    exact ck_verified _ (by decide)
  · have e : (hamReq verifyReq).ctx = 0 ∧ (hamReq verifyReq).maddr = 0 ∧ (hamReq verifyReq).nman = 1 := by decide +kernel
    rw [e.1, e.2.1, e.2.2]
    show State.readManifests _ _ _ _ [virtBytes (holdsCk [] (some verifyJob)) 0 0 16] = _
    rw [first_list]
    exact manifest_read
  · refine .inl ⟨by decide +kernel, ⟨0, by decide +kernel⟩, by decide +kernel, ?_⟩
    unfold zeroBytes
    decide +kernel
  · have e : manifest0.enc = false := by decide +kernel
    simp [State.imageChunk, e]

/-! ### Randomness, keys, jobs, partitions, the life cycle -/

/-- Samples that alternate, and samples that stick. -/
def flips (n : Nat) : List Bool := (List.range n).map fun i => i % 2 == 0
def sticks (n : Nat) : List Bool := List.replicate n true
def noisy (x : Security) : State := { up {} with sec := x }

set_option maxRecDepth 100000 in
theorem witness_RandomnessIsHeld :
    (({ noise := 1 } : Security).runLen ≤ 40 ∧ ({ noise := 1 } : Security).windowBad (flips 4096) = false ∧ (flips 4096).length = 4096 ∧
      ({ noise := 1 } : Security).windowBad (sticks 4096) = true ∧ (sticks 4096).length = 4096 ∧
      ({ noise := 1, startFails := 1 } : Security).windowBad (sticks 4096) = true) ∧
    ((noisy { noise := 1 }).pwr.bridge = true ∧ (noisy { noise := 1 }).fatal = false ∧ (noisy { noise := 1 }).sec.startFails = 0 ∧
      0 < (noisy { noise := 1, startFails := 1 }).sec.startFails) ∧
    (({ noise := 2 } : Security).windowBad (flips 1024) = false ∧ ({ noise := 2 } : Security).windowBad (sticks 1024) = true ∧
      (flips 1024).length = 1024 ∧ (sticks 1024).length = 1024 ∧
      ((1000000000000 :: ([] : List Nat)).filter fun t => 1000000000000 < t + 1000000000).length ≤ 3 ∧
      3 < ((1000000000000 :: ([999999999999, 999999999998, 999999999997] : List Nat)).filter fun t => 1000000000000 < t + 1000000000).length) ∧
    (let x := (noisy { noise := 2, samples := flips 2048 }).sec; x.noise = 2 ∧ x.samples.length = 2048 ∧ x.drbg = 0) ∧
    (let s := noisy { noise := 2, samples := flips 2048, drbg := 1 };
      s.sec.drbg = 1 ∧ s.sec.reseedAt + 100000000 ≤ s.island) ∧
    ((noisy { noise := 2, drbg := 2 }).sec.samples.length ≠ 2048 ∧ (noisy { noise := 2, drbg := 2 }).sec.drbg = 2) ∧
    ((4 : BitVec 3).toNat ≤ 4 ∧ (up {}).sec.drbg = 1 ∧ ((up {}).port 15).stalled = []) ∧
    ((wired 12 { state := .up, stalled := [(zeros 65, 0)] }).port (11 + (1 : BitVec 3).toNat)).stalled = [(zeros 65, 0)] := by
  decide +kernel

/-- A key record: KEYID; an INSTALL with wrapped bytes of 0. -/
def keyRec (id : Nat) : BitVec 640 := BitVec.ofNat 640 (leNat ([1, 0, 0, 0] ++ toLE id 4 ++ zeros 72))
def keyed (l : List Nat) : State := { operated with sec := { noise := 2, drbg := 1, lc := 2, keys := l.map fun id => (id, some ⟨0, 0, 0⟩) } }
/-- An INSTALL of a partition's root key, of a link key and of a checkpoint key without the key it is wrapped with; an ERASE. -/
theorem witness_KeysAreHeld :
    (Writable (keyed []) 1 0x3110 2 ∧ fieldAt (setByte (toLE (keyRec 0x02000000).toNat 80) 0 1) 4 4 = 0x02000000 ∧
      (keyed []).asOperator ((keyed []).role 1) = true ∧ fieldAt (setByte (toLE (keyRec 0x02000000).toNat 80) 0 1) 1 3 = 0 ∧
      fieldAt (setByte (toLE (keyRec 0x02000000).toNat 80) 0 1) 8 4 = 0 ∧
      slice (setByte (toLE (keyRec 0x02000000).toNat 80) 0 1) 0xC 20 = List.replicate 20 0 ∧ (keyed []).key 0x02000000 = none ∧ (keyed []).sec.drbg = 1) ∧
    MayKey (keyed []) 1 0x02000000 ∧ MayKey (keyed []) 1 0x01FF0000 ∧ MayKey (keyed []) 1 0x00FF0001 ∧
    ((keyed [0x02000000]).key 0x02000000 ≠ none ∧ (keyed [0x02000000]).keyInUse 0x02000000 = false ∧
      slice (setByte (toLE (keyRec 0x02000000).toNat 80) 0 2) 0x20 48 = List.replicate 48 0 ∧
      ∀ e ∈ (keyed [0x02000000]).sec.keys, e.1 / 2 ^ 24 % 256 ≠ 3 ∧ e.1 / 2 ^ 24 % 256 ≠ 4) ∧
    (Writable (up {}) 1 0x3130 1 ∧ (up {}).asOperator ((up {}).role 1) = true ∧ ((wired 12 { state := .up }).port 12).state = .up) := by
  refine ⟨?_, .inr (.inr (.inl ⟨0, by decide, rfl, by decide +kernel⟩)), .inr (.inl ⟨0, by decide, rfl, by decide +kernel⟩),
    .inl ⟨rfl, by decide +kernel, by decide +kernel⟩, by decide +kernel, ?_⟩
  · unfold Writable; decide +kernel
  · unfold Writable; decide +kernel
/-- Before an owner's checkpoint key can be unwrapped its partition's root key is needed. -/
theorem witness_noKek : MayKey (up {}) 1 0x03000000 ∧ Writable (up {}) 1 0x3110 2 ∧
    (up {}).unwrapped (setByte (toLE (keyRec 0x03000000).toNat 80) 0 1) = none := by
  refine ⟨.inr (.inr (.inr (.inl ⟨0, 0, by decide, by decide, rfl, by decide +kernel⟩))), ?_, by decide +kernel⟩
  unfold Writable; decide +kernel

/-- A job of partition 0 in context 0: mode, direction, key, 16 bytes at 0x100 to 0x200, IV at 0x300, tag of n bytes at 0x400. -/
def jobRec (mode dir : Byte) (key len tlen : Nat) (dst : Nat := 0x200) : Bytes :=
  [mode, dir, 0, 0] ++ toLE key 4 ++ toLE 0x100 8 ++ toLE dst 8 ++ toLE len 4 ++ toLE 0 4 ++ toLE 0 8 ++ toLE 0x300 8 ++ [BitVec.ofNat 8 tlen, 0] ++
    zeros 6 ++ toLE 0x400 8
def jobs (b : Option Bytes) : State :=
  { picks [(0x3120, 1, 0)] (up {}) with
    parts := [(0, { plain with job := b.map fun x => BitVec.ofNat 512 (leNat x) })]
    sec := { noise := 2, drbg := 1, keys := [(0x04000000, some ⟨0, 0, 0⟩)], maskAt := [(0, 1000000000000)] } }
theorem seed_fresh : (jobs none).cipherFresh = true := by decide +kernel
theorem job_turns (b : Bytes) (h : (parseJob (toLE (BitVec.ofNat 512 (leNat b)).toNat 64)).ctx = 0 ∧ 1 ≤ (parseJob (toLE (BitVec.ofNat 512 (leNat b)).toNat 64)).mode ∧
    (parseJob (toLE (BitVec.ofNat 512 (leNat b)).toNat 64)).mode ≤ 7 ∧ ((parseJob (toLE (BitVec.ofNat 512 (leNat b)).toNat 64)).mode ≠ 7 →
      (parseJob (toLE (BitVec.ofNat 512 (leNat b)).toNat 64)).keyid = 0x04000000)) : JobTurns (jobs (some b)) 0 (BitVec.ofNat 512 (leNat b)) := by
  refine ⟨by decide, rfl, by rfl, by rfl, .inr ?_, ?_, h.2.1, h.2.2.1, fun hm => ?_⟩
  · exact seed_fresh
  · rw [h.1]
    exact translates_page0 _ rfl _ rfl
  · rw [h.2.2.2 hm]
    refine ⟨by decide, by decide, ?_⟩
    show mapGet none [(0x04000000, some (⟨0, 0, 0⟩ : Key))] 0x04000000 ≠ none
    decide +kernel
theorem jobs_read (b : Option Bytes) (j : Job) (hc : j.ctx = 0) (h : j.iva + j.ivLen ≤ 0x200000 ∧ j.aad + j.alen ≤ 0x200000 ∧ j.src + j.len ≤ 0x200000 ∧
    j.tagva + j.tlen ≤ 0x200000) : JobReads (jobs b) j := by
  unfold JobReads
  rw [hc]
  exact ⟨permits_page0 _ rfl _ h.1, permits_page0 _ rfl _ h.2.1, permits_page0 _ rfl _ h.2.2.1, fun _ => permits_page0 _ rfl _ h.2.2.2⟩
def shaJob : Bytes := jobRec 7 0 0 16 0
def cbcJob : Bytes := jobRec 1 1 0x04000000 16 0
def taken (b : Bytes) : Job := parseJob (toLE (BitVec.ofNat 512 (leNat b)).toNat 64)

theorem witness_CipherJobsRun :
    (JobAsks (jobs none) 1 0 ∧ (jobs none).asOwner ((jobs none).role 1) 0 = true ∧ (jobs none).ctxPart (fieldAt cbcJob 2 2 % 4096) = some 0 ∧
      setByte (toLE (BitVec.ofNat 512 (leNat cbcJob)).toNat 64) 0 1 = cbcJob ∧ setByte (toLE (BitVec.ofNat 512 (leNat shaJob)).toNat 64) 0 7 = shaJob ∧
      jobReservedBad cbcJob = false ∧ jobReservedBad shaJob = false ∧ (parseJob shaJob).keyid = 0 ∧ (parseJob cbcJob).keyid / 2 ^ 24 = 4 ∧
      (jobs none).key (parseJob cbcJob).keyid ≠ none ∧ (jobs none).sec.drbg = 1 ∧ ((jobs none).part 0).job = none ∧ ((jobs (some cbcJob)).part 0).job ≠ none) ∧
    (JobTurns (jobs (some shaJob)) 0 (BitVec.ofNat 512 (leNat shaJob)) ∧ (taken shaJob).beyond = false ∧ JobReads (jobs (some shaJob)) (taken shaJob) ∧
      (jobResult (jobs (some shaJob)) (taken shaJob)).map (fun r => r.1.length) = some 32) ∧
    (JobTurns (jobs (some cbcJob)) 0 (BitVec.ofNat 512 (leNat cbcJob)) ∧ (taken cbcJob).beyond = false ∧ JobReads (jobs (some cbcJob)) (taken cbcJob) ∧
      jobResult (jobs (some cbcJob)) (taken cbcJob) = none) ∧
    (JobTurns (jobs (some (jobRec 1 1 0x04000000 15 0))) 0 (BitVec.ofNat 512 (leNat (jobRec 1 1 0x04000000 15 0))) ∧
      (taken (jobRec 1 1 0x04000000 15 0)).beyond = true) := by
  refine ⟨?_, ⟨job_turns _ (by decide +kernel), by decide +kernel, jobs_read _ _ (by decide +kernel) (by decide +kernel), by decide +kernel⟩,
    ⟨job_turns _ (by decide +kernel), by decide +kernel, jobs_read _ _ (by decide +kernel) (by decide +kernel), by decide +kernel⟩,
    job_turns _ (by decide +kernel), by decide +kernel⟩
  unfold JobAsks Writable
  decide +kernel

/-- Partition 0 with the operator's settings, and cluster 0 as given. -/
def formable (x : Part) (k : Cluster) : State := { picks [(0x2000, 1, 0)] (up {}) with parts := [(0, x)], clusters := [(0, k)], mem := {} }
theorem witness_PartitionsAreFormed :
    (Writable (formable {} {}) 1 0x2000 5 ∧ (formable {} {}).asOperator ((formable {} {}).role 1) = true ∧ (formable {} {}).select 1 0x2000 1 0 = 0 ∧
      ((formable {} {}).part 0).clusters = 0) ∧
    (let s := formable { clusters := 1 } { ready := true };
      (s.part 0).clusters ≠ 0 ∧ (∀ q, q < 40 → q ≠ 0 → s.formed q = false) ∧ quotaOf s 0 (fun y => y.groupQuota.toNat) ≤ 1024 ∧
      quotaOf s 0 (fun y => y.bindQuota.toNat) ≤ 64 ∧ (∀ k ∈ s.partClusters 0, s.clusterUp k = true) ∧ s.formed 0 = false ∧ s.mem.ctxs = [] ∧
      (∀ e ∈ s.mem.slabs, e.2.owner.toNat ≠ 0) ∧ (s.part 0).winLen = 0 ∧ (s.part 0).plan = 0xFFFF) ∧
    (∃ k ∈ (formable { clusters := 1 } {}).partClusters 0, (formable { clusters := 1 } {}).clusterUp k = false) ∧
    ((formable { clusters := 1, winLen := 1 } {}).part 0).winLen ≠ 0 := by
  unfold Writable; decide +kernel

/-- The maker's token for a challenge of 0. -/
def token (target : Nat) : BitVec 128 := BitVec.ofNat (8 * 16) (leNat (makerToken 0 target))
theorem makerToken_length (target : Nat) : (makerToken 0 target).length = 16 :=
  cmacFold_length (roundKeys (toBE Config.makerKey.toNat 32)) (by unfold roundKeysOk; decide +kernel) _ _ (cmacBlocks_ne _ _ _)
theorem token_bytes (target : Nat) : toLE (token target).toNat 16 = makerToken 0 target := toLE_record 16 _ (makerToken_length target)
def living (lc : BitVec 8) (r : Role) (keys : SMap (Option Key) := []) : State :=
  { up {} with sec := { noise := 2, drbg := 1, lc := lc, challenge := some 0, keys := keys, returns := 1 }
               mgmt := { sessions := [(1, some { role := r, key := 0, mirror := false })] } }

theorem witness_TransitionsAreAuthorised :
    ((up {}).pwr.aux = true ∧ (up {}).mayRead ((up {}).role 1) 0x1010 1 = true ∧ (up {}).sec.drbg = 1) ∧
    (Writable (living 1 .maker) 1 0x1010 2 ∧ Writable (living 2 .operator) 1 0x1010 2) ∧
    (MayEnter (living 1 .maker) 1 2 (token 2) ∧ MayEnter (living 2 .maker) 1 5 (token 5) ∧ MayEnter (living 5 .maker) 1 1 (token 1)) ∧
    (MayEnter (living 2 .operator [(0x00FF0001, some ⟨0, 0, 0⟩)]) 1 3 0 ∧ MayEnter (living 3 .operator) 1 4 0 ∧ MayEnter (living 3 .operator) 1 6 0) ∧
    ¬ MayEnter (living 2 .operator) 1 3 0 := by
  refine ⟨by decide +kernel, ?_, ⟨⟨by decide +kernel, .inr (by decide +kernel), ⟨0, rfl, token_bytes 2⟩, rfl⟩,
    ⟨.inl (by decide +kernel), .inr (by decide +kernel), ⟨0, rfl, token_bytes 5⟩, rfl⟩,
    ⟨by decide +kernel, by decide, .inr (by decide +kernel), ⟨0, rfl, token_bytes 1⟩, rfl⟩⟩, ?_, ?_⟩
  · unfold Writable; decide +kernel
  · unfold MayEnter
    exact ⟨⟨.inl (by decide +kernel), by decide +kernel, rfl⟩, ⟨by decide +kernel, by decide +kernel, rfl⟩,
      ⟨by decide +kernel, .inl ⟨by decide +kernel, rfl⟩⟩⟩
  · rintro ⟨h | h, -⟩
    · exact h.2 (by decide +kernel)
    · exact absurd h (by decide +kernel)

/-! ### Forms that complete -/

theorem witness_SequencerFormsComplete :
    (let s := up { runs with regs := [(1, 16)] };
      Fetches s t0 false ∧ Placed s t0 ∧ ((s.seqTile t0).reg 1).toNat = 16 ∧ storeWord s t0 16 0 = 0 ∧ storeWord s t0 16 2 = 0 ∧ 16 + 16 ≤ s.span t0 ∧
      s.unitReady t0 0 = true ∧ (s.seqTile t0).cmdQ.length < 32) ∧
    (Fetches (up runs) t0 true ∧ Placed (up runs) t0 ∧ (0x0E : BitVec 6).toNat ≤ 0x0E ∧ modeFits ((up runs).seqTile t0 |>.reg 1)) ∧
    (Fetches (up { stacked with exc := none }) t0 false ∧ stackValid (up { stacked with exc := none }) t0 ∧
      (((up { stacked with exc := none }).seqTile t0).reg 30).toNat + 64 ≤ (up { stacked with exc := none }).span t0 ∧
      ∀ i, i < 11 → storeWord (up { stacked with exc := none }) t0 (((up { stacked with exc := none }).seqTile t0).reg 30).toNat i = 0) ∧
    (EntryDue (up stacked) t0 trapped ∧ ((up stacked).seqTile t0).waiting = [] ∧ ((up stacked).seqTile t0).evbase ≠ 0 ∧ stackValid (up stacked) t0) := by
  unfold Fetches Placed EntryDue stackValid modeFits; decide +kernel
theorem witness_sequencer_clean : CleanStore (up { runs with regs := [(1, 16)] }) t0 ∧ CleanStore (up stacked) t0 ∧ ¬ headerBad 0 0 := by
  refine ⟨clean_up _ rfl _, clean_up _ rfl _, ?_⟩
  simp [headerBad, nonzero, fieldOf]

theorem witness_RequestFormsComplete :
    (let s := picks [(0x2201, 1, 101), (0x2201, 3, 1)] (up {});
      Writable s 1 0x2201 2 ∧ s.select 1 0x2201 1 0 = 101 ∧ s.asOwner (s.role 1) 0 = true ∧ s.formed 0 = true ∧ s.ctxBind 101 = none ∧
      s.slotCtx 0 (s.select 1 0x2201 3 0 % 16) = none) ∧
    (Writable (up {}) 1 0x2210 1 ∧ (up {}).ctxPart 0 = some 0 ∧ (up {}).asOwner ((up {}).role 1) 0 = true ∧ ((up {}).part 0).mapBusy = false) ∧
    (let b := toLE (mapping 0x200000 0x200000 3).toNat 32;
      fieldAt b 1 1 = 0 ∧ fieldAt b 2 2 = 0 ∧ fieldAt b 4 4 = 1 ∧ fieldAt b 8 8 = 0x200000 ∧ fieldAt b 16 8 = 0x200000 ∧ fieldAt b 24 1 = 3 ∧
      slice b 25 7 = List.replicate 7 0 ∧ slabOf 0x200000 = some 0 ∧ ((up {}).slab 0).owner.toNat = 0 ∧ (up {}).mem.retired = [] ∧
      ∀ m ∈ (up {}).mem.maps, m.va + m.size ≤ 0x200000) ∧
    (let b := toLE (mapping 0 0 0).toNat 32;
      fieldAt b 16 8 = 0 ∧ fieldAt b 24 1 = 0 ∧ fieldAt b 8 8 = 0 ∧ fieldAt b 4 4 = 1 ∧
      ∃ m ∈ (up {}).mem.maps, m.ctx.toNat = 0 ∧ m.va = 0 ∧ m.big = false) ∧
    ((((up {}).modPart 0 fun x => { x with mapBusy := true }).part (0 : BitVec 8).toNat).mapBusy = true) ∧
    (let s := hams shardCells shardBlocks none;
      s.select 1 0x2800 1 0 = 0 ∧ s.asOwner (s.role 1) 0 = true ∧ hamFormBad writeReq = false ∧ hamFormBad restoreReq = false ∧ hamFormBad verifyReq = false ∧
      s.ctxPart 0 = some 0 ∧ (hamReq writeReq).ctx = 0 ∧ (hamReq restoreReq).ctx = 0 ∧ (hamReq verifyReq).ctx = 0 ∧
      (hamReq writeReq).planid = (s.part 0).plan.toNat ∧ (hamReq restoreReq).planid = (s.part 0).plan.toNat ∧ (s.part 0).winLen ≠ 0 ∧
      (s.part 0).ham = none ∧ (hamReq writeReq).enc = false ∧ s.quiescent 0 (hamReq restoreReq) (s.ckptKey 0 (hamReq restoreReq).keyid) = true ∧
      s.hamEncrypts 0 (hamReq writeReq) = false ∧ s.hamEncrypts 0 (hamReq restoreReq) = false ∧ s.hamEncrypts 0 (hamReq verifyReq) = false) := by
  unfold Writable
  refine ⟨?_, ?_, ?_, ?_, ?_, ?_⟩ <;> decide +kernel

/-- A BARRIER of three members, an exchange of two units each, and its DATA for the second half. -/
def barrier3 : Slot := { slotOf5 barrierCmd with size := 3 }
def exchange2 : Slot := slotOf5 (shCmd 0x06000600 0x1000 0x2000 2 1)
def dataMsg : Msg := { message 0 (zeros 64) with offset := 2 }
/-- A binding whose last outing's bitmap holds the other site alone; a RECEIPT of the next. -/
def outside0 : Binding := { bound with accepted := { outno := 0, b := 2, l := 0, alpha := 0 } }
def receipt1 : Msg := outMsg 9 (toLE 1 4 ++ zeros 60 ++ [3, 0])

theorem witness_MessageFormsComplete :
    (CollectiveWaits (joined alone [] { cmdQ := [broadcastCmd] }) t0 broadcastCmd 0 0 ∧ rowOf .broadcast broadcastCmd ∧
      (joined alone [] { cmdQ := [broadcastCmd] }).freeSlot 0 = some 0) ∧
    (Names (talks barrier3 (message 4 [])) pair (message 4 []) barrier3 ∧ barrier3.sop = 1 ∧ 1 < barrier3.size ∧ barrier3.doneFrom = [] ∧
      Delivered (talks barrier3 (message 4 [])) 2 4 (message 4 []) pair [] ∧ 1 ∉ barrier3.tokens) ∧
    (Names (talks barrier3 (message 3 (zeros 4))) pair (message 3 (zeros 4)) barrier3 ∧ Delivered (talks barrier3 (message 3 (zeros 4))) 2 3 (message 3 (zeros 4)) pair [] ∧
      fieldAt (message 3 (zeros 4)).payload 0 4 = 0 ∧ barrier3.transfers.length = 0 ∧ 2 < barrier3.size ∧ barrier3.rank = 0) ∧
    (Names (talks rowsSlot (message 2 (zeros 4))) pair (message 2 (zeros 4)) rowsSlot ∧ rowsSlot.sop = 7 ∧ rowsSlot.laid = false ∧ 1 < rowsSlot.size ∧
      rowsSlot.countsFrom = [] ∧ Delivered (talks rowsSlot (message 2 (zeros 4))) 2 2 (message 2 (zeros 4)) pair [] ∧ rowsSlot.transfers.length = 0) ∧
    (Names (talks exchange2 dataMsg) pair dataMsg exchange2 ∧ exchange2.sop = 6 ∧ exchange2.etype = 0 ∧ exchange2.chk = false ∧ exchange2.grantsIn = [] ∧
      exchange2.b0.getLsbD 9 = true ∧ (talks exchange2 dataMsg).lead exchange2.tile = exchange2.tile ∧ Delivered (talks exchange2 dataMsg) 2 0 dataMsg pair [] ∧
      dataMsg.payload.length % 64 = 0 ∧
      exchange2.landing dataMsg (fun k => dataMsg.offset.toNat / k) (fun k => dataMsg.payload.length / k) = some (0, ⟨1, false, true, 2, 2⟩) ∧
      exchange2.addr 4 + 64 * dataMsg.offset.toNat + dataMsg.payload.length ≤ (talks exchange2 dataMsg).span exchange2.tile) ∧
    ((∃ v, OutingDelivered (outHears outside0 receipt1) 2 9 receipt1 outside0 v) ∧ (outHears outside0 receipt1).position outside0 = none ∧
      BitVec.ofNat 32 (fieldAt receipt1.payload 0 4) = outside0.a + 1) := by
  refine ⟨⟨by unfold CollectiveWaits Waits; decide +kernel, Or.inl ⟨(.broadcast, 2), by simp [collectives], rfl, by decide⟩, by decide +kernel⟩,
    ⟨names_talks _ _ rfl rfl rfl rfl, by decide, by decide, rfl, delivered_talks _ _ _ rfl rfl rfl, by decide⟩,
    ⟨names_talks _ _ rfl rfl rfl rfl, delivered_talks _ _ _ rfl rfl rfl, by decide +kernel, by decide +kernel, by decide, rfl⟩,
    ⟨names_talks _ _ rfl rfl rfl rfl, by decide, by decide, by decide, rfl, delivered_talks _ _ _ rfl rfl rfl, by decide +kernel⟩,
    ⟨names_talks _ _ rfl rfl rfl rfl, by decide, by decide, by decide, rfl, by decide, by decide +kernel, delivered_talks _ _ _ rfl rfl rfl, by decide,
      by decide +kernel, by decide +kernel⟩,
    out_delivered _ _ _ rfl rfl rfl rfl, by decide +kernel, by decide +kernel⟩
theorem witness_data_clean : CleanStore (talks exchange2 dataMsg) exchange2.tile := by
  intro i
  show (mapGet {} [(0, ({} : Tile))] _).lsErr = []
  unfold mapGet mapGet
  split <;> rfl

/-! ### What unwraps -/

/-- The device's own key is a key of AES-256, whatever it is. -/
theorem dtk_ok : roundKeysOk (roundKeys (toBE Config.dtk.toNat 32)) := by unfold roundKeysOk; decide +kernel
/-- n half-blocks of zeros, wrapped under the device's own key. -/
def wrapped (n : Nat) : Bytes := kwWrap (toBE Config.dtk.toNat 32) (List.replicate n (zeros 8)).flatten
theorem halves_zero (n : Nat) : ∀ x ∈ List.replicate n (zeros 8), x.length = 8 := by
  intro x hx
  rw [List.eq_of_mem_replicate hx]
  rfl
theorem wrapped_length (n : Nat) : (wrapped n).length = 8 + 8 * n := by
  rw [wrapped, kwWrap_length _ _ dtk_ok (halves_zero n), List.length_replicate]
theorem wrapped_back (n : Nat) (h : n ≠ 0) : kwUnwrap (toBE Config.dtk.toNat 32) (wrapped n) = some (List.replicate n (zeros 8)).flatten :=
  kwUnwrap_kwWrap _ _ dtk_ok (halves_zero n) (by simpa using h)
theorem slice_tail (h t : Bytes) (n k : Nat) (hn : h.length = n) (hk : t.length = k) : slice (h ++ t) n k = t := by
  rw [slice, List.drop_left' hn, fit, List.take_of_length_le (by omega), hk]
  simp [zeros]
theorem slice_head (h t : Bytes) (o n : Nat) (hn : o + n ≤ h.length) : slice (h ++ t) o n = slice h o n := by
  rw [slice, slice, List.drop_append_of_le_length (by omega), fit, fit, List.take_append_of_le_length (by simp; omega)]
  congr 2
  simp only [List.length_append, List.length_drop]
  omega

def opHead : Bytes := [1, 1, 0, 0, 0, 0, 0, 0]
/-- A credential of zeros for the operator, wrapped. -/
def opCred : BitVec 384 := BitVec.ofNat (8 * 48) (leNat (opHead ++ wrapped 4))
theorem opCred_bytes : toLE opCred.toNat 48 = opHead ++ wrapped 4 :=
  toLE_record 48 _ (by rw [List.length_append, wrapped_length]; rfl)
theorem witness_credentialUnwraps : Writable operated 1 0x3140 3 ∧ slice (toLE opCred.toNat 48) 3 5 = List.replicate 5 0 ∧
    fieldAt (toLE opCred.toNat 48) 1 1 = 1 ∧ operated.mgmt.operatorCred = none ∧
    kwUnwrap (toBE Config.dtk.toNat 32) (slice (toLE opCred.toNat 48) 8 40) = some (zeros 32) := by
  rw [opCred_bytes]
  refine ⟨by unfold Writable; decide +kernel, ?_, ?_, rfl, ?_⟩
  · rw [slice_head _ _ _ _ (by decide)]; decide
  · rw [fieldAt, slice_head _ _ _ _ (by decide)]; decide
  · rw [slice_tail opHead _ 8 40 rfl (wrapped_length 4), wrapped_back 4 (by decide)]; rfl

def crkHead : Bytes := [1, 0, 0, 0] ++ toLE 0x00FF0001 4 ++ zeros 24
/-- An INSTALL of the cluster root key, of zeros. -/
def crkRec : BitVec 640 := BitVec.ofNat (8 * 80) (leNat (crkHead ++ wrapped 5))
theorem crkRec_bytes : setByte (toLE crkRec.toNat 80) 0 1 = crkHead ++ wrapped 5 := by
  have : toLE crkRec.toNat 80 = crkHead ++ wrapped 5 := toLE_record 80 _ (by rw [List.length_append, wrapped_length]; rfl)
  rw [this]
  rfl
theorem witness_keyUnwraps : Writable (keyed []) 1 0x3110 2 ∧ fieldAt (setByte (toLE crkRec.toNat 80) 0 1) 4 4 = 0x00FF0001 ∧
    MayKey (keyed []) 1 0x00FF0001 ∧ fieldAt (setByte (toLE crkRec.toNat 80) 0 1) 1 3 = 0 ∧ fieldAt (setByte (toLE crkRec.toNat 80) 0 1) 8 4 = 0 ∧
    zeroBytes (setByte (toLE crkRec.toNat 80) 0 1) 0xC 20 ∧
    (keyed []).unwrapped (setByte (toLE crkRec.toNat 80) 0 1) = some (zeros 40) ∧ fieldAt (zeros 40) 36 4 = 0 ∧ fieldAt (zeros 40) 32 4 = 0 ∧
    (keyed []).key 0x00FF0001 = none ∧ (keyed []).sec.drbg = 1 := by
  rw [crkRec_bytes]
  have f : ∀ o n, o + n ≤ 32 → fieldAt (crkHead ++ wrapped 5) o n = fieldAt crkHead o n := fun o n h => by
    rw [fieldAt, slice_head _ _ _ _ h, fieldAt]
  have id : fieldAt (crkHead ++ wrapped 5) 4 4 = 0x00FF0001 := by rw [f _ _ (by omega)]; decide
  refine ⟨by unfold Writable; decide +kernel, id, .inl ⟨rfl, by decide +kernel, by decide +kernel⟩, ?_, ?_, ?_, ?_, by decide, by decide, by decide +kernel, rfl⟩
  · rw [f _ _ (by omega)]; decide
  · rw [f _ _ (by omega)]; decide
  · rw [zeroBytes, slice_head _ _ _ _ (by decide)]; decide
  · rw [State.unwrapped, id, slice_tail crkHead _ 0x20 48 rfl (wrapped_length 5)]
    have k : (keyed []).wrappingKey 0x00FF0001 = some (toBE Config.dtk.toNat 32) := by
      unfold State.wrappingKey
      rw [show keyClass 0x00FF0001 = 0 by decide +kernel]
      rfl
    rw [k, Option.bind_some, wrapped_back 5 (by decide)]
    decide

end Sys2Proof.Tests
end

section
/-! SUPPORT. Every function of the model leaves the queue of commands as it stood (R8, R411). -/

namespace Sys2Proof.Machine

/-! ### The queue as a function of its own

`s.queue` is `s.pending` behind a definition. The frame lemmas below speak of it, and none of them is by `rfl`: `pending` is a
projection, and to compare it on two large states the kernel would unfold the functions that made them. -/

/-- The commands that wait. -/
def State.queue (s : State) : List Instr := s.pending

/-- An update of any fields but the queue. -/
@[simp] theorem State.queue_update (s : State) (now : DWord) (island free : Nat) (fatal : Bool) (tiles : SMap Tile) (wins : SMap WinRegs)
    (clusters : SMap Cluster) (dies : SMap Die) (parts : SMap Part) (mem : MemSys) (ports : SMap Port) (sh : Shuttle)
    (bindings : List Binding) (time : TimeSys) (integ : Integ) (sec : Security) (mgmt : Mgmt) (tag : Tag) (pwr : Power) (trace : Trace)
    (host : List Host.Cell) :
    (State.mk s.pending now island free fatal tiles wins clusters dies parts mem ports sh bindings time integ sec mgmt tag pwr trace
      host).queue = s.queue := by
  unfold State.queue
  rfl

@[simp] theorem queue_ite (c : Prop) [Decidable c] (a b : State) :
    (if c then a else b).queue = if c then a.queue else b.queue := apply_ite ..

@[simp] theorem fst_queue_ite {α : Type} (c : Prop) [Decidable c] (a b : State × α) :
    (if c then a else b).1.queue = if c then a.1.queue else b.1.queue := apply_ite (fun p : State × α => p.1.queue) ..

/-- What a match on a pair says of its first component. -/
theorem fst_of_eq {α β : Type} {p : α × β} {a : α} {b : β} (h : p = (a, b)) : a = p.1 := by rw [h]

/-! ### Results that keep the queue -/

/-- The result of a function that also answers has the queue of `s`. -/
def State.kept {β : Type} (s : State) (p : State × β) : Prop := p.1.queue = s.queue

@[simp] theorem State.kept_iff {β : Type} (s : State) (p : State × β) : s.kept p ↔ p.1.queue = s.queue := Iff.rfl

/-- A write to the dictionary, where it is taken, leaves the queue of `s`. -/
def Put.keeps (s : State) : Put → Prop
  | .ok u => u.queue = s.queue
  | .refused _ _ => True

@[simp] theorem Put.keeps_ok (s u : State) : (Put.ok u).keeps s ↔ u.queue = s.queue := Iff.rfl

@[simp] theorem Put.keeps_refused (s : State) (code cond : Nat) : (Put.refused code cond).keeps s ↔ True := Iff.rfl

@[simp] theorem Put.keeps_ite (s : State) (c : Prop) [Decidable c] (p q : Put) :
    (if c then p else q).keeps s ↔ if c then p.keeps s else q.keeps s := by
  split <;> rfl

@[simp] theorem Put.keeps_deny (s : State) (bad : Bool) (cond : Nat) (p : Put) :
    (Put.deny bad cond p).keeps s ↔ bad = true ∨ p.keeps s := by
  cases bad <;> simp [Put.deny]

theorem Put.keeps_of_queue {s u : State} {p : Put} (hu : u.queue = s.queue) (h : p.keeps u) : p.keeps s := by
  cases p
  · exact h.trans hu
  · trivial

/-! ### Folds and trials whose steps keep the queue -/

theorem foldl_keeps {α β γ : Type} (g : β → γ) {f : β → α → β} (h : ∀ b x, g (f b x) = g b) (b : β) (xs : List α) :
    g (xs.foldl f b) = g b := by
  induction xs generalizing b with
  | nil => rfl
  | cons x xs ih => exact (ih (f b x)).trans (h b x)

@[simp] theorem foldl_fst_queue {α β : Type} {f : State × β → α → State × β} (h : ∀ (b : State × β) x, b.1.kept (f b x))
    (b : State × β) (xs : List α) : (xs.foldl f b).1.queue = b.1.queue := foldl_keeps (fun b => b.1.queue) h b xs

@[simp] theorem State.each_queue {α : Type} {f : State → α → State} (h : ∀ a x, (f a x).queue = a.queue) (s : State) (xs : List α) :
    (s.each xs f).queue = s.queue := foldl_keeps State.queue h s xs

theorem Trial.andThen_keeps {α β : Type} {s : State} {t : Trial α} {f : State → α → Trial β} (ht : s.kept t)
    (h : ∀ (s : State) a, s.kept (f s a)) : s.kept (t.andThen f) := by
  obtain ⟨s, _ | a⟩ := t
  · exact ht
  · exact (h s a).trans ht

/-! ### Every function on states leaves the queue -/

/-! #### Access to the state (Machine/Ops) -/

@[simp] theorem State.setTile_queue (s : State) (t : Path) (x : Tile) : (s.setTile t x).queue = s.queue := by simp [State.setTile]

@[simp] theorem State.modTile_queue (s : State) (t : Path) (f : Tile → Tile) : (s.modTile t f).queue = s.queue := by
  simp [State.modTile]

@[simp] theorem State.modCluster_queue (s : State) (k : Nat) (f : Cluster → Cluster) : (s.modCluster k f).queue = s.queue := by
  simp [State.modCluster]

@[simp] theorem State.modDie_queue (s : State) (d : Nat) (f : Die → Die) : (s.modDie d f).queue = s.queue := by simp [State.modDie]

@[simp] theorem State.modPart_queue (s : State) (p : Nat) (f : Part → Part) : (s.modPart p f).queue = s.queue := by
  simp [State.modPart]

@[simp] theorem State.modPort_queue (s : State) (p : Nat) (f : Port → Port) : (s.modPort p f).queue = s.queue := by
  simp [State.modPort]

@[simp] theorem State.countPart_queue (s : State) (p : Option Nat) (idx sub n : Nat) :
    (s.countPart p idx sub n).queue = s.queue := by
  unfold State.countPart
  split <;> simp

@[simp] theorem State.freeWord_queue (s : State) : s.freeWord.2.queue = s.queue := by simp [State.freeWord]

@[simp] theorem State.modRegion_queue (s : State) (r : Nat) (f : Region → Region) : (s.modRegion r f).queue = s.queue := by
  simp [State.modRegion]

@[simp] theorem State.pushPacket_queue (s : State) (part : Byte) (path : Path) (kind : Byte) (data : Word) :
    (s.pushPacket part path kind data).1.queue = s.queue := by simp [State.pushPacket]

/-! #### Keystream (Machine/Crypto) -/

@[simp] theorem State.generate_queue (s : State) (n : Nat) : (s.generate n).2.queue = s.queue := by simp [State.generate]

/-! #### Packets (Machine/Fabric) -/

theorem State.post_queue {s : State} {p : Nat} {ctx : BitVec 12} {m : Msg} {x : Nat × State} (h : s.post p ctx m = some x) :
    x.2.queue = s.queue := by
  unfold State.post at h
  split at h
  · cases h
  · cases h; rfl

@[simp] theorem State.sendControl_queue (s : State) (c : Nat) (words : List Nat) : (s.sendControl c words).queue = s.queue := by
  simp [State.sendControl]

/-! #### Events and faults (Machine/Events) -/

@[simp] theorem State.append_queue (s : State) (r : EventRec) : (s.append r).queue = s.queue := by simp [State.append]
@[simp] theorem State.eventPacket_queue (s : State) (r : EventRec) : (s.eventPacket r).1.queue = s.queue := by simp [State.eventPacket]
@[simp] theorem State.traceLost_queue (s : State) (part : Byte) : (s.traceLost part).queue = s.queue := by simp [State.traceLost]

@[simp] theorem State.trace'_queue (s : State) (part : Byte) (path : Path) (kind : Byte) (data : Word) :
    (s.trace' part path kind data).queue = s.queue := by simp [State.trace']

@[simp] theorem State.tilePacket_queue (s : State) (path : Path) (kind : Byte) (data : Word) :
    (s.tilePacket path kind data).queue = s.queue := by simp [State.tilePacket]

@[simp] theorem State.log_queue (s : State) (e : Ev) : (s.log e).queue = s.queue := by simp [State.log]

@[simp] theorem State.sendAbort_queue (s : State) (ctx : BitVec 12) (n : BitVec 4) (x : Slot) (reason : Word) (q : Nat) :
    (s.sendAbort ctx n x reason q).queue = s.queue := by
  unfold State.sendAbort
  split
  · rfl
  · split
    · next e => exact State.post_queue e
    · rfl

@[simp] theorem State.endSlot_queue (s : State) (key : Nat) (reason : Word) : (s.endSlot key reason).queue = s.queue := by
  unfold State.endSlot
  split <;> simp

@[simp] theorem State.markFault_queue (s : State) (t : Path) (code : Nat) : (s.markFault t code).queue = s.queue := by
  simp [State.markFault]

@[simp] theorem State.endExchanges_queue (s : State) (p : Nat) : (s.endExchanges p).queue = s.queue := by
  unfold State.endExchanges
  refine State.each_queue (fun a b => ?_) _ _
  split <;> rfl

@[simp] theorem State.stopPartition_queue (s : State) (p : Nat) (reason : Word) : (s.stopPartition p reason).queue = s.queue := by
  simp [State.stopPartition]

@[simp] theorem State.partitionFault_queue (s : State) (e : Ev) (reason : Option Nat) :
    (s.partitionFault e reason).queue = s.queue := by
  unfold State.partitionFault
  cases reason <;> simp only [State.stopPartition_queue, State.freeWord_queue, queue_ite, ite_self] <;> split <;> simp

@[simp] theorem State.freezeTrace_queue (s : State) (why : Nat) : (s.freezeTrace why).queue = s.queue := by simp [State.freezeTrace]
@[simp] theorem State.startTrace_queue (s : State) : s.startTrace.queue = s.queue := by simp [State.startTrace]
@[simp] theorem State.fatalClose_queue (s : State) (c : Nat) : (s.fatalClose c).queue = s.queue := by simp [State.fatalClose]
@[simp] theorem State.abandonAll_queue (s : State) (r : EventRec) : (s.abandonAll r).queue = s.queue := by simp [State.abandonAll]

@[simp] theorem State.takeCapture_queue (s : State) (r : EventRec) (log : List EventRec) :
    (s.takeCapture r log).queue = s.queue := by simp [State.takeCapture]

@[simp] theorem State.deviceFatal_queue (s : State) (r : EventRec) : (s.deviceFatal r).queue = s.queue := by simp [State.deviceFatal]

@[simp] theorem State.raiseWith_queue (s : State) (e : Ev) (reason : Option Nat) : (s.raiseWith e reason).queue = s.queue := by
  unfold State.raiseWith
  dsimp only
  split
  · simp
  · split
    · split <;> simp
    · simp

@[simp] theorem State.raise_queue (s : State) (e : Ev) : (s.raise e).queue = s.queue := by simp [State.raise]

@[simp] theorem State.raiseTile_queue (s : State) (t : Path) (code : Nat) (stag : Option Word) (detail : Bytes)
    (injected : Bool) : (s.raiseTile t code stag detail injected).queue = s.queue := by simp [State.raiseTile]

@[simp] theorem State.refuse_queue (s : State) (code : Nat) (path : Option Path) (part ctx source cond index sub arg : Nat)
    (more : Bytes) : (s.refuse code path part ctx source cond index sub arg more).queue = s.queue := by simp [State.refuse]

/-! #### Local store (Machine/Operands) -/

@[simp] theorem State.checkWords_queue (s : State) (t : Path) (lo hi : Nat) : (s.checkWords t lo hi).1.queue = s.queue := by
  unfold State.checkWords
  dsimp only
  split <;> simp

@[simp] theorem State.readLS_queue (s : State) (t : Path) (a len : Nat) : (s.readLS t a len).1.queue = s.queue := by
  simp [State.readLS]

@[simp] theorem State.pokeLS_queue (s : State) (t : Path) (fuel a : Nat) (bs : Bytes) :
    (s.pokeLS t fuel a bs).queue = s.queue := by
  induction fuel generalizing s a bs with
  | zero => rfl
  | succ fuel ih => simp [State.pokeLS, ih]

@[simp] theorem State.writeLS_queue (s : State) (t : Path) (a : Nat) (bs : Bytes) : (s.writeLS t a bs).1.queue = s.queue := by
  simp [State.writeLS]

@[simp] theorem State.setCurrent_queue (s : State) (k : Nat) (new : BitVec 8) : (s.setCurrent k new).queue = s.queue := by
  simp [State.setCurrent]

@[simp] theorem State.wake_queue (s : State) (k : Nat) : (s.wake k).queue = s.queue := by simp [State.wake]

/-! #### Tier memory and translation (Machine/Memory) -/

@[simp] theorem State.modSlab_queue (s : State) (n : Nat) (f : Slab → Slab) : (s.modSlab n f).queue = s.queue := by
  simp [State.modSlab]

@[simp] theorem State.fillTlb_queue (s : State) (who : Mover) (p : PageMap) : (s.fillTlb who p).queue = s.queue := by
  unfold State.fillTlb
  split <;> simp

@[simp] theorem State.translate_queue (s : State) (who : Mover) (ctx : BitVec 12) (va : Nat) :
    (s.translate who ctx va).1.queue = s.queue := by
  unfold State.translate
  split
  · rfl
  · split <;> simp

@[simp] theorem State.xlate_queue (s : State) (who : Mover) (ctx : BitVec 12) (va : Nat) (write : Bool) :
    (s.xlate who ctx va write).1.queue = s.queue := by
  unfold State.xlate
  split <;> next h => simp [fst_of_eq h]

@[simp] theorem State.modBlock_queue (s : State) (pa : Nat) (f : Block → Block) : (s.modBlock pa f).queue = s.queue := by
  simp [State.modBlock]

@[simp] theorem State.newTag_queue (s : State) (engine : Nat) : (s.newTag engine).2.queue = s.queue := by simp [State.newTag]

@[simp] theorem State.countRequest_queue (s : State) (part pa : Nat) : (s.countRequest part pa).queue = s.queue := by
  simp [State.countRequest]

@[simp] theorem State.lineRead_queue (s : State) (part pa : Nat) : (s.lineRead part pa).queue = s.queue := by simp [State.lineRead]

@[simp] theorem State.lineWrite_queue (s : State) (part pa : Nat) (bs : Bytes) (tag : Option (BitVec 24)) :
    (s.lineWrite part pa bs tag).queue = s.queue := by simp [State.lineWrite]

@[simp] theorem State.readVA_queue (s : State) (who : Mover) (part : Nat) (ctx : BitVec 12) (va len : Nat) :
    (s.readVA who part ctx va len).1.queue = s.queue := by
  unfold State.readVA
  refine foldl_fst_queue (fun acc p => ?_) _ _
  split
  · rfl
  · split <;> next e => simp [fst_of_eq e]

@[simp] theorem State.writeVA_queue (s : State) (who : Mover) (part : Nat) (ctx : BitVec 12) (va : Nat) (bs : Bytes) :
    (s.writeVA who part ctx va bs).1.queue = s.queue := by
  unfold State.writeVA
  refine foldl_fst_queue (fun acc p => ?_) _ _
  split
  · rfl
  · split <;> next e => simp [fst_of_eq e]

@[simp] theorem State.writeBlock_queue (s : State) (who : Mover) (engine part : Nat) (ctx : BitVec 12) (va : Nat) (bs : Bytes) :
    (s.writeBlock who engine part ctx va bs).1.queue = s.queue := by
  unfold State.writeBlock
  dsimp only
  generalize hr : List.foldl _ _ _ = r
  have h : r.1.queue = s.queue := by
    rw [← hr, foldl_fst_queue]
    · simp
    · intro acc p
      split
      · rfl
      · split <;> next e => simp [fst_of_eq e]
  split
  · exact h
  · split <;> next e => simp [fst_of_eq e, h]

@[simp] theorem State.countVerify_queue (s : State) (v : Verdict) : (s.countVerify v).queue = s.queue := by
  unfold State.countVerify
  split <;> simp

@[simp] theorem State.fillLine_queue (s : State) (part : Nat) (via : PageMap) (pa : Nat) :
    (s.fillLine part via pa).queue = s.queue := by
  unfold State.fillLine
  dsimp only
  split
  · rfl
  · split
    · rfl
    · split <;> rfl

@[simp] theorem State.prefetch_queue (s : State) (who : Mover) (part : Nat) (ctx : BitVec 12) (va len : Nat) :
    (s.prefetch who part ctx va len).queue = s.queue := by
  unfold State.prefetch
  refine State.each_queue (fun a p => ?_) _ _
  split <;> next e => simp [fst_of_eq e]

@[simp] theorem State.correctTier_queue (s : State) (pa n : Nat) : (s.correctTier pa n).queue = s.queue := by simp [State.correctTier]
@[simp] theorem State.memoryUe_queue (s : State) (pa : Nat) : (s.memoryUe pa).queue = s.queue := by simp [State.memoryUe]

@[simp] theorem State.lineErrors_queue (s : State) (pa : Nat) (errs : List (BitVec 4 × BitVec 8)) :
    (s.lineErrors pa errs).1.queue = s.queue := by simp [State.lineErrors]

/-! #### Firing (Machine/Firing) -/

@[simp] theorem State.fireFault_queue (s : State) (l : Path) (cause i : Nat) : (s.fireFault l cause i).queue = s.queue := by
  simp [State.fireFault]

@[simp] theorem State.quiesce_queue (s : State) (l : Path) : (s.quiesce l).queue = s.queue := by simp [State.quiesce]

@[simp] theorem State.enterFiring_queue (s : State) (l : Path) : (s.enterFiring l).queue = s.queue := by
  unfold State.enterFiring
  dsimp only
  split
  · simp
  · split
    · next e => simp [fst_of_eq e]
    · next e =>
      split
      · simp [fst_of_eq e]
      · split
        · simp [fst_of_eq e]
        · split
          · next e' => simp [fst_of_eq e', fst_of_eq e]
          · next e' => split <;> simp [fst_of_eq e', fst_of_eq e]

@[simp] theorem State.setItemByte_queue (s : State) (l : Path) (i off : Nat) (b : Byte) :
    (s.setItemByte l i off b).queue = s.queue := by simp [State.setItemByte]

@[simp] theorem State.arrive_queue (s : State) (l : Path) (i : Nat) : (s.arrive l i).queue = s.queue := by simp [State.arrive]
@[simp] theorem State.itemDone_queue (s : State) (l : Path) (i : Nat) : (s.itemDone l i).queue = s.queue := by simp [State.itemDone]

@[simp] theorem State.setFiring_queue (s : State) (l : Path) (on : Bool) : (s.setFiring l on).queue = s.queue := by
  unfold State.setFiring
  dsimp only
  split <;> simp

@[simp] theorem State.applyLater_queue (s : State) (l : Path) (what : Later) : (s.applyLater l what).queue = s.queue := by
  unfold State.applyLater
  split <;> simp

@[simp] theorem State.atNext_queue (s : State) (l : Path) (b : Later) : (s.atNext l b).queue = s.queue := by simp [State.atNext]
@[simp] theorem State.settle_queue (s : State) (l : Path) : (s.settle l).queue = s.queue := by simp [State.settle]

/-! #### The sequencer (Machine/Seq) -/

@[simp] theorem State.retire_queue (s : State) (l : Path) (f : Tile → Tile) : (s.retire l f).queue = s.queue := by simp [State.retire]

@[simp] theorem State.retireBranch_queue (s : State) (l : Path) (target : Option Word) (f : Tile → Tile) :
    (s.retireBranch l target f).queue = s.queue := by simp [State.retireBranch]

@[simp] theorem State.raiseExc_queue (s : State) (l : Path) (cause : Nat) (epc : Option Word) (detail insn : Word) :
    (s.raiseExc l cause epc detail insn).queue = s.queue := by simp [State.raiseExc]

@[simp] theorem State.illegal_queue (s : State) (l : Path) (insn : Word) : (s.illegal l insn).queue = s.queue := by
  simp [State.illegal]

@[simp] theorem State.jumpTo_queue (s : State) (l : Path) (insn target : Word) (f : Tile → Tile) :
    (s.jumpTo l insn target f).queue = s.queue := by simp [State.jumpTo]

/-! #### Exceptions (Machine/Except) -/

@[simp] theorem State.crash_queue (s : State) (l : Path) (e : Exc) (code : Nat) : (s.crash l e code).queue = s.queue := by
  simp [State.crash]

@[simp] theorem State.enterExc_queue (s : State) (l : Path) (e : Exc) : (s.enterExc l e).queue = s.queue := by
  unfold State.enterExc
  dsimp only
  split
  · simp
  · split
    · simp
    · split <;> next e => simp [fst_of_eq e]

/-! #### Descriptors and command queues (Machine/Queue) -/

@[simp] theorem State.readDesc_queue (s : State) (l : Path) (a : Nat) : (s.readDesc l a).1.queue = s.queue := by
  unfold State.readDesc
  dsimp only
  split
  · rfl
  · split
    · next e => simp [fst_of_eq e]
    · next e =>
      have hs := fst_of_eq e
      split
      · simp [hs]
      · split
        · simp [hs]
        · split
          · simp [hs]
          · split <;> next e' => simp [fst_of_eq e', hs]

@[simp] theorem State.refuseDesc_queue (s : State) (l : Path) (code cond : Nat) (head : Bytes) :
    (s.refuseDesc l code cond head).queue = s.queue := by simp [State.refuseDesc]

@[simp] theorem State.launchCmd_queue (s : State) (l : Path) (c : Command) : (s.launchCmd l c).queue = s.queue := by
  simp [State.launchCmd]

@[simp] theorem State.finish_queue (s : State) (l : Path) (c : Command) : (s.finish l c).queue = s.queue := by simp [State.finish]

@[simp] theorem State.failCmd_queue (s : State) (l : Path) (c : Command) (code : Nat) (detail : Bytes) (injected : Bool) :
    (s.failCmd l c code detail injected).queue = s.queue := by simp [State.failCmd]

@[simp] theorem State.complete_queue (s : State) (l : Path) (c : Command) : (s.complete l c).queue = s.queue := by
  unfold State.complete
  dsimp only
  split <;> simp

/-! #### Counters and samples (Machine/Sample) -/

@[simp] theorem State.checkLS_queue (s : State) (l : Path) (ranges : List (Nat × Nat)) :
    (s.checkLS l ranges).1.queue = s.queue := by
  unfold State.checkLS
  refine foldl_fst_queue (fun acc r => ?_) _ _
  split
  · split <;> next e => simp [fst_of_eq e]
  · rfl

@[simp] theorem State.sampled_queue (s : State) (l : Path) (c : Command) (cands : List Capture) :
    (s.sampled l c cands).queue = s.queue := by simp [State.sampled]

@[simp] theorem State.seedChecker_queue (s : State) (k : Nat) : (s.seedChecker k).queue = s.queue := by simp [State.seedChecker]

@[simp] theorem State.arrays_queue (s : State) (l : Path) (f : ArrayLevel → ArrayLevel) : (s.arrays l f).queue = s.queue := by
  simp [State.arrays]

/-! #### The array (Machine/Array) -/

@[simp] theorem State.writeD_queue (s : State) (l : Path) (d : ArrCmd) (rows : List (Bytes × Bytes)) :
    (s.writeD l d rows).queue = s.queue := by simp [State.writeD]

@[simp] theorem State.countSkips_queue (s : State) (l : Path) (d : ArrCmd) (rd : Nat → Byte) :
    (s.countSkips l d rd).queue = s.queue := by simp [State.countSkips]

@[simp] theorem State.freeBytes_queue (s : State) (n : Nat) : (s.freeBytes n).1.queue = s.queue := by
  induction n generalizing s with
  | zero => rfl
  | succ n ih => simp [State.freeBytes, ih]

@[simp] theorem State.partialD_queue (s : State) (l : Path) (d : ArrCmd) (t : Nat × Nat) :
    (s.partialD l d t).queue = s.queue := by simp [State.partialD]

@[simp] theorem State.arrayPulse_queue (s : State) (l : Path) : (s.arrayPulse l).queue = s.queue := by simp [State.arrayPulse]

@[simp] theorem State.arrayWork_queue (s : State) (l : Path) (c : Command) (d : ArrCmd) :
    (s.arrayWork l c d).queue = s.queue := by
  unfold State.arrayWork
  dsimp only
  split
  · next e => simp [fst_of_eq e]
  · next e => split <;> simp [fst_of_eq e]

@[simp] theorem State.underlay_queue (s : State) (l : Path) (n : Nat) : (s.underlay l n).queue = s.queue := by simp [State.underlay]

@[simp] theorem State.arrayCmd_queue (s : State) (l : Path) (c : Command) : (s.arrayCmd l c).queue = s.queue := by
  unfold State.arrayCmd
  dsimp only
  split <;> simp

/-! #### The vector unit (Machine/Vector) -/

@[simp] theorem State.vecLoad_queue (s : State) (l : Path) (c : VecCtx) (x : Tile) : (s.vecLoad l c x).1.queue = s.queue := by
  unfold State.vecLoad
  -- By cases on what is read and not by `split`: the kernel would run the read to compare the matches.
  refine foldl_fst_queue (fun acc i => ?_) _ _
  obtain ⟨acc, _ | ws⟩ := acc
  · exact rfl
  · rw [State.kept_iff]
    have h := State.readLS_queue acc l (c.laneAddr x i) 4
    generalize State.readLS acc l (c.laneAddr x i) 4 = r at h ⊢
    obtain ⟨s', _ | bs⟩ := r <;> exact h

@[simp] theorem State.vecStore_queue (s : State) (l : Path) (c : VecCtx) (x : Tile) : (s.vecStore l c x).queue = s.queue := by
  simp [State.vecStore]

@[simp] theorem State.vecMove_queue (s : State) (l : Path) (c : VecCtx) (t : Path) : (s.vecMove l c t).queue = s.queue := by
  unfold State.vecMove
  split
  · split <;> next e => simp [fst_of_eq e]
  · simp

@[simp] theorem State.vecFault_queue (s : State) (l : Path) (j code : Nat) (w pc : Word) (addr : Nat) :
    (s.vecFault l j code w pc addr).queue = s.queue := by simp [State.vecFault]

@[simp] theorem State.vecAdvance_queue (s : State) (l : Path) (vop : Nat) (mode : Word) :
    (s.vecAdvance l vop mode).queue = s.queue := by simp [State.vecAdvance]

@[simp] theorem State.vecEffect_queue (s : State) (l : Path) (w sa sb pc step mode : Word) :
    (s.vecEffect l w sa sb pc step mode).queue = s.queue := by
  unfold State.vecEffect
  dsimp only
  split
  · simp
  · split
    · split <;> simp
    · split <;> simp

@[simp] theorem State.runVec_queue (s : State) (l : Path) (w sa sb pc step mode : Word) :
    (s.runVec l w sa sb pc step mode).queue = s.queue := by simp [State.runVec]

@[simp] theorem State.drainVec_queue (s : State) (l : Path) (fuel : Nat) : (s.drainVec l fuel).queue = s.queue := by
  induction fuel generalizing s with
  | zero => rfl
  | succ fuel ih =>
    unfold State.drainVec
    split
    · rfl
    · split
      · rfl
      · simp [ih]

@[simp] theorem State.vecRun_queue (s : State) (l : Path) : (s.vecRun l).queue = s.queue := by simp [State.vecRun]

/-! #### Reductions (Machine/Reduce) -/

@[simp] theorem State.redCmd_queue (s : State) (l : Path) (c : Command) : (s.redCmd l c).queue = s.queue := by
  unfold State.redCmd
  dsimp only
  split
  · simp
  · split <;> next e => simp [fst_of_eq e]

@[simp] theorem State.routeWrite_queue (s : State) (l : Path) (d : RouteCmd) (a : Routing) :
    (s.routeWrite l d a).queue = s.queue := by simp [State.routeWrite]

@[simp] theorem State.routeWork_queue (s : State) (l : Path) (c : Command) : (s.routeWork l c).queue = s.queue := by
  unfold State.routeWork
  dsimp only
  split
  · simp
  · split
    · next e => simp [fst_of_eq e]
    · next e => split <;> simp [fst_of_eq e]

@[simp] theorem State.blockRun_queue (s : State) (l : Path) (c : Command) {work : State → State} (h : (work s).queue = s.queue) :
    (s.blockRun l c work).queue = s.queue := by simp [State.blockRun, h]

@[simp] theorem State.occWork_queue (s : State) (l : Path) (c : Command) : (s.occWork l c).queue = s.queue := by
  unfold State.occWork
  dsimp only
  split
  · simp
  · split <;> next e => simp [fst_of_eq e]

@[simp] theorem State.qy4Work_queue (s : State) (l : Path) (c : Command) : (s.qy4Work l c).queue = s.queue := by
  unfold State.qy4Work
  dsimp only
  split
  · simp
  · split <;> next e => simp [fst_of_eq e]

/-! #### The access units (Machine/Access) -/

@[simp] theorem State.accFault_queue (s : State) (a : AccCtx) (code va : Nat) : (s.accFault a code va).queue = s.queue := by
  simp [State.accFault]

@[simp] theorem State.accEnd_queue (s : State) (a : AccCtx) (m : Met) : (s.accEnd a m).queue = s.queue := by
  unfold State.accEnd
  split <;> simp

@[simp] theorem State.readRows_queue (s : State) (a : AccCtx) : (s.readRows a).1.queue = s.queue := by
  unfold State.readRows
  refine foldl_fst_queue (fun acc r => ?_) _ _
  split
  · rfl
  · simp

@[simp] theorem State.fillRows_queue (s : State) (l : Path) (d : AccCmd) (bs : Bytes) : (s.fillRows l d bs).queue = s.queue := by
  simp [State.fillRows]

@[simp] theorem State.copyLoad_queue (s : State) (a : AccCtx) : (s.copyLoad a).queue = s.queue := by
  unfold State.copyLoad
  dsimp only
  split <;> simp

@[simp] theorem State.readBlocks_queue (s : State) (who : Mover) (reader p : Nat) (ctx : BitVec 12) (va n : Nat) :
    (s.readBlocks who reader p ctx va n).1.queue = s.queue := by
  induction n generalizing s va with
  | zero => rfl
  | succ n ih =>
    unfold State.readBlocks
    split
    · next e => simp [fst_of_eq e]
    · next e =>
      dsimp only
      split
      · split <;> simp [fst_of_eq e, ih]
      · simp [fst_of_eq e]

@[simp] theorem State.readChecked_queue (s : State) (a : AccCtx) : (s.readChecked a).1.queue = s.queue := by
  unfold State.readChecked
  refine foldl_fst_queue (fun acc i => ?_) _ _
  split
  · split; next e => simp [fst_of_eq e]
  · rfl

@[simp] theorem State.copyLoadChk_queue (s : State) (a : AccCtx) : (s.copyLoadChk a).queue = s.queue := by
  unfold State.copyLoadChk
  dsimp only
  split <;> simp

@[simp] theorem State.transpose_queue (s : State) (a : AccCtx) : (s.transpose a).queue = s.queue := by simp [State.transpose]

@[simp] theorem State.gatherRow_queue (s : State) (a : AccCtx) (r : Nat) : (s.gatherRow a r).1.queue = s.queue := by
  simp [State.gatherRow]

@[simp] theorem State.gather_queue (s : State) (a : AccCtx) : (s.gather a).queue = s.queue := by
  unfold State.gather
  split
  · next e => simp [fst_of_eq e]
  · next e =>
    simp only [State.accEnd_queue]
    rw [foldl_fst_queue]
    · simp [fst_of_eq e]
    · intro acc r
      split <;> simp

@[simp] theorem State.prefetchRows_queue (s : State) (a : AccCtx) : (s.prefetchRows a).queue = s.queue := by simp [State.prefetchRows]

@[simp] theorem State.place_queue (s : State) (target : Path) (plan : LoadPlan) : (s.place target plan).queue = s.queue := by
  unfold State.place
  split
  · split <;> next e => simp [fst_of_eq e]
  · rfl

@[simp] theorem State.progload_queue (s : State) (a : AccCtx) : (s.progload a).queue = s.queue := by
  unfold State.progload
  dsimp only
  split
  · simp
  · split
    · simp
    · split <;> simp

@[simp] theorem State.copyStore_queue (s : State) (a : AccCtx) : (s.copyStore a).queue = s.queue := by
  unfold State.copyStore
  simp only [State.accEnd_queue]
  refine foldl_fst_queue (fun acc r => ?_) _ _
  split <;> simp

@[simp] theorem State.copyStoreChk_queue (s : State) (a : AccCtx) : (s.copyStoreChk a).queue = s.queue := by
  unfold State.copyStoreChk
  simp only [State.accEnd_queue]
  refine foldl_fst_queue (fun acc r => ?_) _ _
  split <;> simp

@[simp] theorem State.ybfFault_queue (s : State) (a : AccCtx) (code blk : Nat) : (s.ybfFault a code blk).queue = s.queue := by
  simp [State.ybfFault]

@[simp] theorem State.expandBlock_queue (s : State) (a : AccCtx) (code : List (Nat × Nat × Nat)) (seglen off i : Nat) :
    (s.expandBlock a code seglen off i).1.queue = s.queue := by
  unfold State.expandBlock
  split
  · simp
  · split
    · next e => simp [fst_of_eq e]
    · next e =>
      split
      · simp [fst_of_eq e]
      · split
        · next e' => simp [fst_of_eq e', fst_of_eq e]
        · next e' =>
          split
          · simp [fst_of_eq e', fst_of_eq e]
          · dsimp only
            split
            · split <;> simp [fst_of_eq e', fst_of_eq e]
            · simp [fst_of_eq e', fst_of_eq e]

@[simp] theorem State.expandBlocks_queue (s : State) (a : AccCtx) (code : List (Nat × Nat × Nat)) (seglen n off : Nat)
    (i : Nat) : (s.expandBlocks a code seglen n off i).queue = s.queue := by
  induction n generalizing s off i with
  | zero => simp [State.expandBlocks]
  | succ n ih =>
    unfold State.expandBlocks
    split <;> next e => simp [ih, fst_of_eq e]

@[simp] theorem State.expand_queue (s : State) (a : AccCtx) : (s.expand a).queue = s.queue := by
  unfold State.expand
  split <;> next h => simp [fst_of_eq h]

@[simp] theorem State.storeBlocks_queue (s : State) (a : AccCtx) (off : Nat) (bs : List Bytes) :
    (s.storeBlocks a off bs).1.queue = s.queue := by
  induction bs generalizing s off with
  | nil => rfl
  | cons b bs ih =>
    unfold State.storeBlocks
    split
    · rfl
    · split <;> next e => simp [ih, fst_of_eq e]

@[simp] theorem State.compress_queue (s : State) (a : AccCtx) : (s.compress a).queue = s.queue := by
  unfold State.compress
  dsimp only
  split
  · next e => simp [fst_of_eq e]
  · next e =>
    split
    · next e' => simp [fst_of_eq e', fst_of_eq e]
    · next e' =>
      split
      · next e'' => simp [fst_of_eq e'', fst_of_eq e', fst_of_eq e]
      · next e'' => split <;> simp [fst_of_eq e'', fst_of_eq e', fst_of_eq e]

@[simp] theorem State.accDispatch_queue (s : State) (unit : Nat) {work : State → AccCtx → State}
    (h : ∀ s a, (work s a).queue = s.queue) (l : Path) (c : Command) : (s.accDispatch unit work l c).queue = s.queue := by
  unfold State.accDispatch
  dsimp only
  split
  · simp
  · split
    · simp
    · exact h _ _

@[simp] theorem State.storing_queue {work : State → AccCtx → State} (h : ∀ s a, (work s a).queue = s.queue) (s : State)
    (a : AccCtx) : (State.storing work s a).queue = s.queue := by
  unfold State.storing
  split
  · next e => simp [fst_of_eq e]
  · next e => simp [h, fst_of_eq e]

/-! #### Doorbells (Machine/Doorbell) -/

@[simp] theorem State.unstop_queue (s : State) (p : Nat) : (s.unstop p).queue = s.queue := by simp [State.unstop]

@[simp] theorem State.applyDoorbell_queue (s : State) (cmd : Nat) (arg : BitVec 40) (t : Path) :
    (s.applyDoorbell cmd arg t).queue = s.queue := by
  unfold State.applyDoorbell
  split <;> simp

@[simp] theorem State.setResult_queue (s : State) (win : WinAddr) (r : BitVec 4) : (s.setResult win r).queue = s.queue := by
  simp [State.setResult]

@[simp] theorem State.doorbell_queue (s : State) (win : WinAddr) (cmd : Nat) (ctx : BitVec 12) (rsv : BitVec 4)
    (arg : BitVec 40) : (s.doorbell win cmd ctx rsv arg).queue = s.queue := by
  unfold State.doorbell
  split
  · rfl
  · split
    · simp
    · dsimp only
      split <;> simp

/-! #### Writes to the dictionary (Machine/Session) -/

@[simp] theorem State.setSelect_queue (s : State) (ses : Ses) (idx sub d v : Nat) :
    (s.setSelect ses idx sub d v).queue = s.queue := by simp [State.setSelect]

@[simp] theorem State.refuseWrite_queue (s : State) (w : WriteReq) (source code cond : Nat) :
    (s.refuseWrite w source code cond).queue = s.queue := by
  unfold State.refuseWrite
  dsimp only
  split <;> simp

@[simp] theorem State.roleDenied_queue (s : State) (w : WriteReq) : (s.roleDenied w).queue = s.queue := by simp [State.roleDenied]

@[simp] theorem State.putStatus_queue (s : State) (w : WriteReq) {h : State → Role → Put} (hh : ∀ r, (h s r).keeps s) :
    (s.putStatus w h).1.queue = s.queue := by
  unfold State.putStatus
  dsimp only
  split
  · simp
  · split
    · simp
    · have hput := hh (s.role w.ses)
      split
      · next e => rwa [e] at hput
      · simp

@[simp] theorem State.requestRefused_queue (s : State) (w : WriteReq) (source code cond : Nat) (slot : Option Nat)
    (f : Part → Part) : (s.requestRefused w source code cond slot f).queue = s.queue := by
  unfold State.requestRefused
  split <;> simp

/-! #### Mappings, slabs and pages (Machine/Mapping) -/

@[simp] theorem State.newKey_queue (s : State) : s.newKey.2.queue = s.queue := by
  unfold State.newKey
  split <;> simp

@[simp] theorem State.beginScrub_queue (s : State) (n : Nat) (owner : BitVec 8) : (s.beginScrub n owner).queue = s.queue := by
  simp [State.beginScrub]

@[simp] theorem State.slabPut_keeps (s : State) (n : Nat) (owner : BitVec 8) : (s.slabPut n owner).keeps s := by simp [State.slabPut]

@[simp] theorem State.putSlabOwner_keeps (s : State) (ses : Ses) (r : Role) (v : BitVec 8) :
    (s.putSlabOwner ses r v).keeps s := by
  unfold State.putSlabOwner
  dsimp only
  split <;> simp

@[simp] theorem State.putRekey_keeps (s : State) (ses : Ses) (r : Role) (v : BitVec 8) : (s.putRekey ses r v).keeps s := by
  unfold State.putRekey
  dsimp only
  split <;> simp

@[simp] theorem State.wipeSlab_queue (s : State) (n : Nat) : (s.wipeSlab n).queue = s.queue := by simp [State.wipeSlab]

@[simp] theorem State.unmapPages_queue (s : State) (p : Nat) (gone : List PageMap) : (s.unmapPages p gone).queue = s.queue := by
  simp [State.unmapPages]

@[simp] theorem State.mapWait_queue (s : State) (p : Nat) : (s.mapWait p).queue = s.queue := by simp [State.mapWait]
@[simp] theorem State.mapEnd_queue (s : State) (p code : Nat) : (s.mapEnd p code).queue = s.queue := by simp [State.mapEnd]
@[simp] theorem State.bindCtx_queue (s : State) (c p slot : Nat) : (s.bindCtx c p slot).queue = s.queue := by simp [State.bindCtx]
@[simp] theorem State.unbindCtx_queue (s : State) (c p : Nat) : (s.unbindCtx c p).queue = s.queue := by simp [State.unbindCtx]

@[simp] theorem State.putCtxPart_keeps (s : State) (ses : Ses) (r : Role) (v : BitVec 8) : (s.putCtxPart ses r v).keeps s := by
  unfold State.putCtxPart
  dsimp only
  split
  · split <;> simp
  · simp

@[simp] theorem State.purgeTlbs_queue (s : State) (f : PageMap → Bool) : (s.purgeTlbs f).queue = s.queue := by simp [State.purgeTlbs]

@[simp] theorem State.mapDo_queue (s : State) (p : Nat) (q : MapReq) : (s.mapDo p q).queue = s.queue := by
  unfold State.mapDo
  split <;> simp

@[simp] theorem State.putMap_keeps (s : State) (w : WriteReq) (r : Role) : (s.putMap w r).keeps s := by
  unfold State.putMap
  dsimp only
  split <;> simp

@[simp] theorem State.putRetire_keeps (s : State) (r : Role) (page : Nat) : (s.putRetire r page).keeps s := by simp [State.putRetire]

@[simp] theorem State.descEnd_queue (s : State) (who : Mover) (p : Nat) (ctx : BitVec 12) (va off n : Nat) :
    (s.descEnd who p ctx va off n).1.queue = s.queue := by
  induction n generalizing s off with
  | zero => rfl
  | succ n ih =>
    unfold State.descEnd
    split <;> next e => simp [ih, fst_of_eq e]

@[simp] theorem State.readImage_queue (s : State) (who : Mover) (p : Nat) (ctx : BitVec 12) (va : Nat) :
    (s.readImage who p ctx va).1.queue = s.queue := by
  unfold State.readImage
  split
  · next e => simp [fst_of_eq e]
  · next e =>
    split
    · simp [fst_of_eq e]
    · split
      · next e' => simp [fst_of_eq e', fst_of_eq e]
      · next e' =>
        dsimp only
        split <;> next e'' => simp [fst_of_eq e'', fst_of_eq e', fst_of_eq e]

@[simp] theorem State.loadRefused_queue (s : State) (slot : Option Nat) (w : WriteReq) (source code cond : Nat) :
    (s.loadRefused slot w source code cond).queue = s.queue := by simp [State.loadRefused]

@[simp] theorem State.loadRun_queue (s : State) (w : WriteReq) (p : Nat) (held : Ses × BitVec 128) :
    (s.loadRun w p held).queue = s.queue := by
  unfold State.loadRun
  dsimp only
  split
  · simp
  · split
    · simp
    · split
      · simp
      · split <;> simp

@[simp] theorem State.putLoad_keeps (s : State) (w : WriteReq) (r : Role) (held : Ses × BitVec 128) :
    (s.putLoad w r held).keeps s := by
  unfold State.putLoad
  dsimp only
  split
  · simp
  · split
    · simp
    · split
      · split <;> simp
      · simp

/-! #### Links (Machine/Link) -/

@[simp] theorem State.linkEvent_queue (s : State) (c code part : Nat) (more : Bytes) :
    (s.linkEvent c code part more).queue = s.queue := by simp [State.linkEvent]

@[simp] theorem State.endCollective_queue (s : State) (key reason : Nat) : (s.endCollective key reason).queue = s.queue := by
  unfold State.endCollective
  split <;> simp

@[simp] theorem State.portLost_queue (s : State) (c : Nat) (st : PortState) (reason : Nat) {after : State → State}
    (h : ∀ a, (after a).queue = a.queue) : (s.portLost c st reason after).queue = s.queue := by simp [State.portLost, h]

@[simp] theorem State.failPort_queue (s : State) (c reason : Nat) : (s.failPort c reason).queue = s.queue := by simp [State.failPort]

@[simp] theorem State.forward_queue (s : State) (c : Nat) (m : Msg) (vc : BitVec 3) (sh : Bool) (n : Nat) :
    (s.forward c m vc sh n).queue = s.queue := by
  unfold State.forward
  dsimp only
  split <;> simp

@[simp] theorem State.strayEvent_queue (s : State) (key part ctx : Nat) (gid : BitVec 16) :
    (s.strayEvent key part ctx gid).queue = s.queue := by simp [State.strayEvent]

@[simp] theorem State.strayMsg_queue (s : State) (gid : BitVec 16) : (s.strayMsg gid).queue = s.queue := by
  unfold State.strayMsg
  split <;> simp

@[simp] theorem State.accept_queue (s : State) (c : Nat) (m : Msg) (vc : BitVec 3) (sh : Bool) (n : Nat) :
    (s.accept c m vc sh n).queue = s.queue := by simp [State.accept]

@[simp] theorem State.tagFailed_queue (s : State) (c : Nat) : (s.tagFailed c).queue = s.queue := by simp [State.tagFailed]

@[simp] theorem State.rxData_queue (s : State) (c : Nat) (f : Bytes) : (s.rxData c f).queue = s.queue := by
  unfold State.rxData
  dsimp only
  split
  · simp
  · split
    · rfl
    · split
      · rfl
      · split
        · rfl
        · split <;> simp

@[simp] theorem State.dropControl_queue (s : State) (c : Nat) : (s.dropControl c).queue = s.queue := by simp [State.dropControl]

@[simp] theorem State.countFec_queue (s : State) (c : Nat) (good : Bool) : (s.countFec c good).queue = s.queue := by
  simp [State.countFec]

@[simp] theorem State.stall_queue (s : State) (c : Nat) (f : Bytes) (stamp : Nat) : (s.stall c f stamp).queue = s.queue := by
  simp [State.stall]

@[simp] theorem State.frameIn_queue (s : State) (c : Nat) (f : Bytes) : (s.frameIn c f).queue = s.queue := by simp [State.frameIn]
@[simp] theorem State.miswire_queue (s : State) (c : Nat) (f : Bytes) : (s.miswire c f).queue = s.queue := by simp [State.miswire]

@[simp] theorem State.ctagFailed_queue (s : State) (c : Nat) (f : Bytes) : (s.ctagFailed c f).queue = s.queue := by
  simp [State.ctagFailed]

@[simp] theorem State.rxControl_queue (s : State) (c kind : Nat) (f : Bytes) (stamp : Nat) {use : State → State}
    (h : ∀ a, (use a).queue = a.queue) : (s.rxControl c kind f stamp use).queue = s.queue := by simp [State.rxControl, h]

@[simp] theorem State.tryUp_queue (s : State) (c : Nat) : (s.tryUp c).queue = s.queue := by simp [State.tryUp]

@[simp] theorem State.peerClosed_queue (s : State) (c : Nat) (f : Bytes) : (s.peerClosed c f).queue = s.queue := by
  simp [State.peerClosed]

@[simp] theorem State.rxHello_queue (s : State) (c : Nat) (f : Bytes) : (s.rxHello c f).queue = s.queue := by simp [State.rxHello]
@[simp] theorem State.helloIn_queue (s : State) (c : Nat) (f : Bytes) : (s.helloIn c f).queue = s.queue := by simp [State.helloIn]

@[simp] theorem State.startReplay_queue (s : State) (c : Nat) (nakn : BitVec 4) : (s.startReplay c nakn).queue = s.queue := by
  simp [State.startReplay]

@[simp] theorem State.rxCredit_queue (s : State) (c : Nat) (f : Bytes) : (s.rxCredit c f).queue = s.queue := by simp [State.rxCredit]
@[simp] theorem State.creditIn_queue (s : State) (c : Nat) (f : Bytes) : (s.creditIn c f).queue = s.queue := by simp [State.creditIn]

@[simp] theorem State.sendNew_queue (s : State) (c : Nat) (m : OutMsg) (turn : Turn) : (s.sendNew c m turn).queue = s.queue := by
  simp [State.sendNew]

@[simp] theorem State.sendAgain_queue (s : State) (c : Nat) (e : SentFrame) : (s.sendAgain c e).queue = s.queue := by
  simp [State.sendAgain]

@[simp] theorem State.sendFrame_queue (s : State) (c : Nat) : (s.sendFrame c).queue = s.queue := by
  unfold State.sendFrame
  dsimp only
  split
  · rfl
  · split
    · simp
    · split
      · rfl
      · split
        · rfl
        · split <;> simp

@[simp] theorem State.closeOff_queue (s : State) (c : Nat) : (s.closeOff c).queue = s.queue := by simp [State.closeOff]

@[simp] theorem State.putEnable_keeps (s : State) (ses : Ses) (r : Role) (v : Nat) : (s.putEnable ses r v).keeps s := by
  unfold State.putEnable
  dsimp only
  refine (Put.keeps_deny ..).2 (.inr ?_)
  split
  · simp
  · split <;> simp

@[simp] theorem State.closePort_queue (s : State) (c : Nat) : (s.closePort c).queue = s.queue := by simp [State.closePort]

theorem State.takeRx_queue {s : State} {c : Nat} {want : Msg → Bool} {x : Msg × State} (h : s.takeRx c want = some x) :
    x.2.queue = s.queue := by
  unfold State.takeRx at h
  split at h
  · split at h
    · cases h; rfl
    · cases h
  · cases h

/-! #### Training steps (Machine/Training) -/

@[simp] theorem Trial.andThen_queue {α β : Type} (t : Trial α) {f : State → α → Trial β} (h : ∀ (s : State) a, s.kept (f s a)) :
    (t.andThen f).1.queue = t.1.queue := by
  obtain ⟨s, _ | a⟩ := t
  · rfl
  · exact h s a

@[simp] theorem Trial.andEnd_queue {α : Type} (t : Trial α) {bad : State → Halt → State} {good : State → α → State}
    (hb : ∀ s e, (bad s e).queue = s.queue) (hg : ∀ s a, (good s a).queue = s.queue) : (t.andEnd bad good).queue = t.1.queue := by
  obtain ⟨s, e | a⟩ := t
  · exact hb s e
  · exact hg s a

@[simp] theorem State.tsRead_queue (s : State) (a : TsCtx) (va len : Nat) : (s.tsRead a va len).1.queue = s.queue := by
  unfold State.tsRead
  dsimp only
  split <;> next h => simp [fst_of_eq h]

@[simp] theorem State.tsWrite_queue (s : State) (a : TsCtx) (va : Nat) (bs : Bytes) : (s.tsWrite a va bs).1.queue = s.queue := by
  unfold State.tsWrite
  split <;> next h => simp [fst_of_eq h]

@[simp] theorem State.tsWrites_queue (s : State) (a : TsCtx) (va : Nat) (bs : Bytes) :
    (s.tsWrites a va bs).1.queue = s.queue := by simp [State.tsWrites]

@[simp] theorem State.tsPatch_queue (s : State) (a : TsCtx) (va : Nat) (bs : Bytes) (stop : Nat) :
    (s.tsPatch a va bs stop).1.queue = s.queue := by simp [State.tsPatch]

@[simp] theorem State.stageRead_queue (s : State) (a : TsCtx) (x : Span) (b : Nat) : (s.stageRead a x b).1.queue = s.queue := by
  unfold State.stageRead
  refine Trial.andThen_keeps (by simp) fun s g => Trial.andThen_keeps (by simp) fun s e =>
    Trial.andThen_keeps (by simp) fun s m => Trial.andThen_keeps (by simp) fun s ms => ?_
  dsimp only
  split
  · exact Trial.andThen_keeps (by simp) fun s v => Trial.andThen_keeps (by simp) fun s vs => rfl
  · rfl

@[simp] theorem State.stageBucket_queue (s : State) (a : TsCtx) (seed : DWord) (x : Span) (h : Hyper) (acc : StageAcc)
    (b : Nat) : (s.stageBucket a seed x h acc b).1.queue = s.queue := by
  unfold State.stageBucket
  exact Trial.andThen_keeps (by simp) fun s i => Trial.andThen_keeps (by simp) fun s2 _ =>
    Trial.andThen_keeps (by simp) fun s3 _ => rfl

@[simp] theorem overBuckets_queue {α : Type} {f : State → α → Nat → Trial α} (h : ∀ (s : State) a b, s.kept (f s a b))
    (t : Trial α) (n : Nat) : (overBuckets f t n).1.queue = t.1.queue := by
  refine foldl_fst_queue (fun t b => Trial.andThen_queue _ fun s v => ?_) _ _
  have hf : (f s v b).1.queue = s.queue := h s v b
  rw [State.kept_iff, ← hf]
  split
  · next h => rw [fst_of_eq h]
  · rfl

@[simp] theorem State.readSpan_queue (s : State) (a : TsCtx) : (s.readSpan a).1.queue = s.queue := by simp [State.readSpan]

@[simp] theorem State.readHyper_queue (s : State) (a : TsCtx) (x : Span) : (s.readHyper a x).1.queue = s.queue := by
  simp [State.readHyper]

@[simp] theorem State.stage_queue (s : State) (a : TsCtx) : (s.stage a).1.queue = s.queue := by
  unfold State.stage
  refine Trial.andThen_keeps (by simp) fun s x => ?_
  dsimp only
  split
  · rfl
  · split
    · rfl
    · exact Trial.andThen_keeps (by simp) fun s h => Trial.andThen_keeps (by simp) fun s acc => rfl

@[simp] theorem State.normsum_queue (s : State) (a : TsCtx) : (s.normsum a).1.queue = s.queue := by simp [State.normsum]

@[simp] theorem State.verdictEvents_queue (s : State) (a : TsCtx) : (s.verdictEvents a).queue = s.queue := by
  simp [State.verdictEvents]

@[simp] theorem State.verdictCmd_queue (s : State) (a : TsCtx) : (s.verdictCmd a).1.queue = s.queue := by simp [State.verdictCmd]

@[simp] theorem State.commitBucket_queue (s : State) (a : TsCtx) (seed : DWord) (x : Span) (h : Hyper) (b : Nat) :
    (s.commitBucket a seed x h b).1.queue = s.queue := by
  unfold State.commitBucket
  refine Trial.andThen_keeps (by simp) fun s w => Trial.andThen_keeps (by simp) fun s st =>
    Trial.andThen_keeps (by simp) fun s sc => Trial.andThen_keeps (by simp) fun s _ =>
    Trial.andThen_keeps (by simp) fun s _ => Trial.andThen_keeps (by simp) fun s _ => ?_
  split
  · exact Trial.andThen_keeps (by simp) fun s _ => by simp
  · rfl

@[simp] theorem State.commit_queue (s : State) (a : TsCtx) : (s.commit a).1.queue = s.queue := by
  unfold State.commit
  refine Trial.andThen_keeps (by simp) fun s x => ?_
  dsimp only
  split
  · rfl
  · split
    · rfl
    · exact Trial.andThen_keeps (by simp) fun s h => by simp

@[simp] theorem State.engineChecks_queue (s : State) : s.engineChecks.queue = s.queue := by simp [State.engineChecks]

@[simp] theorem State.tsEnd_queue (l : Path) (c : Command) (t : Trial Unit) : (State.tsEnd l c t).queue = t.1.queue := by
  obtain ⟨s, e | u⟩ := t <;> simp [State.tsEnd]

@[simp] theorem State.tsDispatch_queue (s : State) {work : State → TsCtx → Trial Unit}
    (h : ∀ s a, (work s a).1.queue = s.queue) (l : Path) (c : Command) : (s.tsDispatch work l c).queue = s.queue := by
  unfold State.tsDispatch
  split
  · simp
  · split <;> simp [h]

/-! #### Collectives (Machine/Collective) -/

@[simp] theorem State.shRead_queue (s : State) (x : Slot) (key : Nat) (local' chk : Bool) (a len : Nat) :
    (s.shRead x key local' chk a len).1.queue = s.queue := by
  unfold State.shRead
  dsimp only
  split
  · split <;> next e => simp [fst_of_eq e]
  · split
    · split <;> next e => simp [fst_of_eq e]
    · split <;> next e => simp [fst_of_eq e]

@[simp] theorem State.patchBlock_queue (s : State) (x : Slot) (key a : Nat) (bs : Bytes) :
    (s.patchBlock x key a bs).1.queue = s.queue := by
  unfold State.patchBlock
  dsimp only
  split
  · next e => simp [fst_of_eq e]
  · next e => split <;> next e' => simp [fst_of_eq e', fst_of_eq e]

@[simp] theorem State.shWrite_queue (s : State) (x : Slot) (key : Nat) (local' chk : Bool) (a : Nat) (bs : Bytes) :
    (s.shWrite x key local' chk a bs).1.queue = s.queue := by
  unfold State.shWrite
  dsimp only
  split
  · rfl
  · split
    · split <;> next e => simp [fst_of_eq e]
    · split
      · split
        · rw [foldl_fst_queue]
          intro t b
          refine Trial.andThen_queue t fun s _ => ?_
          split <;> next e => simp [fst_of_eq e]
        · simp
      · split <;> next e => simp [fst_of_eq e]

@[simp] theorem State.readUnits_queue (s : State) (x : Slot) (key u n : Nat) : (s.readUnits x key u n).1.queue = s.queue := by
  simp [State.readUnits]

@[simp] theorem State.readBe_queue (s : State) (x : Slot) (key u : Nat) : (s.readBe x key u).1.queue = s.queue := by
  simp [State.readBe]

@[simp] theorem State.writeUnits_queue (s : State) (x : Slot) (key u : Nat) (bs : Bytes) :
    (s.writeUnits x key u bs).1.queue = s.queue := by
  unfold State.writeUnits
  split
  · refine foldl_fst_queue (fun t e => Trial.andThen_queue t fun s _ => Trial.andThen_keeps ?_ fun s _ => ?_) _ _ <;> simp
  · simp

@[simp] theorem State.readWire_queue (s : State) (x : Slot) (key u n : Nat) : (s.readWire x key u n).1.queue = s.queue := by
  unfold State.readWire
  split
  · refine foldl_fst_queue (fun t i => ?_) _ _
    exact Trial.andThen_queue t fun s _ => Trial.andThen_keeps (by simp) fun s bs => Trial.andThen_keeps (by simp) fun s be => rfl
  · simp

@[simp] theorem State.sourceOf_queue (s : State) (x : Slot) (key : Nat) (t : Transfer) (u n : Nat) :
    (s.sourceOf x key t u n).1.queue = s.queue := by
  unfold State.sourceOf
  split
  · refine foldl_fst_queue (fun t e => ?_) _ _
    exact Trial.andThen_queue t fun s _ => Trial.andThen_keeps (by simp) fun s bs => rfl
  · split <;> simp

@[simp] theorem State.sinkOf_queue (s : State) (x : Slot) (key peer u : Nat) (bs : Bytes) :
    (s.sinkOf x key peer u bs).1.queue = s.queue := by
  unfold State.sinkOf
  split
  · exact foldl_keeps (fun b : Trial Unit × Nat => b.1.1.queue) (fun b e => Trial.andThen_queue b.1 fun s _ => by simp) _ _
  · simp

@[simp] theorem State.residueFail_queue (s : State) (x : Slot) (opk : Nat) (injected : Bool) :
    (s.residueFail x opk injected).1.queue = s.queue := by simp [State.residueFail]

@[simp] theorem State.residue_queue (s : State) (x : Slot) (opk n : Nat) (ok : Bool) :
    (s.residue x opk n ok).1.queue = s.queue := by simp [State.residue]

@[simp] theorem State.combined_queue (s : State) (x : Slot) (key u : Nat) : (s.combined x key u).1.queue = s.queue := by
  simp [State.combined]

@[simp] theorem State.modSlot_queue (s : State) (key : Nat) (f : Slot → Slot) : (s.modSlot key f).queue = s.queue := by
  unfold State.modSlot
  split <;> simp

@[simp] theorem State.slotSend_queue (s : State) (key : Nat) (x : Slot) (mt : BitVec 4) (q : Nat) (slot : BitVec 4)
    (offset : Nat) (payload : Bytes) {done : Nat → State → State} (h : ∀ n a, (done n a).queue = a.queue) :
    (s.slotSend key x mt q slot offset payload done).queue = s.queue := by
  unfold State.slotSend
  split
  · rfl
  · split
    · next e => exact (h _ _).trans (State.post_queue e)
    · simp

@[simp] theorem State.sendCts_queue (s : State) (key : Nat) (x : Slot) (q kind first count : Nat) {done : State → State}
    (h : ∀ a, (done a).queue = a.queue) : (s.sendCts key x q kind first count done).queue = s.queue :=
  State.slotSend_queue _ _ _ _ _ _ _ _ fun _ a => h a

@[simp] theorem State.sendAgainst_queue (s : State) (key : Nat) (x : Slot) (mt : BitVec 4) (q : Nat) (slot : BitVec 4)
    (offset : Nat) (payload : Bytes) (mark : Slot → Slot) :
    (s.sendAgainst key x mt q slot offset payload mark).queue = s.queue := by simp [State.sendAgainst]

@[simp] theorem State.slotFault_queue (s : State) (key : Nat) (x : Slot) (code : Nat) (det : Bytes) (injected : Bool) :
    (s.slotFault key x code det injected).queue = s.queue := by simp [State.slotFault]

@[simp] theorem State.tried_queue {α : Type} (key : Nat) (x : Slot) (t : Trial α) {f : State → α → State}
    (h : ∀ s a, (f s a).queue = s.queue) : (State.tried key x t f).queue = t.1.queue := by
  obtain ⟨s, e | a⟩ := t
  · simp [State.tried]
  · exact h s a

@[simp] theorem State.withSlot_queue (s : State) (key : Nat) {f : State → Slot → State} (h : ∀ x, (f s x).queue = s.queue) :
    (s.withSlot key f).queue = s.queue := by
  unfold State.withSlot
  split
  · exact h _
  · rfl

theorem State.askAll_queue (s : State) (key : Nat) (qs : List Nat) (kind : Nat) :
    (s.each qs fun a q => a.withSlot key fun a y => a.sendCts key y q kind 0 0 id).queue = s.queue :=
  State.each_queue (fun a _ => State.withSlot_queue a key fun _ => State.sendCts_queue _ _ _ _ _ _ _ fun _ => rfl) _ _

@[simp] theorem State.grantNext_queue (s : State) (key t : Nat) : (s.grantNext key t).queue = s.queue := by
  unfold State.grantNext
  refine State.withSlot_queue s key fun x => ?_
  split
  · rfl
  · simp

@[simp] theorem State.grantAll_queue (s : State) (key : Nat) : (s.grantAll key).queue = s.queue := by simp [State.grantAll]

@[simp] theorem State.formFinal_queue (s : State) (key u : Nat) : (s.formFinal key u).queue = s.queue := by
  unfold State.formFinal
  refine State.withSlot_queue s key fun x => ?_
  rw [State.tried_queue, State.combined_queue]
  intro s vs
  dsimp only
  rw [State.tried_queue]
  · exact Trial.andThen_keeps (by simp) fun s _ => by simp
  · simp

@[simp] theorem State.formFinals_queue (s : State) (key : Nat) : (s.formFinals key).queue = s.queue := by simp [State.formFinals]

@[simp] theorem State.runBytes_queue (s : State) (x : Slot) (key : Nat) (t : Transfer) (u n : Nat) :
    (s.runBytes x key t u n).1.queue = s.queue := by
  unfold State.runBytes
  split
  · split <;> simp
  · refine foldl_fst_queue (fun t i => ?_) _ _
    exact Trial.andThen_queue t fun s _ => Trial.andThen_keeps (by simp) fun s vs => rfl

@[simp] theorem State.sendRun_queue (s : State) (key t : Nat) (peerSlot : BitVec 4) (u n : Nat) :
    (s.sendRun key t peerSlot u n).queue = s.queue := by
  unfold State.sendRun
  refine State.withSlot_queue s key fun x => ?_
  split
  · rfl
  · rw [State.tried_queue, State.runBytes_queue]
    simp

@[simp] theorem State.sendAll_queue (s : State) (key : Nat) : (s.sendAll key).queue = s.queue := by
  unfold State.sendAll
  refine State.withSlot_queue s key fun x => State.each_queue (fun a g => ?_) _ _
  split <;> simp

@[simp] theorem State.sendSmall_queue (s : State) (key : Nat) : (s.sendSmall key).queue = s.queue := by simp [State.sendSmall]

@[simp] theorem State.copyRows_queue (s : State) (x : Slot) (key : Nat) : (s.copyRows x key).1.queue = s.queue := by
  unfold State.copyRows
  exact foldl_fst_queue (fun t e => Trial.andThen_queue t fun s _ => Trial.andThen_keeps (by simp) fun s bs => by simp) _ _

@[simp] theorem State.layOut_queue (s : State) (key : Nat) : (s.layOut key).queue = s.queue := by
  unfold State.layOut
  refine State.withSlot_queue s key fun x => ?_
  dsimp only
  split
  · rfl
  · split
    · simp
    · rw [State.tried_queue, State.shWrite_queue]
      intro s _
      rw [State.withSlot_queue, State.modSlot_queue]
      intro y
      rw [State.tried_queue, State.copyRows_queue]
      simp

@[simp] theorem State.sendDone_queue (s : State) (key q : Nat) (slot : BitVec 4) : (s.sendDone key q slot).queue = s.queue := by
  simp [State.sendDone]

@[simp] theorem State.sendDones_queue (s : State) (key : Nat) : (s.sendDones key).queue = s.queue := by
  unfold State.sendDones
  refine State.withSlot_queue s key fun x => State.each_queue (fun a q => ?_) _ _
  split <;> simp

@[simp] theorem State.completeSlot_queue (s : State) (key : Nat) : (s.completeSlot key).queue = s.queue := by simp [State.completeSlot]
@[simp] theorem State.progress_queue (s : State) (key : Nat) : (s.progress key).queue = s.queue := by simp [State.progress]

@[simp] theorem State.takeCts_queue (s : State) (key : Nat) (c : CtsRec) : (s.takeCts key c).queue = s.queue := by
  unfold State.takeCts
  refine State.withSlot_queue s key fun x => ?_
  split
  · simp
  · split
    · simp
    · split
      · simp
      · split <;> simp

@[simp] theorem State.ctsIn_queue (s : State) (g : Group) (m : Msg) : (s.ctsIn g m).queue = s.queue := by
  unfold State.ctsIn
  split <;> simp

@[simp] theorem State.begin_queue (s : State) (key : Nat) : (s.begin key).queue = s.queue := by
  unfold State.begin
  refine State.withSlot_queue s key fun x => ?_
  dsimp only
  split
  · split
    · rfl
    · exact State.askAll_queue ..
  · rw [State.tried_queue, State.shRead_queue]
    intro s bs
    rw [State.askAll_queue, State.modSlot_queue]
  · rw [State.tried_queue, State.shRead_queue]
    intro s sc
    rw [State.tried_queue, State.shRead_queue]
    intro s rc
    rw [State.withSlot_queue, State.modSlot_queue]
    intro y
    rw [State.tried_queue, State.copyRows_queue]
    simp
  · rw [State.tried_queue, State.readUnits_queue]
    intro s bs
    rw [State.tried_queue] <;> simp
  · split
    · rw [State.tried_queue, State.readWire_queue]
      intro s bs
      rw [State.tried_queue] <;> simp
    · rfl
  · rw [State.tried_queue, State.readWire_queue]
    intro s bs
    rw [State.tried_queue] <;> simp
  · rfl

@[simp] theorem State.openSlot_queue (s : State) (key : Nat) (x : Slot) : (s.openSlot key x).queue = s.queue := by
  simp [State.openSlot]

@[simp] theorem State.shDispatch_queue (s : State) (l : Path) (c : Command) : (s.shDispatch l c).queue = s.queue := by
  unfold State.shDispatch
  split
  · simp
  · split <;> simp

@[simp] theorem State.dataIn_queue (s : State) (key : Nat) (x : Slot) (m : Msg) : (s.dataIn key x m).queue = s.queue := by
  unfold State.dataIn
  split <;> simp

/-! #### Outings (Machine/Outing) -/

@[simp] theorem State.modBinding_queue (s : State) (gid : BitVec 16) (f : Binding → Binding) :
    (s.modBinding gid f).queue = s.queue := by simp [State.modBinding]

@[simp] theorem State.withBinding_queue (s : State) (gid : BitVec 16) {f : State → Binding → State}
    (h : ∀ b, (f s b).queue = s.queue) : (s.withBinding gid f).queue = s.queue := by
  unfold State.withBinding
  split
  · exact h _
  · rfl

@[simp] theorem State.putBytes_queue (s : State) (a : TsCtx) (fuel va : Nat) (bs : Bytes) :
    (s.putBytes a fuel va bs).1.queue = s.queue := by
  induction fuel generalizing s va bs with
  | zero => rfl
  | succ fuel ih =>
    unfold State.putBytes
    split
    · rfl
    · dsimp only
      split
      · next e => simp [fst_of_eq e]
      · next e => exact Trial.andThen_keeps (by simp [fst_of_eq e]) fun s _ => ih ..

@[simp] theorem State.put_queue (s : State) (a : TsCtx) (va : Nat) (bs : Bytes) : (s.put a va bs).1.queue = s.queue := by
  simp [State.put]

@[simp] theorem State.markSpan_queue (s : State) (a : TsCtx) (x : OutSpan) (id : Identity) (pk : Nat) :
    (s.markSpan a x id pk).1.queue = s.queue := by simp [State.markSpan]

@[simp] theorem State.packStep_queue (s : State) (a : TsCtx) (x : OutSpan) (slot : Nat) (acc : Bytes) (c : Nat) :
    (s.packStep a x slot acc c).1.queue = s.queue := by
  unfold State.packStep
  refine Trial.andThen_keeps (by simp) fun s w => Trial.andThen_keeps (by simp) fun s an => Trial.andThen_keeps (by simp) fun s e => ?_
  split
  · rfl
  · exact Trial.andThen_keeps (by simp) fun s _ => Trial.andThen_keeps (by simp) fun s _ => rfl

@[simp] theorem State.readOut_queue (s : State) (a : TsCtx) (b : Binding) (va : Nat) : (s.readOut a b va).1.queue = s.queue := by
  simp [State.readOut]

@[simp] theorem State.outPack_queue (s : State) (a : TsCtx) (b : Binding) (d : OutCmd) : (s.outPack a b d).1.queue = s.queue := by
  unfold State.outPack
  refine Trial.andThen_keeps (by simp) fun s x => ?_
  split
  · rfl
  · refine Trial.andThen_keeps (foldl_fst_queue (fun t c => Trial.andThen_queue t fun s acc => ?_) _ _) fun s _ => ?_ <;> simp

@[simp] theorem State.outSend_queue (s : State) (b : Binding) (mt : BitVec 4) (n : Word) (q offset : Nat) (payload : Bytes) :
    (s.outSend b mt n q offset payload).queue = s.queue := by
  unfold State.outSend
  split
  · rfl
  · dsimp only
    split
    · next e => exact State.post_queue e
    · rfl

@[simp] theorem State.outStream_queue (s : State) (b : Binding) (mt : BitVec 4) (n : Word) (q : Nat) (header bs : Bytes) :
    (s.outStream b mt n q header bs).queue = s.queue := by simp [State.outStream]

@[simp] theorem State.outEvent_queue (s : State) (b : Binding) (code : Nat) (n : Word) (more : Bytes) :
    (s.outEvent b code n more).queue = s.queue := by simp [State.outEvent]

@[simp] theorem State.sendReceipt_queue (s : State) (gid : BitVec 16) : (s.sendReceipt gid).queue = s.queue := by
  unfold State.sendReceipt
  refine State.withBinding_queue s gid fun b => ?_
  split
  · simp
  · rfl

@[simp] theorem State.sendBitmap_queue (s : State) (b : Binding) (m : Bitmap) : (s.sendBitmap b m).queue = s.queue := by
  simp [State.sendBitmap]

@[simp] theorem State.writeResult_queue (s : State) (b : Binding) (a : TsCtx) (r : Bytes) :
    (s.writeResult b a r).1.queue = s.queue := by simp [State.writeResult]

@[simp] theorem State.outFault_queue (s : State) (b : Binding) (t : Path) (cmd : Nat) (stag n : Word) (e : Halt) :
    (s.outFault b t cmd stag n e).queue = s.queue := by simp [State.outFault]

@[simp] theorem State.countStatus_queue (s : State) (b : Binding) (st : Nat) : (s.countStatus b st).queue = s.queue := by
  simp [State.countStatus]

@[simp] theorem State.endExchange_queue (s : State) (gid : BitVec 16) : (s.endExchange gid).queue = s.queue := by
  unfold State.endExchange
  refine State.withBinding_queue s gid fun b => ?_
  split
  · rfl
  · split
    · rfl
    · simp

@[simp] theorem State.endExchangesSent_queue (s : State) : s.endExchangesSent.queue = s.queue := by simp [State.endExchangesSent]

@[simp] theorem State.fixStatus_queue (s : State) (gid : BitVec 16) (st reason : Nat) :
    (s.fixStatus gid st reason).queue = s.queue := by
  unfold State.fixStatus
  refine State.withBinding_queue s gid fun b => ?_
  split
  · rfl
  · dsimp only
    split <;> next e => simp [fst_of_eq e]

@[simp] theorem State.tryStatus_queue (s : State) (gid : BitVec 16) : (s.tryStatus gid).queue = s.queue := by
  unfold State.tryStatus
  refine State.withBinding_queue s gid fun b => ?_
  split
  · rfl
  · split
    · simp
    · rfl

@[simp] theorem State.acceptBitmap_queue (s : State) (gid : BitVec 16) (m : Bitmap) : (s.acceptBitmap gid m).queue = s.queue := by
  simp [State.acceptBitmap]

@[simp] theorem State.publish_queue (s : State) (gid : BitVec 16) (n : Word) (j : Nat) (d by' : DWord) :
    (s.publish gid n j d by').queue = s.queue := by simp [State.publish]

@[simp] theorem State.tryPublish_queue (s : State) (gid : BitVec 16) : (s.tryPublish gid).queue = s.queue := by
  unfold State.tryPublish
  refine State.withBinding_queue s gid fun b => ?_
  split
  · split
    · rfl
    · simp
  · rfl

@[simp] theorem State.outStep_queue (s : State) (gid : BitVec 16) : (s.outStep gid).queue = s.queue := by simp [State.outStep]

@[simp] theorem State.contribBase_queue (s : State) (b : Binding) (n : Word) : (s.contribBase b n).2.queue = s.queue := by
  unfold State.contribBase
  split <;> simp

@[simp] theorem State.outExchange_queue (s : State) (a : TsCtx) (b : Binding) (d : OutCmd) :
    (s.outExchange a b d).queue = s.queue := by
  unfold State.outExchange
  dsimp only
  split <;> next h => simp [fst_of_eq h]

@[simp] theorem State.readRecord_queue (s : State) (a : TsCtx) (b : Binding) (x : OutSpan) (n : Word) (r c : Nat) :
    (s.readRecord a b x n r c).1.queue = s.queue := by simp [State.readRecord]

@[simp] theorem State.foldRecords_queue (s : State) (a : TsCtx) (b : Binding) (x : OutSpan) (n : Word) (c : Nat)
    (rs : List Nat) (op : Nat → Nat → Nat) (acc : List Nat) : (s.foldRecords a b x n c rs op acc).1.queue = s.queue := by
  unfold State.foldRecords
  refine foldl_fst_queue (fun t r => ?_) _ _
  exact Trial.andThen_queue t fun s acc => Trial.andThen_keeps (by simp) fun s v => rfl

@[simp] theorem State.applyChunk_queue (s : State) (a : TsCtx) (b : Binding) (x : OutSpan) (m : Bitmap) (eta mu : Nat)
    (restore : Bool) (c : Nat) : (s.applyChunk a b x m eta mu restore c).1.queue = s.queue := by
  unfold State.applyChunk
  refine Trial.andThen_keeps (State.foldRecords_queue ..) fun s acc =>
    Trial.andThen_keeps (State.foldRecords_queue ..) fun s acc => Trial.andThen_keeps ?_ fun s _ => ?_
  · split
    · rfl
    · exact Trial.andThen_keeps (State.tsRead_queue ..) fun s an => Trial.andThen_keeps (State.tsRead_queue ..) fun s mo =>
        Trial.andThen_keeps (State.tsWrites_queue ..) fun s _ => Trial.andThen_keeps (State.tsWrites_queue ..) fun s _ =>
        State.tsWrites_queue ..
  · split
    · exact Trial.andThen_keeps (State.readRecord_queue ..) fun s v => Trial.andThen_keeps (State.tsRead_queue ..) fun s e =>
        State.tsWrites_queue ..
    · rfl

@[simp] theorem State.countFolds_queue (s : State) (b : Binding) (m : Bitmap) : (s.countFolds b m).queue = s.queue := by
  simp [State.countFolds]

@[simp] theorem State.outApply_queue (s : State) (a : TsCtx) (b : Binding) (d : OutCmd) :
    (s.outApply a b d).1.queue = s.queue := by
  unfold State.outApply
  refine Trial.andThen_keeps (by simp) fun s x => ?_
  split
  · rfl
  · split
    · rfl
    · exact Trial.andThen_keeps (by simp) fun s h => Trial.andThen_keeps
        (foldl_fst_queue (fun t c => Trial.andThen_queue t fun s _ => by simp) _ _) fun s _ => by simp

@[simp] theorem State.sendSnapreq_queue (s : State) (b : Binding) (f : Fetch) (x : OutSpan) :
    (s.sendSnapreq b f x).queue = s.queue := by simp [State.sendSnapreq]

@[simp] theorem State.outSnapfetch_queue (s : State) (a : TsCtx) (b : Binding) (d : OutCmd) :
    (s.outSnapfetch a b d).queue = s.queue := by simp [State.outSnapfetch]

@[simp] theorem State.endFetch_queue (s : State) (b : Binding) (f : Fetch) (res : Nat) :
    (s.endFetch b f res).queue = s.queue := by
  unfold State.endFetch
  dsimp only
  rw [Trial.andEnd_queue]
  · refine Trial.andThen_keeps (by simp) fun s x => Trial.andThen_keeps ?_ fun s _ => by simp
    split
    · exact Trial.andThen_keeps (by simp) fun s _ => by simp
    · simp
  · simp
  · simp

@[simp] theorem State.outDispatch_queue (s : State) {work : State → TsCtx → Binding → OutCmd → State}
    (h : ∀ s a b d, (work s a b d).queue = s.queue) (l : Path) (c : Command) : (s.outDispatch work l c).queue = s.queue := by
  unfold State.outDispatch
  dsimp only
  split
  · simp
  · split <;> simp [h]

@[simp] theorem State.outAtOnce_queue {work : State → TsCtx → Binding → OutCmd → Trial Unit}
    (h : ∀ s a b d, (work s a b d).1.queue = s.queue) (s : State) (a : TsCtx) (b : Binding) (d : OutCmd) :
    (State.outAtOnce work s a b d).queue = s.queue := by
  unfold State.outAtOnce
  split <;> next e => simp [fst_of_eq e, h]

@[simp] theorem State.outStray_queue (s : State) (b : Binding) (n : Word) : (s.outStray b n).queue = s.queue := by
  simp [State.outStray]

@[simp] theorem State.bindingFault_queue (s : State) (b : Binding) (n : Word) (e : Halt) :
    (s.bindingFault b n e).queue = s.queue := by simp [State.bindingFault]

@[simp] theorem State.putSnap_queue (s : State) (a : TsCtx) (x : OutSpan) (at' : Nat) (bs : Bytes) :
    (s.putSnap a x at' bs).1.queue = s.queue := by simp [State.putSnap]

/-! #### Panels (Machine/Panel) -/

@[simp] theorem State.setTickets_queue (s : State) (ts : List Path) (tk : SMap Word) : (s.setTickets ts tk).queue = s.queue := by
  simp [State.setTickets]

@[simp] theorem State.applyLayout_queue (s : State) (k : Nat) (layout : BitVec 16) :
    (s.applyLayout k layout).queue = s.queue := by simp [State.applyLayout]

/-! #### Groups, bindings and plans (Machine/Jobs) -/

@[simp] theorem State.putLayout_keeps (s : State) (ses : Ses) (r : Role) (layout : BitVec 16) :
    (s.putLayout ses r layout).keeps s := by
  unfold State.putLayout
  dsimp only
  split <;> simp

@[simp] theorem State.groupDo_queue (s : State) (b : Bytes) (p : Nat) : (s.groupDo b p).queue = s.queue := by simp [State.groupDo]

@[simp] theorem State.putGroup_keeps (s : State) (w : WriteReq) (r : Role) : (s.putGroup w r).keeps s := by
  unfold State.putGroup
  dsimp only
  split <;> simp

@[simp] theorem State.bindDo_queue (s : State) (b : Bytes) (p : Nat) : (s.bindDo b p).queue = s.queue := by simp [State.bindDo]

@[simp] theorem State.putBind_keeps (s : State) (w : WriteReq) (r : Role) : (s.putBind w r).keeps s := by
  unfold State.putBind
  dsimp only
  split <;> simp

@[simp] theorem State.putAdmit_keeps (s : State) (w : WriteReq) (r : Role) : (s.putAdmit w r).keeps s := by
  unfold State.putAdmit
  dsimp only
  split
  · simp
  · split
    · split <;> simp
    · simp

/-! #### Time (Machine/Time) -/

@[simp] theorem State.setReady_queue (s : State) (b : Nat) (on : Bool) : (s.setReady b on).queue = s.queue := by simp [State.setReady]
@[simp] theorem State.timeBudget_queue (s : State) : s.timeBudget.queue = s.queue := by simp [State.timeBudget]
@[simp] theorem State.enterLocked_queue (s : State) : s.enterLocked.queue = s.queue := by simp [State.enterLocked]

@[simp] theorem State.setRoot_queue (s : State) (prio : BitVec 8) (serial : BitVec 128) :
    (s.setRoot prio serial).queue = s.queue := by simp [State.setRoot]

@[simp] theorem State.follow_queue (s : State) (c : Nat) : (s.follow c).queue = s.queue := by
  unfold State.follow
  split <;> simp

@[simp] theorem State.orphan_queue (s : State) : s.orphan.queue = s.queue := by simp [State.orphan]

@[simp] theorem State.chooseParent_queue (s : State) : s.chooseParent.queue = s.queue := by
  unfold State.chooseParent
  split <;> simp

@[simp] theorem State.stepCounter_queue (s : State) (by' : Int) : (s.stepCounter by').queue = s.queue := by simp [State.stepCounter]
@[simp] theorem State.steer_queue (s : State) (theta : Int) : (s.steer theta).queue = s.queue := by simp [State.steer]

@[simp] theorem State.hear_queue (s : State) (c : Nat) (w : Word) (root : BitVec 128) : (s.hear c w root).queue = s.queue := by
  simp [State.hear]

@[simp] theorem State.rxTs_queue (s : State) (c : Nat) (f : Bytes) (stamp : Nat) : (s.rxTs c f stamp).queue = s.queue := by
  unfold State.rxTs
  dsimp only
  rw [State.timeBudget_queue]
  obtain _ | ⟨u, v⟩ := (s.port c).exchange f
  · simp
  · dsimp only
    rw [queue_ite, State.steer_queue, ite_self]
    simp

@[simp] theorem State.tsIn_queue (s : State) (c : Nat) (f : Bytes) (stamp : Nat) : (s.tsIn c f stamp).queue = s.queue := by
  simp [State.tsIn]

@[simp] theorem State.fireLaunch_queue (s : State) (p : Nat) : (s.fireLaunch p).queue = s.queue := by simp [State.fireLaunch]
@[simp] theorem State.launchDue_queue (s : State) (p : Nat) : (s.launchDue p).queue = s.queue := by simp [State.launchDue]
@[simp] theorem State.putLaunch_keeps (s : State) (w : WriteReq) (r : Role) : (s.putLaunch w r).keeps s := by simp [State.putLaunch]

/-! #### Integrity (Machine/Integrity) -/

@[simp] theorem State.captureDone_queue (s : State) (k : Nat) (c : Capture) : (s.captureDone k c).queue = s.queue := by
  simp [State.captureDone]

@[simp] theorem State.compare_queue (s : State) (k : Nat) (c : Capture) : (s.compare k c).queue = s.queue := by
  unfold State.compare
  dsimp only
  split <;> simp

@[simp] theorem State.putFence_keeps (s : State) (ses : Ses) (r : Role) (v : Nat) : (s.putFence ses r v).keeps s := by
  simp [State.putFence]

@[simp] theorem State.armInjection_queue (s : State) : s.armInjection.queue = s.queue := by simp [State.armInjection]

@[simp] theorem State.putArm_keeps (s : State) (r : Role) (v : Nat) : (s.putArm r v).keeps s := by
  unfold State.putArm
  refine (Put.keeps_deny ..).2 (.inr ?_)
  split
  · simp
  · split <;> simp

@[simp] theorem State.tileError_queue (s : State) (t : Path) (code : Nat) (detail : Bytes) :
    (s.tileError t code detail).queue = s.queue := by simp [State.tileError]

@[simp] theorem State.deviceError_queue (s : State) (code : Nat) (detail : Bytes) :
    (s.deviceError code detail).queue = s.queue := by simp [State.deviceError]

@[simp] theorem State.siteError_queue (s : State) (x : ParitySite) : (s.siteError x).queue = s.queue := by
  unfold State.siteError
  split <;> simp

@[simp] theorem State.putFatalAck_keeps (s : State) (r : Role) (v : Nat) : (s.putFatalAck r v).keeps s := by simp [State.putFatalAck]

/-! #### Settings (Machine/Settings) -/

@[simp] theorem State.putSetting_keeps (s : State) (r : Role) (p idx sub v : Nat) : (s.putSetting r p idx sub v).keeps s := by
  simp [State.putSetting]

/-! #### Checkpoints (Machine/Checkpoint) -/

@[simp] theorem State.hostWrite_queue (s : State) (p off : Nat) (bs : Bytes) : (s.hostWrite p off bs).queue = s.queue := by
  simp [State.hostWrite]

@[simp] theorem State.hamClose_queue (s : State) (p code : Nat) : (s.hamClose p code).queue = s.queue := by simp [State.hamClose]

@[simp] theorem State.hamFail_queue (s : State) (p : Nat) (q : HamReq) (e : Halt) : (s.hamFail p q e).queue = s.queue := by
  simp [State.hamFail]

@[simp] theorem State.noteCkid_queue (s : State) (q : HamReq) : (s.noteCkid q).queue = s.queue := by
  unfold State.noteCkid
  split <;> simp

@[simp] theorem State.hamOpen_queue (s : State) (p : Nat) (r : Role) (b : Bytes) : (s.hamOpen p r b).queue = s.queue := by
  simp [State.hamOpen]

@[simp] theorem State.putHamper_keeps (s : State) (w : WriteReq) (r : Role) : (s.putHamper w r).keeps s := by
  unfold State.putHamper
  dsimp only
  split <;> simp

/-! #### Resets (Machine/Reset) -/

@[simp] theorem State.closeSession_queue (s : State) (n : Nat) : (s.closeSession n).queue = s.queue := by simp [State.closeSession]

@[simp] theorem State.closeWhere_queue (s : State) (f : Session → Bool) : (s.closeWhere f).queue = s.queue := by
  simp [State.closeWhere]

@[simp] theorem State.dropOwner_queue (s : State) (p : Nat) : (s.dropOwner p).queue = s.queue := by simp [State.dropOwner]
@[simp] theorem State.resetDomains_queue (s : State) : s.resetDomains.queue = s.queue := by simp [State.resetDomains]
@[simp] theorem State.acted_queue (s : State) : s.acted.queue = s.queue := by simp [State.acted]
@[simp] theorem State.closeAll_queue (s : State) : s.closeAll.queue = s.queue := by simp [State.closeAll]
@[simp] theorem State.deviceReset_queue (s : State) : s.deviceReset.queue = s.queue := by simp [State.deviceReset]
@[simp] theorem State.convertersOff_queue (s : State) : s.convertersOff.queue = s.queue := by simp [State.convertersOff]
@[simp] theorem State.convertersOn_queue (s : State) : s.convertersOn.queue = s.queue := by simp [State.convertersOn]

/-! #### Noise, keys and the generator (Machine/Keys) -/

@[simp] theorem State.noiseFailed_queue (s : State) : s.noiseFailed.queue = s.queue := by simp [State.noiseFailed]

@[simp] theorem State.startupWindow_queue (s : State) (bad : Bool) (w : List Bool) : (s.startupWindow bad w).queue = s.queue := by
  simp [State.startupWindow]

@[simp] theorem State.steadyWindow_queue (s : State) (bad : Bool) (w : List Bool) : (s.steadyWindow bad w).queue = s.queue := by
  simp [State.steadyWindow]

@[simp] theorem State.seeded_queue (s : State) (kv : BitVec 256 × BitVec 128) : (s.seeded kv).queue = s.queue := by simp [State.seeded]

@[simp] theorem State.takeStalled_queue (s : State) (c : Nat) (x : Bytes × Nat) : (s.takeStalled c x).queue = s.queue := by
  unfold State.takeStalled
  split
  · simp
  · split <;> simp

@[simp] theorem State.unstall_queue (s : State) (c : Nat) : (s.unstall c).queue = s.queue := by simp [State.unstall]
@[simp] theorem State.setKey_queue (s : State) (id : Nat) (k : Option Key) : (s.setKey id k).queue = s.queue := by simp [State.setKey]
@[simp] theorem State.keyDo_queue (s : State) (b : Bytes) : (s.keyDo b).queue = s.queue := by simp [State.keyDo]

@[simp] theorem State.putKey_keeps (s : State) (r : Role) (b : Bytes) : (s.putKey r b).keeps s := by
  unfold State.putKey
  split <;> simp

@[simp] theorem State.keyLost_queue (s : State) (c : Nat) : (s.keyLost c).queue = s.queue := by simp [State.keyLost]

@[simp] theorem State.endEncrypted_queue (s : State) (p : Nat) : (s.endEncrypted p).queue = s.queue := by
  unfold State.endEncrypted
  split <;> simp

@[simp] theorem State.jobFail_queue (s : State) (p : Nat) (ctx : BitVec 12) (e : Halt) : (s.jobFail p ctx e).queue = s.queue := by
  simp [State.jobFail]

@[simp] theorem State.endJob_queue (s : State) (p : Nat) : (s.endJob p).queue = s.queue := by
  unfold State.endJob
  split <;> simp

@[simp] theorem State.zeroiseAll_queue (s : State) (cause : Nat) : (s.zeroiseAll cause).queue = s.queue := by simp [State.zeroiseAll]
@[simp] theorem State.putZeroise_keeps (s : State) (r : Role) (v : Nat) : (s.putZeroise r v).keeps s := by simp [State.putZeroise]

/-! #### Cipher jobs (Machine/Cipher) -/

@[simp] theorem State.putJob_keeps (s : State) (w : WriteReq) (r : Role) : (s.putJob w r).keeps s := by
  unfold State.putJob
  dsimp only
  split <;> simp

/-! #### The life cycle (Machine/Life) -/

@[simp] theorem State.eachTile_queue (s : State) (p : Nat) (f : Tile → Tile) : (s.eachTile p f).queue = s.queue := by
  simp [State.eachTile]

@[simp] theorem State.formDo_queue (s : State) (p : Nat) : (s.formDo p).queue = s.queue := by simp [State.formDo]
@[simp] theorem State.dissolveDo_queue (s : State) (p : Nat) : (s.dissolveDo p).queue = s.queue := by simp [State.dissolveDo]

@[simp] theorem State.putCommand_keeps (s : State) (w : WriteReq) (r : Role) (v : Nat) : (s.putCommand w r v).keeps s := by
  unfold State.putCommand
  dsimp only
  split
  · simp
  · split
    · split <;> simp
    · split
      · split <;> simp
      · simp

@[simp] theorem State.readChallenge_queue (s : State) (r : Role) : (s.readChallenge r).2.queue = s.queue := by
  unfold State.readChallenge
  split <;> simp

@[simp] theorem State.scrubAll_queue (s : State) : s.scrubAll.queue = s.queue := by simp [State.scrubAll]
@[simp] theorem State.lcEnter_queue (s : State) (target : Nat) : (s.lcEnter target).queue = s.queue := by simp [State.lcEnter]
@[simp] theorem State.eraseAll_queue (s : State) (cause : Nat) : (s.eraseAll cause).queue = s.queue := by simp [State.eraseAll]

@[simp] theorem State.lcDo_queue (s : State) (target : Nat) : (s.lcDo target).queue = s.queue := by
  unfold State.lcDo
  split <;> simp

@[simp] theorem State.putLife_keeps (s : State) (w : WriteReq) (r : Role) : (s.putLife w r).keeps s := by
  unfold State.putLife
  dsimp only
  split <;> simp

/-! #### The tag (Machine/Tag) -/

@[simp] theorem State.tagAnswer_queue (s : State) (bs : Bytes) : (s.tagAnswer bs).queue = s.queue := by simp [State.tagAnswer]
@[simp] theorem State.tagMode_queue (s : State) (m : TagMode) : (s.tagMode m).queue = s.queue := by simp [State.tagMode]

@[simp] theorem State.tagRead_queue (s : State) (flags : BitVec 8) (first count : Nat) :
    (s.tagRead flags first count).queue = s.queue := by simp [State.tagRead]

@[simp] theorem State.tagEvent_queue (s : State) (code : Nat) (last : Option Nat) (count : Nat) :
    (s.tagEvent code last count).1.queue = s.queue := by simp [State.tagEvent]

@[simp] theorem State.countRfWrite_queue (s : State) : s.countRfWrite.queue = s.queue := by simp [State.countRfWrite]
@[simp] theorem State.countRfRefused_queue (s : State) : s.countRfRefused.queue = s.queue := by simp [State.countRfRefused]

@[simp] theorem State.tagWrite_queue (s : State) (n : Nat) (data : Word) : (s.tagWrite n data).queue = s.queue := by
  simp [State.tagWrite]

@[simp] theorem State.putLock_keeps (s : State) (ses : Ses) (v : Nat) : (s.putLock ses v).keeps s := by
  unfold State.putLock
  dsimp only
  split
  · split <;> simp
  · simp

@[simp] theorem State.putTagData_keeps (s : State) (ses : Ses) (r : Role) (data : Bytes) : (s.putTagData ses r data).keeps s := by
  simp [State.putTagData]

/-! #### Management (Machine/Mgmt) -/

@[simp] theorem State.linkDown_queue (s : State) : s.linkDown.queue = s.queue := by simp [State.linkDown]

@[simp] theorem State.newChallenge_queue (s : State) (src : Source) : (s.newChallenge src).2.queue = s.queue := by
  simp [State.newChallenge]

@[simp] theorem State.credentialDo_queue (s : State) (b : Bytes) : (s.credentialDo b).queue = s.queue := by simp [State.credentialDo]

@[simp] theorem State.putCredential_keeps (s : State) (w : WriteReq) (r : Role) : (s.putCredential w r).keeps s := by
  unfold State.putCredential
  split <;> simp

@[simp] theorem State.putReset_keeps (s : State) (r : Role) (v : Nat) : (s.putReset r v).keeps s := by simp [State.putReset]
@[simp] theorem State.setPower_queue (s : State) (v : BitVec 8) : (s.setPower v).queue = s.queue := by simp [State.setPower]
@[simp] theorem State.powerOn_queue (s : State) : s.powerOn.queue = s.queue := by simp [State.powerOn]
@[simp] theorem State.powerOff_queue (s : State) : s.powerOff.queue = s.queue := by simp [State.powerOff]
@[simp] theorem State.putPower_keeps (s : State) (r : Role) (v : Nat) : (s.putPower r v).keeps s := by simp [State.putPower]
@[simp] theorem State.putFreeze_keeps (s : State) (r : Role) (v : Nat) : (s.putFreeze r v).keeps s := by simp [State.putFreeze]

@[simp] theorem State.putCaptureAck_keeps (s : State) (r : Role) (v : Nat) : (s.putCaptureAck r v).keeps s := by
  simp [State.putCaptureAck]

/-! #### Bring-up (Machine/Bringup) -/

@[simp] theorem State.bridgeClocks_queue (s : State) (pcieRef : Bool) : (s.bridgeClocks pcieRef).queue = s.queue := by
  simp [State.bridgeClocks]

@[simp] theorem State.setClusterReady_queue (s : State) (k : Nat) (on : Bool) : (s.setClusterReady k on).queue = s.queue := by
  simp [State.setClusterReady]

@[simp] theorem State.testPassed_queue (s : State) (k : Nat) : (s.testPassed k).queue = s.queue := by simp [State.testPassed]

@[simp] theorem State.testFailed_queue (s : State) (k tile : Nat) (stage : BitVec 8) :
    (s.testFailed k tile stage).queue = s.queue := by simp [State.testFailed]

@[simp] theorem State.pcieFails_queue (s : State) : s.pcieFails.queue = s.queue := by
  unfold State.pcieFails
  refine State.each_queue (fun a p => ?_) _ _
  split <;> simp

@[simp] theorem State.resetMirror_queue (s : State) : s.resetMirror.queue = s.queue := by simp [State.resetMirror]
@[simp] theorem State.powerFault_queue (s : State) : s.powerFault.queue = s.queue := by simp [State.powerFault]

@[simp] theorem State.clockPacket_queue (s : State) (mhz unit cause : Nat) : (s.clockPacket mhz unit cause).queue = s.queue := by
  simp [State.clockPacket]

@[simp] theorem State.dieClocks_queue (s : State) (d : Nat) : (s.dieClocks d).queue = s.queue := by simp [State.dieClocks]
@[simp] theorem State.linkClock_queue (s : State) : s.linkClock.queue = s.queue := by simp [State.linkClock]
@[simp] theorem State.followThrottles_queue (s : State) : s.followThrottles.queue = s.queue := by simp [State.followThrottles]

@[simp] theorem State.modSensor_queue (s : State) (n : Nat) (f : Sensor → Sensor) : (s.modSensor n f).queue = s.queue := by
  simp [State.modSensor]

@[simp] theorem State.thermalWarn_queue (s : State) (n level : Nat) : (s.thermalWarn n level).queue = s.queue := by
  simp [State.thermalWarn]

@[simp] theorem State.tripped_queue (s : State) (n : Nat) : (s.tripped n).queue = s.queue := by simp [State.tripped]
@[simp] theorem State.sense_queue (s : State) (n : Nat) (temp : Word) : (s.sense n temp).queue = s.queue := by simp [State.sense]

@[simp] theorem State.putTclkLimit_keeps (s : State) (ses : Ses) (r : Role) (mhz : Nat) : (s.putTclkLimit ses r mhz).keeps s := by
  simp [State.putTclkLimit]

@[simp] theorem State.measure_queue (s : State) : s.measure.queue = s.queue := by simp [State.measure]

/-! #### Power (Machine/Power) -/

@[simp] theorem State.powerDown_queue (s : State) (k : Nat) (v : BitVec 8) : (s.powerDown k v).queue = s.queue := by
  simp [State.powerDown]

@[simp] theorem State.powerUp_queue (s : State) (k : Nat) : (s.powerUp k).queue = s.queue := by simp [State.powerUp]

@[simp] theorem State.putPowerState_keeps (s : State) (ses : Ses) (r : Role) (v : BitVec 8) :
    (s.putPowerState ses r v).keeps s := by simp [State.putPowerState]

@[simp] theorem State.settleCluster_queue (s : State) (k : Nat) : (s.settleCluster k).queue = s.queue := by simp [State.settleCluster]
@[simp] theorem State.putEngines_keeps (s : State) (r : Role) (v : BitVec 8) : (s.putEngines r v).keeps s := by simp [State.putEngines]

@[simp] theorem State.replayDo_queue (s : State) (p : Nat) (b : Bytes) : (s.replayDo p b).queue = s.queue := by
  unfold State.replayDo
  dsimp only
  split
  · simp
  · split <;> simp

@[simp] theorem State.putReplay_keeps (s : State) (w : WriteReq) (r : Role) : (s.putReplay w r).keeps s := by
  unfold State.putReplay
  dsimp only
  split <;> simp

/-! #### The object dictionary (Machine/Objects) -/

@[simp] theorem State.operatorSets_keeps {s u : State} (r : Role) (ok : Bool) (h : u.queue = s.queue) :
    (s.operatorSets r ok u).keeps s := by simp [State.operatorSets, h]

@[simp] theorem State.write1020_keeps (s : State) (r : Role) (sub v : Nat) : (s.write1020 r sub v).keeps s := by
  unfold State.write1020
  dsimp only
  split <;> simp

@[simp] theorem State.write1130_keeps (s : State) (ses : Ses) (r : Role) (sub v : Nat) : (s.write1130 ses r sub v).keeps s := by
  unfold State.write1130
  dsimp only
  split
  · simp
  · simp
  · simp

@[simp] theorem State.write2000_keeps (s : State) (ses : Ses) (r : Role) (sub v : Nat) : (s.write2000 ses r sub v).keeps s := by
  unfold State.write2000
  dsimp only
  split
  case h_7 => trivial
  all_goals exact State.operatorSets_keeps _ _ (State.modPart_queue ..)

@[simp] theorem State.write2130_keeps (s : State) (r : Role) (v : Nat) : (s.write2130 r v).keeps s := by simp [State.write2130]

@[simp] theorem State.write2160_keeps (s : State) (ses : Ses) (r : Role) (v : Nat) : (s.write2160 ses r v).keeps s := by
  simp [State.write2160]

@[simp] theorem State.write2240_keeps (s : State) (r : Role) (sub v : Nat) : (s.write2240 r sub v).keeps s := by
  unfold State.write2240
  dsimp only
  split <;> simp

@[simp] theorem State.write2500_keeps (s : State) (r : Role) (sub v : Nat) : (s.write2500 r sub v).keeps s := by
  unfold State.write2500
  dsimp only
  split <;> simp

@[simp] theorem State.write2501_keeps (s : State) (ses : Ses) (r : Role) (v : Nat) : (s.write2501 ses r v).keeps s := by
  simp [State.write2501]

@[simp] theorem State.write2800_keeps (s : State) (ses : Ses) (r : Role) (sub v : Nat) : (s.write2800 ses r sub v).keeps s := by
  simp [State.write2800]

@[simp] theorem State.unclaim_queue (s : State) : s.unclaim.queue = s.queue := by simp [State.unclaim]

@[simp] theorem State.write2900_keeps (s : State) (r : Role) (sub v : Nat) : (s.write2900 r sub v).keeps s := by
  unfold State.write2900
  dsimp only
  split <;> simp

@[simp] theorem State.write3020_keeps (s : State) (r : Role) (sub v : Nat) : (s.write3020 r sub v).keeps s := by
  unfold State.write3020
  split <;> simp

@[simp] theorem State.write3200_keeps (s : State) (ses : Ses) (r : Role) (sub v : Nat) : (s.write3200 ses r sub v).keeps s := by
  unfold State.write3200
  split <;> simp

@[simp] theorem State.write3300_keeps (s : State) (r : Role) (v : Nat) : (s.write3300 r v).keeps s := by simp [State.write3300]

@[simp] theorem State.writeLow_keeps (s : State) (w : WriteReq) (r : Role) (v : Nat) : (s.writeLow w r v).keeps s := by
  unfold State.writeLow
  split <;> simp

@[simp] theorem State.writeMid_keeps (s : State) (w : WriteReq) (r : Role) (v : Nat) : (s.writeMid w r v).keeps s := by
  unfold State.writeMid
  split <;> simp

@[simp] theorem State.writeHigh_keeps (s : State) (w : WriteReq) (r : Role) (v : Nat) : (s.writeHigh w r v).keeps s := by
  unfold State.writeHigh
  split <;> simp

@[simp] theorem State.putObject_keeps (s : State) (w : WriteReq) (r : Role) : (s.putObject w r).keeps s := by
  unfold State.putObject
  dsimp only
  split
  · trivial
  · split <;> simp

@[simp] theorem State.writeObject_queue (s : State) (ses : Ses) (idx sub : Nat) (b : Bytes) :
    (s.writeObject ses idx sub b).1.queue = s.queue := by simp [State.writeObject]

/-! #### Management frames (Machine/Aoa) -/

@[simp] theorem State.countFrame_queue (s : State) (src : Source) : (s.countFrame src).queue = s.queue := by
  unfold State.countFrame
  split <;> simp

@[simp] theorem State.dropFrame_queue (s : State) : s.dropFrame.queue = s.queue := by simp [State.dropFrame]

@[simp] theorem State.reply_queue (s : State) (src : Source) (rsp : Bytes) : (s.reply src rsp).queue = s.queue := by
  unfold State.reply
  split
  · rfl
  · split <;> simp

@[simp] theorem State.served_queue (s : State) (q : Frame) (key : BitVec 256) (rsp : Bytes) :
    (s.served q key rsp).queue = s.queue := by
  unfold State.served
  split <;> simp

@[simp] theorem State.getObject_queue (s : State) (src : Source) (q : Frame) : (s.getObject src q).1.queue = s.queue := by
  simp [State.getObject]

@[simp] theorem State.setObject_queue (s : State) (q : Frame) : (s.setObject q).1.queue = s.queue := by simp [State.setObject]

@[simp] theorem State.openSession_queue (s : State) (src : Source) (q : Frame) : (s.openSession src q).queue = s.queue := by
  unfold State.openSession
  split <;> simp

@[simp] theorem State.serve_queue (s : State) (src : Source) (q : Frame) : (s.serve src q).1.queue = s.queue := by
  unfold State.serve
  split <;> simp

@[simp] theorem State.handleFrame_queue (s : State) (src : Source) (f : Bytes) : (s.handleFrame src f).queue = s.queue := by
  unfold State.handleFrame
  split
  · simp
  · split
    · simp
    · split <;> simp

@[simp] theorem State.takeFrame_queue (s : State) (src : Source) (f : Bytes) (type : Nat) :
    (s.takeFrame src f type).queue = s.queue := by simp [State.takeFrame]

/-! #### Completion (Machine/Complete) -/

@[simp] theorem State.arrayIdle_queue (s : State) (l : Path) : (s.arrayIdle l).queue = s.queue := by simp [State.arrayIdle]

/-! #### Debug access (Machine/Debug) -/

@[simp] theorem State.debugAnswer_queue (s : State) (bs : Bytes) : (s.debugAnswer bs).queue = s.queue := by simp [State.debugAnswer]
@[simp] theorem State.bypassed_queue (s : State) : s.bypassed.queue = s.queue := by simp [State.bypassed]
@[simp] theorem State.scanned_queue (s : State) (may : Bool) : (s.scanned may).queue = s.queue := by simp [State.scanned]

end Sys2Proof.Machine
end

section
/-! SUPPORT. Every command answers: it goes on with the queue it found, or it names a unit that is not there. -/

namespace Sys2Proof.Machine

/-! ### What a command answers -/

/-- A command answers: it goes on and leaves the queue, or it is not well formed and names a unit that is not there. -/
def Answered (s : State) (wf : Bool) (o : Out) : Prop :=
  ∃ u : State, u.queue = s.queue ∧ (o = .next u ∨ wf = false ∧ o = .fault .noSuchUnit)

theorem Answered.next {s u : State} {wf : Bool} (h : u.queue = s.queue) : Answered s wf (.next u) := ⟨u, h, .inl rfl⟩

theorem Answered.guard_of {s u : State} {wf ok : Bool} (hw : wf = true → ok = true) (h : u.queue = s.queue) :
    Answered s wf (guardUnit ok u) := by
  refine ⟨u, h, ?_⟩
  cases ok
  · exact .inr ⟨Bool.eq_false_iff.2 fun e => Bool.false_ne_true (hw e), rfl⟩
  · exact .inl rfl

theorem Answered.guard {s u : State} {wf : Bool} (h : u.queue = s.queue) : Answered s wf (guardUnit wf u) :=
  Answered.guard_of id h

theorem Answered.next_of_wf {s : State} {wf : Bool} {o : Out} (h : Answered s wf o) (hw : wf = true) : ∃ u, o = .next u := by
  obtain ⟨u, -, rfl | ⟨hf, -⟩⟩ := h
  · exact ⟨u, rfl⟩
  · exact absurd (hf ▸ hw) Bool.false_ne_true

theorem Answered.next_or_fault {s : State} {wf : Bool} {o : Out} (h : Answered s wf o) :
    (∃ u, o = .next u) ∨ o = .fault .noSuchUnit := by
  obtain ⟨u, -, rfl | ⟨-, rfl⟩⟩ := h
  · exact .inl ⟨u, rfl⟩
  · exact .inr rfl

theorem Answered.queue_of_next {s u : State} {wf : Bool} (h : Answered s wf (.next u)) : u.queue = s.queue := by
  obtain ⟨v, hv, e | ⟨-, e⟩⟩ := h
  · cases e
    exact hv
  · cases e

section
variable {s : State}

/-! ### The shapes that commands share -/

theorem State.fetchedWord_answered {t : Path} {insn : Word} {f : State → Path → State} (h : ∀ l, (f s l).queue = s.queue) :
    Answered s (activePath t) (s.fetchedWord t insn f) :=
  Answered.guard (by simp [h])

theorem State.fetched_answered {t : Path} {insn : Word} {placed : Bool} {f : State → Path → State}
    (h : ∀ l, (f s l).queue = s.queue) : Answered s (activePath t) (s.fetched t insn placed f) :=
  State.fetchedWord_answered fun l => by simp [h]

theorem State.simple_answered {t : Path} {insn : Word} {f : Tile → Tile} : Answered s (activePath t) (s.simple t insn f) :=
  State.fetched_answered fun l => by simp

theorem State.lsAccess_answered {t : Path} {insn : Word} {n : Nat} {base : Reg} {off : BitVec 15} {f : State → Path → Nat → State}
    (h : ∀ l a, (f s l a).queue = s.queue) : Answered s (activePath t) (s.lsAccess t insn n base off f) :=
  State.fetched_answered fun l => by simp [h]

theorem State.loadInsn_answered {t : Path} {insn : Word} {n : Nat} {rt base : Reg} {off : BitVec 15} :
    Answered s (activePath t) (s.loadInsn t insn n rt base off) :=
  State.lsAccess_answered fun l a => by
    split <;> next e => simp [fst_of_eq e]

theorem State.storeInsn_answered {t : Path} {insn : Word} {n : Nat} {rt base : Reg} {off : BitVec 15} :
    Answered s (activePath t) (s.storeInsn t insn n rt base off) :=
  State.lsAccess_answered fun l a => by
    split <;> next e => simp [fst_of_eq e]

theorem State.branch_answered {t : Path} {cond : Nat} {v : Bool} {ra rb : Reg} {off : BitVec 14} {test : Word → Word → Bool} :
    Answered s (activePath t) (s.branch t cond v ra rb off test) :=
  State.fetched_answered fun l => by simp

theorem State.vecInsn_answered {t : Path} {vop : Nat} {v : Bool} {vd va vb : Reg} {m : BitVec 3} :
    Answered s (activePath t) (s.vecInsn t vop v vd va vb m) := by
  unfold State.vecInsn
  exact State.fetchedWord_answered fun l => by simp

theorem State.dispatch_answered {t : Path} {unit : Nat} {isOp : Command → Bool} {work : State → Path → Command → State}
    (h : ∀ a l c, (work a l c).queue = a.queue) : Answered s (activePath t) (s.dispatch t unit isOp work) := by
  refine Answered.guard ?_
  dsimp only
  split
  · rfl
  · simp [h]

theorem State.arrayRow_answered {t : Path} {isOp : Nat → Bool} : Answered s (activePath t) (s.arrayRow t isOp) :=
  State.dispatch_answered fun a l c => by simp

theorem State.accRow_answered {t : Path} {unit : Nat} {isOp : Nat → Bool} {work : State → AccCtx → State}
    (h : ∀ a c, (work a c).queue = a.queue) : Answered s (activePath t) (s.accRow t unit isOp work) :=
  State.dispatch_answered fun a l c => State.accDispatch_queue a unit h l c

theorem State.tsRow_answered {t : Path} {top : Nat} {work : State → TsCtx → Trial Unit} (h : ∀ a c, (work a c).1.queue = a.queue) :
    Answered s (activePath t) (s.tsRow t top work) :=
  State.dispatch_answered fun a l c => State.tsDispatch_queue a h l c

theorem State.shRow_answered {t : Path} {isOp : Command → Bool} : Answered s (activePath t) (s.shRow t isOp) := by
  refine Answered.guard ?_
  dsimp only
  split
  · rfl
  · simp

theorem State.outRow_answered {t : Path} {isTop : Nat → Bool} {work : State → TsCtx → Binding → OutCmd → State}
    (h : ∀ a c b d, (work a c b d).queue = a.queue) : Answered s (activePath t) (s.outRow t isTop work) :=
  State.dispatch_answered fun a l c => State.outDispatch_queue a h l c

theorem State.msgRow_answered {wf : Bool} {p : PortCode} {mt : BitVec 4} {f : State → Group → Msg → State}
    (h : ∀ a g m, (f a g m).queue = a.queue) : Answered s wf (s.msgRow p mt f) := by
  refine Answered.next ?_
  split
  · rfl
  · next e =>
    rw [← State.takeRx_queue e]
    split <;> simp [h]

theorem State.slotRow_answered {wf : Bool} {p : PortCode} {mt : BitVec 4} {f : State → Nat → Slot → Msg → State}
    (h : ∀ a key x m, (f a key x m).queue = a.queue) : Answered s wf (s.slotRow p mt f) :=
  State.msgRow_answered fun a g m => by
    dsimp only
    split <;> simp [h]

theorem State.outMsgRow_answered {wf : Bool} {p : PortCode} {mt : BitVec 4} {f : State → Binding → Msg → State}
    (h : ∀ a b m, (f a b m).queue = a.queue) : Answered s wf (s.outMsgRow p mt f) :=
  State.msgRow_answered fun a g m => by
    split <;> simp [h]

theorem State.putRow_answered {wf : Bool} {w : WriteReq} {put : State → Role → Put} (h : ∀ r, (put s r).keeps s) :
    Answered s wf (s.putRow w put) :=
  Answered.next (by simp [State.putStatus_queue s w h])

theorem State.mapRow_answered {wf : Bool} {ses : Ses} {op : Nat} {rec' : BitVec 256} : Answered s wf (s.mapRow ses op rec') :=
  State.putRow_answered fun r => by simp

theorem State.jobRow_answered {wf : Bool} {ses : Ses} {mode : Nat} {rec' : BitVec 512} : Answered s wf (s.jobRow ses mode rec') :=
  State.putRow_answered fun r => by simp

theorem State.lifeRow_answered {wf : Bool} {ses : Ses} {target : Nat} {token : BitVec 128} :
    Answered s wf (s.lifeRow ses target token) :=
  State.putRow_answered fun r => by simp

theorem State.tagServe_answered {wf : Bool} {flags : BitVec 8} {uid : BitVec 64} {f : State → State} (h : (f s).queue = s.queue) :
    Answered s wf (s.tagServe flags uid f) :=
  Answered.next (by simp [h])

theorem State.debugTile_answered {wf : Bool} {t : Path} {ok : Bool} {f : State → State}
    (hw : wf = true → (validPath t && ok) = true) (h : (f s).queue = s.queue) : Answered s wf (s.debugTile t ok f) := by
  refine Answered.guard_of hw ?_
  split <;> simp [h]

theorem State.debugAccess_answered {ok : Bool} {f : State → State} (h : (f s).queue = s.queue) :
    Answered s ok (s.debugAccess ok f) :=
  Answered.guard (by simp [h])

end

/-! ### The commands that share no shape -/

theorem unitNo_succ {n : Nat} (u : BitVec n) (k : Nat) : unitNo u (k + 1) = true ↔ decide (u.toNat ≤ k) = true := by
  simp [unitNo]

theorem execMemoryRequest_answered (ctx : BitVec 12) (pa : BitVec 44) (req : LineRequest) (errs : List (BitVec 4 × BitVec 8))
    (s : State) : Answered s true (execMemoryRequest ctx pa req errs s) := by
  refine Answered.next ?_
  cases req <;> dsimp only <;> split
  · rfl
  · split <;> next e => simp [fst_of_eq e]
  · rfl
  · split <;> next e => simp [fst_of_eq e]

theorem execReadaheadExpire_answered (tier2 : Bool) (ch : BitVec 9) (s : State) :
    Answered s (unitNo ch (if tier2 then 48 else 384)) (execReadaheadExpire tier2 ch s) := by
  refine Answered.guard ?_
  dsimp only
  split <;> simp

theorem execLoop_answered (t : Path) (v : Bool) (level : BitVec 2) (i : Bool) (len count : BitVec 12) (s : State) :
    Answered s (activePath t) (execLoop t v level i len count s) := by
  unfold execLoop
  dsimp only
  split
  · exact State.fetchedWord_answered fun l => by simp
  · exact State.fetched_answered fun l => by simp

theorem execMfc_answered (t : Path) (v : Bool) (rx : Reg) (cr : BitVec 6) (s : State) :
    Answered s (activePath t) (execMfc t v rx cr s) := by
  refine State.fetched_answered fun l => ?_
  split <;> simp

theorem execIllegalInsn_answered (t : Path) (w : Word) (s : State) : Answered s (activePath t) (execIllegalInsn t w s) := by
  unfold execIllegalInsn
  split
  · exact Answered.guard rfl
  · exact State.fetchedWord_answered fun l => by simp

theorem execExceptionEntry_answered (t : Path) (s : State) : Answered s (activePath t) (execExceptionEntry t s) := by
  refine Answered.guard ?_
  dsimp only
  split
  · rfl
  · split <;> simp

theorem execEret_answered (t : Path) (v : Bool) (imm : BitVec 16) (s : State) :
    Answered s (activePath t) (execEret t v imm s) := by
  refine State.fetched_answered fun l => ?_
  dsimp only
  split
  · split <;> simp
  · split
    · simp
    · split <;> next e => simp [fst_of_eq e]

theorem execIssue_answered (t : Path) (v : Bool) (rdesc : Reg) (s : State) :
    Answered s (activePath t) (execIssue t v rdesc s) := by
  refine State.fetched_answered fun l => ?_
  split <;> next e => simp [fst_of_eq e]

theorem execFireItem_answered (t : Path) (s : State) : Answered s (activePath t) (execFireItem t s) := by
  refine Answered.guard ?_
  dsimp only
  split
  · rfl
  · split
    · rfl
    · split <;> next e => simp [fst_of_eq e]

theorem execLaneLockLoss_answered (p : PortCode) (lane : BitVec 4) (s : State) : Answered s true (execLaneLockLoss p lane s) := by
  refine Answered.next ?_
  dsimp only
  split
  · rfl
  · split <;> simp

theorem execPortCloseDrained_answered (p : PortCode) (s : State) : Answered s true (execPortCloseDrained p s) := by
  refine Answered.next ?_
  dsimp only
  split <;> simp

theorem execCollectiveDeadline_answered (ctx : BitVec 12) (slot : BitVec 4) (s : State) :
    Answered s true (execCollectiveDeadline ctx slot s) := by
  refine Answered.next ?_
  dsimp only
  split <;> simp

theorem execMsgAbort_answered (p : PortCode) (s : State) : Answered s true (execMsgAbort p s) := by
  refine State.msgRow_answered fun a g m => ?_
  split <;> simp

theorem execMsgContrib_answered (p : PortCode) (s : State) : Answered s true (execMsgContrib p s) := by
  refine State.outMsgRow_answered fun a b m => ?_
  dsimp only
  split
  · simp
  · split <;> next e => simp [fst_of_eq e]

theorem execMsgBitmap_answered (p : PortCode) (s : State) : Answered s true (execMsgBitmap p s) := by
  refine State.outMsgRow_answered fun a b m => ?_
  dsimp only
  split
  · rfl
  · split
    · split <;> simp
    · simp

theorem execMsgSnapreq_answered (p : PortCode) (s : State) : Answered s true (execMsgSnapreq p s) := by
  refine State.outMsgRow_answered fun a b m => ?_
  have h := State.tsRead_queue
  -- Opaque from here on: to compare two matches on what it returns, the kernel would run it.
  obtain ⟨tsRead, hr⟩ : ∃ f, f = @State.tsRead := ⟨_, rfl⟩
  rw [← hr] at h ⊢
  dsimp only
  split
  · simp
  · split
    · next e => simp [fst_of_eq e, h]
    · next e =>
      split
      · simp [fst_of_eq e, h]
      · split
        · simp [fst_of_eq e, h]
        · split <;> next e' => simp [fst_of_eq e', fst_of_eq e, h]

theorem execMsgSnapdata_answered (p : PortCode) (s : State) : Answered s true (execMsgSnapdata p s) := by
  refine State.outMsgRow_answered fun a b m => ?_
  have hread := State.readOut_queue
  have hput := State.putSnap_queue
  -- Opaque from here on: to compare two matches on what it returns, the kernel would run it.
  obtain ⟨readOut, hr⟩ : ∃ f, f = @State.readOut := ⟨_, rfl⟩
  obtain ⟨putSnap, hp⟩ : ∃ f, f = @State.putSnap := ⟨_, rfl⟩
  rw [← hr] at hread ⊢
  rw [← hp] at hput ⊢
  split
  · simp
  · dsimp only
    split
    · simp
    · split
      · simp
      · split
        · simp
        · split
          · simp
          · split
            · next e => simp [fst_of_eq e, hread]
            · next e =>
              split
              · simp [fst_of_eq e, hread]
              · split <;> next e' => simp [fst_of_eq e', fst_of_eq e, hread, hput]

theorem execSnapfetchRetry_answered (gid : BitVec 16) (s : State) : Answered s true (execSnapfetchRetry gid s) := by
  refine Answered.next (State.withBinding_queue s gid fun b => ?_)
  have h := State.readOut_queue
  -- Opaque from here on: to compare two matches on what it returns, the kernel would run it.
  obtain ⟨readOut, hr⟩ : ∃ f, f = @State.readOut := ⟨_, rfl⟩
  rw [← hr] at h ⊢
  split
  · rfl
  · split
    · rfl
    · dsimp only
      split <;> next e => simp [fst_of_eq e, h]

theorem execSnapfetchTimeout_answered (gid : BitVec 16) (s : State) : Answered s true (execSnapfetchTimeout gid s) := by
  refine Answered.next (State.withBinding_queue s gid fun b => ?_)
  split
  · rfl
  · dsimp only
    split
    · rfl
    · split <;> simp

theorem execOutDeadline_answered (gid : BitVec 16) (s : State) : Answered s true (execOutDeadline gid s) := by
  refine Answered.next (State.withBinding_queue s gid fun b => ?_)
  split
  · split <;> simp
  · rfl

theorem execOutStatusLimit_answered (gid : BitVec 16) (s : State) : Answered s true (execOutStatusLimit gid s) := by
  refine Answered.next (State.withBinding_queue s gid fun b => ?_)
  split
  · rfl
  · dsimp only
    split
    · rfl
    · split
      · simp
      · split <;> simp

theorem execOutIncomplete_answered (gid : BitVec 16) (s : State) : Answered s true (execOutIncomplete gid s) := by
  refine Answered.next (State.withBinding_queue s gid fun b => ?_)
  split
  · rfl
  · split <;> simp

theorem execCounterLock_answered (s : State) : Answered s true (execCounterLock s) := by
  refine Answered.next ?_
  split <;> simp

theorem execArm_answered (ses : Ses) (rec' : BitVec 256) (s : State) : Answered s true (execArm ses rec' s) := by
  unfold execArm
  exact State.putRow_answered fun r => Put.keeps_of_queue (State.launchDue_queue ..) (State.putLaunch_keeps ..)

theorem execCancel_answered (ses : Ses) (rec' : BitVec 256) (s : State) : Answered s true (execCancel ses rec' s) := by
  unfold execCancel
  exact State.putRow_answered fun r => Put.keeps_of_queue (State.launchDue_queue ..) (State.putLaunch_keeps ..)

theorem execCheckerCompare_answered (k : BitVec 6) (s : State) : Answered s (unitNo k 40) (execCheckerCompare k s) := by
  refine Answered.guard ?_
  split <;> simp

theorem execFaultRingHeartbeat_answered (collector : BitVec 3) (crcBad : Bool) (missed : Nat) (s : State) :
    Answered s (unitNo collector 5) (execFaultRingHeartbeat collector crcBad missed s) :=
  Answered.guard_of (unitNo_succ collector 4).1 (by simp)

theorem execMaskReseed_answered (engine : BitVec 3) (s : State) : Answered s (unitNo engine 5) (execMaskReseed engine s) :=
  Answered.guard_of (unitNo_succ engine 4).1 (by simp)

theorem execTagLockTimeout_answered (s : State) : Answered s true (execTagLockTimeout s) := by
  refine Answered.next ?_
  split <;> simp

theorem execTagPublishDone_answered (s : State) : Answered s true (execTagPublishDone s) := by
  refine Answered.next ?_
  split <;> simp

theorem execNotify_answered (s : State) : Answered s true (execNotify s) := by
  refine Answered.next ?_
  split <;> simp

theorem execSessionTimeout_answered (ses : Ses) (s : State) : Answered s true (execSessionTimeout ses s) := by
  refine Answered.next ?_
  split <;> simp

theorem execClusterSelfTest_answered (k : BitVec 6) (result : SelfTest) (s : State) :
    Answered s (unitNo k 40 && selfTestOk result) (execClusterSelfTest k result s) := by
  refine Answered.guard ?_
  dsimp only
  split
  · rfl
  · split <;> simp

theorem execThermalCrossing_answered (sensor : BitVec 5) (milliC : BitVec 32) (s : State) :
    Answered s (unitNo sensor 28) (execThermalCrossing sensor milliC s) :=
  Answered.guard_of (unitNo_succ sensor 27).1 (by simp)

theorem execThermalTrip_answered (sensor : BitVec 5) (milliC : BitVec 32) (s : State) :
    Answered s (unitNo sensor 28) (execThermalTrip sensor milliC s) :=
  Answered.guard_of (unitNo_succ sensor 27).1 (by simp)

theorem execThrottleEnd_answered (sensor : BitVec 5) (s : State) : Answered s (unitNo sensor 28) (execThrottleEnd sensor s) := by
  refine Answered.guard_of (unitNo_succ sensor 27).1 ?_
  dsimp only
  split <;> simp

theorem execTripShutdown_answered (s : State) : Answered s true (execTripShutdown s) := by
  refine Answered.next ?_
  split <;> simp

theorem execClockStep_answered (die : BitVec 2) (s : State) : Answered s true (execClockStep die s) := by
  refine Answered.next ?_
  dsimp only
  split
  · rfl
  · split <;> simp

theorem execCommandComplete_answered (t : Path) (k : Nat) (s : State) :
    Answered s (activePath t) (execCommandComplete t k s) := by
  refine Answered.guard ?_
  dsimp only
  split <;> simp

theorem State.debugServe_answered {s : State} {op : DebugOp} : Answered s (debugOk op) (s.debugServe op) := by
  unfold State.debugServe
  cases op with
  | idcode | bypass | samplePreload | extest | internalScan => exact Answered.next (by simp)
  | readReg | writeReg | readSeq | writeSeq | readWindow =>
    exact State.debugTile_answered (fun hw => (Bool.and_true _).trans hw) (by simp)
  | readStore | writeStore => exact State.debugTile_answered id (by simp)
  | readMemory | writeMemory | readObject => exact State.debugAccess_answered (by simp)
  | writeObject idx sub data =>
    refine State.debugAccess_answered ?_
    have h := State.putObject_keeps s (s.writeReq 0 idx.toNat sub.toNat data) .maker
    split
    · next e =>
      rw [e] at h
      exact h
    · simp

theorem execDebugAccess_answered (op : DebugOp) (s : State) : Answered s (debugOk op) (execDebugAccess op s) := by
  unfold execDebugAccess
  split
  · exact Answered.next rfl
  · exact State.debugServe_answered

end Sys2Proof.Machine
end

section
/-! O13: the dispatcher, row by row. -/

namespace Sys2Proof.Machine

theorem exec_answered (i : Instr) (s : State) : Answered s i.wf (exec i s) := by
  unfold exec Instr.wf
  cases i with
  | memoryRequest => exact execMemoryRequest_answered ..
  | readaheadExpire => exact execReadaheadExpire_answered ..
  | patrolScrub | imbalanceWindow | doorbellNop | start | stop | resume | clearFault | resetTickets | setFiring | dataFrame
  | hello | portTrain | laneLock | helloSend | trainingTimeout | credit | creditSend | responseDeadline | opticsMonitorFault
  | dataFrameSend | ts | tsSend | rootClaim | parentLoss | noiseHealthWindow | drbgInstantiate | drbgReseed | lcChallengeRead
  | inventory | stayQuiet | tagSelect | rfField | tagStatusUpdate | plcaBeacon | beaconTimeout | jabber | sessionChallengeRead
  | mbxDoor | wedgeProbe | auxRailRise | auxRailFall | mainInputInRange | bridgeRailsGood | dieRailsGood | pcieLinkTraining
  | pcieLinkDown | tierTrainingDone | pcieConventionalReset | pcieHotReset | functionLevelReset | inputOutOfRange
  | converterFault | objectWrite | get | set | aoaOpen | aoaClose =>
    exact Answered.next (by simp)
  | add | sub | and | or | xor | sll | srl | sra | slt | sltu | mul | mulhu | min | max | minu | maxu | addi | andi | ori
  | slti | slli | srli | srai | lui | nop =>
    exact State.simple_answered
  | lw | lhu => exact State.loadInsn_answered
  | sw | sh => exact State.storeInsn_answered
  | brEq | brNe | brLt | brGe | brLtu | brGeu => exact State.branch_answered
  | j | jal | jr | jalr | twait | twaiti | tadv | tread | mtc | trap | halt | fence | faultInsn =>
    exact State.fetched_answered fun l => by simp
  | loop => exact execLoop_answered ..
  | mfc => exact execMfc_answered ..
  | illegalInsn => exact execIllegalInsn_answered ..
  | lsRangeFetch => exact State.fetchedWord_answered fun l => by simp
  | exceptionEntry => exact execExceptionEntry_answered ..
  | eret => exact execEret_answered ..
  | issue => exact execIssue_answered ..
  | fireItem => exact execFireItem_answered ..
  | mma | l1 | minplus | maxplus | topk | fp32x3 | cplx3 | underlay => exact State.arrayRow_answered
  | underlayStepDown | underlayStepUp | slabScrubDone | mappingComplete | launchFire | checkerReseed | parityError
  | idleClockedEnter | powerStateSettle | resync =>
    exact Answered.guard (by simp)
  | vaddF | vsubF | vmulF | vfmaF | vminF | vmaxF | vcltF | vcleF | vceqF | vclassF | vaddH | vsubH | vmulH | vfmaH | vminH
  | vmaxH | vaddI | vsubI | vmulI | vminI | vmaxI | vcltI | vceqI | vand | vor | vxor | vsll | vsrl | vsra | vsel | vsplat
  | vlane | vmand | vmor | vmxor | vmnot | vsetsr | vsig | vcvtFi | vcvtIf | vcvtFh | vcvtHf | vcvtFn | vcvtNf | vld | vst
  | vldx | vstx | vrsumF | vrmaxF | vrminF | vramxF =>
    exact State.vecInsn_answered
  | redSum | redSsq | redMax | redMin | redAmax | route | occ | qy4 => exact State.dispatch_answered fun a l c => by simp
  | copyLoad | expand | transpose | gather | prefetch | progload | copyStore | compress =>
    exact State.accRow_answered fun a c => by simp
  | slabOwnerWrite | rekey | contextBind | contextUnbind | retirePage | programLoadRequest | portEnable | portDisable
  | panelLayoutWrite | register | release | bind | unbind | planAdmit | withdraw | checkerFence | injectionArm
  | injectionCancel | fatalAcknowledge | write | restore | verify | keyInstall | keyErase | zeroise | form | dissolve
  | tagLockTake | tagLockRelease | tagDataWrite | credentialInstall | credentialErase | deviceReset | powerOn | powerOff
  | traceFreeze | traceUnfreeze | captureAcknowledge | tclkLimitWrite | powerRequestActive | powerRequestRetention
  | powerRequestSleep | enginePowerWrite | replayCapture | replayClear =>
    exact State.putRow_answered fun r => by simp
  | map | unmap | protect => exact State.mapRow_answered
  | laneLockLoss => exact execLaneLockLoss_answered ..
  | portCloseDrained => exact execPortCloseDrained_answered ..
  | stage | normsum | verdict | commit => exact State.tsRow_answered fun a c => by simp
  | barrier | broadcast | allreduce | reduceScatter | allgather | alltoall | alltoallv | alltoallvRev | shuttleSlotOpen =>
    exact State.shRow_answered
  | collectiveDeadline => exact execCollectiveDeadline_answered ..
  | msgCts => exact State.msgRow_answered fun a g m => by simp
  | msgData | msgCounts | msgDone | msgToken => exact State.slotRow_answered fun a key x m => by simp
  | msgAbort => exact execMsgAbort_answered ..
  | outPack | outExchange | outApply | outSnapfetch => exact State.outRow_answered fun a c b d => by simp
  | msgContrib => exact execMsgContrib_answered ..
  | msgReceipt => exact State.outMsgRow_answered fun a b m => by simp
  | msgBitmap => exact execMsgBitmap_answered ..
  | msgSnapreq => exact execMsgSnapreq_answered ..
  | msgSnapdata => exact execMsgSnapdata_answered ..
  | snapfetchRetry => exact execSnapfetchRetry_answered ..
  | snapfetchTimeout => exact execSnapfetchTimeout_answered ..
  | outDeadline => exact execOutDeadline_answered ..
  | outStatusLimit => exact execOutStatusLimit_answered ..
  | outIncomplete => exact execOutIncomplete_answered ..
  | counterLock => exact execCounterLock_answered ..
  | arm => exact execArm_answered ..
  | cancel => exact execCancel_answered ..
  | checkerCompare => exact execCheckerCompare_answered ..
  | faultRingHeartbeat => exact execFaultRingHeartbeat_answered ..
  | maskReseed => exact execMaskReseed_answered ..
  | cbc | ctr | cfb | gcm | ccm | cmac | sha256 => exact State.jobRow_answered
  | lcToProvisioned | lcToField | lcToFieldDebug | lcToReturn | lcToManufacture | lcToRetired => exact State.lifeRow_answered
  | resetToReady | getSystemInformation | extendedGetSystemInformation | readSingleBlock | readMultipleBlocks
  | extendedReadSingleBlock | extendedReadMultipleBlocks | writeSingleBlock | extendedWriteSingleBlock | tagUnsupportedCommand =>
    exact State.tagServe_answered (by simp)
  | tagLockTimeout => exact execTagLockTimeout_answered ..
  | tagPublishDone => exact execTagPublishDone_answered ..
  | notify => exact execNotify_answered ..
  | sessionTimeout => exact execSessionTimeout_answered ..
  | clusterSelfTest => exact execClusterSelfTest_answered ..
  | thermalCrossing => exact execThermalCrossing_answered ..
  | thermalTrip => exact execThermalTrip_answered ..
  | throttleEnd => exact execThrottleEnd_answered ..
  | tripShutdown => exact execTripShutdown_answered ..
  | clockStep => exact execClockStep_answered ..
  | commandComplete => exact execCommandComplete_answered ..
  | debugAccess => exact execDebugAccess_answered ..

/-- Settles O13: every row of the dispatcher answers, and an answer that goes on has the queue it found. -/
theorem everyCommandAnswers : Obligations.EveryCommandAnswers := by
  unfold Obligations.EveryCommandAnswers
  refine ⟨fun i s => ?_, fun i s u h => ?_⟩
  · exact ⟨(exec_answered i s).next_of_wf, (exec_answered i s).next_or_fault⟩
  · have ha := exec_answered i s
    rw [h] at ha
    exact ha.queue_of_next

end Sys2Proof.Machine
end

section
/-! O17 (R19, R27 to R31): a doorbell is refused and nothing but reports changes, or each member it acts on takes it. -/

namespace Sys2Proof.Machine

/-! ### The rows and their refusals (R28 to R31, R365) -/

theorem exec_doorbell {r : (WinAddr → BitVec 12 → BitVec 4 → BitVec 40 → Instr) × Nat} (hr : r ∈ doorbells) (s : State) (win : WinAddr)
    (ctx : BitVec 12) (rsv : BitVec 4) (arg : BitVec 40) :
    exec (r.1 win ctx rsv arg) s = .next (s.doorbell win r.2 ctx rsv arg) := by
  simp only [doorbells, List.mem_cons, List.not_mem_nil, or_false] at hr
  rcases hr with rfl | rfl | rfl | rfl | rfl | rfl | rfl <;> rfl

theorem doorbells_cmd_le {r : (WinAddr → BitVec 12 → BitVec 4 → BitVec 40 → Instr) × Nat} (hr : r ∈ doorbells) : r.2 ≤ 6 := by
  simp only [doorbells, List.mem_cons, List.not_mem_nil, or_false] at hr
  rcases hr with rfl | rfl | rfl | rfl | rfl | rfl | rfl <;> simp

/-- The bits of ARG from a position on are 0 where ARG is below that power of two. -/
theorem highBits_eq_zero_iff (arg : BitVec 40) {lo len : Nat} (h : lo + len = 40) : bits arg lo len = 0 ↔ arg.toNat < 2 ^ lo := by
  have hdiv : arg.toNat / 2 ^ lo < 2 ^ len := Nat.div_lt_of_lt_mul (by rw [← Nat.pow_add, h]; exact arg.isLt)
  unfold bits
  rw [Nat.mod_eq_of_lt hdiv, Nat.div_eq_zero_iff_lt (Nat.two_pow_pos lo)]

theorem argOk_iff_argFits {cmd : Nat} (hc : cmd ≤ 6) (arg : BitVec 40) : argOk cmd arg = true ↔ argFits cmd arg.toNat := by
  have hlow : bits arg 0 2 = arg.toNat % 4 := by simp [bits]
  have hzero : arg = 0#40 ↔ arg.toNat = 0 := BitVec.toNat_inj.symm
  interval_cases cmd <;> simp [argOk, argFits, hlow, hzero, highBits_eq_zero_iff]

/-- The window of a checker tile. -/
def checkerWin : Unit' → Bool
  | .tile t => !activePath t
  | _ => false

theorem checkerWin_iff (u : Unit') : checkerWin u = true ↔ ∃ t, u = .tile t ∧ activePath t = false := by
  cases u <;> simp [checkerWin]

/-- The partition that owns a unit is stopped by a fault. -/
def State.ownerStopped (s : State) (u : Unit') : Bool :=
  match s.unitOwner u with
  | some p => (s.part p).state = 2
  | none => false

theorem State.ownerStopped_iff (s : State) (u : Unit') :
    s.ownerStopped u = true ↔ ∃ p, s.unitOwner u = some p ∧ (s.part p).state = 2 := by
  unfold State.ownerStopped
  cases s.unitOwner u <;> simp

theorem doorbellNotReady_iff (s : State) (u : Unit') : DoorbellNotReady s u ↔
    ((s.covers u).any fun t => s.poweredDown (clusterOf t)) = true ∨ ((s.covers u).any fun t => !s.clusterUp (clusterOf t)) = true := by
  simp only [DoorbellNotReady, List.any_eq_true, Bool.not_eq_true', ← exists_or, ← and_or_left]

theorem doorbellDenied_iff (s : State) (u : Unit') {cmd : Nat} (hc : cmd ≤ 6) (ctx : BitVec 12) (rsv : BitVec 4) (arg : BitVec 40) :
    DoorbellDenied s u cmd ctx rsv arg ↔ (s.fatal || checkerWin u || s.unitCtx u ≠ some ctx) = true ∨ (!argOk cmd arg) = true ∨ rsv ≠ 0 ∨
      ((cmd = 1 || cmd = 3) && s.ownerStopped u) = true := by
  have harg : (!argOk cmd arg) = true ↔ ¬ argFits cmd arg.toNat := by rw [← argOk_iff_argFits hc]; simp
  simp only [DoorbellDenied, harg, Bool.or_eq_true, Bool.and_eq_true, decide_eq_true_eq, checkerWin_iff, s.ownerStopped_iff, or_assoc]

theorem State.doorbellRefusal_eq (s : State) (u : Unit') {cmd : Nat} (hc : cmd ≤ 6) (ctx : BitVec 12) (rsv : BitVec 4) (arg : BitVec 40) :
    s.doorbellRefusal u cmd ctx rsv arg =
      if (s.fatal || checkerWin u || s.unitCtx u ≠ some ctx) = true then some (0x4001, 1) else if False then some (0x4001, 2)
      else if (!argOk cmd arg) = true then some (0x4001, 3) else if rsv ≠ 0 then some (0x4001, 4)
      else if ((cmd = 1 || cmd = 3) && s.ownerStopped u) = true then some (0x4001, 5)
      else if ((s.covers u).any fun t => s.poweredDown (clusterOf t)) = true then some (0x4010, 1)
      else if ((s.covers u).any fun t => !s.clusterUp (clusterOf t)) = true then some (0x4010, 2) else none := by
  have hle : (6 < cmd) = False := eq_false (by omega)
  simp only [← hle]
  rfl

/-- Which refusal a doorbell meets: DENIED goes before NOT_READY (R28). -/
theorem State.doorbellRefusal_spec (s : State) (u : Unit') {cmd : Nat} (hc : cmd ≤ 6) (ctx : BitVec 12) (rsv : BitVec 4) (arg : BitVec 40) :
    (DoorbellDenied s u cmd ctx rsv arg → ∃ c, s.doorbellRefusal u cmd ctx rsv arg = some (0x4001, c)) ∧
    (¬ DoorbellDenied s u cmd ctx rsv arg → DoorbellNotReady s u → ∃ c, s.doorbellRefusal u cmd ctx rsv arg = some (0x4010, c)) ∧
    (¬ DoorbellDenied s u cmd ctx rsv arg → ¬ DoorbellNotReady s u → s.doorbellRefusal u cmd ctx rsv arg = none) := by
  rw [doorbellDenied_iff s u hc, doorbellNotReady_iff]
  exact refusal_chain _ _ _ _ _ _ _ (s.doorbellRefusal_eq u hc ctx rsv arg)

/-! ### What a doorbell makes of one member (R19, R56) -/

theorem Tile.atBoundary_iff (x : Tile) : x.atBoundary = true ↔ ¬ x.awaits := by
  unfold Tile.atBoundary Tile.awaits
  cases x.run <;> cases x.delay <;> cases x.exc <;> simp

theorem laterFn_awaits {x : Tile} (h : x.awaits) (b : Later) (f : Tile → Tile) :
    laterFn b f x = { x with waiting := x.waiting ++ [b] } := if_neg (by rw [x.atBoundary_iff]; exact not_not_intro h)

theorem laterFn_not_awaits {x : Tile} (h : ¬ x.awaits) (b : Later) (f : Tile → Tile) : laterFn b f x = f x :=
  if_pos (x.atBoundary_iff.mpr h)

theorem memberAfter_start (x : Tile) (arg : BitVec 40) :
    memberAfter 1 arg.toNat true x (laterFn (.start (arg.setWidth 32)) (fun y => y.startAt (arg.setWidth 32)) x) := by
  have hword : BitVec.ofNat 32 arg.toNat = arg.setWidth 32 := BitVec.ofNat_toNat 32 arg
  unfold memberAfter
  simp only [hword]
  by_cases h : x.awaits
  · rw [if_pos h, laterFn_awaits h]
  · rw [if_neg h, laterFn_not_awaits h]
    unfold Tile.startAt
    split <;> simp_all

theorem memberAfter_stop (x : Tile) (arg : Nat) : memberAfter 2 arg true x (laterFn (.stop .stopped) (Tile.stopTo .stopped) x) := by
  by_cases h : x.awaits
  · rw [laterFn_awaits h]
    obtain ⟨hrun, hwait⟩ := h
    simp [memberAfter, hrun, hwait]
  · rw [laterFn_not_awaits h]
    have hat := x.atBoundary_iff.mpr h
    have hsame : x.run = .stopped → { x with run := .stopped } = x := by rintro e; cases x; cases e; rfl
    cases hrun : x.run <;> simp_all [memberAfter, Tile.stopTo]

/-- The tickets a mask names read 0, and nothing else of the tile changes. -/
theorem Tile.clearTickets_spec (ks : List Nat) (x : Tile) :
    let y := ks.foldl (fun y k => { y with tickets := mapSet 0 y.tickets k 0 }) x
    (∀ k, y.ticket k = if k ∈ ks then 0 else x.ticket k) ∧ y = { x with tickets := y.tickets } := by
  induction ks generalizing x with
  | nil => exact ⟨fun k => by simp, rfl⟩
  | cons j ks ih =>
    obtain ⟨hticket, hsame⟩ := ih { x with tickets := mapSet 0 x.tickets j 0 }
    refine ⟨fun k => ?_, ?_⟩
    · rw [List.foldl_cons, hticket]
      by_cases hk : k ∈ ks <;> by_cases hj : k = j <;> simp [hk, hj, Tile.ticket, mapGet_mapSet]
    · rw [List.foldl_cons, hsame]

theorem bit_iff {n : Nat} (w : BitVec n) (k : Nat) : bit w k = true ↔ w.toNat / 2 ^ k % 2 = 1 := by
  rw [bit, BitVec.getLsbD, Nat.testBit_eq_decide_div_mod_eq, decide_eq_true_eq]

theorem memberAfter_resetTickets (x : Tile) (arg : BitVec 40) : memberAfter 5 arg.toNat true x
    ((numbers 16 fun k => bit arg k).foldl (fun y k => { y with tickets := mapSet 0 y.tickets k 0 }) x) := by
  have hmem : ∀ k, k ∈ (numbers 16 fun k => bit arg k) ↔ k < 16 ∧ arg.toNat / 2 ^ k % 2 = 1 := fun k => by
    rw [numbers, List.mem_filter, List.mem_range, bit_iff]
  have h := x.clearTickets_spec (numbers 16 fun k => bit arg k)
  simp only [hmem] at h
  exact h

/-- What NOP, START, STOP, CLEAR_FAULT and RESET_TICKETS make of a member. -/
theorem memberAfter_memberFn {cmd : Nat} (hc : cmd ∈ [0, 1, 2, 4, 5]) (arg : BitVec 40) (lead : Bool) (x : Tile) :
    memberAfter cmd arg.toNat lead x (memberFn cmd arg lead x) := by
  simp only [List.mem_cons, List.not_mem_nil, or_false] at hc
  rcases hc with rfl | rfl | rfl | rfl | rfl <;> cases lead
  case inr.inl.true => exact memberAfter_start x arg
  case inr.inr.inl.true => exact memberAfter_stop x arg.toNat
  case inr.inr.inr.inr.true => exact memberAfter_resetTickets x arg
  all_goals rfl

/-! ### One member takes a doorbell -/

/-- A member takes a doorbell: it becomes what R19 says, every other tile stays, and beyond that there are only reports. -/
def MemberTakes (cmd : Nat) (arg : BitVec 40) (a u : State) (t : Path) : Prop :=
  memberAfter cmd arg.toNat (decide (a.lead t = t)) (a.tile t) (u.tile t) ∧ (∀ q, q ≠ t → u.tile q = a.tile q) ∧
    State.reported' { a with tiles := u.tiles } u

theorem State.reported'_of_tiles {a b u : State} (hb : b = { a with tiles := b.tiles }) (h : b.reported' u) :
    State.reported' { a with tiles := u.tiles } u := by
  have htiles : u.tiles = b.tiles := by rw [h]
  rwa [htiles, ← hb]

theorem oneTile_takes {cmd : Nat} {arg : BitVec 40} {a u : State} {t : Path} {f : Tile → Tile} (h : oneTile a u t f)
    (hf : memberAfter cmd arg.toNat (decide (a.lead t = t)) (a.tile t) (f (a.tile t))) : MemberTakes cmd arg a u t := by
  obtain ⟨htile, hrest⟩ := h
  refine ⟨?_, fun q hq => ?_, ?_⟩
  · rwa [htile, if_pos rfl]
  · rw [htile, if_neg hq]
  · exact State.reported'_of_tiles hrest u.reported'_refl

/-- A member of a panel that does not act for it takes nothing but CLEAR_FAULT. -/
theorem memberTakes_not_lead {cmd : Nat} (arg : BitVec 40) {a : State} {t : Path} (hc : cmd ∈ [3, 6]) (h : ¬ a.lead t = t) :
    MemberTakes cmd arg a a t := by
  refine ⟨?_, fun _ _ => rfl, a.reported'_refl⟩
  rw [decide_eq_false h]
  simp only [List.mem_cons, List.not_mem_nil, or_false] at hc
  rcases hc with rfl | rfl <;> rfl

/-- A tile in firing mode with nothing left to fire becomes idle and says so; any other is as it was (R77). -/
theorem State.quiesce_cases (s : State) (l : Path) :
    s.quiesce l = s ∨ ((s.tile l).run = .firing ∧ State.reported' (s.modTile l fun y => { y with run := .idle }) (s.quiesce l)) := by
  unfold State.quiesce
  dsimp only
  split
  · exact .inl rfl
  · next hrun =>
    split
    · exact .inl rfl
    · exact .inr ⟨not_not.mp hrun, State.raise_reports _ _ (by simp) (by simp)⟩

/-- RESUME on a tile that is not in the middle of a branch or an exception; one that returns to firing mode may find nothing to fire. -/
theorem memberAfter_resume {x y : Tile} (arg : Nat) (h : ¬ x.awaits)
    (hy : y = x.resume ∨ (x.resume.run = .firing ∧ y = { x.resume with run := .idle })) : memberAfter 3 arg true x y := by
  by_cases hback : x.run = .stopped ∧ x.ended = false
  · have hres : x.resume = { x with run := x.held } := if_pos (by simp [hback])
    rw [hres] at hy
    rcases hy with rfl | ⟨hfiring, rfl⟩
    · simp_all [memberAfter, Tile.awaits]
    · simp_all [memberAfter, Tile.awaits]
  · have hres : x.resume = x := if_neg (by simpa using hback)
    rw [hres] at hy
    rcases hy with rfl | ⟨hfiring, rfl⟩
    · simp_all [memberAfter]
    · simp_all [memberAfter, Tile.awaits]

theorem memberTakes_resume (arg : BitVec 40) (a : State) (t : Path) : MemberTakes 3 arg a (a.applyDoorbell 3 arg t) t := by
  by_cases hlead : a.lead t = t
  · have happly : a.applyDoorbell 3 arg t = a.atNext t .resume := if_pos hlead
    rw [happly]
    by_cases hwait : (a.tile t).awaits
    · have hnext : a.atNext t .resume = a.modTile t fun x => { x with waiting := x.waiting ++ [.resume] } :=
        if_neg (by rw [Tile.atBoundary_iff]; exact not_not_intro hwait)
      rw [hnext]
      refine oneTile_takes (oneTile_mod a t _) ?_
      obtain ⟨hrun, hexc⟩ := hwait
      simp [hlead, memberAfter, hrun, hexc]
    · have hnext : a.atNext t .resume = (a.modTile t Tile.resume).quiesce t := if_pos ((Tile.atBoundary_iff _).mpr hwait)
      rw [hnext]
      rcases (a.modTile t Tile.resume).quiesce_cases t with hq | ⟨hfiring, hq⟩
      · rw [hq]
        refine oneTile_takes (oneTile_mod a t _) ?_
        rw [decide_eq_true hlead]
        exact memberAfter_resume _ hwait (.inl rfl)
      · rw [State.tile_modTile_same] at hfiring
        have htile := refuse_keeps_tile hq
        refine ⟨?_, fun q hne => ?_, ?_⟩
        · rw [decide_eq_true hlead, htile, State.tile_modTile_same, State.tile_modTile_same]
          exact memberAfter_resume _ hwait (.inr ⟨hfiring, rfl⟩)
        · rw [htile, State.tile_modTile_other _ _ hne, State.tile_modTile_other _ _ hne]
        · exact State.reported'_of_tiles rfl hq
  · have happly : a.applyDoorbell 3 arg t = a := if_neg hlead
    rw [happly]
    exact memberTakes_not_lead arg (by simp) hlead

/-- What SET_FIRING with bit 0 clear makes of a runner: firing mode is left (R74, R77). -/
def Tile.leaveFiring (x : Tile) : Tile :=
  if x.run = .firing ∨ (x.run = .stopped ∧ x.held = .firing) then { x.endFiring with run := .stopped, held := .idle, ended := true } else x

theorem State.setFiring_off (s : State) (l : Path) : oneTile s (s.setFiring l false) l Tile.leaveFiring := by
  have hsame : Tile.leaveFiring (s.tile l) = s.tile l → oneTile s s l Tile.leaveFiring := fun h =>
    ⟨fun q => by split <;> simp_all, rfl⟩
  have hleave : Tile.leaveFiring (s.tile l) = { (s.tile l).endFiring with run := .stopped, held := .idle, ended := true } →
    oneTile s (s.modTile l fun y => { y.endFiring with run := .stopped, held := .idle, ended := true }) l Tile.leaveFiring := fun h => by
    obtain ⟨htile, hrest⟩ := oneTile_mod s l fun y => { y.endFiring with run := .stopped, held := .idle, ended := true }
    exact ⟨fun q => by rw [htile, h], hrest⟩
  unfold State.setFiring
  dsimp only
  cases hrun : (s.tile l).run <;> dsimp only
  case stopped =>
    split
    · next hheld => exact hleave (by simp [Tile.leaveFiring, hrun, hheld])
    · next hheld => exact hsame (by simp [Tile.leaveFiring, hrun, hheld])
  case firing => exact hleave (by simp [Tile.leaveFiring, hrun])
  all_goals exact hsame (by simp [Tile.leaveFiring, hrun])

theorem memberTakes_leaveFiring (a : State) (t : Path) : MemberTakes 6 0 a (a.applyDoorbell 6 0 t) t := by
  by_cases hlead : a.lead t = t
  · have happly : a.applyDoorbell 6 0 t = a.atNext t (.firing false) := if_pos hlead
    rw [happly]
    refine oneTile_takes (oneTile_atNext a t _ _ (a.setFiring_off t)) ?_
    rw [decide_eq_true hlead]
    intro _
    by_cases hwait : (a.tile t).awaits
    · rw [if_pos hwait, laterFn_awaits hwait]
    · rw [if_neg hwait, laterFn_not_awaits hwait]
      rfl
  · have happly : a.applyDoorbell 6 0 t = a := if_neg hlead
    rw [happly]
    exact memberTakes_not_lead 0 (by simp) hlead

/-- Each row's work on a member, SET_FIRING's where it leaves firing mode. -/
theorem memberTakes_applyDoorbell {cmd : Nat} (hc : cmd ≤ 6) {arg : BitVec 40} (harg : cmd = 6 → arg = 0) (a : State) (t : Path) :
    MemberTakes cmd arg a (a.applyDoorbell cmd arg t) t := by
  by_cases hplain : cmd ∈ [0, 1, 2, 4, 5]
  · exact oneTile_takes (apply_member a cmd arg t hplain) (memberAfter_memberFn hplain arg _ _)
  · have hrest : cmd = 3 ∨ cmd = 6 := by
      simp only [List.mem_cons, List.not_mem_nil, or_false] at hplain
      omega
    rcases hrest with rfl | rfl
    · exact memberTakes_resume arg a t
    · rw [harg rfl]
      exact memberTakes_leaveFiring a t

/-! ### All members take it -/

theorem State.reported'_tiles_trans {a b u : State} (h1 : State.reported' { a with tiles := b.tiles } b)
    (h2 : State.reported' { b with tiles := u.tiles } u) : State.reported' { a with tiles := u.tiles } u := by
  have h : State.reported' { a with tiles := u.tiles } { b with tiles := u.tiles } :=
    congrArg (β := State) (fun x : State => ({ x with tiles := u.tiles } : State)) h1
  exact State.reported'_trans h h2

theorem members_take {cmd : Nat} (hc : cmd ≤ 6) {arg : BitVec 40} (harg : cmd = 6 → arg = 0) (ms : List Path) (hn : ms.Nodup) (a : State) :
    let u := a.each ms fun a t => a.applyDoorbell cmd arg t
    (∀ t ∈ ms, memberAfter cmd arg.toNat (decide (a.lead t = t)) (a.tile t) (u.tile t)) ∧ (∀ t, t ∉ ms → u.tile t = a.tile t) ∧
      State.reported' { a with tiles := u.tiles } u := by
  induction ms generalizing a with
  | nil => exact ⟨fun t ht => by simp at ht, fun _ _ => rfl, a.reported'_refl⟩
  | cons m ms ih =>
    rw [List.nodup_cons] at hn
    obtain ⟨hafter, hothers, hreports⟩ := memberTakes_applyDoorbell hc harg a m
    obtain ⟨iafter, iothers, ireports⟩ := ih hn.2 (a.applyDoorbell cmd arg m)
    have hlead : ∀ t, (a.applyDoorbell cmd arg m).lead t = a.lead t := fun t =>
      State.noted'_lead (State.noted'_of_reported hreports) t
    refine ⟨fun t ht => ?_, fun t ht => ?_, State.reported'_tiles_trans hreports ireports⟩
    · rcases List.mem_cons.mp ht with rfl | hmem
      · exact (iothers t hn.1).symm ▸ hafter
      · have hne : t ≠ m := fun e => hn.1 (e ▸ hmem)
        have h := iafter t hmem
        rwa [hlead, hothers t hne] at h
    · obtain ⟨hne, hmem⟩ := not_or.mp (mt List.mem_cons.mpr ht)
      exact (iothers t hmem).trans (hothers t hne)

/-! ### The members of a unit (R20, R32) -/

theorem State.unitAt_die {s : State} {win : WinAddr} {d : Nat} (h : s.unitAt win = some (.die d)) : d < 4 := by
  unfold State.unitAt at h
  dsimp only at h
  split at h
  · cases h
  split at h
  · cases h
  split at h
  · split at h <;> cases h
  split at h
  · split at h
    · cases h
      omega
    · cases h
  split at h
  · cases h
  split at h
  · cases h
  split at h
  · cases h
  split at h <;> cases h

theorem State.actsOn_nodup {s : State} {win : WinAddr} {u : Unit'} (h : s.unitAt win = some u) : (s.actsOn u).Nodup := by
  cases u with
  | tile t => exact nodup_members s t
  | panel t => exact nodup_members s t
  | cluster k => exact nodup_cluster k
  | die d =>
    have hd := State.unitAt_die h
    have hflat : s.actsOn (.die d) = ((List.range 10).map fun c => d * 10 + c).flatMap clusterTiles := by
      rw [List.flatMap_map]
      rfl
    rw [hflat]
    refine nodup_clusters _ (List.Nodup.map (fun a b hab => by simpa using hab) List.nodup_range) fun k hk => ?_
    obtain ⟨c, hc, rfl⟩ := List.mem_map.mp hk
    have := List.mem_range.mp hc
    omega
  | device => exact nodup_clusters _ List.nodup_range fun k hk => List.mem_range.mp hk
  | partition p =>
    exact nodup_clusters _ (List.nodup_range.filter _) fun k hk => List.mem_range.mp (List.mem_filter.mp hk).1

/-! ### A doorbell refused, and a doorbell accepted -/

theorem State.doorbell_refused {s : State} {win : WinAddr} {cmd : Nat} {ctx : BitVec 12} {rsv : BitVec 4} {arg : BitVec 40} {u : Unit'}
    {code cond : Nat} (hu : s.unitAt win = some u) (hr : s.doorbellRefusal u cmd ctx rsv arg = some (code, cond)) :
    ∃ p, s.doorbell win cmd ctx rsv arg = (s.setResult win (if code = 0x4001 then 1 else 2)).refuse code none p ctx.toNat 0 cond
      (win.toNat % 65536) 0 (doorbellWord cmd ctx.toNat rsv.toNat arg.toNat) := by
  unfold State.doorbell
  rw [hu]
  dsimp only
  rw [hr]
  exact ⟨_, rfl⟩

theorem State.refuse_logs (s : State) (code : Nat) (path : Option Path) (part ctx source cond index sub arg : Nat) (h : code / 4096 = 4) :
    Logs s (s.refuse code path part ctx source cond index sub arg) code (path.getD 0) := by
  intro haux
  unfold State.refuse State.raise State.raiseWith
  dsimp only
  rw [if_neg (by omega), if_neg (by omega)]
  exact ⟨_, s.log_has _ haux, rfl, rfl, rfl, rfl⟩

/-- A doorbell refused sets DB_RESULT and reports, and that is all. -/
theorem State.doorbell_refused_spec {s : State} {win : WinAddr} {cmd : Nat} {ctx : BitVec 12} {rsv : BitVec 4} {arg : BitVec 40} {u : Unit'}
    {code cond : Nat} (hu : s.unitAt win = some u) (hr : s.doorbellRefusal u cmd ctx rsv arg = some (code, cond)) (hcode : code / 4096 = 4) :
    let v := s.doorbell win cmd ctx rsv arg
    v.wins = (s.setResult win (if code = 0x4001 then 1 else 2)).wins ∧ Logs s v code 0 ∧ Reports { s with wins := v.wins } v := by
  obtain ⟨p, hv⟩ := s.doorbell_refused hu hr
  rw [hv]
  have hreports := State.refuse_reports (s.setResult win (if code = 0x4001 then 1 else 2)) code none p ctx.toNat 0 cond
    (win.toNat % 65536) 0 (doorbellWord cmd ctx.toNat rsv.toNat arg.toNat) hcode
  have hwins := congrArg State.wins hreports
  have hlogs := State.refuse_logs (s.setResult win (if code = 0x4001 then 1 else 2)) code none p ctx.toNat 0 cond
    (win.toNat % 65536) 0 (doorbellWord cmd ctx.toNat rsv.toNat arg.toNat) hcode
  refine ⟨hwins, hlogs, ?_⟩
  rw [hwins]
  exact hreports

/-- A state whose window map is that of DB_RESULT set reads so: the window written, and no other (R20, R29). -/
theorem win_of_setResult {s v : State} {win : WinAddr} {r : BitVec 4} (h : v.wins = (s.setResult win r).wins) :
    v.win win = ⟨r, (s.win win).seq + 1⟩ ∧ ∀ w, w ≠ win → v.win w = s.win w := by
  have hwin : ∀ w, v.win w = (s.setResult win r).win w := fun w => by rw [State.win, State.win, h]
  obtain ⟨hsame, hother⟩ := win_setResult s win r
  exact ⟨(hwin win).trans hsame, fun w hw => (hwin w).trans (hother w hw)⟩

/-- The state in which an accepted doorbell reaches its members: DB_RESULT is 0, their clusters are awake and the packets are out. -/
def State.rung (s : State) (win : WinAddr) (cmd : Nat) (ctx : BitVec 12) (ms : List Path) : State :=
  ((s.setResult win 0).each (ms.map clusterOf).eraseDups State.wake).each ms fun a t =>
    a.tilePacket t 1 (word (cmd * 2 ^ 24 + ctx.toNat * 2 ^ 8 + ((s.setResult win 0).win win).seq.toNat))

theorem State.rung_notes (s : State) (win : WinAddr) (cmd : Nat) (ctx : BitVec 12) (ms : List Path) :
    (s.setResult win 0).noted' (s.rung win cmd ctx ms) :=
  State.noted'_trans (State.each_notes _ State.wake_notes _ _) (State.each_notes _ (fun _ _ => State.tilePacket_notes ..) _ _)

theorem State.doorbell_accepted {s : State} {win : WinAddr} {cmd : Nat} {ctx : BitVec 12} {rsv : BitVec 4} {arg : BitVec 40} {u : Unit'}
    (hu : s.unitAt win = some u) (hr : s.doorbellRefusal u cmd ctx rsv arg = none) :
    let b := (s.rung win cmd ctx (s.actsOn u)).each (s.actsOn u) fun a t => a.applyDoorbell cmd arg t
    s.doorbell win cmd ctx rsv arg = b ∨ (cmd = 4 ∧ ∃ p, s.doorbell win cmd ctx rsv arg = b.unstop p) := by
  unfold State.doorbell
  rw [hu]
  dsimp only
  rw [hr]
  dsimp only
  split
  · exact .inr ⟨rfl, _, rfl⟩
  · exact .inl rfl

/-- What is noted is noted too where both states hold other tiles. -/
theorem State.noted'_withTiles {s u : State} (h : s.noted' u) (ts : SMap Tile) :
    State.noted' { s with tiles := ts } { u with tiles := ts } :=
  ⟨h.1, congrArg (β := State) (fun x : State => ({ x with tiles := ts } : State)) h.2⟩

/-- What is noted is noted too where both states hold other partitions. -/
theorem State.noted'_withParts {s u : State} (h : s.noted' u) (ps : SMap Part) :
    State.noted' { s with parts := ps } { u with parts := ps } :=
  ⟨h.1, congrArg (β := State) (fun x : State => ({ x with parts := ps } : State)) h.2⟩

/-- What an accepted doorbell has done once its members have taken it. -/
theorem State.rung_members (s : State) (win : WinAddr) {cmd : Nat} (hc : cmd ≤ 6) (ctx : BitVec 12) {arg : BitVec 40}
    (harg : cmd = 6 → arg = 0) (ms : List Path) (hn : ms.Nodup) :
    let b := (s.rung win cmd ctx ms).each ms fun a t => a.applyDoorbell cmd arg t
    b.wins = (s.setResult win 0).wins ∧ b.parts = s.parts ∧
      (∀ t ∈ ms, memberAfter cmd arg.toNat (decide (s.lead t = t)) (s.tile t) (b.tile t)) ∧ (∀ t, t ∉ ms → b.tile t = s.tile t) ∧
      Notes { s with wins := b.wins, tiles := b.tiles } b := by
  intro b
  have hrung := s.rung_notes win cmd ctx ms
  obtain ⟨hafter, hothers, hreports⟩ := members_take hc harg ms hn (s.rung win cmd ctx ms)
  have htile : ∀ t, (s.rung win cmd ctx ms).tile t = s.tile t := fun t => State.noted'_tile hrung t
  have hlead : ∀ t, (s.rung win cmd ctx ms).lead t = s.lead t := fun t => State.noted'_lead hrung t
  have hnotes : State.noted' { s.setResult win 0 with tiles := b.tiles } b :=
    State.noted'_trans (State.noted'_withTiles hrung b.tiles) (State.noted'_of_reported hreports)
  have hwins : b.wins = (s.setResult win 0).wins := by rw [hnotes.2]
  refine ⟨hwins, by rw [hnotes.2]; rfl, fun t ht => ?_, fun t ht => (hothers t ht).trans (htile t), ?_⟩
  · have h := hafter t ht
    rwa [hlead, htile] at h
  · rw [hwins]
    exact hnotes

/-- A partition is no longer stopped by a fault, or all is as it was (R363). -/
theorem State.unstop_cases (s : State) (p : Nat) : s.unstop p = s ∨ s.unstop p = s.modPart p fun x => { x with state := 1 } := by
  unfold State.unstop
  split
  · exact .inr rfl
  · exact .inl rfl

/-- An accepted doorbell ends as its members have left it, but for the state of a partition that CLEAR_FAULT frees (R363). -/
theorem State.doorbell_ends {s : State} {win : WinAddr} {cmd : Nat} {ctx : BitVec 12} {rsv : BitVec 4} {arg : BitVec 40} {u : Unit'}
    (hu : s.unitAt win = some u) (hr : s.doorbellRefusal u cmd ctx rsv arg = none) :
    let b := (s.rung win cmd ctx (s.actsOn u)).each (s.actsOn u) fun a t => a.applyDoorbell cmd arg t
    s.doorbell win cmd ctx rsv arg = b ∨
      (cmd = 4 ∧ ∃ p, s.doorbell win cmd ctx rsv arg = b.modPart p fun x => { x with state := 1 }) := by
  intro b
  rcases s.doorbell_accepted hu hr with h | ⟨hcmd, p, h⟩
  · exact .inl h
  · rcases b.unstop_cases p with hb | hb
    · exact .inl (h.trans hb)
    · exact .inr ⟨hcmd, p, h.trans hb⟩

/-- The partitions of a state in which one has another state. -/
theorem State.modPart_state (s : State) (q : Nat) (st : BitVec 8) (p : Nat) :
    let v := s.modPart q fun x => { x with state := st }
    v.part p = { s.part p with state := (v.part p).state } := by
  by_cases h : p = q
  · subst h
    simp
  · simp [State.part_modPart_other _ _ h]

theorem State.part_of_parts {s v : State} (h : v.parts = s.parts) (p : Nat) : v.part p = s.part p := by
  rw [State.part, State.part, h]

/-- Settles O17: the refusal's chain decides; a refused doorbell only reports, and an accepted one is taken by each member once. -/
theorem doorbellsAct : Obligations.DoorbellsAct := by
  unfold Obligations.DoorbellsAct
  refine ⟨fun s win ctx rsv arg u hu r hr code res h => ?_, fun s win ctx rsv arg u hu r hr hdenied hready harg => ?_⟩
  · obtain ⟨hden, hnot, -⟩ := s.doorbellRefusal_spec u (doorbells_cmd_le hr) ctx rsv arg
    have hrefused : ∃ cond, s.doorbellRefusal u r.2 ctx rsv arg = some (code, cond) ∧ code / 4096 = 4 ∧
        res = if code = 0x4001 then 1 else 2 := by
      rcases h with ⟨hd, rfl, rfl⟩ | ⟨hd, hn, rfl, rfl⟩
      · obtain ⟨cond, hcond⟩ := hden hd
        exact ⟨cond, hcond, rfl, rfl⟩
      · obtain ⟨cond, hcond⟩ := hnot hd hn
        exact ⟨cond, hcond, rfl, rfl⟩
    obtain ⟨cond, hcond, hclass, rfl⟩ := hrefused
    obtain ⟨hwins, hlogs, hreports⟩ := s.doorbell_refused_spec hu hcond hclass
    obtain ⟨hsame, hother⟩ := win_of_setResult hwins
    exact ⟨_, exec_doorbell hr s win ctx rsv arg, hsame, hother, hlogs, hreports⟩
  · obtain ⟨-, -, hok⟩ := s.doorbellRefusal_spec u (doorbells_cmd_le hr) ctx rsv arg
    refine ⟨_, exec_doorbell hr s win ctx rsv arg, ?_⟩
    obtain ⟨hwins, hparts, hafter, hothers, hnotes⟩ :=
      s.rung_members win (doorbells_cmd_le hr) ctx harg (s.actsOn u) (State.actsOn_nodup hu)
    obtain ⟨hsame, hother⟩ := win_of_setResult hwins
    rcases s.doorbell_ends hu (hok hdenied hready) with hv | ⟨hcmd, p, hv⟩ <;> rw [hv]
    · have hpart := State.part_of_parts hparts
      refine ⟨hsame, hother, hafter, hothers, fun p => by rw [hpart], fun _ p => by rw [hpart], ?_⟩
      rw [hparts]
      exact hnotes
    · refine ⟨hsame, hother, hafter, hothers, fun q => ?_, fun hne => absurd hcmd hne, ?_⟩
      · rw [← State.part_of_parts hparts q]
        exact State.modPart_state _ p 1 q
      · exact State.noted'_withParts hnotes _

end Sys2Proof.Machine
end

section
/-! O11: nothing the running units do of themselves moves the time, the command queue or the frames that wait for the controller. -/

namespace Sys2Proof.Machine

/-! ### What only the idle step itself moves -/

/-- The commands that wait, the global counter, the island's time, and the frames that wait. -/
def State.clock (s : State) : List Instr × DWord × Nat × List (Source × Bytes) := (s.pending, s.now, s.island, s.mgmt.frameQ)

/-- An update of any other fields. -/
@[simp] theorem State.clock_update (s : State) (free : Nat) (fatal : Bool) (tiles : SMap Tile) (wins : SMap WinRegs)
    (clusters : SMap Cluster) (dies : SMap Die) (parts : SMap Part) (mem : MemSys) (ports : SMap Port) (sh : Shuttle)
    (bindings : List Binding) (time : TimeSys) (integ : Integ) (sec : Security) (mgmt : Mgmt) (tag : Tag) (pwr : Power) (trace : Trace)
    (host : List Host.Cell) (h : mgmt.frameQ = s.mgmt.frameQ) :
    (State.mk s.pending s.now s.island free fatal tiles wins clusters dies parts mem ports sh bindings time integ sec mgmt tag pwr trace
      host).clock = s.clock := by
  unfold State.clock
  rw [h]

@[simp] theorem clock_ite (c : Prop) [Decidable c] (a b : State) :
    (if c then a else b).clock = if c then a.clock else b.clock := apply_ite ..

@[simp] theorem fst_clock_ite {α : Type} (c : Prop) [Decidable c] (a b : State × α) :
    (if c then a else b).1.clock = if c then a.1.clock else b.1.clock := apply_ite (fun p : State × α => p.1.clock) ..

@[simp] theorem State.each_clock {α : Type} {f : State → α → State} (h : ∀ a x, (f a x).clock = a.clock) (s : State) (xs : List α) :
    (s.each xs f).clock = s.clock := foldl_keeps State.clock h s xs

@[simp] theorem foldl_fst_clock {α β : Type} {f : State × β → α → State × β} (h : ∀ (b : State × β) x, (f b x).1.clock = b.1.clock)
    (b : State × β) (xs : List α) : (xs.foldl f b).1.clock = b.1.clock := foldl_keeps (fun b : State × β => b.1.clock) h b xs

@[simp] theorem Trial.andThen_clock {α β : Type} (t : Trial α) {f : State → α → Trial β} (h : ∀ (s : State) a, (f s a).1.clock = s.clock) :
    (t.andThen f).1.clock = t.1.clock := by
  obtain ⟨s, _ | a⟩ := t
  · rfl
  · exact h s a

theorem Trial.andThen_clock_of {α β : Type} {s : State} {t : Trial α} {f : State → α → Trial β} (ht : t.1.clock = s.clock)
    (h : ∀ (s : State) a, (f s a).1.clock = s.clock) : (t.andThen f).1.clock = s.clock := (t.andThen_clock h).trans ht

@[simp] theorem Trial.andEnd_clock {α : Type} (t : Trial α) {bad : State → Halt → State} {good : State → α → State}
    (hb : ∀ s e, (bad s e).clock = s.clock) (hg : ∀ s a, (good s a).clock = s.clock) : (t.andEnd bad good).clock = t.1.clock := by
  obtain ⟨s, e | a⟩ := t
  · exact hb s e
  · exact hg s a

/-! #### Access to the state, and events (Machine/Ops, Machine/Fabric, Machine/Events) -/

@[simp] theorem State.modTile_clock (s : State) (t : Path) (f : Tile → Tile) : (s.modTile t f).clock = s.clock := by
  simp [State.modTile, State.setTile]

@[simp] theorem State.modPart_clock (s : State) (p : Nat) (f : Part → Part) : (s.modPart p f).clock = s.clock := by
  simp [State.modPart]

@[simp] theorem State.modPort_clock (s : State) (p : Nat) (f : Port → Port) : (s.modPort p f).clock = s.clock := by
  simp [State.modPort]

@[simp] theorem State.modRegion_clock (s : State) (r : Nat) (f : Region → Region) : (s.modRegion r f).clock = s.clock := by
  simp [State.modRegion]

@[simp] theorem State.countPart_clock (s : State) (p : Option Nat) (idx sub n : Nat) : (s.countPart p idx sub n).clock = s.clock := by
  unfold State.countPart
  split <;> simp

@[simp] theorem State.freeWord_clock (s : State) : s.freeWord.2.clock = s.clock := by simp [State.freeWord]

/-- What only reports leaves the clock. -/
theorem State.clock_of_reported {s u : State} (h : s.reported' u) : u.clock = s.clock := by
  rw [h]
  simp

@[simp] theorem State.trace'_clock (s : State) (part : Byte) (path : Path) (kind : Byte) (data : Word) :
    (s.trace' part path kind data).clock = s.clock := State.clock_of_reported (s.trace'_reports part path kind data)

@[simp] theorem State.pushPacket_clock (s : State) (part : Byte) (path : Path) (kind : Byte) (data : Word) :
    (s.pushPacket part path kind data).1.clock = s.clock := State.clock_of_reported (s.pushPacket_reports part path kind data)

@[simp] theorem State.log_clock (s : State) (e : Ev) : (s.log e).clock = s.clock := State.clock_of_reported (s.log_reports e)

@[simp] theorem State.sendControl_clock (s : State) (c : Nat) (words : List Nat) : (s.sendControl c words).clock = s.clock := by
  simp [State.sendControl]

theorem State.post_clock {s : State} {p : Nat} {ctx : BitVec 12} {m : Msg} {x : Nat × State} (h : s.post p ctx m = some x) :
    x.2.clock = s.clock := by
  unfold State.post at h
  split at h
  · cases h
  · cases h
    exact s.modPort_clock _ _

@[simp] theorem State.sendAbort_clock (s : State) (ctx : BitVec 12) (n : BitVec 4) (x : Slot) (reason : Word) (q : Nat) :
    (s.sendAbort ctx n x reason q).clock = s.clock := by
  unfold State.sendAbort
  split
  · rfl
  · split
    · next e => exact State.post_clock e
    · rfl

@[simp] theorem State.endSlot_clock (s : State) (key : Nat) (reason : Word) : (s.endSlot key reason).clock = s.clock := by
  unfold State.endSlot
  split <;> simp

@[simp] theorem State.markFault_clock (s : State) (t : Path) (code : Nat) : (s.markFault t code).clock = s.clock := by
  simp [State.markFault]

@[simp] theorem State.endExchanges_clock (s : State) (p : Nat) : (s.endExchanges p).clock = s.clock := by
  unfold State.endExchanges
  refine State.each_clock (fun a b => ?_) _ _
  split <;> simp

@[simp] theorem State.stopPartition_clock (s : State) (p : Nat) (reason : Word) : (s.stopPartition p reason).clock = s.clock := by
  simp [State.stopPartition]

@[simp] theorem State.partitionFault_clock (s : State) (e : Ev) (reason : Option Nat) :
    (s.partitionFault e reason).clock = s.clock := by
  unfold State.partitionFault
  cases reason <;> simp only [State.stopPartition_clock, State.freeWord_clock, clock_ite, ite_self] <;> split <;> simp

@[simp] theorem State.freezeTrace_clock (s : State) (why : Nat) : (s.freezeTrace why).clock = s.clock := by simp [State.freezeTrace]
@[simp] theorem State.fatalClose_clock (s : State) (c : Nat) : (s.fatalClose c).clock = s.clock := by simp [State.fatalClose]
@[simp] theorem State.abandonAll_clock (s : State) (r : EventRec) : (s.abandonAll r).clock = s.clock := by simp [State.abandonAll]

@[simp] theorem State.takeCapture_clock (s : State) (r : EventRec) (log : List EventRec) :
    (s.takeCapture r log).clock = s.clock := by simp [State.takeCapture]

@[simp] theorem State.deviceFatal_clock (s : State) (r : EventRec) : (s.deviceFatal r).clock = s.clock := by simp [State.deviceFatal]

@[simp] theorem State.raise_clock (s : State) (e : Ev) : (s.raise e).clock = s.clock := by
  unfold State.raise State.raiseWith
  dsimp only
  split
  · simp
  · split
    · split <;> simp
    · simp

@[simp] theorem State.raiseTile_clock (s : State) (t : Path) (code : Nat) (stag : Option Word) (detail : Bytes)
    (injected : Bool) : (s.raiseTile t code stag detail injected).clock = s.clock := by simp [State.raiseTile]

@[simp] theorem State.refuse_clock (s : State) (code : Nat) (path : Option Path) (part ctx source cond index sub arg : Nat)
    (more : Bytes) : (s.refuse code path part ctx source cond index sub arg more).clock = s.clock := by simp [State.refuse]

/-! #### Local store and tier memory (Machine/Operands, Machine/Memory) -/

@[simp] theorem State.checkWords_clock (s : State) (t : Path) (lo hi : Nat) : (s.checkWords t lo hi).1.clock = s.clock := by
  unfold State.checkWords
  dsimp only
  split <;> simp

@[simp] theorem State.pokeLS_clock (s : State) (t : Path) (fuel a : Nat) (bs : Bytes) :
    (s.pokeLS t fuel a bs).clock = s.clock := by
  induction fuel generalizing s a bs with
  | zero => rfl
  | succ fuel ih => simp [State.pokeLS, ih]

@[simp] theorem State.writeLS_clock (s : State) (t : Path) (a : Nat) (bs : Bytes) : (s.writeLS t a bs).1.clock = s.clock := by
  simp [State.writeLS]

@[simp] theorem State.fillTlb_clock (s : State) (who : Mover) (p : PageMap) : (s.fillTlb who p).clock = s.clock := by
  unfold State.fillTlb
  split <;> simp

@[simp] theorem State.translate_clock (s : State) (who : Mover) (ctx : BitVec 12) (va : Nat) :
    (s.translate who ctx va).1.clock = s.clock := by
  unfold State.translate
  split
  · rfl
  · split <;> simp

@[simp] theorem State.xlate_clock (s : State) (who : Mover) (ctx : BitVec 12) (va : Nat) (write : Bool) :
    (s.xlate who ctx va write).1.clock = s.clock := by
  unfold State.xlate
  split <;> next h => simp [fst_of_eq h]

@[simp] theorem State.modBlock_clock (s : State) (pa : Nat) (f : Block → Block) : (s.modBlock pa f).clock = s.clock := by
  simp [State.modBlock]

@[simp] theorem State.newTag_clock (s : State) (engine : Nat) : (s.newTag engine).2.clock = s.clock := by simp [State.newTag]

@[simp] theorem State.countRequest_clock (s : State) (part pa : Nat) : (s.countRequest part pa).clock = s.clock := by
  simp [State.countRequest]

@[simp] theorem State.lineRead_clock (s : State) (part pa : Nat) : (s.lineRead part pa).clock = s.clock := by simp [State.lineRead]

@[simp] theorem State.lineWrite_clock (s : State) (part pa : Nat) (bs : Bytes) (tag : Option (BitVec 24)) :
    (s.lineWrite part pa bs tag).clock = s.clock := by simp [State.lineWrite]

@[simp] theorem State.readVA_clock (s : State) (who : Mover) (part : Nat) (ctx : BitVec 12) (va len : Nat) :
    (s.readVA who part ctx va len).1.clock = s.clock := by
  unfold State.readVA
  refine foldl_fst_clock (fun acc p => ?_) _ _
  split
  · rfl
  · split <;> next e => simp [fst_of_eq e]

@[simp] theorem State.writeVA_clock (s : State) (who : Mover) (part : Nat) (ctx : BitVec 12) (va : Nat) (bs : Bytes) :
    (s.writeVA who part ctx va bs).1.clock = s.clock := by
  unfold State.writeVA
  refine foldl_fst_clock (fun acc p => ?_) _ _
  split
  · rfl
  · split <;> next e => simp [fst_of_eq e]

@[simp] theorem State.writeBlock_clock (s : State) (who : Mover) (engine part : Nat) (ctx : BitVec 12) (va : Nat) (bs : Bytes) :
    (s.writeBlock who engine part ctx va bs).1.clock = s.clock := by
  unfold State.writeBlock
  dsimp only
  generalize hr : List.foldl _ _ _ = r
  have h : r.1.clock = s.clock := by
    rw [← hr, foldl_fst_clock]
    · simp
    · intro acc p
      split
      · rfl
      · split <;> next e => simp [fst_of_eq e]
  split
  · exact h
  · split <;> next e => simp [fst_of_eq e, h]

@[simp] theorem State.countVerify_clock (s : State) (v : Verdict) : (s.countVerify v).clock = s.clock := by
  unfold State.countVerify
  split <;> simp

/-! #### Program loads (Machine/Access, Machine/Session, Machine/Mapping) -/

@[simp] theorem State.readBlocks_clock (s : State) (who : Mover) (reader p : Nat) (ctx : BitVec 12) (va n : Nat) :
    (s.readBlocks who reader p ctx va n).1.clock = s.clock := by
  induction n generalizing s va with
  | zero => rfl
  | succ n ih =>
    unfold State.readBlocks
    split
    · next e => simp [fst_of_eq e]
    · next e =>
      dsimp only
      split
      · split <;> simp [fst_of_eq e, ih]
      · simp [fst_of_eq e]

@[simp] theorem State.place_clock (s : State) (target : Path) (plan : LoadPlan) : (s.place target plan).clock = s.clock := by
  unfold State.place
  split
  · split <;> next e => simp [fst_of_eq e]
  · rfl

@[simp] theorem State.refuseWrite_clock (s : State) (w : WriteReq) (source code cond : Nat) :
    (s.refuseWrite w source code cond).clock = s.clock := by
  unfold State.refuseWrite
  dsimp only
  split <;> simp

@[simp] theorem State.requestRefused_clock (s : State) (w : WriteReq) (source code cond : Nat) (slot : Option Nat)
    (f : Part → Part) : (s.requestRefused w source code cond slot f).clock = s.clock := by
  unfold State.requestRefused
  split <;> simp

@[simp] theorem State.descEnd_clock (s : State) (who : Mover) (p : Nat) (ctx : BitVec 12) (va off n : Nat) :
    (s.descEnd who p ctx va off n).1.clock = s.clock := by
  induction n generalizing s off with
  | zero => rfl
  | succ n ih =>
    unfold State.descEnd
    split <;> next e => simp [ih, fst_of_eq e]

@[simp] theorem State.readImage_clock (s : State) (who : Mover) (p : Nat) (ctx : BitVec 12) (va : Nat) :
    (s.readImage who p ctx va).1.clock = s.clock := by
  unfold State.readImage
  split
  · next e => simp [fst_of_eq e]
  · next e =>
    split
    · simp [fst_of_eq e]
    · split
      · next e' => simp [fst_of_eq e', fst_of_eq e]
      · next e' =>
        dsimp only
        split <;> next e'' => simp [fst_of_eq e'', fst_of_eq e', fst_of_eq e]

@[simp] theorem State.loadRefused_clock (s : State) (slot : Option Nat) (w : WriteReq) (source code cond : Nat) :
    (s.loadRefused slot w source code cond).clock = s.clock := by simp [State.loadRefused]

@[simp] theorem State.loadRun_clock (s : State) (w : WriteReq) (p : Nat) (held : Ses × BitVec 128) :
    (s.loadRun w p held).clock = s.clock := by
  unfold State.loadRun
  dsimp only
  split
  · simp
  · split
    · simp
    · split
      · simp
      · split <;> simp

@[simp] theorem State.retryLoad_clock (s : State) (p : Nat) : (s.retryLoad p).clock = s.clock := by
  unfold State.retryLoad
  split <;> simp

/-! #### Outing exchanges and the time budget (Machine/Outing, Machine/Time) -/

@[simp] theorem State.modBinding_clock (s : State) (gid : BitVec 16) (f : Binding → Binding) :
    (s.modBinding gid f).clock = s.clock := by simp [State.modBinding]

@[simp] theorem State.countStatus_clock (s : State) (b : Binding) (st : Nat) : (s.countStatus b st).clock = s.clock := by
  simp [State.countStatus]

@[simp] theorem State.endExchange_clock (s : State) (gid : BitVec 16) : (s.endExchange gid).clock = s.clock := by
  unfold State.endExchange State.withBinding
  split
  · dsimp only
    split
    · rfl
    · split
      · rfl
      · simp
  · rfl

@[simp] theorem State.endExchangesSent_clock (s : State) : s.endExchangesSent.clock = s.clock := by simp [State.endExchangesSent]

@[simp] theorem State.timeBudget_clock (s : State) : s.timeBudget.clock = s.clock := by simp [State.timeBudget]

/-! #### The hamper (Machine/Checkpoint) -/

@[simp] theorem State.hostWrite_clock (s : State) (p off : Nat) (bs : Bytes) : (s.hostWrite p off bs).clock = s.clock := by
  simp [State.hostWrite]

@[simp] theorem State.viaPcie_clock (s : State) (ckid hoff : Nat) : (s.viaPcie ckid hoff).1.clock = s.clock := by
  simp [State.viaPcie]

@[simp] theorem State.hamRead_clock (s : State) (p : Nat) (ctx : BitVec 12) (va n : Nat) : (s.hamRead p ctx va n).1.clock = s.clock := by
  unfold State.hamRead
  split <;> next e => simp [fst_of_eq e]

@[simp] theorem State.hamTable_clock (s : State) (p : Nat) (ctx : BitVec 12) (va len : Nat) :
    (s.hamTable p ctx va len).1.clock = s.clock := by simp [State.hamTable]

@[simp] theorem State.hamMoved_clock (s : State) (p n : Nat) : (s.hamMoved p n).clock = s.clock := by simp [State.hamMoved]

@[simp] theorem demand_clock (s : State) (ok : Bool) (code : Nat) (detail : Bytes) : (demand s ok code detail).1.clock = s.clock := by
  simp [demand]

@[simp] theorem forEach_clock {α : Type} {f : State → α → Trial Unit} (h : ∀ (s : State) a, (f s a).1.clock = s.clock) (s : State)
    (xs : List α) : (forEach s xs f).1.clock = s.clock := by
  unfold forEach
  exact foldl_fst_clock (fun t x => Trial.andThen_clock t fun s _ => h s x) _ _

@[simp] theorem State.shardTable_clock (s : State) (p : Nat) (q : HamReq) : (s.shardTable p q).1.clock = s.clock := by
  unfold State.shardTable
  rw [Trial.andThen_clock, State.hamTable_clock]
  intro s bs
  dsimp only
  split <;> rfl

@[simp] theorem State.fillItems_clock (s : State) (ckid : Nat) (held : List (Bytes × Bytes)) (i : Nat) (bs : List Bytes) :
    (s.fillItems ckid held i bs).1.clock = s.clock := by
  induction bs generalizing i with
  | nil => rfl
  | cons b bs ih =>
    unfold State.fillItems
    split
    · rw [Trial.andThen_clock, ih]
      exact fun _ _ => rfl
    · rfl

@[simp] theorem State.rangeTest_clock (s : State) (q : HamReq) (bad : Option (Nat × Nat)) : (s.rangeTest q bad).1.clock = s.clock := by
  unfold State.rangeTest
  split <;> rfl

@[simp] theorem State.beginWrite_clock (s : State) (p : Nat) (q : HamReq) (j : HamJob) : (s.beginWrite p q j).1.clock = s.clock := by
  unfold State.beginWrite
  exact Trial.andThen_clock_of (by simp) fun s1 _ => Trial.andThen_clock_of (by simp) fun s2 xs =>
    Trial.andThen_clock_of (by simp) fun s3 list => Trial.andThen_clock_of (by simp) fun s4 ctl =>
    Trial.andThen_clock_of (by simp) fun s5 _ => Trial.andThen_clock_of (by simp) fun s6 _ => rfl

@[simp] theorem State.writeChunk_clock (s : State) (p : Nat) (q : HamReq) (k : Option Key) (j : HamJob) (x : Image) :
    (s.writeChunk p q k j x).1.clock = s.clock := by simp [State.writeChunk]

@[simp] theorem State.endWrite_clock (s : State) (p : Nat) (q : HamReq) (k : Option Key) (j : HamJob) :
    (s.endWrite p q k j).clock = s.clock := by simp [State.endWrite]

@[simp] theorem State.hamStore_clock (s : State) (p : Nat) (ctx : BitVec 12) (va : Nat) (bs : Bytes) :
    (s.hamStore p ctx va bs).1.clock = s.clock := by
  unfold State.hamStore
  refine forEach_clock (fun s b => ?_) _ _
  split <;> next e => simp [fst_of_eq e]

@[simp] theorem State.beginRead_clock (s : State) (p : Nat) (q : HamReq) (k : Option Key) (j : HamJob) :
    (s.beginRead p q k j).1.clock = s.clock := by
  unfold State.beginRead
  refine Trial.andThen_clock_of ?_ fun s1 xs => Trial.andThen_clock_of (by simp) fun s2 list => ?_
  · split <;> simp
  · split
    · rfl
    · split <;> rfl

@[simp] theorem State.takeChunk_clock (s : State) (p : Nat) (q : HamReq) (k : Option Key) (j : HamJob) (x : Image) (m : Manifest) :
    (s.takeChunk p q k j x m).1.clock = s.clock := by
  unfold State.takeChunk
  split
  · rfl
  · split
    · rfl
    · rw [Trial.andThen_clock]
      · split <;> simp
      · simp

theorem State.putSetting_clock {s u : State} {r : Role} {p idx sub v : Nat} (h : s.putSetting r p idx sub v = .ok u) :
    u.clock = s.clock := by
  unfold State.putSetting Put.deny at h
  split at h
  · cases h
  · cases h
    simp

@[simp] theorem State.applyItem_clock (s : State) (p : Nat) (r : Role) (b : Bytes) : (s.applyItem p r b).clock = s.clock := by
  unfold State.applyItem
  split
  · split
    · next e => exact State.putSetting_clock e
    · rfl
  · split <;> simp

@[simp] theorem State.applyItems_clock (s : State) (p ckid : Nat) (r : Role) (i : Nat) (bs : List Bytes) :
    (s.applyItems p ckid r i bs).1.clock = s.clock := by
  induction bs generalizing s i with
  | nil => rfl
  | cons b bs ih => simp [State.applyItems, ih]

@[simp] theorem State.imageTaken_clock (s : State) (p : Nat) (q : HamReq) (j : HamJob) (x : Image) (bs : Bytes) :
    (s.imageTaken p q j x bs).1.clock = s.clock := by simp [State.imageTaken]

@[simp] theorem State.moveChunk_clock (s : State) (p : Nat) (q : HamReq) (k : Option Key) (j : HamJob) (x : Image) :
    (s.moveChunk p q k j x).1.clock = s.clock := by
  unfold State.moveChunk
  split
  · rfl
  · split <;> simp

@[simp] theorem State.imageDone_clock (s : State) (p : Nat) (q : HamReq) (j : HamJob) (x : Image) (bs : Bytes) :
    (s.imageDone p q j x bs).1.clock = s.clock := by
  unfold State.imageDone
  split <;> simp

@[simp] theorem State.hamStep_clock (s : State) (p : Nat) (q : HamReq) (k : Option Key) (j : HamJob) :
    (s.hamStep p q k j).1.clock = s.clock := by
  unfold State.hamStep
  split
  · split <;> simp
  · split
    · rfl
    · rw [Trial.andThen_clock, State.moveChunk_clock]
      intro s bs
      dsimp only
      split <;> simp

@[simp] theorem State.hamClose_clock (s : State) (p code : Nat) : (s.hamClose p code).clock = s.clock := by simp [State.hamClose]

@[simp] theorem State.hamFail_clock (s : State) (p : Nat) (q : HamReq) (e : Halt) : (s.hamFail p q e).clock = s.clock := by
  simp [State.hamFail]

@[simp] theorem State.hamDone_clock (s : State) (p : Nat) (q : HamReq) (k : Option Key) (j : HamJob) :
    (s.hamDone p q k j).clock = s.clock := by
  unfold State.hamDone
  dsimp only
  split <;> simp

@[simp] theorem State.hamTurn_clock (s : State) (p : Nat) (j : HamJob) : (s.hamTurn p j).clock = s.clock := by
  simp [State.hamTurn, State.hamServe]

@[simp] theorem State.hamperTurn_clock (s : State) : s.hamperTurn.clock = s.clock := by
  unfold State.hamperTurn
  split
  · rfl
  · dsimp only
    split
    · simp
    · split <;> simp

/-! #### The cipher engine (Machine/Keys, Machine/Cipher) -/

@[simp] theorem State.jobFail_clock (s : State) (p : Nat) (ctx : BitVec 12) (e : Halt) : (s.jobFail p ctx e).clock = s.clock := by
  simp [State.jobFail]

@[simp] theorem State.jobRead_clock (s : State) (p : Nat) (ctx : BitVec 12) (va len : Nat) :
    (s.jobRead p ctx va len).1.clock = s.clock := by
  unfold State.jobRead
  split <;> next e => simp [fst_of_eq e]

@[simp] theorem State.jobWrite_clock (s : State) (p : Nat) (ctx : BitVec 12) (va : Nat) (bs : Bytes) :
    (s.jobWrite p ctx va bs).1.clock = s.clock := by
  unfold State.jobWrite
  split <;> next e => simp [fst_of_eq e]

@[simp] theorem State.jobSteps_clock (s : State) (p : Nat) (j : Job) (key : Bytes) : (s.jobSteps p j key).1.clock = s.clock := by
  unfold State.jobSteps
  refine Trial.andThen_clock_of (by simp) fun s0 _ => Trial.andThen_clock_of (by simp) fun s1 iv =>
    Trial.andThen_clock_of (by simp) fun s2 aad => Trial.andThen_clock_of (by simp) fun s3 msg =>
    Trial.andThen_clock_of (by simp) fun s4 tag => ?_
  split <;> simp

@[simp] theorem State.jobRun_clock (s : State) (p : Nat) (j : Job) : (s.jobRun p j).clock = s.clock := by
  unfold State.jobRun State.jobEnd
  split <;> next e => simp [fst_of_eq e]

@[simp] theorem State.cipherTurn_clock (s : State) : s.cipherTurn.clock = s.clock := by
  unfold State.cipherTurn
  split
  · rfl
  · dsimp only
    split
    · simp
    · split <;> simp

/-! #### All turns (Machine/Tick, Machine/Idle) -/

@[simp] theorem State.countUnderlay_clock (s : State) : s.countUnderlay.clock = s.clock := by simp [State.countUnderlay]

@[simp] theorem State.countSlotWaits_clock (s : State) : s.countSlotWaits.clock = s.clock := by
  unfold State.countSlotWaits
  refine State.each_clock (fun a t => ?_) _ _
  split <;> simp

@[simp] theorem State.requests_clock (s : State) : s.requests.clock = s.clock := by
  unfold State.requests
  refine State.each_clock (fun a p => ?_) _ _
  dsimp only
  split <;> simp

theorem State.turns_clock (s : State) : s.turns.clock = s.clock := by simp [State.turns]

/-! ### The tick, and the frame that follows it -/

theorem step_of_pending_nil {s : State} (h : s.pending = []) : step s = .next s.idle := by
  unfold step
  rw [h]

/-- A tick moves the island's time, the counter where the bridge's rails are up, and at most one trace region. -/
theorem State.tick_spec (s : State) :
    s.tick = { s with island := s.island + 1, now := if s.pwr.bridge then s.now + 1 else s.now, trace := s.tick.trace } ∧
    (∃ r, ∀ q, q ≠ r → s.tick.region q = s.region q) ∧ (s.pwr.converters = false → s.tick.trace = s.trace) := by
  unfold State.tick
  dsimp only
  cases s.pwr.converters with
  | false => exact ⟨rfl, ⟨0, fun _ _ => rfl⟩, fun _ => rfl⟩
  | true => exact ⟨rfl, ⟨_, fun q hq => s.region_modRegion_other _ hq⟩, fun h => by cases h⟩

/-- The state in which the controller looks for a frame: the tick is done, and where the bridge's rails are up all turns. -/
def State.afterTurns (s : State) : State := if s.tick.pwr.bridge then s.tick.turns else s.tick

theorem State.idle_eq (s : State) : s.idle = s.afterTurns.nextFrame := rfl

theorem State.afterTurns_of_bridge_down {s : State} (h : s.pwr.bridge = false) : s.afterTurns = s.tick := by
  have hb : s.tick.pwr.bridge = false := by rw [s.tick_spec.1]; exact h
  exact if_neg (by rw [hb]; exact Bool.false_ne_true)

theorem State.afterTurns_of_bridge_up {s : State} (h : s.pwr.bridge = true) : s.afterTurns = s.tick.turns := by
  have hb : s.tick.pwr.bridge = true := by rw [s.tick_spec.1]; exact h
  exact if_pos hb

/-- The turns leave what the tick has set. -/
theorem State.afterTurns_spec (s : State) :
    s.afterTurns.pending = s.pending ∧ s.afterTurns.now = (if s.pwr.bridge then s.now + 1 else s.now) ∧
      s.afterTurns.island = s.island + 1 ∧ s.afterTurns.mgmt.frameQ = s.mgmt.frameQ := by
  have htick : s.tick.clock = (s.pending, if s.pwr.bridge then s.now + 1 else s.now, s.island + 1, s.mgmt.frameQ) := by
    rw [s.tick_spec.1]
    rfl
  have hclock : s.afterTurns.clock = s.tick.clock := by
    unfold State.afterTurns
    rw [clock_ite, State.turns_clock, ite_self]
  simpa only [State.clock, Prod.mk.injEq] using hclock.trans htick

theorem State.nextFrame_nil {s : State} (h : s.mgmt.frameQ = []) : s.nextFrame = { s with mgmt := { s.mgmt with handling := false } } := by
  unfold State.nextFrame
  rw [h]

theorem State.nextFrame_cons {s : State} {src : Source} {f : Bytes} {rest : List (Source × Bytes)} (h : s.mgmt.frameQ = (src, f) :: rest) :
    s.nextFrame = ({ s with mgmt := { s.mgmt with frameQ := rest } } : State).handleFrame src f := by
  unfold State.nextFrame
  rw [h]

theorem State.nextFrame_queue (s : State) : s.nextFrame.queue = s.queue := by
  unfold State.nextFrame
  split <;> simp

theorem State.nextFrame_pending (s : State) : s.nextFrame.pending = s.pending := by
  have h := s.nextFrame_queue
  rwa [State.queue, State.queue] at h

/-- With no frame waiting an idle step ends with the turns, and the controller is free. -/
theorem State.idle_of_no_frame {s : State} (h : s.mgmt.frameQ = []) :
    s.idle = { s.afterTurns with mgmt := { s.afterTurns.mgmt with handling := false } } := by
  obtain ⟨-, -, -, hframes⟩ := s.afterTurns_spec
  rw [s.idle_eq, State.nextFrame_nil (hframes.trans h)]

theorem State.idle_parts_of_no_frame {s : State} (h : s.mgmt.frameQ = []) : s.idle.parts = s.afterTurns.parts := by
  rw [State.idle_of_no_frame h]

/-! ### The outcomes of requests (R421, R506) -/

/-- What is open of a partition's requests: busy slots, a plan and a load that are held, a hamper request, a cipher job. -/
def Part.opened (x : Part) : SMap Bool × Option (BitVec 16) × Option (Ses × BitVec 128) × Option HamJob × Option (BitVec 512) :=
  (x.busy, x.planHeld, x.loadHeld, x.ham, x.job)

/-- What is open of every partition's requests is the same in two states. -/
def State.sameOpened (s u : State) : Prop := ∀ p, (u.part p).opened = (s.part p).opened

theorem State.sameOpened_of_parts {s u : State} (h : u.parts = s.parts) : s.sameOpened u := fun p => by
  rw [State.part, State.part, h]

theorem State.sameOpened_trans {s u v : State} (h1 : s.sameOpened u) (h2 : u.sameOpened v) : s.sameOpened v := fun p =>
  (h2 p).trans (h1 p)

theorem State.sameOpened_modPart (s : State) (q : Nat) {f : Part → Part} (hf : ∀ x : Part, (f x).opened = x.opened) :
    s.sameOpened (s.modPart q f) := fun p => by
  by_cases h : p = q
  · subst h
    rw [State.part_modPart_same, hf]
  · rw [State.part_modPart_other _ _ h]

theorem State.sameOpened_each {α : Type} {f : State → α → State} (h : ∀ a x, State.sameOpened a (f a x)) (s : State) (xs : List α) :
    s.sameOpened (s.each xs f) := fun p => foldl_keeps (fun a : State => (a.part p).opened) (fun a x => h a x p) s xs

theorem State.sameOpened_countPart (s : State) (q : Option Nat) (idx sub n : Nat) : s.sameOpened (s.countPart q idx sub n) := by
  unfold State.countPart
  split
  · split
    · exact fun _ => rfl
    · exact s.sameOpened_modPart _ fun _ => rfl
  · exact fun _ => rfl

theorem State.sameOpened_countSlotWaits (s : State) : s.sameOpened s.countSlotWaits := by
  refine State.sameOpened_each (fun a t => ?_) _ _
  split
  · exact a.sameOpened_modPart _ fun _ => rfl
  · exact fun _ => rfl

theorem State.sameOpened_countStatus (s : State) (b : Binding) (st : Nat) : s.sameOpened (s.countStatus b st) := by
  have hfirst : s.sameOpened (if st = 2 then s.countPart (some b.part.toNat) 0x2600 8 1 else s.countPart (some b.part.toNat) 0x2600 5 1) := by
    split <;> exact s.sameOpened_countPart _ _ _ _
  unfold State.countStatus
  dsimp only
  split
  · exact State.sameOpened_trans hfirst (State.sameOpened_countPart _ _ _ _ _)
  · exact hfirst

theorem State.sameOpened_endExchange (s : State) (gid : BitVec 16) : s.sameOpened (s.endExchange gid) := by
  unfold State.endExchange State.withBinding
  split
  · next b _ =>
    dsimp only
    split
    · exact fun _ => rfl
    · split
      · exact fun _ => rfl
      · split
        · exact fun _ => rfl
        · exact State.sameOpened_trans (s.sameOpened_countStatus b _) (State.sameOpened_of_parts rfl)
  · exact fun _ => rfl

/-- What goes before the requests' turn leaves what is open. -/
theorem State.sameOpened_before_requests (s : State) : s.sameOpened s.countUnderlay.countSlotWaits.endExchangesSent := by
  have hunderlay : s.sameOpened s.countUnderlay := State.sameOpened_of_parts rfl
  have hsent (a : State) : a.sameOpened a.endExchangesSent := State.sameOpened_each State.sameOpened_endExchange _ _
  exact State.sameOpened_trans hunderlay (State.sameOpened_trans (State.sameOpened_countSlotWaits _) (hsent _))

/-- No request of the hamper or the cipher engine and no load is open. -/
def State.nothingHeld (s : State) : Prop := ∀ p, (s.part p).ham = none ∧ (s.part p).job = none ∧ (s.part p).loadHeld = none

theorem Part.outcome_busy {x : Part} (h : x.loadHeld = none) : x.outcome.busy = [] := by simp [Part.outcome, h]

theorem Part.outcome_outcome {x : Part} (h : x.loadHeld = none) : x.outcome.outcome = x.outcome := by
  simp [Part.outcome, h]

theorem State.retryLoad_of_none {s : State} {p : Nat} (h : (s.part p).loadHeld = none) : s.retryLoad p = s := by
  unfold State.retryLoad
  rw [h]

/-- The requests' turn writes each outcome once, however often a partition is listed. -/
theorem requests_parts (ps : List Nat) (s : State) (h : ∀ p, (s.part p).loadHeld = none) (p : Nat) :
    (s.each ps fun a p =>
      let b := a.modPart p Part.outcome
      if b.fatal then b else b.retryLoad p).part p = if p ∈ ps then (s.part p).outcome else s.part p := by
  induction ps generalizing s with
  | nil => rfl
  | cons q ps ih =>
    have hq : ((s.modPart q Part.outcome).part q).loadHeld = none := by
      rw [State.part_modPart_same]
      exact h q
    have hpart : ∀ p, (s.modPart q Part.outcome).part p = if p = q then (s.part p).outcome else s.part p := fun p => by
      by_cases e : p = q
      · subst e
        rw [State.part_modPart_same, if_pos rfl]
      · rw [State.part_modPart_other _ _ e, if_neg e]
    have hnext : ∀ p, ((s.modPart q Part.outcome).part p).loadHeld = none := fun p => by
      rw [hpart]
      split <;> exact h p
    have hcons : (let b := s.modPart q Part.outcome; if b.fatal then b else b.retryLoad q) = s.modPart q Part.outcome := by
      dsimp only
      rw [State.retryLoad_of_none hq, ite_self]
    unfold State.each
    rw [List.foldl_cons, hcons]
    refine (ih _ hnext).trans ?_
    rw [hpart]
    by_cases e : p = q
    · subst e
      rw [if_pos rfl, if_pos List.mem_cons_self, Part.outcome_outcome (h p), ite_self]
    · rw [if_neg e]
      simp only [List.mem_cons, e, false_or]

theorem mapGet_eq_or_mem {α : Type} (d : α) (m : SMap α) (k : Nat) : mapGet d m k = d ∨ (k, mapGet d m k) ∈ m := by
  induction m with
  | nil => exact .inl rfl
  | cons e m ih =>
    obtain ⟨j, w⟩ := e
    by_cases h : j = k
    · subst h
      simp [mapGet]
    · rw [mapGet, if_neg h]
      exact ih.imp_right (List.mem_cons_of_mem _)

/-- A partition with a busy slot has its turn. -/
theorem State.mem_busyParts {s : State} {p idx : Nat} (h : s.slotBusy p idx = true) : p ∈ s.busyParts := by
  have hbusy : (s.part p).busy ≠ [] := fun e => by
    rw [State.slotBusy, e] at h
    cases h
  rcases mapGet_eq_or_mem ({} : Part) s.parts p with hnone | hmem
  · exact absurd (congrArg Part.busy hnone) hbusy
  · refine List.mem_map.mpr ⟨(p, s.part p), List.mem_filter.mpr ⟨hmem, ?_⟩, rfl⟩
    simpa using hbusy

/-- With no request open the hamper's turn is empty. -/
theorem State.hamperTurn_parts {s : State} (h : ∀ p, (s.part p).ham = none) : s.hamperTurn.parts = s.parts := by
  unfold State.hamperTurn
  split
  · rfl
  · next p _ => simp only [h p]

/-- With no job open the cipher engine's turn is empty. -/
theorem State.cipherTurn_parts {s : State} (h : ∀ p, (s.part p).job = none) : s.cipherTurn.parts = s.parts := by
  unfold State.cipherTurn
  split
  · rfl
  · next p _ => simp only [h p]

theorem State.parts_of_reported {s u : State} (h : s.reported' u) : u.parts = s.parts := by rw [h]

theorem State.timeBudget_parts (s : State) : s.timeBudget.parts = s.parts := by
  unfold State.timeBudget
  dsimp only
  split
  · exact (State.parts_of_reported (State.raise_reports _ _ (by simp) (by simp))).trans rfl
  · rfl

/-- With nothing held the turns leave every partition as the requests' turn does. -/
theorem State.turns_parts {s : State} (h : s.countUnderlay.countSlotWaits.endExchangesSent.requests.nothingHeld) :
    s.turns.parts = s.countUnderlay.countSlotWaits.endExchangesSent.requests.parts := by
  unfold State.turns
  dsimp only
  generalize s.countUnderlay.countSlotWaits.endExchangesSent.requests = a at h
  have hham := State.hamperTurn_parts fun p => (h p).1
  have hjob : ∀ p, (a.hamperTurn.part p).job = none := fun p => by
    rw [State.part_of_parts hham]
    exact (h p).2.1
  split
  · rfl
  · rw [State.timeBudget_parts, State.cipherTurn_parts hjob, hham]

/-- What an idle step with the bridge's rails up makes of a partition with a busy slot, where nothing is held: its outcome. -/
theorem State.idle_part {s : State} (hframes : s.mgmt.frameQ = []) (hbridge : s.pwr.bridge = true) (hheld : s.nothingHeld) {p idx : Nat}
    (hbusy : s.slotBusy p idx = true) : ∃ x : Part, s.idle.part p = x.outcome ∧ s.idle.slotBusy p idx = false ∧
      mapGet false x.busy idx = true ∧ x.planHeld = (s.part p).planHeld ∧ x.loadHeld = none := by
  have htick : s.tick.parts = s.parts := by rw [s.tick_spec.1]
  generalize ha : s.tick.countUnderlay.countSlotWaits.endExchangesSent = a
  have hopened : s.sameOpened a := by
    rw [← ha]
    exact State.sameOpened_trans (State.sameOpened_of_parts htick) s.tick.sameOpened_before_requests
  have hheldA : a.nothingHeld := fun q => by
    have h := hopened q
    simp only [Part.opened, Prod.mk.injEq] at h
    obtain ⟨-, -, hload, hham, hjob⟩ := h
    exact ⟨hham.trans (hheld q).1, hjob.trans (hheld q).2.1, hload.trans (hheld q).2.2⟩
  have hrequests : ∀ q, a.requests.part q = if q ∈ a.busyParts then (a.part q).outcome else a.part q :=
    requests_parts a.busyParts a fun q => (hheldA q).2.2
  have hheldR : a.requests.nothingHeld := fun q => by
    rw [hrequests]
    split <;> exact hheldA q
  obtain ⟨hbusyEq, hplan⟩ := Prod.mk.inj (hopened p)
  have hbusyA : a.slotBusy p idx = true := (congrArg (fun m => mapGet false m idx) hbusyEq).trans hbusy
  have hend : s.idle.parts = a.requests.parts := by
    rw [← ha] at hheldR ⊢
    rw [State.idle_parts_of_no_frame hframes, State.afterTurns_of_bridge_up hbridge, State.turns_parts hheldR]
  have hpart : s.idle.part p = (a.part p).outcome := by
    rw [State.part_of_parts hend, hrequests, if_pos (State.mem_busyParts hbusyA)]
  refine ⟨a.part p, hpart, ?_, hbusyA, (Prod.mk.inj hplan).1, (hheldA p).2.2⟩
  rw [State.slotBusy, hpart, Part.outcome_busy (hheldA p).2.2]
  rfl

/-- Settles O11: the turns leave the clock, and the requests' turn is the only one that reaches a partition with nothing held. -/
theorem emptyQueueTicks : Obligations.EmptyQueueTicks := by
  unfold Obligations.EmptyQueueTicks
  intro s hpending
  rw [step_of_pending_nil hpending]
  obtain ⟨htick, hregion, htrace⟩ := s.tick_spec
  refine ⟨⟨_, rfl, ?_⟩, fun hframes => ⟨_, rfl, ?_⟩, fun hframes hbridge => ⟨_, rfl, ?_⟩, fun src f rest hframes hbridge hconv => ?_,
    fun hframes hbridge _ hheld => ⟨_, rfl, fun p => ?_⟩⟩
  · rw [s.idle_eq, State.nextFrame_pending, s.afterTurns_spec.1, hpending]
  · obtain ⟨-, hnow, hisland, -⟩ := s.afterTurns_spec
    rw [State.idle_of_no_frame hframes]
    exact ⟨hisland, hnow, rfl⟩
  · rw [State.idle_of_no_frame hframes, State.afterTurns_of_bridge_down hbridge]
    refine ⟨hregion, htrace, ?_⟩
    generalize s.tick.trace = tr at htick
    rw [htick, hbridge]
    rfl
  · have hquiet : s.tick = { s with island := s.island + 1 } := by
      rw [htick, htrace hconv, hbridge]
      rfl
    rw [s.idle_eq, State.afterTurns_of_bridge_down hbridge, hquiet,
      State.nextFrame_cons (s := { s with island := s.island + 1 }) hframes]
  · refine ⟨fun h => ?_, fun h => ?_, fun h => ?_, fun h => ?_⟩ <;>
      obtain ⟨x, hpart, hfree, hbusy, hplan, hload⟩ := State.idle_part hframes hbridge hheld h <;> rw [hpart]
    · exact ⟨by simp [Part.outcome, hbusy], hfree, fun plan hp => by simp [Part.outcome, hplan, hp]⟩
    · exact ⟨by simp [Part.outcome, hbusy], hfree⟩
    · exact ⟨by simp [Part.outcome, hbusy], hfree⟩
    · exact ⟨by simp [Part.outcome, hbusy, hload], hfree⟩

end Sys2Proof.Machine
end

section
/-! O23 (R70, R107, R108, R111, R112): an UNDERLAY is dispatched and held, the level of an array steps in gaps and rises, and a cluster
takes a panel layout. -/

namespace Sys2Proof.Machine

/-! ### Dispatch (R70) -/

/-- A command that waits first for its unit, and is one its row names, is launched and worked on. -/
theorem State.dispatch_of_waits {s : State} {t : Path} {unit : Nat} {c : Command} {isOp : Command → Bool}
    {work : State → Path → Command → State} (h : Waits s t unit c) (hop : isOp c = true) :
    s.dispatch t unit isOp work = .next (work (s.launchCmd (s.lead t) c) (s.lead t) c) := by
  obtain ⟨hactive, hfatal, hup, hhead, hvec, hwait, -⟩ := h
  unfold State.seqTile at hhead hwait
  simp [State.dispatch, guardUnit, State.unitsRun, hactive, hhead, hfatal, hup, hvec, hop, hwait]

/-- The tile once command c has left its queue and is at work (R70). -/
def atWork (x : Tile) (c : Command) : Tile := { x.unqueue c.id with flights := x.flights ++ [⟨c, false⟩] }

theorem State.launchCmd_notes (s : State) (l : Path) (c : Command) :
    (s.modTile l fun x => atWork x c).noted' (s.launchCmd l c) := State.tilePacket_notes ..

theorem State.launchCmd_tile_same (s : State) (l : Path) (c : Command) : (s.launchCmd l c).tile l = atWork (s.tile l) c := by
  rw [State.noted'_tile (s.launchCmd_notes l c), State.tile_modTile_same]

theorem State.launchCmd_tile_other (s : State) {l q : Path} (c : Command) (h : q ≠ l) : (s.launchCmd l c).tile q = s.tile q := by
  rw [State.noted'_tile (s.launchCmd_notes l c), State.tile_modTile_other _ _ h]

@[simp] theorem State.launchCmd_panelWidth (s : State) (l : Path) (c : Command) (t : Path) :
    (s.launchCmd l c).panelWidth t = s.panelWidth t := State.noted'_width (s.launchCmd_notes l c) t

@[simp] theorem State.launchCmd_span (s : State) (l : Path) (c : Command) (t : Path) : (s.launchCmd l c).span t = s.span t := by
  simp [State.span]

@[simp] theorem State.launchCmd_members (s : State) (l : Path) (c : Command) (t : Path) :
    (s.launchCmd l c).members t = s.members t := by
  simp [State.members]

@[simp] theorem State.launchCmd_island (s : State) (l : Path) (c : Command) : (s.launchCmd l c).island = s.island := by
  rw [(s.launchCmd_notes l c).2]
  rfl

/-! ### What counts and samples alone differ in -/

theorem countsAndSamples_of_notes {s u : State} (h : s.noted' u) : CountsAndSamples s u := by
  obtain ⟨hclusters, hrest⟩ := h
  refine ⟨fun p => ?_, fun k => ?_, ?_⟩
  · have hpart : u.part p = s.part p := State.part_of_parts (by rw [hrest]) p
    rw [hpart]
  · rw [hclusters k]
  · rw [hrest]

theorem countsAndSamples_of_tiles {s u : State} (h : u = { s with tiles := u.tiles }) : CountsAndSamples s u := by
  rw [h]
  exact ⟨fun _ => rfl, fun _ => rfl, rfl⟩

theorem countsAndSamples_trans {s u v : State} (h₁ : CountsAndSamples s u) (h₂ : CountsAndSamples u v) : CountsAndSamples s v := by
  obtain ⟨hpart₁, hcluster₁, hrest₁⟩ := h₁
  obtain ⟨hpart₂, hcluster₂, hrest₂⟩ := h₂
  refine ⟨fun p => ?_, fun k => ?_, ?_⟩
  · rw [hpart₂ p, hpart₁ p]
  · rw [hcluster₂ k, hcluster₁ k]
  · rw [hrest₂, hrest₁]

theorem State.launchCmd_countsAndSamples (s : State) (l : Path) (c : Command) : CountsAndSamples s (s.launchCmd l c) :=
  countsAndSamples_trans (countsAndSamples_of_tiles rfl) (countsAndSamples_of_notes (s.launchCmd_notes l c))

/-! ### UNDERLAY (R112) -/

theorem ArrayLevel.arrive_eq_raisedLevel (now : Nat) (a : ArrayLevel) : a.arrive now = raisedLevel now a := by
  have hmin : min 8 (a.level + 1) = if a.level < 8 then a.level + 1 else 8 := by
    split <;> omega
  rw [ArrayLevel.arrive, raisedLevel, hmin]

/-- An array that an UNDERLAY of n microseconds takes at a time. -/
def heldLevel (now n : Nat) (a : ArrayLevel) : ArrayLevel := { raisedLevel now a with holdUntil := some (now + 1000 * n) }

theorem State.underlay_eq_arrays (s : State) (l : Path) (n : Nat) : s.underlay l n = s.arrays l (heldLevel s.island n) := by
  simp only [State.underlay, ArrayLevel.arrive_eq_raisedLevel]
  rfl

/-- An UNDERLAY that waits first is launched, and holds every array of its panel. -/
theorem exec_underlay_of_waits {s : State} {t : Path} {c : Command} (h : Waits s t 0 c) (hfree : (s.seqTile t).underlayRuns = false)
    (hop : (arrCmd c).op = 7) (hvalid : (arrCmd c).fault (s.panelWidth (s.lead t)) (s.span (s.lead t)) = none) :
    exec (.underlay t) s = .next ((s.launchCmd (s.lead t) c).arrays (s.lead t) (heldLevel s.island (arrCmd c).n)) := by
  have hrow : (decide (c.arrOp = 7) && !(s.tile (s.lead t)).underlayRuns) = true := by
    rw [show c.arrOp = 7 from hop, show (s.tile (s.lead t)).underlayRuns = false from hfree]
    rfl
  calc exec (.underlay t) s
      = .next ((s.launchCmd (s.lead t) c).arrayCmd (s.lead t) c) := State.dispatch_of_waits h hrow
    _ = .next ((s.launchCmd (s.lead t) c).underlay (s.lead t) (arrCmd c).n) := by simp [State.arrayCmd, hvalid, hop]
    _ = _ := by rw [State.underlay_eq_arrays, State.launchCmd_island]

theorem State.lead_mem_members (s : State) {t : Path} (h : activePath t = true) : s.lead t ∈ s.members (s.lead t) := by
  rw [s.members_lead h]
  refine List.mem_map.mpr ⟨0, List.mem_range.mpr ?_, s.memberAt_lead h⟩
  rcases s.panelWidth_cases (s.lead t) with w | w | w <;> omega

/-- Arrays changed once a command is launched: the lead's queues and flights move, the panel's arrays change, and nothing else. -/
theorem State.launchCmd_arrays_spec (s : State) {t : Path} (h : activePath t = true) (c : Command) (f : ArrayLevel → ArrayLevel) :
    let u := (s.launchCmd (s.lead t) c).arrays (s.lead t) f
    CountsAndSamples s u ∧ u.tile (s.lead t) = { atWork (s.seqTile t) c with arr := f (s.seqTile t).arr } ∧
      (∀ q, q ≠ s.lead t → q ∈ s.members (s.lead t) → u.tile q = { s.tile q with arr := f (s.tile q).arr }) ∧
      ∀ q, q ≠ s.lead t → q ∉ s.members (s.lead t) → u.tile q = s.tile q := by
  intro u
  have hm := s.members_lead h
  rw [← s.launchCmd_members (s.lead t) c, ← s.launchCmd_panelWidth (s.lead t) c] at hm
  obtain ⟨-, houtside, htiles⟩ := arrays_spec _ _ f hm
  have hinside := arrays_each _ _ f hm
  rw [State.launchCmd_members] at hinside
  refine ⟨countsAndSamples_trans (s.launchCmd_countsAndSamples _ c) (countsAndSamples_of_tiles htiles), ?_, fun q hq hmem => ?_,
    fun q hq hmem => ?_⟩
  · rw [hinside _ (s.lead_mem_members h), State.launchCmd_tile_same]
    rfl
  · rw [hinside q hmem, s.launchCmd_tile_other c hq]
  · rw [houtside q ?_, s.launchCmd_tile_other c hq]
    rw [State.launchCmd_panelWidth]
    exact (members_iff h q).mp hmem

/-! ### Steps of activity levels (R111) -/

/-- The gap of an array has lasted the hold time and 2.5 µs for its next step down. -/
def stepsDown (s : State) (a : ArrayLevel) : Prop :=
  a.rising = false ∧ 0 < a.level ∧ a.since + s.pwr.holdTime.toNat + 2500 * (a.gapLevel - a.level + 1) ≤ s.island

/-- The rise of an array has lasted 2.5 µs since its last step up. -/
def stepsUp (s : State) (a : ArrayLevel) : Prop := a.rising = true ∧ a.level < 8 ∧ a.since + 2500 ≤ s.island

theorem not_stepsDown_iff {s : State} {a : ArrayLevel} : ¬ stepsDown s a ↔
    a.rising = true ∨ a.level = 0 ∨ s.island < a.since + s.pwr.holdTime.toNat + 2500 * (a.gapLevel - a.level + 1) := by
  simp only [stepsDown, not_and_or, Bool.not_eq_false, not_lt, not_le, Nat.le_zero]

theorem not_stepsUp_iff {s : State} {a : ArrayLevel} : ¬ stepsUp s a ↔
    a.rising = false ∨ 8 ≤ a.level ∨ s.island < a.since + 2500 := by
  simp only [stepsUp, not_and_or, Bool.not_eq_true, not_lt, not_le]

theorem exec_underlayStepDown_of_due {s : State} {t : Path} (ht : validPath t = true) (h : stepsDown s (s.tile t).arr) :
    exec (.underlayStepDown t) s =
      .next (s.setTile t { s.tile t with arr := { (s.tile t).arr with level := (s.tile t).arr.level - 1 } }) := by
  obtain ⟨hgap, hlevel, htime⟩ := h
  show execUnderlayStepDown t s = _
  simp [execUnderlayStepDown, guardUnit, ht, hgap, hlevel, htime, State.modTile]

theorem exec_underlayStepDown_of_not_due {s : State} {t : Path} (ht : validPath t = true) (h : ¬ stepsDown s (s.tile t).arr) :
    exec (.underlayStepDown t) s = .next s := by
  show execUnderlayStepDown t s = _
  unfold execUnderlayStepDown guardUnit
  dsimp only
  rw [if_pos ht, if_neg (by simpa [stepsDown, and_assoc] using h)]

theorem exec_underlayStepUp_of_due {s : State} {t : Path} (ht : validPath t = true) (h : stepsUp s (s.tile t).arr) :
    exec (.underlayStepUp t) s =
      .next (s.setTile t { s.tile t with arr := { (s.tile t).arr with level := (s.tile t).arr.level + 1, since := s.island } }) := by
  obtain ⟨hrises, hlevel, htime⟩ := h
  show execUnderlayStepUp t s = _
  simp [execUnderlayStepUp, guardUnit, ht, hrises, hlevel, htime, State.modTile]

theorem exec_underlayStepUp_of_not_due {s : State} {t : Path} (ht : validPath t = true) (h : ¬ stepsUp s (s.tile t).arr) :
    exec (.underlayStepUp t) s = .next s := by
  show execUnderlayStepUp t s = _
  unfold execUnderlayStepUp guardUnit
  dsimp only
  rw [if_pos ht, if_neg (by simpa [stepsUp, and_assoc] using h)]

/-! ### Writes to an object (R442) -/

/-- A write that its session may make and the object's rule accepts takes effect. -/
theorem State.putRow_of_ok {s s' : State} {w : WriteReq} {put : State → Role → Put} (h : Writable s w.ses w.idx w.sub)
    (hok : put s (s.role w.ses) = .ok s') : s.putRow w put = .next s' := by
  obtain ⟨haux, hserved, hmay⟩ := h
  simp [State.putRow, State.putStatus, haux, hserved, hmay, hok]

/-! ### Panel layouts (R107, R108) -/

theorem mem_numbers {n g : Nat} {f : Nat → Bool} : g ∈ numbers n f ↔ g < n ∧ f g = true := by
  simp [numbers]

/-- The groups whose code a layout changes. -/
theorem State.mem_layoutGroups {s : State} {k g : Nat} {layout : BitVec 16} : g ∈ s.layoutGroups k layout ↔
    g < 8 ∧ layout.toNat / 4 ^ g % 4 ≠ (s.cluster k).layout.toNat / 4 ^ g % 4 := by
  rw [State.layoutGroups, mem_numbers, decide_eq_true_eq]
  refine and_congr_right fun hg => ?_
  rw [code_eq _ g hg, code_eq _ g hg]

theorem codeWidth_layoutCode {layout : BitVec 16} {g : Nat} (hg : g < 8) : codeWidth (layoutCode layout g) = widthOf layout g := by
  rw [code_eq _ g hg]
  unfold codeWidth widthOf
  split
  · next h => rw [if_pos h]
  · next h => rw [if_neg (by omega), if_pos h]
  · next h1 h2 => rw [if_neg h1, if_neg h2]

/-- No condition of R107 refuses a layout of codes 0 to 2 that the owner gives while the groups that change are quiet. -/
theorem State.layoutRefusal_none {s : State} {k : Nat} {layout : BitVec 16} (hcodes : ∀ g, g < 8 → layout.toNat / 4 ^ g % 4 ≠ 3)
    (hquiet : ∀ g ∈ s.layoutGroups k layout, ∀ i, i < 4 → s.layoutQuiet (pathOf k (4 * g + i)) = true) :
    s.layoutRefusal k true layout = none := by
  have hcode : ¬ ((List.range 8).any fun g => layoutCode layout g = 3) = true := by
    simp only [List.any_eq_true, List.mem_range, decide_eq_true_eq, not_exists, not_and]
    intro g hg
    rw [code_eq _ g hg]
    exact hcodes g hg
  have hidle : ¬ ((s.layoutGroups k layout).any fun g => (List.range 4).any fun i => !s.layoutQuiet (pathOf k (4 * g + i))) = true := by
    simp only [List.any_eq_true, List.mem_range, Bool.not_eq_true', not_exists, not_and, Bool.not_eq_false]
    exact hquiet
  rw [State.layoutRefusal, if_neg (by decide), if_neg hcode, if_neg hidle]

theorem validPath_pathOf_zero {k : Nat} (hk : k < 40) : validPath (pathOf k 0) = true := by
  have hlow : bits (pathOf k 0) 0 4 = 0 := by
    simp only [bits, pathOf, BitVec.toNat_ofNat]
    omega
  have hcluster : bits (pathOf k 0) 10 4 ≤ 9 := by
    simp only [bits, pathOf, BitVec.toNat_ofNat]
    omega
  simp [validPath, hlow, hcluster, tileNo_pathOf hk]

/-- The owner of the selected cluster gives it a layout. -/
theorem State.putLayout_ok {s : State} {ses : Ses} {r : Role} {layout : BitVec 16} {k p : Nat} (hk : k < 40)
    (hselect : s.select ses 0x2120 1 0 = (pathOf k 0).toNat) (howner : s.ownerOf k = some p) (hrole : s.asOwner r p = true)
    (hnone : s.layoutRefusal k true layout = none) : s.putLayout ses r layout = .ok (s.applyLayout k layout) := by
  have hcluster : clusterOf (pathOf k 0) = k := clusterOf_pathOf hk (by decide)
  have htile : tileNo (pathOf k 0) = 0 := tileNo_pathOf hk (by decide)
  simp [State.putLayout, hselect, hcluster, htile, validPath_pathOf_zero hk, howner, hrole, hnone]

/-- The tiles of groups below 8 are distinct. -/
theorem nodup_groupTiles {gs : List Nat} (k : Nat) (hn : gs.Nodup) (hlt : ∀ g ∈ gs, g < 8) :
    ((gs ×ˢ List.range 4).map fun x => pathOf k (4 * x.1 + x.2)).Nodup := by
  refine (hn.product List.nodup_range).map_on fun x hx y hy hxy => ?_
  obtain ⟨hgx, hix⟩ := List.mem_product.mp hx
  obtain ⟨hgy, hiy⟩ := List.mem_product.mp hy
  have hgx := hlt _ hgx
  have hgy := hlt _ hgy
  rw [List.mem_range] at hix hiy
  have hsame : 4 * x.1 + x.2 = 4 * y.1 + y.2 := pathOf_inj' (by omega) (by omega) hxy
  exact Prod.ext (by omega) (by omega)

/-- A tile takes the ticket file that the lowest member of the new panel of tile x.2 of group x.1 showed (R108). -/
def State.newTickets (s : State) (k : Nat) (layout : BitVec 16) (x : Nat × Nat) (y : Tile) : Tile :=
  { y with tickets :=
      s.shownTickets (pathOf k (4 * x.1 + x.2 / codeWidth (layoutCode layout x.1) * codeWidth (layoutCode layout x.1))) }

/-- Each tile of the groups that change takes its new ticket file. -/
def State.withNewTickets (s : State) (k : Nat) (layout : BitVec 16) : State :=
  s.each (s.layoutGroups k layout ×ˢ List.range 4) fun a x => a.modTile (pathOf k (4 * x.1 + x.2)) (s.newTickets k layout x)

theorem State.applyLayout_eq_withNewTickets (s : State) (k : Nat) (layout : BitVec 16) :
    s.applyLayout k layout = (s.withNewTickets k layout).modCluster k fun c => { c with layout := layout } :=
  applyLayout_eq s k layout

theorem State.withNewTickets_spec (s : State) (k : Nat) (layout : BitVec 16) :
    let u := s.withNewTickets k layout
    (∀ g ∈ s.layoutGroups k layout, ∀ i, i < 4 → u.tile (pathOf k (4 * g + i)) =
        { s.tile (pathOf k (4 * g + i)) with
          tickets := s.shownTickets (pathOf k (4 * g + i / widthOf layout g * widthOf layout g)) }) ∧
      (∀ q, (∀ g ∈ s.layoutGroups k layout, ∀ i, i < 4 → q ≠ pathOf k (4 * g + i)) → u.tile q = s.tile q) ∧
      u = { s with tiles := u.tiles } := by
  unfold State.withNewTickets
  have hlt : ∀ g ∈ s.layoutGroups k layout, g < 8 := fun g hg => (State.mem_layoutGroups.mp hg).1
  have hgroups : (s.layoutGroups k layout).Nodup := List.nodup_range.filter _
  obtain ⟨hinside, houtside, hrest⟩ := each_distinct (fun x : Nat × Nat => pathOf k (4 * x.1 + x.2)) (s.newTickets k layout) _
    (nodup_groupTiles k hgroups hlt) s
  refine ⟨fun g hg i hi => ?_, fun q hq => houtside q fun x hx => ?_, hrest⟩
  · rw [← codeWidth_layoutCode (hlt g hg)]
    exact hinside (g, i) (List.mem_product.mpr ⟨hg, List.mem_range.mpr hi⟩)
  · obtain ⟨hg, hi⟩ := List.mem_product.mp hx
    exact hq x.1 hg x.2 (List.mem_range.mp hi)

theorem State.cluster_of_tiles {s u : State} (h : u = { s with tiles := u.tiles }) (k : Nat) : u.cluster k = s.cluster k := by
  rw [h]
  rfl

/-- A cluster takes a layout: its own layout and the ticket files of the tiles of the groups that change. -/
theorem State.applyLayout_spec (s : State) (k : Nat) (layout : BitVec 16) :
    let u := s.applyLayout k layout
    u.cluster k = { s.cluster k with layout := layout } ∧ (∀ j, j ≠ k → u.cluster j = s.cluster j) ∧
      (∀ g ∈ s.layoutGroups k layout, ∀ i, i < 4 → u.tile (pathOf k (4 * g + i)) =
        { s.tile (pathOf k (4 * g + i)) with
          tickets := s.shownTickets (pathOf k (4 * g + i / widthOf layout g * widthOf layout g)) }) ∧
      (∀ q, (∀ g ∈ s.layoutGroups k layout, ∀ i, i < 4 → q ≠ pathOf k (4 * g + i)) → u.tile q = s.tile q) ∧
      u = { s with tiles := u.tiles, clusters := u.clusters } := by
  rw [s.applyLayout_eq_withNewTickets]
  obtain ⟨hinside, houtside, hrest⟩ := s.withNewTickets_spec k layout
  refine ⟨?_, fun j hj => ?_, hinside, houtside, ?_⟩
  · rw [State.cluster_modCluster_same, State.cluster_of_tiles hrest]
  · rw [State.cluster_modCluster_other _ _ hj, State.cluster_of_tiles hrest]
  · generalize s.withNewTickets k layout = v at hrest ⊢
    rw [hrest]
    rfl

/-- Settles O23: an UNDERLAY is launched and held, a level steps exactly when it is due, and R107 refuses nothing, so that the layout
is applied. -/
theorem panelsAndLevelsAct : Obligations.PanelsAndLevelsAct := by
  unfold Obligations.PanelsAndLevelsAct
  refine ⟨fun s t c hwaits hfree hop hvalid => ?_, fun s t ht => ⟨fun hgap hlevel htime => ?_, fun hearly => ?_,
    fun hrises hlevel htime => ?_, fun hearly => ?_⟩, fun s ses layout k p hwritable hk hselect howner hrole hcodes => ?_⟩
  · have hactive : activePath t = true := hwaits.1
    exact ⟨_, exec_underlay_of_waits hwaits hfree hop hvalid, s.launchCmd_arrays_spec hactive c _⟩
  · exact exec_underlayStepDown_of_due ht ⟨hgap, hlevel, htime⟩
  · exact exec_underlayStepDown_of_not_due ht (not_stepsDown_iff.mpr hearly)
  · exact exec_underlayStepUp_of_due ht ⟨hrises, hlevel, htime⟩
  · exact exec_underlayStepUp_of_not_due ht (not_stepsUp_iff.mpr hearly)
  · intro changed hquiet
    have hgroups : ∀ g, g ∈ s.layoutGroups k layout ↔ changed g := fun g => State.mem_layoutGroups
    have hnone := State.layoutRefusal_none hcodes fun g hg i hi => hquiet g i ((hgroups g).mp hg) hi
    obtain ⟨hown, hother, hinside, houtside, hrest⟩ := s.applyLayout_spec k layout
    refine ⟨s.applyLayout k layout, State.putRow_of_ok hwritable (State.putLayout_ok hk hselect howner hrole hnone), hown, hother,
      fun g i hg hi => hinside g ((hgroups g).mpr hg) i hi, fun q hq => ?_, hrest⟩
    exact houtside q fun g hg i hi => hq g i ((hgroups g).mp hg) hi

end Sys2Proof.Machine
end

section
/-! What a VEC instruction that touches no memory makes of one member (R137 to R141, R144, R153, R154): each row of the table, lane by lane
and mask bit by mask bit. -/

namespace Sys2Proof.Machine

/-! ### Integer lanes and shifts (R139) -/

theorem signed_eq_lint (a : Nat) : signed 32 a = lint a := by
  simp only [signed, lint, BitVec.toInt_eq_toNat_cond, BitVec.toNat_ofNat]
  split <;> split <;> omega

theorem intResult_eq_wrapOrSat (mode : Word) (z : Int) : intResult mode z = wrapOrSat mode z := by
  have hsat : modeSat mode = true ↔ fieldOf mode 8 1 = 1 := bit_iff mode 8
  unfold intResult wrapOrSat clamp32
  by_cases h : modeSat mode = true
  · rw [if_pos h, if_pos (hsat.mp h)]
    rfl
  · rw [if_neg h, if_neg (mt hsat.mpr h)]
    rfl

theorem lint_injective {a b : Nat} (ha : a < 2 ^ 32) (hb : b < 2 ^ 32) (h : lint a = lint b) : a = b := by
  have h' := congrArg BitVec.toNat (BitVec.eq_of_toInt_eq h)
  rwa [BitVec.toNat_ofNat, BitVec.toNat_ofNat, Nat.mod_eq_of_lt ha, Nat.mod_eq_of_lt hb] at h'

theorem laneI_add (mode : Word) (a b : Nat) : laneI mode 0 a b = wrapOrSat mode (lint a + lint b) := by
  simp only [laneI, signed_eq_lint, intResult_eq_wrapOrSat]

theorem laneI_sub (mode : Word) (a b : Nat) : laneI mode 1 a b = wrapOrSat mode (lint a - lint b) := by
  simp only [laneI, signed_eq_lint, intResult_eq_wrapOrSat]

theorem laneI_mul (mode : Word) (a b : Nat) : laneI mode 2 a b = wrapOrSat mode (lint a * lint b) := by
  simp only [laneI, signed_eq_lint, intResult_eq_wrapOrSat]

theorem laneI_min (mode : Word) (a b : Nat) : laneI mode 3 a b = if lint a ≤ lint b then a else b := by
  simp only [laneI, signed_eq_lint, ← not_lt, ite_not]

theorem laneI_max (mode : Word) {a b : Nat} (ha : a < 2 ^ 32) (hb : b < 2 ^ 32) :
    laneI mode 4 a b = if lint a ≤ lint b then b else a := by
  simp only [laneI, signed_eq_lint]
  rcases lt_trichotomy (lint a) (lint b) with h | h | h
  · rw [if_pos h, if_pos h.le]
  · rw [lint_injective ha hb h]
    simp
  · rw [if_neg h.not_gt, if_neg h.not_ge]

theorem laneBits_sll (a b : Nat) : laneBits 3 a b = a * 2 ^ (b % 32) % 2 ^ 32 := by
  simp [laneBits, word, BitVec.toNat_shiftLeft, Nat.shiftLeft_eq]

theorem laneBits_srl {a : Nat} (ha : a < 2 ^ 32) (b : Nat) : laneBits 4 a b = a / 2 ^ (b % 32) := by
  rw [laneBits, word, BitVec.toNat_ushiftRight, BitVec.toNat_ofNat, Nat.mod_eq_of_lt ha, Nat.shiftRight_eq_div_pow]

theorem laneBits_sra (a b : Nat) : laneBits 5 a b = (lint a / 2 ^ (b % 32) % 2 ^ 32).toNat := by
  have h := sra_eq (BitVec.ofNat 32 a) (b % 32)
  simp only [laneBits, word, lint]
  rw [h, BitVec.toNat_ofInt]
  norm_cast

theorem laneBits_and (a b : Nat) : laneBits 0 a b = (a &&& b) % 2 ^ 32 := by
  simp only [laneBits, word, ← BitVec.ofNat_and, BitVec.toNat_ofNat]

theorem laneBits_or (a b : Nat) : laneBits 1 a b = (a ||| b) % 2 ^ 32 := by
  simp only [laneBits, word, ← BitVec.ofNat_or, BitVec.toNat_ofNat]

theorem laneBits_xor (a b : Nat) : laneBits 2 a b = (a ^^^ b) % 2 ^ 32 := by
  simp only [laneBits, word, ← BitVec.ofNat_xor, BitVec.toNat_ofNat]

theorem cvtIf_eq (mode : Word) (a : Nat) : cvtIf mode a = fp32.encode (modeRnd mode) (.fin (lint a < 0) (lint a).natAbs 0) := by
  simp only [cvtIf, signed_eq_lint]

/-! ### What an instruction writes of a member (R140) -/

/-- What a VEC instruction has on a member, with an operation code. -/
def VecCtx.withVop (c : VecCtx) (vop : Nat) : VecCtx := { c with vop := vop }

theorem lanesAre_setLanes {f : VecCtx → Nat → Nat → Nat → Nat → Nat} {c : VecCtx} {x : Tile} {g : Nat → Nat}
    (h : ∀ i, g i % 2 ^ 32 = f c i (x.lane c.va i) (x.lane c.vb i) (x.lane c.vd i) % 2 ^ 32) :
    LanesAre f c x (x.setLanes c.vd ((activeLanes (x.mask c.m)).map fun i => (i, g i))) := by
  have hget := setLanes_get x c.vd g _ (activeLanes_lt (x.mask c.m))
  refine ⟨fun i hi => ?_, fun q i hq hi => ?_, setLanes_eq ..⟩
  · simp only [hget c.vd i hi, true_and, mem_activeLanes _ i hi, h]
  · rw [hget q i hi, if_neg fun e => hq e.1]

theorem allLanesAre_setLanes {f : VecCtx → Tile → Nat → Nat} {c : VecCtx} {x : Tile} :
    AllLanesAre f c x (x.setLanes c.vd ((List.range 32).map fun i => (i, f c x i))) := by
  have hget := setLanes_get x c.vd (f c x) (List.range 32) fun i => List.mem_range.mp
  refine ⟨fun i hi => ?_, fun q i hq hi => ?_, setLanes_eq ..⟩
  · rw [hget _ i hi, if_pos ⟨rfl, List.mem_range.mpr hi⟩]
  · rw [hget q i hi, if_neg fun e => hq e.1]

theorem mask_setMask (x : Tile) (k q : Nat) (w : Word) :
    (x.setMask k w).mask q = if q = k ∧ k ≠ 0 then w else x.mask q := by
  unfold Tile.setMask Tile.mask
  by_cases hk : k = 0
  · simp [hk]
  · by_cases hq : q = k
    · subst hq
      simp [hk]
    · simp [hk, hq, mapGet_mapSet]

theorem bit_allOnes {i : Nat} (h : i < 32) : bit (0xFFFFFFFF : Word) i = true := by
  interval_cases i <;> rfl

theorem maskIs_setMask {p : VecCtx → Tile → Nat → Bool} {c : VecCtx} {x : Tile} {w : Word} (h : ∀ i, i < 32 → bit w i = p c x i) :
    MaskIs p c x (x.setMask c.vd w) := by
  refine ⟨fun i hi => ?_, fun q hq => ?_, ?_⟩
  · rw [mask_setMask]
    by_cases hd : c.vd = 0
    · simpa [hd, Tile.mask] using bit_allOnes hi
    · simp [hd, h i hi]
  · rw [mask_setMask, if_neg fun e => hq e.1]
  · unfold Tile.setMask
    split <;> rfl

/-- Lanes computed one by one. -/
def VecCtx.laneByLane (c : VecCtx) (x : Tile) : Tile :=
  x.setLanes c.vd ((activeLanes (x.mask c.m)).filterMap fun i => (c.laneValue x i).map fun v => (i, v))

/-- An instruction that works lane by lane, with its value of a lane and the value R141 gives it. -/
theorem lanesAre_effect {f : VecCtx → Nat → Nat → Nat → Nat → Nat} {vop : Nat} {c : VecCtx} {x : Tile} (g : Nat → Nat)
    (heffect : (c.withVop vop).effect x = (c.withVop vop).laneByLane x) (hg : ∀ i, (c.withVop vop).laneValue x i = some (g i))
    (hf : ∀ i, g i % 2 ^ 32 = f c i (x.lane c.va i) (x.lane c.vb i) (x.lane c.vd i) % 2 ^ 32) :
    LanesAre f c x ((c.withVop vop).effect x) := by
  rw [heffect, VecCtx.laneByLane, filterMap_some _ _ g hg]
  exact lanesAre_setLanes hf

/-! ### Each row does what R141 gives it -/

theorem vectorLanes_effect : ∀ r ∈ vectorLanes, ∀ (c : VecCtx) (x : Tile), r.2.2.2 c x ((c.withVop r.2.1).effect x) := by
  simp only [vectorLanes, List.forall_mem_cons, List.not_mem_nil, false_implies, implies_true, and_true]
  and_intros <;> intro c x
  iterate 12 exact lanesAre_effect _ rfl (fun _ => rfl) fun _ => rfl
  · exact lanesAre_effect _ rfl (fun _ => rfl) fun _ => congrArg (· % 2 ^ 32) (laneI_add ..)
  · exact lanesAre_effect _ rfl (fun _ => rfl) fun _ => congrArg (· % 2 ^ 32) (laneI_sub ..)
  · exact lanesAre_effect _ rfl (fun _ => rfl) fun _ => congrArg (· % 2 ^ 32) (laneI_mul ..)
  · exact lanesAre_effect _ rfl (fun _ => rfl) fun _ => congrArg (· % 2 ^ 32) (laneI_min ..)
  · exact lanesAre_effect _ rfl (fun _ => rfl) fun _ => congrArg (· % 2 ^ 32) (laneI_max _ (lane_lt ..) (lane_lt ..))
  · exact lanesAre_effect _ rfl (fun _ => rfl) fun _ => (congrArg (· % 2 ^ 32) (laneBits_and ..)).trans (Nat.mod_mod ..)
  · exact lanesAre_effect _ rfl (fun _ => rfl) fun _ => (congrArg (· % 2 ^ 32) (laneBits_or ..)).trans (Nat.mod_mod ..)
  · exact lanesAre_effect _ rfl (fun _ => rfl) fun _ => (congrArg (· % 2 ^ 32) (laneBits_xor ..)).trans (Nat.mod_mod ..)
  · exact lanesAre_effect _ rfl (fun _ => rfl) fun _ => (congrArg (· % 2 ^ 32) (laneBits_sll ..)).trans (Nat.mod_mod ..)
  · exact lanesAre_effect _ rfl (fun _ => rfl) fun _ => congrArg (· % 2 ^ 32) (laneBits_srl (lane_lt ..) _)
  · exact lanesAre_effect _ rfl (fun _ => rfl) fun _ => congrArg (· % 2 ^ 32) (laneBits_sra ..)
  · exact lanesAre_effect _ rfl (fun _ => rfl) fun _ => rfl
  · exact lanesAre_effect _ rfl (fun _ => rfl) fun _ => rfl

theorem compareIs_setMask {p : VecCtx → Nat → Nat → Bool} {q : Nat → Nat → Bool} {c : VecCtx} {x : Tile}
    (h : ∀ i, q (x.lane c.va i) (x.lane c.vb i) = p c (x.lane c.va i) (x.lane c.vb i)) :
    CompareIs p c x (x.setMask c.vd (maskOf fun i => bit (x.mask c.m) i && q (x.lane c.va i) (x.lane c.vb i))) :=
  maskIs_setMask fun i hi => by rw [bit_maskOf _ i hi, h]

/-- VCVT.FN writes the eight lanes that vb names, and no other. -/
theorem narrowBytes_lanes {c : VecCtx} (hvb : c.vb < 4) (x : Tile) :
    (∀ j, j < 8 → (x.setLanes c.vd (c.narrowBytes x)).lane c.vd (8 * c.vb + j) = ((c.narrowBytes x).map Prod.snd).getD j 0 % 2 ^ 32) ∧
    (∀ q i, i < 32 → (q ≠ c.vd ∨ i / 8 ≠ c.vb) → (x.setLanes c.vd (c.narrowBytes x)).lane q i = x.lane q i) := by
  obtain ⟨g, hg⟩ : ∃ g : Nat → Nat, c.narrowBytes x = (List.range 8).map fun j => (8 * c.vb + j, g j) := by
    unfold VecCtx.narrowBytes
    rw [Nat.mod_eq_of_lt hvb]
    exact ⟨_, rfl⟩
  have hlist : c.narrowBytes x = ((List.range 8).map (8 * c.vb + ·)).map fun i => (i, g (i - 8 * c.vb)) := by
    rw [hg, List.map_map]
    exact List.map_congr_left fun j _ => by simp
  have hmem : ∀ i, i ∈ (List.range 8).map (8 * c.vb + ·) ↔ i / 8 = c.vb := fun i => by
    simp only [List.mem_map, List.mem_range]
    exact ⟨fun ⟨j, hj, e⟩ => by omega, fun h => ⟨i % 8, by omega, by omega⟩⟩
  have hget : ∀ q i, i < 32 → (x.setLanes c.vd (c.narrowBytes x)).lane q i =
      if q = c.vd ∧ i ∈ (List.range 8).map (8 * c.vb + ·) then g (i - 8 * c.vb) % 2 ^ 32 else x.lane q i := by
    rw [hlist]
    exact setLanes_get x c.vd _ _ fun i hi => by have := (hmem i).mp hi; omega
  refine ⟨fun j hj => ?_, fun q i hi hother => ?_⟩
  · rw [hget _ _ (by omega), if_pos ⟨rfl, (hmem _).mpr (by omega)⟩, Nat.add_sub_cancel_left, hg]
    simp [hj]
  · rw [hget q i hi, if_neg]
    rintro ⟨hq, hin⟩
    exact hother.elim (· hq) (· ((hmem i).mp hin))

theorem vramx_effect (c : VecCtx) (x : Tile) : (c.withVop 0x3F).effect x = x.setLanes c.vd ((List.range 32).map fun i =>
    (i, if i = 0 then (ramx (activePairs c x)).1 else if i = 1 then (ramx (activePairs c x)).2 else 0)) := by
  have hpairs : ((activeLanes (x.mask c.m)).map fun i => (i, x.lane c.va i)).map (fun e => (32 * c.member + e.1, e.2)) =
      activePairs c x := List.map_map
  rw [← hpairs]
  unfold VecCtx.effect
  simp [VecCtx.withVop]

theorem vectorOthers_effect : ∀ r ∈ vectorOthers, ∀ (c : VecCtx) (x : Tile),
    (r.2.1 = 0x09 ∨ r.2.1 = 0x34 ∨ r.2.1 = 0x35 → c.vb < 4) → (r.2.1 = 0x33 → c.vb < 2) →
    r.2.2.2 c x ((c.withVop r.2.1).effect x) := by
  simp only [vectorOthers, List.forall_mem_cons, List.not_mem_nil, false_implies, implies_true, and_true]
  and_intros <;> intro c x hvb4 hvb2
  iterate 3 exact compareIs_setMask fun _ => rfl
  · exact compareIs_setMask (q := fun a _ => laneClass (c.vb % 4) a) fun _ => laneClass_eq _ _ (hvb4 (by simp))
  · exact compareIs_setMask (q := laneCompare 0x1D c.mode) fun _ => decide_eq_decide.mpr (by rw [signed_eq_lint, signed_eq_lint])
  · exact compareIs_setMask fun _ => rfl
  · exact allLanesAre_setLanes
  · exact maskIs_setMask fun i _ => BitVec.getLsbD_and
  · exact maskIs_setMask fun i _ => BitVec.getLsbD_or
  · exact maskIs_setMask fun i _ => BitVec.getLsbD_xor
  · exact maskIs_setMask fun i hi => (BitVec.getLsbD_not ..).trans (by rw [decide_eq_true hi, Bool.true_and]; rfl)
  · rfl
  · exact lanesAre_effect _ rfl (fun _ => rfl) fun _ => rfl
  · exact lanesAre_effect _ rfl (fun _ => rfl) fun i => congrArg (· % 2 ^ 32) (cvtIf_eq c.mode (x.lane c.va i))
  · exact lanesAre_effect _ rfl (fun _ => rfl) fun _ => rfl
  · have hvb := hvb2 trivial
    exact lanesAre_effect (fun i => widen bf16 c.mode (if c.vb % 2 = 0 then x.lane c.va i % 65536 else x.lane c.va i / 65536)) rfl
      (fun _ => rfl) fun _ => by rw [Nat.mod_eq_of_lt hvb]; rfl
  · obtain ⟨hwritten, hkept⟩ := narrowBytes_lanes (hvb4 (by simp)) x
    exact ⟨hwritten, hkept, rfl⟩
  · have hvb := hvb4 (by simp)
    exact lanesAre_effect (fun i => widen (narrowFmt c.mode) c.mode (x.lane c.va (8 * (c.vb % 4) + i / 4) / 256 ^ (i % 4) % 256)) rfl
      (fun _ => rfl) fun i => by rw [Nat.mod_eq_of_lt hvb, pow_mul]; rfl
  iterate 3 exact allLanesAre_setLanes
  · rw [vramx_effect]
    exact allLanesAre_setLanes

end Sys2Proof.Machine
end

section
/-! A VEC instruction from its fetch to the engine (R67, R142, R143): the zero fields of its word, its way through the queue, and the state
in which a free engine has taken it. -/

namespace Sys2Proof.Machine

/-! ### Words (R141) -/

theorem vecCodes_lt {vop : Nat} (h : vop ∈ vecCodes) : vop < 64 := by
  revert vop
  decide

/-- The words with their zero fields 0, operation code by operation code. -/
theorem vecOk_encVec {vop : Nat} (hvop : vop ∈ vecCodes) (v : Bool) (vd va vb : Reg) (m : BitVec 3) :
    vecOk (encVec vop v vd va vb m) = true ↔ vecFits vop vd va vb m := by
  obtain ⟨hop, hd, ha, hb, hm, hz⟩ := bits_encVec vop v vd va vb m (vecCodes_lt hvop)
  have h0 : ∀ {n : Nat} (r : BitVec n), r = 0 ↔ r.toNat = 0 := fun r => by
    rw [← BitVec.toNat_inj]
    simp
  simp only [vecOk, vecFits, hop, hd, ha, hb, hm, hz, h0]
  clear h0 hop hd ha hb hm hz
  generalize vd.toNat = d, va.toNat = a, vb.toNat = b, m.toNat = k
  fin_cases hvop <;> simp <;> omega

/-! ### From the fetch to the engine (R67, R142, R143) -/

theorem State.fetchedWord_of_fetches {s : State} {t : Path} {v : Bool} (h : Fetches s t v) {insn : Word} (hv : insnV insn = v)
    (f : State → Path → State) : s.fetchedWord t insn f = .next (f s (s.lead t)) := by
  obtain ⟨hactive, hruns, hpc, hrepro⟩ := h
  exact State.fetchedWord_eq s t insn f hactive hruns hpc fun e => hrepro (hv ▸ e)

theorem Ready.active {s : State} {t : Path} {v : Bool} (h : Ready s t v) : activePath t = true := h.1.1

/-- A word refused raises ILLEGAL_INSN, and that is all (R46). -/
theorem raises_illegal {s : State} {t : Path} {i : Instr} {w : Word} (h : exec i s = .next (s.illegal (s.lead t) w)) :
    Raises i s t 1 (s.seqTile t).ownPc 0 :=
  ⟨_, rfl, rfl, rfl, rfl, h⟩

/-- A tile past an instruction that changes nothing but the flow (R54, R59, R62). -/
def Tile.passed (x : Tile) : Tile := ({ x with shadow := x.shadow - 1 } : Tile).advance

/-- A tile whose VEC instruction has been queued and taken. -/
def Tile.pastVec (x : Tile) : Tile := { x.passed with nextId := x.nextId + 1 }

theorem onlyFlows_passed (x : Tile) : OnlyFlows x x.passed := by
  refine ⟨⟨Tile.advance_delay _, ?_, fun hdelay hlend => ?_, fun d hdelay => ?_⟩, ?_⟩
  · rw [Tile.passed, Tile.advance_eq]
  · rw [Tile.passed, Tile.advance_none { x with shadow := x.shadow - 1 } hdelay hlend]
    exact ⟨rfl, rfl, rfl⟩
  · rw [Tile.passed, Tile.advance_some { x with shadow := x.shadow - 1 } hdelay]
    exact ⟨rfl, rfl, rfl⟩
  · rw [Tile.passed, Tile.advance_eq]

theorem Tile.pastVec_eq (x : Tile) : x.pastVec =
    { x with pc := x.pastVec.pc, delay := x.pastVec.delay, shadow := x.pastVec.shadow, lcount := x.pastVec.lcount,
             loops := x.pastVec.loops, nextId := x.nextId + 1 } :=
  congrArg (fun y : Tile => { y with nextId := x.nextId + 1 }) (onlyFlows_passed x).2

@[simp] theorem Tile.pastVec_waiting (x : Tile) : x.pastVec.waiting = x.waiting := by rw [Tile.pastVec_eq]
@[simp] theorem Tile.pastVec_cmdQ (x : Tile) : x.pastVec.cmdQ = x.cmdQ := by rw [Tile.pastVec_eq]
@[simp] theorem Tile.pastVec_loadQ (x : Tile) : x.pastVec.loadQ = x.loadQ := by rw [Tile.pastVec_eq]
@[simp] theorem Tile.pastVec_storeQ (x : Tile) : x.pastVec.storeQ = x.storeQ := by rw [Tile.pastVec_eq]
@[simp] theorem Tile.pastVec_flights (x : Tile) : x.pastVec.flights = x.flights := by rw [Tile.pastVec_eq]
@[simp] theorem Tile.pastVec_tickets (x : Tile) : x.pastVec.tickets = x.tickets := by rw [Tile.pastVec_eq]
@[simp] theorem Tile.pastVec_ls (x : Tile) : x.pastVec.ls = x.ls := by rw [Tile.pastVec_eq]
@[simp] theorem Tile.pastVec_lsErr (x : Tile) : x.pastVec.lsErr = x.lsErr := by rw [Tile.pastVec_eq]
@[simp] theorem Tile.pastVec_vregs (x : Tile) : x.pastVec.vregs = x.vregs := by rw [Tile.pastVec_eq]
@[simp] theorem Tile.pastVec_masks (x : Tile) : x.pastVec.masks = x.masks := by rw [Tile.pastVec_eq]
@[simp] theorem Tile.pastVec_vsrb (x : Tile) : x.pastVec.vsrb = x.vsrb := by rw [Tile.pastVec_eq]
@[simp] theorem Tile.pastVec_vecStopped (x : Tile) : x.pastVec.vecStopped = x.vecStopped := by rw [Tile.pastVec_eq]

/-- What differs besides the flow may be anything the flow does not read. -/
theorem OnlyFlows.update {x y : Tile} (h : OnlyFlows x y) (n : Nat) (vregs : SMap Word) (masks : SMap Word) (vsrb : BitVec 48)
    (tickets : SMap Word) (ls : List Host.Cell) :
    OnlyFlows { x with nextId := n, vregs := vregs, masks := masks, vsrb := vsrb, tickets := tickets, ls := ls }
      { y with nextId := n, vregs := vregs, masks := masks, vsrb := vsrb, tickets := tickets, ls := ls } := by
  obtain ⟨hflows, hframe⟩ := h
  refine ⟨hflows, ?_⟩
  rw [hframe]

/-- The engine of t's panel has taken a VEC instruction that was issued to it free: the sequencer has gone on, and beyond that only
what reports differs. -/
structure VecTaken (s : State) (t : Path) (a : State) : Prop where
  notes : ({ s with tiles := a.tiles } : State).noted' a
  lead : a.tile (s.lead t) = (s.seqTile t).pastVec
  other : ∀ q, q ≠ s.lead t → a.tile q = s.tile q

/-- The effect of the VEC word w of t's panel in state s, on a state in which the engine has taken it. -/
def vecAct (s : State) (t : Path) (w : Word) (a : State) : State :=
  a.vecEffect (s.lead t) w ((s.seqTile t).reg (BitVec.ofNat 5 (bits w 11 5))) ((s.seqTile t).reg (BitVec.ofNat 5 (bits w 6 5)))
    (s.seqTile t).pc (stepOf s (s.lead t)) (s.seqTile t).mode

/-- The command of the VEC word w that t's panel issues in state s. -/
def vecCmd (s : State) (t : Path) (w : Word) : Command :=
  { s.vecCommand (s.lead t) w with id := (s.seqTile t).nextId }

theorem State.drainVec_of_none (s : State) (l : Path) (fuel : Nat) (h : (s.tile l).headOf 1 = none) : s.drainVec l fuel = s := by
  cases fuel with
  | zero => rfl
  | succ n => rw [State.drainVec, h]

/-- The engine takes a VEC instruction that comes first (R143). -/
theorem State.drainVec_of_vec {s : State} {l : Path} {c : Command} {w sa sb pc step : Word} (hhead : (s.tile l).headOf 1 = some c)
    (hwork : c.work = .vec w sa sb pc step) (hruns : s.unitsRun l = true) (hstopped : (s.tile l).vecStopped = false)
    (hblocked : (s.tile l).vecBlocked w = false) (fuel : Nat) :
    s.drainVec l (fuel + 1) =
      (((s.modTile l fun x => x.unqueue c.id).tilePacket l 2 0).runVec l w sa sb pc step c.mode).drainVec l fuel := by
  rw [State.drainVec, hhead]
  simp [hwork, hruns, hstopped, hblocked]

/-- The tile right after the issue: the command waits in its queue. -/
def issued (s : State) (t : Path) (w : Word) : Tile :=
  { (s.seqTile t).pastVec with cmdQ := (s.seqTile t).cmdQ ++ [vecCmd s t w] }

theorem Tile.passed_enqueue (x : Tile) (c : Command) (hunit : c.unit = 1) :
    (({ x with shadow := x.shadow - 1 } : Tile).enqueue c).advance =
      { x.pastVec with cmdQ := x.cmdQ ++ [{ c with id := x.nextId }] } := by
  have henqueue : ({ x with shadow := x.shadow - 1 } : Tile).enqueue c =
      { ({ x with shadow := x.shadow - 1 } : Tile) with cmdQ := x.cmdQ ++ [{ c with id := x.nextId }], nextId := x.nextId + 1 } := by
    simp [Tile.enqueue, hunit]
  rw [henqueue, advance_queue]
  rfl

theorem State.retire_vec {s : State} {t : Path} (hwait : (s.seqTile t).waiting = [] ∨ (s.seqTile t).delay = none) (w : Word) :
    (s.retire (s.lead t) fun x => x.enqueue (s.vecCommand (s.lead t) w)) = s.setTile (s.lead t) (issued s t w) := by
  have htile : (({ s.tile (s.lead t) with shadow := (s.tile (s.lead t)).shadow - 1 } : Tile).enqueue
      (s.vecCommand (s.lead t) w)).advance = issued s t w := Tile.passed_enqueue (s.tile (s.lead t)) _ rfl
  rw [State.retire_eq, htile]
  split
  case isFalse => rfl
  case isTrue hdelay =>
    refine State.settle_nil _ _ ?_
    rw [State.tile_setTile_same]
    have hnil : (s.seqTile t).waiting = [] := hwait.resolve_right fun e => by
      rw [show (s.tile (s.lead t)).delay = none from e] at hdelay
      cases hdelay
    exact (Tile.pastVec_waiting _).trans hnil

theorem issued_unqueue {s : State} {t : Path} (hfree : VecFree s t) (w : Word) :
    (issued s t w).unqueue (vecCmd s t w).id = (s.seqTile t).pastVec := by
  obtain ⟨-, hqueue, hmoves, -, -⟩ := hfree
  have hcmds := filter_fresh (s.seqTile t).cmdQ (s.seqTile t).nextId fun c hc => (hqueue c hc).2
  have hloads := filter_fresh (s.seqTile t).loadQ (s.seqTile t).nextId fun c hc => hmoves c (List.mem_append_left _ hc)
  have hstores := filter_fresh (s.seqTile t).storeQ (s.seqTile t).nextId fun c hc => hmoves c (List.mem_append_right _ hc)
  have hid : (vecCmd s t w).id = (s.seqTile t).nextId := rfl
  simp only [Tile.unqueue, issued, hid, List.filter_append, Tile.pastVec_loadQ, Tile.pastVec_storeQ, hcmds, hloads, hstores]
  conv => rhs; rw [Tile.pastVec_eq]
  rw [Tile.pastVec_eq]
  simp [hid]

theorem issued_headOf {s : State} {t : Path} (hfree : VecFree s t) (w : Word) : (issued s t w).headOf 1 = some (vecCmd s t w) := by
  obtain ⟨-, hqueue, -⟩ := hfree
  exact headOf_append _ _ _ rfl (fun c hc => (hqueue c hc).1) rfl

theorem VecTaken.headOf {s a : State} {t : Path} (h : VecTaken s t a) (hfree : VecFree s t) (y : Tile)
    (hy : y.cmdQ = (a.tile (s.lead t)).cmdQ) : y.headOf 1 = none := by
  obtain ⟨-, hqueue, -⟩ := hfree
  have hcmds : y.cmdQ = (s.seqTile t).cmdQ := by
    rw [hy, h.lead, Tile.pastVec_cmdQ]
  refine List.find?_eq_none.mpr fun c hc => ?_
  have hunit := (hqueue c (hcmds ▸ hc)).1
  simpa using fun e : c.unit.toNat = 1 => hunit (BitVec.eq_of_toNat_eq e)

/-- The engine takes an instruction issued to it free. -/
theorem State.vecRun_issued {s b : State} {t : Path} {w : Word} (hb : (s.setTile (s.lead t) (issued s t w)).noted' b)
    (hruns : b.unitsRun (s.lead t) = true) (hfree : VecFree s t) (hblocked : (s.seqTile t).vecBlocked w = false) :
    ∃ a fuel, VecTaken s t a ∧ ∃ u, b.vecRun (s.lead t) = u.drainVec (s.lead t) fuel ∧ countsNotes (vecAct s t w a) u := by
  have hissued : b.tile (s.lead t) = issued s t w := by rw [State.noted'_tile hb, State.tile_setTile_same]
  have hhead : (b.tile (s.lead t)).headOf 1 = some (vecCmd s t w) := by rw [hissued, issued_headOf hfree]
  have hstopped : (b.tile (s.lead t)).vecStopped = false := by
    rw [hissued]
    exact (Tile.pastVec_vecStopped _).trans hfree.1
  have hready : (b.tile (s.lead t)).vecBlocked w = false := by
    rw [hissued]
    simpa [Tile.vecBlocked, issued] using hblocked
  have hfuel : (b.tile (s.lead t)).cmdQ.length = (s.seqTile t).cmdQ.length + 1 := by
    rw [hissued]
    exact List.length_append
  refine ⟨(b.modTile (s.lead t) fun x => x.unqueue (vecCmd s t w).id).tilePacket (s.lead t) 2 0, (s.seqTile t).cmdQ.length, ?_, _, ?_,
    runVec_notes ..⟩
  · have hpacket := State.tilePacket_notes (b.modTile (s.lead t) fun x => x.unqueue (vecCmd s t w).id) (s.lead t) 2 0
    rw [modTile_setTile, hissued, issued_unqueue hfree] at hpacket ⊢
    obtain ⟨s0, hnotes, htiles, hs0⟩ := setTile_setTile_noted (s.lead t) _ _ hb hpacket
    generalize ((b.setTile (s.lead t) (s.seqTile t).pastVec).tilePacket (s.lead t) 2 0) = a at *
    refine ⟨?_, ?_, fun q hq => ?_⟩
    · rw [State.noted'_tiles hnotes, ← hs0]
      exact hnotes
    · rw [State.noted'_tile hnotes, htiles, State.tile_setTile_same]
    · rw [State.noted'_tile hnotes, htiles, State.tile_setTile_other _ _ hq]
  · rw [State.vecRun, hfuel, State.drainVec_of_vec hhead rfl hruns hstopped hready]
    rfl

/-- A VEC instruction issued to a free engine retires and is executed at once, where its effect leaves the panel's queue alone. -/
theorem State.vecInsn_runs {s : State} {t : Path} {v : Bool} {vop : Nat} {vd va vb : Reg} {m : BitVec 3} (hready : Ready s t v)
    (hfree : VecFree s t) (hvop : vop ∈ vecCodes) (hfits : vecFits vop vd va vb m)
    (hblocked : (s.seqTile t).vecBlocked (encVec vop v vd va vb m) = false) :
    ∃ a, VecTaken s t a ∧ (((vecAct s t (encVec vop v vd va vb m) a).tile (s.lead t)).cmdQ = (a.tile (s.lead t)).cmdQ →
      ∃ u, s.vecInsn t vop v vd va vb m = .next u ∧ countsNotes (vecAct s t (encVec vop v vd va vb m) a) u) := by
  obtain ⟨hfetch, hplace⟩ := hready
  have hok := (vecOk_encVec hvop v vd va vb m).mpr hfits
  have hinsn := State.fetchedWord_of_fetches hfetch (insnV_encVec vop v vd va vb m (vecCodes_lt hvop))
  obtain ⟨-, -, -, hroom, hwait⟩ := id hfree
  generalize hw : encVec vop v vd va vb m = w at *
  generalize hb : (s.setTile (s.lead t) (issued s t w)).wake (clusterOf (s.lead t)) = b
  have hnotes : (s.setTile (s.lead t) (issued s t w)).noted' b := hb ▸ State.wake_notes ..
  have hruns : b.unitsRun (s.lead t) = true := by
    obtain ⟨hcluster, hfatal⟩ := wake_up (s.setTile (s.lead t) (issued s t w)) (clusterOf (s.lead t))
    have hcan := hfetch.2.1
    rw [hb] at hcluster hfatal
    simp only [State.canRun, Bool.and_eq_true] at hcan
    simp [State.unitsRun, hcluster, hfatal, hcan]
  obtain ⟨a, fuel, htaken, u, hrun, hcounts⟩ := State.vecRun_issued hnotes hruns hfree hblocked
  refine ⟨a, htaken, fun hcmds => ⟨u, ?_, hcounts⟩⟩
  have hstop := State.drainVec_of_none u (s.lead t) fuel (htaken.headOf hfree _ (countsNotes_tile hcounts _ ▸ hcmds))
  have hmisplaced := Tile.misplaced_free (s.tile (s.lead t)) hplace
  have hroom' : (s.tile (s.lead t)).hasRoom 1 = true := decide_eq_true hroom
  rw [State.vecInsn, hw, hinsn]
  simp [hok, hmisplaced, hroom', State.retire_vec hwait, hb, hrun, hstop]

theorem State.vecInsn_illegal {s : State} {t : Path} {v : Bool} {vop : Nat} {vd va vb : Reg} {m : BitVec 3} (hfetch : Fetches s t v)
    (hvop : vop ∈ vecCodes) (hfits : ¬ vecFits vop vd va vb m) :
    s.vecInsn t vop v vd va vb m = .next (s.illegal (s.lead t) (encVec vop v vd va vb m)) := by
  have hbad : vecOk (encVec vop v vd va vb m) = false := by
    simpa using mt (vecOk_encVec hvop v vd va vb m).mp hfits
  rw [State.vecInsn, State.fetchedWord_of_fetches hfetch (insnV_encVec vop v vd va vb m (vecCodes_lt hvop))]
  simp [hbad]

theorem Tile.vecBlocked_of_ne {vop : Nat} (hvop : vop ∈ vecCodes) (hsignal : vop ≠ 0x2E) (x : Tile) (v : Bool) (vd va vb : Reg)
    (m : BitVec 3) : x.vecBlocked (encVec vop v vd va vb m) = false := by
  have hop := (bits_encVec vop v vd va vb m (vecCodes_lt hvop)).1
  simp [Tile.vecBlocked, hop, hsignal]

/-! ### The state in which the engine has taken an instruction -/

theorem VecTaken.kept {s a : State} {t : Path} (h : VecTaken s t a) {β : Type} {f : Tile → β} (hf : ∀ x : Tile, f x.pastVec = f x)
    (q : Path) : f (a.tile q) = f (s.tile q) := by
  by_cases hq : q = s.lead t
  · rw [hq, h.lead, hf, State.seqTile]
  · rw [h.other q hq]

theorem VecTaken.panelWidth {s a : State} {t : Path} (h : VecTaken s t a) (q : Path) : a.panelWidth q = s.panelWidth q :=
  State.noted'_width h.notes q

theorem VecTaken.span {s a : State} {t : Path} (h : VecTaken s t a) (q : Path) : a.span q = s.span q := by
  rw [State.span, State.span, h.panelWidth]

theorem VecTaken.parts {s a : State} {t : Path} (h : VecTaken s t a) : a.parts = s.parts := by rw [h.notes.2]

theorem VecTaken.part {s a : State} {t : Path} (h : VecTaken s t a) (p : Nat) : a.part p = s.part p := State.part_of_parts h.parts p

theorem VecTaken.partOf {s a : State} {t : Path} (h : VecTaken s t a) (q : Path) : a.partOf q = s.partOf q := by
  simp only [State.partOf, State.ownerOf, State.formed, h.part]

theorem VecTaken.members {s a : State} {t : Path} (h : VecTaken s t a) (hactive : activePath t = true) :
    a.members (s.lead t) = (List.range (s.panelWidth (s.lead t))).map (memberAt (s.lead t)) := by
  rw [← s.members_lead hactive, State.members, State.members, h.panelWidth]

theorem VecTaken.lsByte {s a : State} {t : Path} (h : VecTaken s t a) (b : Nat) :
    a.lsByte (s.lead t) b = s.lsByte (s.lead t) b := by
  rw [State.lsByte, State.lsByte, h.kept Tile.pastVec_ls]

theorem VecTaken.lane {s a : State} {t : Path} (h : VecTaken s t a) (q : Path) (r i : Nat) :
    (a.tile q).lane r i = (s.tile q).lane r i := by
  rw [Tile.lane, Tile.lane, h.kept Tile.pastVec_vregs]

theorem VecTaken.mask {s a : State} {t : Path} (h : VecTaken s t a) (q : Path) (k : Nat) : (a.tile q).mask k = (s.tile q).mask k := by
  rw [Tile.mask, Tile.mask, h.kept Tile.pastVec_masks]

/-- Past the instruction, a tile that differs from the one at issue in what the flow does not read has only gone on. -/
theorem VecTaken.onlyFlows {s a : State} {t : Path} (h : VecTaken s t a) {z : Tile} {vregs masks tickets : SMap Word} {vsrb : BitVec 48}
    {ls : List Host.Cell}
    (hz : z = { a.tile (s.lead t) with vregs := vregs, masks := masks, vsrb := vsrb, tickets := tickets, ls := ls }) :
    OnlyFlows { s.seqTile t with
      nextId := (s.seqTile t).nextId + 1, vregs := vregs, masks := masks, vsrb := vsrb, tickets := tickets, ls := ls } z := by
  rw [hz, h.lead]
  exact (onlyFlows_passed _).update _ vregs masks vsrb tickets ls

/-- What an instruction's effect, its count and its packet leave alone. -/
theorem VecTaken.tilesAndCounts {s a e u : State} {t : Path} (h : VecTaken s t a) (he : e = { a with tiles := e.tiles })
    (hu : countsNotes e u) : TilesAndCounts s u := by
  obtain ⟨hctr, hnotes⟩ := hu
  have hparts : e.parts = s.parts := by
    rw [he]
    exact h.parts
  refine ⟨fun p => ?_, ?_⟩
  · rw [hctr p, State.part_of_parts hparts]
  · have htiles : u.tiles = e.tiles := by rw [State.noted'_tiles hnotes]
    have hbefore := State.noted'_withParts (State.noted'_withTiles h.notes e.tiles) u.parts
    rw [he] at hnotes
    rw [htiles]
    exact State.noted'_trans hbefore hnotes

/-- What a VEC instruction has on member j, with its operation code. -/
def memberCtx (s : State) (t : Path) (vop : Nat) (vd va vb : Reg) (m : BitVec 3) (j : Nat) : VecCtx :=
  (vecInput s t vd va vb m (if vop = 0x32 then 64 else 32) j).withVop vop

/-- What the fields of a VEC word and the scalars at issue come to on member j. -/
theorem VecTaken.vecCtx {s a : State} {t : Path} (h : VecTaken s t a) {vop : Nat} (hvop : vop ∈ vecCodes) (v : Bool)
    (vd va vb : Reg) (m : BitVec 3) (j : Nat) :
    a.vecCtx (s.lead t) (encVec vop v vd va vb m) ((s.seqTile t).reg va) ((s.seqTile t).reg vb) (stepOf s (s.lead t))
      (s.seqTile t).mode j = memberCtx s t vop vd va vb m j := by
  obtain ⟨hop, hd, ha, hb, hm, -⟩ := bits_encVec vop v vd va vb m (vecCodes_lt hvop)
  have hvsrb := h.kept Tile.pastVec_vsrb (memberAt (s.lead t) j)
  simp only [State.vecCtx, memberCtx, vecInput, VecCtx.withVop, stepOf, hop, hd, ha, hb, hm, hvsrb, h.partOf, h.part]
  cases s.partOf (s.lead t) <;> rfl

/-- The effect of an instruction with the registers its word names. -/
theorem vecAct_encVec {vop : Nat} (hvop : vop ∈ vecCodes) (s : State) (t : Path) (v : Bool) (vd va vb : Reg) (m : BitVec 3) (a : State) :
    vecAct s t (encVec vop v vd va vb m) a = a.vecEffect (s.lead t) (encVec vop v vd va vb m) ((s.seqTile t).reg va)
      ((s.seqTile t).reg vb) (s.seqTile t).pc (stepOf s (s.lead t)) (s.seqTile t).mode := by
  obtain ⟨-, -, ha, hb, -, -⟩ := bits_encVec vop v vd va vb m (vecCodes_lt hvop)
  rw [vecAct, ha, hb, BitVec.ofNat_toNat, BitVec.ofNat_toNat, BitVec.setWidth_eq, BitVec.setWidth_eq]

end Sys2Proof.Machine
end

section
/-! O20 (R136, R141, R144, R146): the effect on every member of the panel, and VSIG. -/

namespace Sys2Proof.Machine

/-! ### Instructions that touch no memory -/

theorem panelWidth_le_four (s : State) (t : Path) : s.panelWidth t ≤ 4 := by
  rcases s.panelWidth_cases t with h | h | h <;> omega

theorem member_cases (s : State) (l q : Path) :
    (∃ j, j < s.panelWidth l ∧ q = memberAt l j) ∨ ∀ j, j < s.panelWidth l → q ≠ memberAt l j := by
  by_cases h : ∃ j, j < s.panelWidth l ∧ q = memberAt l j
  · exact .inl h
  · exact .inr fun j hj hq => h ⟨j, hj, hq⟩

theorem ne_lead_of_not_member {s : State} {t : Path} (hactive : activePath t = true) {q : Path}
    (hq : ∀ j, j < s.panelWidth (s.lead t) → q ≠ memberAt (s.lead t) j) : q ≠ s.lead t := by
  have hwidth : 0 < s.panelWidth (s.lead t) := by
    rcases s.panelWidth_cases (s.lead t) with h | h | h <;> omega
  rw [← s.memberAt_lead hactive]
  exact hq 0 hwidth

/-- By how much a stochastic conversion advances the stream index on each member (R144). -/
def vecShift (width vop : Nat) (mode : Word) : BitVec 48 :=
  if (vop = 0x32 ∨ vop = 0x34) ∧ modeSr mode = true then BitVec.ofNat 48 (width * (if vop = 0x32 then 64 else 32)) else 0

theorem State.vecAdvance_spec {s : State} {l : Path} (hm : s.members l = (List.range (s.panelWidth l)).map (memberAt l)) (vop : Nat)
    (mode : Word) :
    (∀ j, j < s.panelWidth l → (s.vecAdvance l vop mode).tile (memberAt l j) =
      { s.tile (memberAt l j) with vsrb := (s.tile (memberAt l j)).vsrb + vecShift (s.panelWidth l) vop mode }) ∧
    (∀ q, (∀ j, j < s.panelWidth l → q ≠ memberAt l j) → (s.vecAdvance l vop mode).tile q = s.tile q) ∧
    s.vecAdvance l vop mode = { s with tiles := (s.vecAdvance l vop mode).tiles } := by
  by_cases hsr : (vop = 0x32 ∨ vop = 0x34) ∧ modeSr mode = true
  · have heach : s.vecAdvance l vop mode = s.each (List.range (s.panelWidth l)) fun a j => a.modTile (memberAt l j)
        fun x => { x with vsrb := x.vsrb + vecShift (s.panelWidth l) vop mode } := by
      rw [State.vecAdvance, if_pos hsr, hm, State.each, State.each, List.foldl_map, vecShift, if_pos hsr]
    rw [heach]
    exact each_members l (fun _ x => { x with vsrb := x.vsrb + vecShift (s.panelWidth l) vop mode }) _ (panelWidth_le_four s l) s
  · have hsame : s.vecAdvance l vop mode = s := by rw [State.vecAdvance, if_neg hsr]
    rw [hsame, vecShift, if_neg hsr]
    exact ⟨fun j _ => by simp, fun _ _ => rfl, rfl⟩

/-- An instruction that touches no memory changes the vector state of each member, as if the member stood as it was at issue. -/
theorem VecTaken.lanes {s a : State} {t : Path} (h : VecTaken s t a) (hactive : activePath t = true) {vop : Nat} (hvop : vop ∈ vecCodes)
    (hsignal : vop ≠ 0x2E) (hmemory : ¬ (0x38 ≤ vop ∧ vop ≤ 0x3B))
    (hformat : ¬ ((vop = 0x34 ∨ vop = 0x35) ∧ modeNarrow (s.seqTile t).mode = 2)) (v : Bool) (vd va vb : Reg) (m : BitVec 3) :
    let e := vecAct s t (encVec vop v vd va vb m) a
    (∀ j, j < s.panelWidth (s.lead t) →
      let y := (memberCtx s t vop vd va vb m j).effect (s.tile (memberAt (s.lead t) j))
      e.tile (memberAt (s.lead t) j) =
        { a.tile (memberAt (s.lead t) j) with
          vregs := y.vregs, masks := y.masks, vsrb := y.vsrb + vecShift (s.panelWidth (s.lead t)) vop (s.seqTile t).mode }) ∧
    (∀ q, (∀ j, j < s.panelWidth (s.lead t) → q ≠ memberAt (s.lead t) j) → e.tile q = a.tile q) ∧ e = { a with tiles := e.tiles } := by
  have hop := (bits_encVec vop v vd va vb m (vecCodes_lt hvop)).1
  have he : vecAct s t (encVec vop v vd va vb m) a = (a.each (List.range (s.panelWidth (s.lead t))) fun b j =>
      b.modTile (memberAt (s.lead t) j) (memberCtx s t vop vd va vb m j).effect).vecAdvance (s.lead t) vop (s.seqTile t).mode := by
    simp only [vecAct_encVec hvop, State.vecEffect, hop, h.panelWidth, h.vecCtx hvop, if_neg hformat, if_neg hmemory, if_neg hsignal]
  obtain ⟨hmember, hother, htiles⟩ :=
    each_members (s.lead t) (fun j => (memberCtx s t vop vd va vb m j).effect) _ (panelWidth_le_four s (s.lead t)) a
  rw [he]
  generalize (a.each (List.range (s.panelWidth (s.lead t))) fun b j =>
    b.modTile (memberAt (s.lead t) j) (memberCtx s t vop vd va vb m j).effect) = b at *
  have hwidth : b.panelWidth (s.lead t) = s.panelWidth (s.lead t) := by
    rw [htiles]
    exact h.panelWidth _
  have hmembers : b.members (s.lead t) = (List.range (b.panelWidth (s.lead t))).map (memberAt (s.lead t)) := by
    rw [hwidth, ← h.members hactive, htiles]
    rfl
  obtain ⟨hshifted, hother', htiles'⟩ := State.vecAdvance_spec hmembers vop (s.seqTile t).mode
  rw [hwidth] at hshifted hother'
  refine ⟨fun j hj => ?_, fun q hq => ?_, ?_⟩
  · have hsame := effect_congr (memberCtx s t vop vd va vb m j) (s.tile (memberAt (s.lead t) j)) (a.tile (memberAt (s.lead t) j))
      (h.kept Tile.pastVec_vregs _) (h.kept Tile.pastVec_masks _) (h.kept Tile.pastVec_vsrb _)
    rw [hshifted j hj, hmember j hj, hsame]
  · rw [hother' q hq, hother q hq]
  · rw [htiles', htiles]

/-! ### The rows of the table -/

/-- Every row runs by its operation code. -/
theorem exec_vector : ∀ r ∈ vectorLanes ++ vectorOthers, ∀ (s : State) (t : Path) (v : Bool) (vd va vb : Reg) (m : BitVec 3),
    exec (r.1 t v vd va vb m) s = s.vecInsn t r.2.1 v vd va vb m := by
  simp only [vectorLanes, vectorOthers, List.cons_append, List.nil_append, List.forall_mem_cons, List.not_mem_nil, false_implies,
    implies_true, and_true]
  and_intros <;> intros <;> rfl

/-- The operation codes of the rows: none is a memory access or VSIG, and VCVT.FH alone converts 64 values per member. -/
theorem vector_codes {r : (Path → Bool → Reg → Reg → Reg → BitVec 3 → Instr) × Nat × Nat × (VecCtx → Tile → Tile → Prop)}
    (hr : r ∈ vectorLanes ++ vectorOthers) :
    r.2.1 ∈ vecCodes ∧ r.2.1 ≠ 0x2E ∧ ¬ (0x38 ≤ r.2.1 ∧ r.2.1 ≤ 0x3B) ∧ r.2.2.1 = if r.2.1 = 0x32 then 64 else 32 := by
  have hcodes : ∀ k ∈ (vectorLanes ++ vectorOthers).map fun r => (r.2.1, r.2.2.1),
      k.1 ∈ vecCodes ∧ k.1 ≠ 0x2E ∧ ¬ (0x38 ≤ k.1 ∧ k.1 ≤ 0x3B) ∧ k.2 = if k.1 = 0x32 then 64 else 32 := by decide
  exact hcodes _ (List.mem_map_of_mem hr)

/-- Each row does to a member what R141 gives it. -/
theorem vector_effect {r : (Path → Bool → Reg → Reg → Reg → BitVec 3 → Instr) × Nat × Nat × (VecCtx → Tile → Tile → Prop)}
    (hr : r ∈ vectorLanes ++ vectorOthers) {vd va vb : Reg} {m : BitVec 3} (hfits : vecFits r.2.1 vd va vb m) (s : State) (t : Path)
    (j : Nat) (x : Tile) : r.2.2.2 (vecInput s t vd va vb m r.2.2.1 j) x ((memberCtx s t r.2.1 vd va vb m j).effect x) := by
  obtain ⟨-, hselect, -, -, -, -, -, -, hhalf⟩ := hfits
  obtain ⟨-, -, -, hvalues⟩ := vector_codes hr
  rw [memberCtx, ← hvalues]
  rcases List.mem_append.mp hr with hlane | hother
  · exact vectorLanes_effect r hlane _ x
  · exact vectorOthers_effect r hother _ x hselect hhalf

/-- The stream index advances by the panel's width times the values each member converts (R144). -/
theorem vecShift_eq {vop n : Nat} (hn : n = if vop = 0x32 then 64 else 32) (width : Nat) (mode : Word) :
    vecShift width vop mode = if (vop = 0x32 ∨ vop = 0x34) ∧ fieldOf mode 5 1 = 1 then BitVec.ofNat 48 (width * n) else 0 := by
  have hsr : modeSr mode = true ↔ fieldOf mode 5 1 = 1 := bit_iff mode 5
  simp only [vecShift, hsr, hn]

/-! ### VSIG (R146) -/

/-- VSIG advances the ticket that vd names. -/
theorem vecAct_vsig {s : State} {t : Path} (v : Bool) {vd va vb : Reg} {m : BitVec 3} (hticket : vd.toNat < 16) (a : State) :
    vecAct s t (encVec 0x2E v vd va vb m) a = a.modTile (s.lead t) fun x => x.addTicket vd.toNat 1 := by
  obtain ⟨hop, hd, -⟩ := bits_encVec 0x2E v vd va vb m (by decide)
  have hnumber : bits (encVec 0x2E v vd va vb m) 16 4 = vd.toNat := by
    unfold bits at hd ⊢
    omega
  simp [vecAct_encVec (show 0x2E ∈ vecCodes by decide), State.vecEffect, hop, hnumber]

/-! ### O20 -/

/-- Settles O20: the engine takes the instruction at once and runs it on every member; VSIG finds nothing to wait for. -/
theorem vectorInstructionsRun : Obligations.VectorInstructionsRun := by
  unfold Obligations.VectorInstructionsRun
  refine ⟨fun s t v vd va vb m hready r hr => ⟨fun hbad => ?_, fun hfits hfree hformat => ?_⟩,
    fun s t v vd va vb m hready => ⟨fun hbad => ?_, fun hfits hfree hnone => ?_⟩⟩
  · exact raises_illegal ((exec_vector r hr ..).trans (State.vecInsn_illegal hready.1 (vector_codes hr).1 hbad))
  · obtain ⟨hvop, hsignal, hmemory, hvalues⟩ := vector_codes hr
    have hactive := hready.active
    obtain ⟨a, htaken, hruns⟩ := State.vecInsn_runs hready hfree hvop hfits (Tile.vecBlocked_of_ne hvop hsignal ..)
    obtain ⟨hmember, hother, htiles⟩ := htaken.lanes hactive hvop hsignal hmemory (fun h => hformat h.1 h.2) v vd va vb m
    have hvector : ∀ q, ∃ vregs masks vsrb, (vecAct s t (encVec r.2.1 v vd va vb m) a).tile q =
        { a.tile q with vregs := vregs, masks := masks, vsrb := vsrb } := fun q => by
      rcases member_cases s (s.lead t) q with ⟨j, hj, rfl⟩ | hq
      · exact ⟨_, _, _, hmember j hj⟩
      · exact ⟨_, _, _, hother q hq⟩
    have hlead := hvector (s.lead t)
    obtain ⟨u, hnext, hcounts⟩ := hruns (by obtain ⟨_, _, _, h⟩ := hlead; rw [h])
    have htile := countsNotes_tile hcounts
    refine ⟨u, (exec_vector r hr ..).trans hnext, htaken.tilesAndCounts htiles hcounts, fun j hj => ?_, fun q hq => ?_,
      fun q hq => ?_, ?_⟩
    · refine ⟨_, vector_effect hr hfits s t j (s.tile (memberAt (s.lead t) j)), ?_⟩
      rw [htile, hmember j hj, vecShift_eq hvalues]
      exact ⟨rfl, rfl, rfl⟩
    · obtain ⟨_, _, _, h⟩ := hvector q
      rw [htile, h, htaken.other q hq]
    · rw [htile, hother q hq, htaken.other q (ne_lead_of_not_member hactive hq)]
    · obtain ⟨_, _, _, h⟩ := hlead
      refine htaken.onlyFlows ?_
      rw [htile, h]
      simp [htaken.lead]
  · exact raises_illegal (State.vecInsn_illegal hready.1 (by decide) hbad)
  · have hblocked : (s.seqTile t).vecBlocked (encVec 0x2E v vd va vb m) = false := by
      have hunits : ∀ f ∈ (s.seqTile t).flights, f.cmd.unit.toNat ≠ 1 := fun f hf e => hnone f hf (BitVec.eq_of_toNat_eq e)
      simpa [Tile.vecBlocked] using fun _ => hunits
    obtain ⟨a, htaken, hruns⟩ := State.vecInsn_runs hready hfree (by decide) hfits hblocked
    obtain ⟨-, -, -, -, -, -, -, hticket, -⟩ := hfits
    rw [vecAct_vsig v (hticket rfl) a] at hruns
    obtain ⟨u, hnext, hcounts⟩ := hruns (by rw [State.tile_modTile_same, Tile.addTicket_cmdQ])
    have htile := countsNotes_tile hcounts
    have hlead : u.tile (s.lead t) = (a.tile (s.lead t)).addTicket vd.toNat 1 := by rw [htile, State.tile_modTile_same]
    refine ⟨u, (u.tile (s.lead t)).tickets, hnext, htaken.tilesAndCounts rfl hcounts, fun q hq => ?_, ?_, fun k => ?_⟩
    · rw [htile, State.tile_modTile_other _ _ hq, htaken.other q hq]
    · refine htaken.onlyFlows ?_
      rw [hlead]
      simp [htaken.lead, Tile.addTicket]
    · have hsame : (a.tile (s.lead t)).ticket k = (s.seqTile t).ticket k := by
        rw [htaken.lead, Tile.ticket, Tile.ticket, Tile.pastVec_tickets]
      rw [hlead, ← hsame]
      by_cases hk : k = vd.toNat
      · rw [if_pos hk, hk, Tile.ticket_addTicket_same]
      · rw [if_neg hk, Tile.ticket_addTicket_other _ _ hk, add_zero]

end Sys2Proof.Machine
end

section
/-! O21 (R136, R140, R141, R145): the words that vector loads and stores move. -/

namespace Sys2Proof.Machine

/-! ### Addresses of vector loads and stores (R136, R145) -/

theorem VecTaken.laneAddr {s a : State} {t : Path} (h : VecTaken s t a) (vop : Nat) (vd va vb : Reg) (m : BitVec 3) (j i : Nat) :
    (memberCtx s t vop vd va vb m j).laneAddr (a.tile (memberAt (s.lead t) j)) i = vecAddress s t (decide (0x3A ≤ vop)) va vb j i := by
  have hindexed : (vop ≤ 0x39) ↔ ¬ (decide (0x3A ≤ vop) = true) := by
    rw [decide_eq_true_eq]
    omega
  simp only [VecCtx.laneAddr, memberCtx, VecCtx.withVop, vecInput, vecAddress, hindexed, ite_not, h.lane, word, BitVec.toNat_add,
    BitVec.toNat_ofNat, Nat.add_mod_mod]

theorem VecTaken.mem_activeLanes_iff {s a : State} {t : Path} (h : VecTaken s t a) {vop : Nat} {vd va vb : Reg} {m : BitVec 3} {j i : Nat}
    (hj : j < s.panelWidth (s.lead t)) :
    i ∈ activeLanes ((a.tile (memberAt (s.lead t) j)).mask (memberCtx s t vop vd va vb m j).m) ↔ laneActive s t m j i := by
  rw [h.mask]
  refine ⟨fun hi => ?_, fun ⟨_, hi, hbit⟩ => (mem_activeLanes _ i hi).mpr hbit⟩
  have hlt := activeLanes_lt _ i hi
  exact ⟨hj, hlt, (mem_activeLanes _ i hlt).mp hi⟩

/-- Every word that an access names lies aligned within the span. -/
theorem vecAddress_ok {s : State} {t : Path} {indexed : Bool} {va vb : Reg} {m : BitVec 3} (h : vecAddressesOk s t indexed va vb m)
    {j i : Nat} (hactive : laneActive s t m j i) :
    vecAddress s t indexed va vb j i % 4 = 0 ∧ vecAddress s t indexed va vb j i + 4 ≤ s.span (s.lead t) := by
  cases indexed with
  | true => exact h j i hactive
  | false =>
    obtain ⟨hj, hi, -⟩ := hactive
    obtain ⟨halign, hrange⟩ := h j hj
    simp only [vecAddress, Bool.false_eq_true, if_false] at halign hrange ⊢
    omega

theorem VecTaken.memFault_none {s a : State} {t : Path} (h : VecTaken s t a) {vop : Nat} (vd : Reg) {va vb : Reg} {m : BitVec 3}
    (hok : vecAddressesOk s t (decide (0x3A ≤ vop)) va vb m) {j : Nat} (hj : j < s.panelWidth (s.lead t)) :
    (memberCtx s t vop vd va vb m j).memFault (a.tile (memberAt (s.lead t) j)) (s.span (s.lead t)) = none := by
  have hvop : (memberCtx s t vop vd va vb m j).vop = vop := rfl
  simp only [VecCtx.memFault, hvop, h.laneAddr]
  by_cases hdirect : vop ≤ 0x39
  · rw [decide_eq_false (by omega)] at hok
    obtain ⟨halign, hrange⟩ := hok j hj
    rw [if_pos hdirect, decide_eq_false (by omega), if_neg (by omega), if_neg (by omega)]
  · have hindexed : decide (0x3A ≤ vop) = true := decide_eq_true (by omega)
    rw [if_neg hdirect, Option.map_eq_none_iff, List.find?_eq_none]
    intro i hi
    obtain ⟨halign, hrange⟩ := vecAddress_ok hok ((h.mem_activeLanes_iff hj).mp hi)
    simp only [Bool.or_eq_true, decide_eq_true_eq]
    omega

/-- An access whose addresses meet R145 moves the words of each member in turn. -/
theorem VecTaken.moves {s a : State} {t : Path} (h : VecTaken s t a) {vop : Nat} (hmemory : 0x38 ≤ vop ∧ vop ≤ 0x3B) (v : Bool) (vd : Reg)
    {va vb : Reg} {m : BitVec 3} (hok : vecAddressesOk s t (decide (0x3A ≤ vop)) va vb m) :
    vecAct s t (encVec vop v vd va vb m) a = a.each (List.range (s.panelWidth (s.lead t))) fun b j =>
      b.vecMove (s.lead t) (memberCtx s t vop vd va vb m j) (memberAt (s.lead t) j) := by
  have hvop : vop ∈ vecCodes := by
    obtain ⟨hlo, hhi⟩ := hmemory
    interval_cases vop <;> decide
  have hop := (bits_encVec vop v vd va vb m (by omega)).1
  have hnone := filterMap_none (List.range (s.panelWidth (s.lead t))) (fun j =>
    ((memberCtx s t vop vd va vb m j).memFault (a.tile (memberAt (s.lead t) j)) (s.span (s.lead t))).map fun f => (j, f.1, f.2))
    fun j hj => by rw [h.memFault_none vd hok (List.mem_range.mp hj), Option.map_none]
  simp only [vecAct_encVec hvop, State.vecEffect, hop, h.panelWidth, h.span, h.vecCtx hvop, hnone, if_pos hmemory]
  rw [if_neg (by omega)]

/-! ### Loads (R140) -/

theorem VecTaken.clean {s a : State} {t : Path} (h : VecTaken s t a) (hclean : CleanStore s t) (i : Nat) :
    (a.tile (memberAt (s.lead t) i)).lsErr = [] :=
  (h.kept Tile.pastVec_lsErr _).trans (hclean i)

/-- The words that a load on one member brings, lane by lane. -/
def loadedWords (l : Path) (a : State) (c : VecCtx) (x : Tile) : List (Nat × Nat) :=
  (activeLanes (x.mask c.m)).map fun i => (i, leNat (a.peekLS l (c.laneAddr x i) 4))

theorem State.peekLS_congr {s a : State} (h : ∀ q, (a.tile q).ls = (s.tile q).ls) (l : Path) (b n : Nat) :
    a.peekLS l b n = s.peekLS l b n := by
  simp only [State.peekLS_map, State.lsByte, h]

/-- A load brings the words of its active lanes into vd on every member. -/
theorem VecTaken.loads {s a : State} {t : Path} (h : VecTaken s t a) (hclean : CleanStore s t) {vop : Nat}
    (hload : vop = 0x38 ∨ vop = 0x3A) (v : Bool) (vd : Reg) {va vb : Reg} {m : BitVec 3}
    (hok : vecAddressesOk s t (decide (0x3A ≤ vop)) va vb m) :
    let e := vecAct s t (encVec vop v vd va vb m) a
    (∀ j, j < s.panelWidth (s.lead t) → e.tile (memberAt (s.lead t) j) = (a.tile (memberAt (s.lead t) j)).setLanes vd.toNat
      ((activeLanes ((s.tile (memberAt (s.lead t) j)).mask m.toNat)).map fun i =>
        (i, leNat ((List.range 4).map fun k => s.lsByte (s.lead t) (vecAddress s t (decide (0x3A ≤ vop)) va vb j i + k))))) ∧
    (∀ q, (∀ j, j < s.panelWidth (s.lead t) → q ≠ memberAt (s.lead t) j) → e.tile q = a.tile q) ∧ e = { a with tiles := e.tiles } ∧
    ∀ q, e.tile q = { a.tile q with vregs := (e.tile q).vregs } := by
  intro e
  have hmoves : e = _ := h.moves (by omega) v vd hok
  obtain ⟨hmember, hother, htiles, hframe⟩ := loadFold State.vecLoad (loadedWords (s.lead t)) a (s.lead t) (h.clean hclean)
    (fun b hb c x => vecLoad_clean b (s.lead t) hb c x)
    (fun b hb c x => by simp only [loadedWords, State.peekLS_congr (s := a) (a := b) fun q => by rw [hb q]])
    (memberCtx s t vop vd va vb m) _ (panelWidth_le_four s (s.lead t)) _
    (fun b j ws hws => move_load State.vecLoad rfl b (s.lead t) _ _ hload ws hws)
  rw [← hmoves] at hmember hother htiles hframe
  refine ⟨fun j hj => ?_, hother, htiles, hframe⟩
  rw [hmember j hj, loadedWords, h.mask]
  simp only [State.peekLS_map, h.laneAddr, h.lsByte]
  rfl

/-! ### Stores (R140, R145) -/

/-- What a store of one member's lane makes of byte b of the panel's store. -/
def storedByte (s : State) (t : Path) (indexed : Bool) (vd va vb : Reg) (j b : Nat) (old : Byte) (i : Nat) : Byte :=
  if vecAddress s t indexed va vb j i ≤ b ∧ b < vecAddress s t indexed va vb j i + 4 then
    BitVec.ofNat 8 ((s.tile (memberAt (s.lead t) j)).lane vd.toNat i / 256 ^ (b - vecAddress s t indexed va vb j i))
  else old

/-- What the store of all lanes of one member makes of byte b: the higher lane stays. -/
def storedBytes (s : State) (t : Path) (indexed : Bool) (vd va vb : Reg) (m : BitVec 3) (b : Nat) (old : Byte) (j : Nat) : Byte :=
  (activeLanes ((s.tile (memberAt (s.lead t) j)).mask m.toNat)).foldl (storedByte s t indexed vd va vb j b) old

theorem onlyLs_kept {s u : State} (h : onlyLs s u) {β : Type} (f : Tile → β) (hf : ∀ (x : Tile) ls, f { x with ls := ls } = f x) (q : Path) :
    f (u.tile q) = f (s.tile q) := by
  rw [h.1 q, hf]

/-- One member stores its active lanes. -/
theorem VecTaken.stores_member {s a b : State} {t : Path} (h : VecTaken s t a) (hclean : CleanStore s t) {vop : Nat}
    (hstore : vop = 0x39 ∨ vop = 0x3B) (vd : Reg) {va vb : Reg} {m : BitVec 3}
    (hok : vecAddressesOk s t (decide (0x3A ≤ vop)) va vb m) (hb : onlyLs a b) {j : Nat} (hj : j < s.panelWidth (s.lead t)) :
    let u := b.vecMove (s.lead t) (memberCtx s t vop vd va vb m j) (memberAt (s.lead t) j)
    onlyLs b u ∧ (∀ q, (∀ k, k < s.panelWidth (s.lead t) → q ≠ memberAt (s.lead t) k) → u.tile q = b.tile q) ∧
    (∀ n, n < 0x800000 → u.lsByte (s.lead t) n =
      storedBytes s t (decide (0x3A ≤ vop)) vd va vb m n (b.lsByte (s.lead t) n) j) := by
  intro u
  have hmask : (b.tile (memberAt (s.lead t) j)).mask (memberCtx s t vop vd va vb m j).m =
      (s.tile (memberAt (s.lead t) j)).mask m.toNat := by
    rw [onlyLs_kept hb (Tile.mask · _) fun _ _ => rfl, h.mask]
    rfl
  have hlane : ∀ r i, (b.tile (memberAt (s.lead t) j)).lane r i = (s.tile (memberAt (s.lead t) j)).lane r i := fun r i => by
    rw [onlyLs_kept hb (Tile.lane · r i) fun _ _ => rfl, h.lane]
  have haddr : ∀ i, (memberCtx s t vop vd va vb m j).laneAddr (b.tile (memberAt (s.lead t) j)) i =
      vecAddress s t (decide (0x3A ≤ vop)) va vb j i := fun i => by
    rw [onlyLs_kept hb ((memberCtx s t vop vd va vb m j).laneAddr · i) fun _ _ => rfl, h.laneAddr]
  have hu : u = b.each (activeLanes ((s.tile (memberAt (s.lead t) j)).mask m.toNat)) fun c i =>
      (c.writeLS (s.lead t) (vecAddress s t (decide (0x3A ≤ vop)) va vb j i)
        (toLE ((s.tile (memberAt (s.lead t) j)).lane vd.toNat i) 4)).1 := by
    have hnot : ¬ (vop = 0x38 ∨ vop = 0x3A) := by omega
    simp only [u, State.vecMove, State.vecStore, hmask, haddr, hlane]
    exact if_neg hnot
  rw [hu]
  refine each_bytes (s.lead t) _ b _ (storedByte s t (decide (0x3A ≤ vop)) vd va vb j) _ fun c hc i hi => ?_
  have hactive : laneActive s t m j i := (h.mem_activeLanes_iff (vop := vop) (vd := vd) (va := va) (vb := vb) hj).mp (h.mask _ _ ▸ hi)
  obtain ⟨halign, hrange⟩ := vecAddress_ok hok hactive
  exact write_word c (s.lead t) _ _ (panelWidth_le_four s (s.lead t)) _ halign hrange fun k =>
    (onlyLs_kept (onlyLs_trans hb hc) Tile.lsErr (fun _ _ => rfl) _).trans (h.clean hclean k)

/-- A store writes the panel's bytes member by member, lane by lane. -/
theorem VecTaken.stores {s a : State} {t : Path} (h : VecTaken s t a) (hclean : CleanStore s t) {vop : Nat}
    (hstore : vop = 0x39 ∨ vop = 0x3B) (v : Bool) (vd : Reg) {va vb : Reg} {m : BitVec 3}
    (hok : vecAddressesOk s t (decide (0x3A ≤ vop)) va vb m) :
    let e := vecAct s t (encVec vop v vd va vb m) a
    onlyLs a e ∧ (∀ q, (∀ j, j < s.panelWidth (s.lead t) → q ≠ memberAt (s.lead t) j) → e.tile q = a.tile q) ∧
    (∀ n, n < 0x800000 → e.lsByte (s.lead t) n = (List.range (s.panelWidth (s.lead t))).foldl
      (storedBytes s t (decide (0x3A ≤ vop)) vd va vb m n) (s.lsByte (s.lead t) n)) := by
  intro e
  have hmoves : e = _ := h.moves (by omega) v vd hok
  rw [hmoves]
  simp only [← h.lsByte]
  exact each_bytes (s.lead t) _ a _ (storedBytes s t (decide (0x3A ≤ vop)) vd va vb m) _ fun b hb j hj =>
    h.stores_member hclean hstore vd hok hb (List.mem_range.mp hj)

/-- A byte that no active lane's word of a member covers stays as it was. -/
theorem storedBytes_none {s : State} {t : Path} {indexed : Bool} (vd : Reg) {va vb : Reg} {m : BitVec 3} {b j : Nat}
    (hj : j < s.panelWidth (s.lead t))
    (h : ∀ i, ¬ (laneActive s t m j i ∧ vecAddress s t indexed va vb j i ≤ b ∧ b < vecAddress s t indexed va vb j i + 4))
    (old : Byte) : storedBytes s t indexed vd va vb m b old j = old :=
  foldl_keep _ _ (fun i hi old => if_neg fun hcovers => by
    have hlt := activeLanes_lt _ i hi
    exact h i ⟨⟨hj, hlt, (mem_activeLanes _ i hlt).mp hi⟩, hcovers⟩) old

/-- The highest active lane whose word covers a byte, where one member's words alone cover it, leaves its byte there. -/
theorem storedBytes_last {s : State} {t : Path} {indexed : Bool} (vd : Reg) {va vb : Reg} {m : BitVec 3} {b j i : Nat}
    (hactive : laneActive s t m j i)
    (hcovers : vecAddress s t indexed va vb j i ≤ b ∧ b < vecAddress s t indexed va vb j i + 4)
    (hlast : ∀ i', laneActive s t m j i' ∧ vecAddress s t indexed va vb j i' ≤ b ∧ b < vecAddress s t indexed va vb j i' + 4 → i' ≤ i)
    (old : Byte) : storedBytes s t indexed vd va vb m b old j =
      BitVec.ofNat 8 ((s.tile (memberAt (s.lead t) j)).lane vd.toNat i / 256 ^ (b - vecAddress s t indexed va vb j i)) := by
  obtain ⟨hj, hi, hbit⟩ := hactive
  refine foldl_last (fun i => vecAddress s t indexed va vb j i ≤ b ∧ b < vecAddress s t indexed va vb j i + 4)
    (fun i => BitVec.ofNat 8 ((s.tile (memberAt (s.lead t) j)).lane vd.toNat i / 256 ^ (b - vecAddress s t indexed va vb j i)))
    _ (activeLanes_sorted _) i ((mem_activeLanes _ i hi).mpr hbit) hcovers (fun i' hi' hcovers' => ?_) old
  have hlt := activeLanes_lt _ i' hi'
  exact hlast i' ⟨⟨hj, hlt, (mem_activeLanes _ i' hlt).mp hi'⟩, hcovers'⟩

/-! ### O21 -/

theorem exec_load : ∀ r ∈ ([(.vld, false), (.vldx, true)] : List ((Path → Bool → Reg → Reg → Reg → BitVec 3 → Instr) × Bool)),
    ∃ vop, (vop = 0x38 ∨ vop = 0x3A) ∧ r.2 = decide (0x3A ≤ vop) ∧ ∀ (s : State) (t : Path) (v : Bool) (vd va vb : Reg) (m : BitVec 3),
      exec (r.1 t v vd va vb m) s = s.vecInsn t vop v vd va vb m := by
  simp only [List.forall_mem_cons, List.not_mem_nil, false_implies, implies_true, and_true]
  exact ⟨⟨0x38, .inl rfl, rfl, fun _ _ _ _ _ _ _ => rfl⟩, ⟨0x3A, .inr rfl, rfl, fun _ _ _ _ _ _ _ => rfl⟩⟩

theorem exec_store : ∀ r ∈ ([(.vst, false), (.vstx, true)] : List ((Path → Bool → Reg → Reg → Reg → BitVec 3 → Instr) × Bool)),
    ∃ vop, (vop = 0x39 ∨ vop = 0x3B) ∧ r.2 = decide (0x3A ≤ vop) ∧ ∀ (s : State) (t : Path) (v : Bool) (vd va vb : Reg) (m : BitVec 3),
      exec (r.1 t v vd va vb m) s = s.vecInsn t vop v vd va vb m := by
  simp only [List.forall_mem_cons, List.not_mem_nil, false_implies, implies_true, and_true]
  exact ⟨⟨0x39, .inl rfl, rfl, fun _ _ _ _ _ _ _ => rfl⟩, ⟨0x3B, .inr rfl, rfl, fun _ _ _ _ _ _ _ => rfl⟩⟩

/-- A vector load or store has no field that R141 says is 0. -/
theorem vecFits_of_memory {vop : Nat} (h : 0x38 ≤ vop ∧ vop ≤ 0x3B) (vd va vb : Reg) (m : BitVec 3) : vecFits vop vd va vb m := by
  unfold vecFits
  omega

/-- What VLD and VLDX do, by operation code. -/
theorem vectorLoads_run {s : State} {t : Path} {v : Bool} {vd va vb : Reg} {m : BitVec 3} (hready : Ready s t v) (hfree : VecFree s t)
    (hclean : CleanStore s t) {vop : Nat} (hload : vop = 0x38 ∨ vop = 0x3A)
    (hok : vecAddressesOk s t (decide (0x3A ≤ vop)) va vb m) :
    ∃ u, s.vecInsn t vop v vd va vb m = .next u ∧ TilesAndCounts s u ∧
      (∀ j, j < s.panelWidth (s.lead t) → ∃ y,
        LanesAre (fun _ i _ _ _ => leNat ((List.range 4).map fun k =>
            s.lsByte (s.lead t) (vecAddress s t (decide (0x3A ≤ vop)) va vb j i + k)))
          (vecInput s t vd va vb m 32 j) (s.tile (memberAt (s.lead t) j)) y ∧ (u.tile (memberAt (s.lead t) j)).vregs = y.vregs) ∧
      (∀ q, q ≠ s.lead t → u.tile q = { s.tile q with vregs := (u.tile q).vregs }) ∧
      (∀ q, (∀ j, j < s.panelWidth (s.lead t) → q ≠ memberAt (s.lead t) j) → u.tile q = s.tile q) ∧
      OnlyFlows { s.seqTile t with nextId := (s.seqTile t).nextId + 1, vregs := (u.tile (s.lead t)).vregs } (u.tile (s.lead t)) := by
  have hactive := hready.active
  have hvop : vop ∈ vecCodes := by rcases hload with rfl | rfl <;> decide
  obtain ⟨a, htaken, hruns⟩ := State.vecInsn_runs hready hfree hvop (vecFits_of_memory (by omega) vd va vb m)
    (Tile.vecBlocked_of_ne hvop (by omega) ..)
  obtain ⟨hmember, hother, htiles, hframe⟩ := htaken.loads hclean hload v vd hok
  generalize vecAct s t (encVec vop v vd va vb m) a = e at *
  have hwritten : ∀ q, ∃ vregs, e.tile q = { a.tile q with vregs := vregs } := fun q => ⟨_, hframe q⟩
  obtain ⟨u, hnext, hcounts⟩ := hruns (by rw [hframe])
  have htile := countsNotes_tile hcounts
  refine ⟨u, hnext, htaken.tilesAndCounts htiles hcounts, fun j hj => ⟨_, lanesAre_setLanes fun _ => rfl, ?_⟩,
    fun q hq => ?_, fun q hq => ?_, ?_⟩
  · rw [htile, hmember j hj]
    simp only [Tile.setLanes, htaken.kept Tile.pastVec_vregs]
    rfl
  · obtain ⟨_, h⟩ := hwritten q
    rw [htile, h, htaken.other q hq]
  · rw [htile, hother q hq, htaken.other q (ne_lead_of_not_member hactive hq)]
  · obtain ⟨_, h⟩ := hwritten (s.lead t)
    refine htaken.onlyFlows ?_
    rw [htile, h]
    simp [htaken.lead]

/-- What VST and VSTX do, by operation code: each byte of the panel's store is what the stored lanes make of it in turn. -/
theorem vectorStores_run {s : State} {t : Path} {v : Bool} {vd va vb : Reg} {m : BitVec 3} (hready : Ready s t v) (hfree : VecFree s t)
    (hclean : CleanStore s t) {vop : Nat} (hstore : vop = 0x39 ∨ vop = 0x3B)
    (hok : vecAddressesOk s t (decide (0x3A ≤ vop)) va vb m) :
    ∃ u, s.vecInsn t vop v vd va vb m = .next u ∧ TilesAndCounts s u ∧
      (∀ b, b < 0x800000 → u.lsByte (s.lead t) b = (List.range (s.panelWidth (s.lead t))).foldl
        (storedBytes s t (decide (0x3A ≤ vop)) vd va vb m b) (s.lsByte (s.lead t) b)) ∧
      (∀ q, q ≠ s.lead t → u.tile q = { s.tile q with ls := (u.tile q).ls }) ∧
      (∀ q, (∀ j, j < s.panelWidth (s.lead t) → q ≠ memberAt (s.lead t) j) → u.tile q = s.tile q) ∧
      OnlyFlows { s.seqTile t with nextId := (s.seqTile t).nextId + 1, ls := (u.tile (s.lead t)).ls } (u.tile (s.lead t)) := by
  have hactive := hready.active
  have hvop : vop ∈ vecCodes := by rcases hstore with rfl | rfl <;> decide
  obtain ⟨a, htaken, hruns⟩ := State.vecInsn_runs hready hfree hvop (vecFits_of_memory (by omega) vd va vb m)
    (Tile.vecBlocked_of_ne hvop (by omega) ..)
  obtain ⟨⟨hframe, htiles⟩, hother, hbytes⟩ := htaken.stores hclean hstore v vd hok
  generalize vecAct s t (encVec vop v vd va vb m) a = e at *
  have hwritten : ∀ q, ∃ ls, e.tile q = { a.tile q with ls := ls } := fun q => ⟨_, hframe q⟩
  obtain ⟨u, hnext, hcounts⟩ := hruns (by rw [hframe])
  have htile := countsNotes_tile hcounts
  refine ⟨u, hnext, htaken.tilesAndCounts htiles hcounts, fun b hb => ?_, fun q hq => ?_, fun q hq => ?_, ?_⟩
  · rw [← hbytes b hb, State.lsByte, State.lsByte, htile]
  · obtain ⟨_, h⟩ := hwritten q
    rw [htile, h, htaken.other q hq]
  · rw [htile, hother q hq, htaken.other q (ne_lead_of_not_member hactive hq)]
  · obtain ⟨_, h⟩ := hwritten (s.lead t)
    refine htaken.onlyFlows ?_
    rw [htile, h]
    simp [htaken.lead]

/-- Settles O21: no address faults, so the words of every member move; of the lanes stored, the last that covers a byte stays. -/
theorem vectorLoadsAndStoresRun : Obligations.VectorLoadsAndStoresRun := by
  unfold Obligations.VectorLoadsAndStoresRun
  refine fun s t v vd va vb m hready hfree hclean => ⟨fun r hr hok => ?_, fun r hr hok => ?_⟩
  · obtain ⟨vop, hload, hindexed, hexec⟩ := exec_load r hr
    rw [hindexed] at hok ⊢
    rw [hexec]
    exact vectorLoads_run hready hfree hclean hload hok
  · obtain ⟨vop, hstore, hindexed, hexec⟩ := exec_store r hr
    rw [hindexed] at hok ⊢
    obtain ⟨u, hnext, htiles, hbytes, hframe, hother, hflows⟩ := vectorStores_run (vd := vd) hready hfree hclean hstore hok
    refine ⟨u, (hexec ..).trans hnext, htiles, fun b hb => ⟨fun hnone => ?_, fun j i hcovers hlast => ?_⟩, hframe, hother, hflows⟩
    · rw [hbytes b (hb.trans_le (span_le s _))]
      exact foldl_keep _ _ (fun j hj => storedBytes_none vd (List.mem_range.mp hj) (hnone j)) _
    · rw [hbytes b (hb.trans_le (span_le s _)),
        foldl_only _ _ j hcovers.1.1 fun k hk hkj => storedBytes_none vd hk fun i' hc => hkj (hlast k i' hc).1]
      exact storedBytes_last vd hcovers.1 hcovers.2 (fun i' hc => (hlast j i' hc).2) _

end Sys2Proof.Machine
end

section
/-! SUPPORT for O16. The canonical form of the memories, and what keeps it. -/

-- One theorem after the other: elaborated side by side, their threads run out of memory.
set_option Elab.async false

namespace Sys2Proof.Machine

/-! ### The canonical form as a structure -/

/-- Tier memory, host memory and every local store are in canonical form. -/
structure State.Canonical (s : State) : Prop where
  tier : Memory.wf s.mem.tier = true
  host : Memory.wf s.host = true
  stores : ∀ e ∈ s.tiles, Memory.wf e.2.ls = true

theorem State.memWf_iff (s : State) : s.memWf = true ↔ s.Canonical := by
  simp only [State.memWf, Bool.and_eq_true, List.all_eq_true]
  exact ⟨fun ⟨⟨ht, hh⟩, hs⟩ => ⟨ht, hh, hs⟩, fun h => ⟨⟨h.tier, h.host⟩, h.stores⟩⟩

/-! ### A list of tiles whose stores are canonical -/

theorem mem_mapErase {α : Type} {m : SMap α} {k : Nat} {e : Nat × α} (h : e ∈ mapErase m k) : e ∈ m := by
  induction m with
  | nil => exact h
  | cons x m ih =>
    obtain ⟨j, w⟩ := x
    unfold mapErase at h
    split at h
    · exact List.mem_cons_of_mem _ (ih h)
    · exact (List.mem_cons.1 h).elim (fun e => e ▸ List.mem_cons_self) fun h => List.mem_cons_of_mem _ (ih h)

theorem mem_mapInsert {α : Type} {m : SMap α} {k : Nat} {v : α} {e : Nat × α} (h : e ∈ mapInsert m k v) : e = (k, v) ∨ e ∈ m := by
  induction m with
  | nil => exact .inl (List.mem_singleton.1 h)
  | cons x m ih =>
    obtain ⟨j, w⟩ := x
    unfold mapInsert at h
    split at h
    · exact List.mem_cons.1 h
    · rcases List.mem_cons.1 h with rfl | h
      · exact .inr List.mem_cons_self
      · exact (ih h).imp_right (List.mem_cons_of_mem _)

/-- An entry of a written map is the one written or stood there before. -/
theorem mem_mapSet {α : Type} [DecidableEq α] {d : α} {m : SMap α} {k : Nat} {v : α} {e : Nat × α} (h : e ∈ mapSet d m k v) :
    e = (k, v) ∨ e ∈ m := by
  unfold mapSet at h
  split at h
  · exact .inr (mem_mapErase h)
  · exact (mem_mapInsert h).imp_right mem_mapErase

theorem mapGet_of_forall {α : Type} {P : α → Prop} {d : α} {m : SMap α} (hd : P d) (h : ∀ e ∈ m, P e.2) (k : Nat) : P (mapGet d m k) := by
  induction m with
  | nil => exact hd
  | cons x m ih =>
    unfold mapGet
    split
    · exact h _ List.mem_cons_self
    · exact ih fun e he => h e (List.mem_cons_of_mem _ he)

theorem forall_mapEach {α : Type} [DecidableEq α] {P : α → Prop} {d : α} {m : SMap α} {f : α → α} (hd : P d) (h : ∀ e ∈ m, P e.2)
    (hf : ∀ x, P x → P (f x)) : ∀ e ∈ mapEach d m f, P e.2 := by
  have key : ∀ (ks : List Nat) (a : SMap α), (∀ e ∈ a, P e.2) →
      ∀ e ∈ ks.foldl (fun a k => mapSet d a k (f (mapGet d m k))) a, P e.2 := by
    intro ks
    induction ks with
    | nil => exact fun a ha => ha
    | cons k ks ih =>
      refine fun a ha => ih _ fun e he => ?_
      rcases mem_mapSet he with rfl | he
      · exact hf _ (mapGet_of_forall hd h k)
      · exact ha e he
  exact key _ m h

/-! ### Functions on a tile that leave its local store -/

@[simp] theorem Tile.stopTo_ls (target : Run) (x : Tile) : (x.stopTo target).ls = x.ls := by
  unfold Tile.stopTo
  split
  · rfl
  · rfl
  · split <;> rfl

@[simp] theorem Tile.startAt_ls (x : Tile) (entry : Word) : (x.startAt entry).ls = x.ls := by
  unfold Tile.startAt
  split <;> rfl

@[simp] theorem Tile.resume_ls (x : Tile) : x.resume.ls = x.ls := by
  unfold Tile.resume
  split <;> rfl

@[simp] theorem Tile.deactivateFrom_ls (x : Tile) (lv : Nat) : (x.deactivateFrom lv).ls = x.ls := by rw [deactivateFrom_eq]

@[simp] theorem Tile.leaveLoops_ls (x : Tile) (target : Word) : (x.leaveLoops target).ls = x.ls := by rw [leaveLoops_eq]

@[simp] theorem Tile.advance_ls (x : Tile) : x.advance.ls = x.ls := by rw [Tile.advance_eq]

@[simp] theorem Tile.startLoop_ls (x : Tile) (lv len : Nat) (n : Word) : (x.startLoop lv len n).ls = x.ls := by
  unfold Tile.startLoop
  split <;> simp

@[simp] theorem Tile.writeCr_ls (x : Tile) (cr : Nat) (w : Word) : (x.writeCr cr w).ls = x.ls := by
  unfold Tile.writeCr
  split <;> rfl

@[simp] theorem Tile.restore_ls (x : Tile) (fr : List Word) : (x.restore fr).ls = x.ls := by simp [Tile.restore]

@[simp] theorem Tile.enqueue_ls (x : Tile) (c : Command) : (x.enqueue c).ls = x.ls := by
  unfold Tile.enqueue
  dsimp only
  split <;> rfl

@[simp] theorem Tile.setMask_ls (x : Tile) (k : Nat) (w : Word) : (x.setMask k w).ls = x.ls := by
  unfold Tile.setMask
  split <;> rfl

@[simp] theorem Tile.setLanes_ls (x : Tile) (r : Nat) (ws : List (Nat × Nat)) : (x.setLanes r ws).ls = x.ls := rfl

@[simp] theorem VecCtx.effect_ls (c : VecCtx) (x : Tile) : (c.effect x).ls = x.ls := by
  unfold VecCtx.effect
  dsimp only
  split
  · simp
  · split <;> simp only [Tile.setMask_ls, Tile.setLanes_ls]

@[simp] theorem Tile.setSeqPart_ls (x : Tile) (p : SeqPart) (v : Word) : (x.setSeqPart p v).ls = x.ls := by
  cases p <;> rfl

theorem Tile.writeLS_wf {x : Tile} (a : Nat) (bs : Bytes) (h : Memory.wf x.ls = true) : Memory.wf (x.writeLS a bs).ls = true :=
  Memory.wf_writeCells a bs h

/-! ### Canonical outcomes -/

/-- A write to the dictionary that is taken leaves the memories canonical. -/
def Put.Canonical : Put → Prop
  | .ok u => u.Canonical
  | .refused _ _ => True

/-- The state of a result that also answers is canonical. A definition, and not its text: a projection of a long run would be run
wherever the kernel compares two of them. -/
def fstCanonical {β : Type} (p : State × β) : Prop := p.1.Canonical

/-- A command that goes on leaves the memories canonical. -/
def outCanonical (o : Out) : Prop := ∀ u, o = .next u → u.Canonical

section
variable {s u : State}

namespace State.Canonical

/-- An update of any fields but the stores. -/
theorem update {q : List Instr} {now : DWord} {island free : Nat} {fatal : Bool} {wins : SMap WinRegs} {clusters : SMap Cluster}
    {dies : SMap Die} {parts : SMap Part} {mem : MemSys} {ports : SMap Port} {sh : Shuttle} {bindings : List Binding} {time : TimeSys}
    {integ : Integ} {sec : Security} {mgmt : Mgmt} {tag : Tag} {pwr : Power} {trace : Trace} (h : s.Canonical)
    (hm : mem.tier = s.mem.tier := by rfl) :
    (State.mk q now island free fatal s.tiles wins clusters dies parts mem ports sh bindings time integ sec mgmt tag pwr trace
      s.host).Canonical :=
  ⟨hm ▸ h.tier, h.host, h.stores⟩

/-- An update that changes the tiles one by one and leaves their stores. -/
theorem updateTiles {f : Tile → Tile} {q : List Instr} {now : DWord} {island free : Nat} {fatal : Bool} {wins : SMap WinRegs}
    {clusters : SMap Cluster} {dies : SMap Die} {parts : SMap Part} {mem : MemSys} {ports : SMap Port} {sh : Shuttle}
    {bindings : List Binding} {time : TimeSys} {integ : Integ} {sec : Security} {mgmt : Mgmt} {tag : Tag} {pwr : Power} {trace : Trace}
    (h : s.Canonical) (hf : ∀ x, (f x).ls = x.ls := by exact fun _ => rfl) (hm : mem.tier = s.mem.tier := by rfl) :
    (State.mk q now island free fatal (mapEach {} s.tiles f) wins clusters dies parts mem ports sh bindings time integ sec mgmt tag pwr
      trace s.host).Canonical :=
  ⟨hm ▸ h.tier, h.host,
    forall_mapEach (P := fun x : Tile => Memory.wf x.ls = true) rfl h.stores fun x hx => (congrArg Memory.wf (hf x)).trans hx⟩

theorem tile (h : s.Canonical) (t : Path) : Memory.wf (s.tile t).ls = true :=
  mapGet_of_forall (P := fun x : Tile => Memory.wf x.ls = true) rfl h.stores t.toNat

theorem setTile (h : s.Canonical) {t : Path} {x : Tile} (hx : Memory.wf x.ls = true) : (s.setTile t x).Canonical :=
  ⟨h.tier, h.host, fun e he => (mem_mapSet he).elim (fun e' => e' ▸ hx) (h.stores e)⟩

theorem modTile_of (h : s.Canonical) {t : Path} {f : Tile → Tile} (hf : ∀ x, Memory.wf x.ls = true → Memory.wf (f x).ls = true) :
    (s.modTile t f).Canonical := h.setTile (hf _ (h.tile t))

/-- A tile changed anywhere but in its store. -/
theorem modTile (h : s.Canonical) {t : Path} {f : Tile → Tile} (hf : ∀ x, (f x).ls = x.ls := by exact fun _ => rfl) :
    (s.modTile t f).Canonical := h.modTile_of fun x hx => (congrArg Memory.wf (hf x)).trans hx

/-- What a match on a pair says of its first component. -/
theorem of_eq {β : Type} {p : State × β} {b : β} (h : p.1.Canonical) (e : p = (u, b)) : u.Canonical := by
  rw [e] at h
  exact h

theorem of_eq_snd {β : Type} {p : β × State} {b : β} (h : p.2.Canonical) (e : p = (b, u)) : u.Canonical := by
  rw [e] at h
  exact h

theorem ite {c : Prop} [Decidable c] (h : s.Canonical) (h' : u.Canonical) : (if c then s else u).Canonical := by
  split <;> assumption

theorem ite_fst {β : Type} {c : Prop} [Decidable c] {p q : State × β} (h : p.1.Canonical) (h' : q.1.Canonical) :
    (if c then p else q).1.Canonical := by
  split <;> assumption

theorem foldl_fst {α β : Type} {f : State × β → α → State × β} {acc : State × β} {xs : List α} (h : acc.1.Canonical)
    (hf : ∀ acc x, acc.1.Canonical → fstCanonical (f acc x)) : (xs.foldl f acc).1.Canonical := by
  induction xs generalizing acc with
  | nil => exact h
  | cons x xs ih => exact ih (acc := f acc x) (hf acc x h)

theorem each {α : Type} (h : s.Canonical) {xs : List α} {f : State → α → State} (hf : ∀ a x, a.Canonical → (f a x).Canonical) :
    (s.each xs f).Canonical := by
  unfold State.each
  induction xs generalizing s with
  | nil => exact h
  | cons x xs ih => exact ih (hf s x h)

/-- Work that goes on where earlier work has succeeded. -/
theorem andThen {α β : Type} {t : Trial α} {f : State → α → Trial β} (h : t.1.Canonical)
    (hf : ∀ a x, a.Canonical → fstCanonical (f a x)) : fstCanonical (t.andThen f) := by
  obtain ⟨a, e | x⟩ := t
  · exact h
  · exact hf a x h

theorem andEnd {α : Type} {t : Trial α} {bad : State → Halt → State} {good : State → α → State} (h : t.1.Canonical)
    (hb : ∀ a e, a.Canonical → (bad a e).Canonical) (hg : ∀ a x, a.Canonical → (good a x).Canonical) :
    (t.andEnd bad good).Canonical := by
  obtain ⟨a, e | x⟩ := t
  · exact hb a e h
  · exact hg a x h

theorem pair (h : u.Canonical) {β : Type} {b : β} : fstCanonical (u, b) := h

theorem fst {β : Type} {p : State × β} (h : p.1.Canonical) : fstCanonical p := h

theorem ok (h : u.Canonical) : (Put.ok u).Canonical := h

theorem next (h : u.Canonical) : outCanonical (.next u) := fun _ e => by
  cases e
  exact h

theorem guard (h : u.Canonical) {ok : Bool} : outCanonical (guardUnit ok u) := by
  cases ok
  · exact fun _ e => nomatch e
  · exact h.next

end State.Canonical

theorem Put.Canonical.refused {code cond : Nat} : (Put.refused code cond).Canonical := trivial

theorem Put.Canonical.of_ok {p : Put} (h : p.Canonical) (e : p = .ok u) : u.Canonical := by
  rw [e] at h
  exact h

theorem Put.Canonical.deny {bad : Bool} {cond : Nat} {p : Put} (h : p.Canonical) : (Put.deny bad cond p).Canonical := by
  cases bad
  · exact h
  · trivial

end
end Sys2Proof.Machine
end

section
/-! SUPPORT for O16. The state and its units, up to the training stages keep the memories canonical. -/

-- One theorem after the other: elaborated side by side, their threads run out of memory.
set_option Elab.async false

namespace Sys2Proof.Machine
namespace State.Canonical
variable {s : State}

theorem modCluster (h : s.Canonical) {k : Nat} {f : Cluster → Cluster} : (s.modCluster k f).Canonical := by
  unfold State.modCluster
  exact h.update

theorem modDie (h : s.Canonical) {d : Nat} {f : Die → Die} : (s.modDie d f).Canonical := by
  unfold State.modDie
  exact h.update

theorem modPart (h : s.Canonical) {p : Nat} {f : Part → Part} : (s.modPart p f).Canonical := by
  unfold State.modPart
  exact h.update

theorem modPort (h : s.Canonical) {p : Nat} {f : Port → Port} : (s.modPort p f).Canonical := by
  unfold State.modPort
  exact h.update

theorem countPart (h : s.Canonical) {p : Option Nat} {idx sub n : Nat} : (s.countPart p idx sub n).Canonical := by
  unfold State.countPart
  split
  · exact .ite h h.modPart
  · exact h

theorem freeWord (h : s.Canonical) : s.freeWord.2.Canonical := by
  unfold State.freeWord
  dsimp only
  exact h.update

theorem modRegion (h : s.Canonical) {r : Nat} {f : Region → Region} : (s.modRegion r f).Canonical := by
  unfold State.modRegion
  exact h.update

theorem pushPacket (h : s.Canonical) {part : Byte} {path : Path} {kind : Byte} {data : Word} :
    (s.pushPacket part path kind data).1.Canonical := by
  unfold State.pushPacket
  dsimp only
  split
  · exact h
  · split
    · split
      · dsimp only
        exact h.modRegion
      · dsimp only
        exact h.modRegion
    · split
      · dsimp only
        exact h.modRegion
      · dsimp only
        exact h.modRegion

theorem generate (h : s.Canonical) {n : Nat} : (s.generate n).2.Canonical := by
  unfold State.generate
  dsimp only
  exact h.update

theorem post (h : s.Canonical) {p : Nat} {ctx : BitVec 12} {m : Msg} {x : Nat × State} (e : s.post p ctx m = some x) : x.2.Canonical := by
  unfold State.post at e
  split at e
  · cases e
  · cases e
    dsimp only
    exact h.modPort

theorem sendControl (h : s.Canonical) {c : Nat} {words : List Nat} : (s.sendControl c words).Canonical := by
  unfold State.sendControl
  exact h.modPort

theorem append (h : s.Canonical) {r : EventRec} : (s.append r).Canonical := by
  unfold State.append
  exact .ite h h.update

theorem eventPacket (h : s.Canonical) {r : EventRec} : (s.eventPacket r).1.Canonical := by
  unfold State.eventPacket
  exact h.pushPacket

theorem traceLost (h : s.Canonical) {part : Byte} : (s.traceLost part).Canonical := by
  unfold State.traceLost
  exact .ite h.modRegion.append.eventPacket h

theorem trace' (h : s.Canonical) {part : Byte} {path : Path} {kind : Byte} {data : Word} : (s.trace' part path kind data).Canonical := by
  unfold State.trace'
  exact .ite h.pushPacket.traceLost h.pushPacket

theorem tilePacket (h : s.Canonical) {path : Path} {kind : Byte} {data : Word} : (s.tilePacket path kind data).Canonical := by
  unfold State.tilePacket
  exact .ite h h.modCluster.trace'

theorem log (h : s.Canonical) {e : Ev} : (s.log e).Canonical := by
  unfold State.log
  exact .ite h.append.eventPacket.traceLost h.append.eventPacket

theorem sendAbort (h : s.Canonical) {ctx : BitVec 12} {n : BitVec 4} {x : Slot} {reason : Word} {q : Nat} :
    (s.sendAbort ctx n x reason q).Canonical := by
  unfold State.sendAbort
  split
  · exact h
  · split
    · next e' => exact h.post e'
    · exact h

theorem endSlot (h : s.Canonical) {key : Nat} {reason : Word} : (s.endSlot key reason).Canonical := by
  unfold State.endSlot
  split
  · exact h
  · exact (h.update.modTile.each (fun a x ha => ha.sendAbort)).trace'

theorem markFault (h : s.Canonical) {t : Path} {code : Nat} : (s.markFault t code).Canonical := by
  unfold State.markFault
  exact h.modTile

theorem endExchanges (h : s.Canonical) {p : Nat} : (s.endExchanges p).Canonical := by
  unfold State.endExchanges
  refine h.each fun a b ha => ?_
  split
  · exact ha
  · exact ha.modTile.update

theorem stopPartition (h : s.Canonical) {p : Nat} {reason : Word} : (s.stopPartition p reason).Canonical := by
  unfold State.stopPartition
  exact .modPart (.update (.endExchanges (.each (.each h fun a t ha => ha.modTile (by simp)) fun a k ha => ha.endSlot)))

theorem partitionFault (h : s.Canonical) {e : Ev} {reason : Option Nat} : (s.partitionFault e reason).Canonical := by
  unfold State.partitionFault
  have hs (raiser : Option Path) : (match raiser with
      | none => s
      | some t => (s.markFault t e.code).modTile (s.lead t) (Tile.stopTo .faulted)).Canonical := by
    cases raiser with
    | none => exact h
    | some t => exact h.markFault.modTile (by simp)
  cases reason with
  | none => exact .ite (State.Canonical.freeWord (hs _)).stopPartition (State.Canonical.freeWord (hs _))
  | some r => exact .ite (State.Canonical.stopPartition (hs _)) (hs _)

theorem freezeTrace (h : s.Canonical) {why : Nat} : (s.freezeTrace why).Canonical := by
  unfold State.freezeTrace
  exact .ite h ((h.each (fun a x ha => ha.pushPacket)).update)

theorem startTrace (h : s.Canonical) : s.startTrace.Canonical := by
  unfold State.startTrace
  exact h.update.each (fun a x ha => ha.pushPacket)

theorem fatalClose (h : s.Canonical) {c : Nat} : (s.fatalClose c).Canonical := by
  unfold State.fatalClose
  exact .ite ((h.each (fun a x ha => ha.sendControl)).modPort) h

theorem abandonAll (h : s.Canonical) {r : EventRec} : (s.abandonAll r).Canonical := by
  unfold State.abandonAll
  exact h.updateTiles

theorem takeCapture (h : s.Canonical) {r : EventRec} {log : List EventRec} : (s.takeCapture r log).Canonical := by
  unfold State.takeCapture
  exact .ite h.update h

theorem deviceFatal (h : s.Canonical) {r : EventRec} : (s.deviceFatal r).Canonical := by
  unfold State.deviceFatal
  exact .ite h.update (((h.abandonAll.each (fun a x ha => ha.fatalClose)).freezeTrace).takeCapture)

theorem raiseWith (h : s.Canonical) {e : Ev} {reason : Option Nat} : (s.raiseWith e reason).Canonical := by
  unfold State.raiseWith
  split
  · exact .ite h.log h.log.partitionFault
  · split
    · refine .deviceFatal ?_ 
      split
      · exact h.log.markFault
      · exact h.log
    · exact h.log

theorem raise (h : s.Canonical) {e : Ev} : (s.raise e).Canonical := by
  unfold State.raise
  exact h.raiseWith

theorem raiseTile (h : s.Canonical) {t : Path} {code : Nat} {stag : Option Word} {detail : Bytes} {injected : Bool} :
    (s.raiseTile t code stag detail injected).Canonical := by
  unfold State.raiseTile
  exact h.raise

theorem refuse (h : s.Canonical) {code : Nat} {path : Option Path} {part ctx source cond index sub arg : Nat} {more : Bytes} :
    (s.refuse code path part ctx source cond index sub arg more).Canonical := by
  unfold State.refuse
  exact h.raise

theorem checkWords (h : s.Canonical) {t : Path} {lo hi : Nat} : (s.checkWords t lo hi).1.Canonical := by
  unfold State.checkWords
  dsimp only
  split
  · dsimp only
    exact h.raiseTile
  · split
    · exact h
    · dsimp only
      exact h.modTile.update

theorem readLS (h : s.Canonical) {t : Path} {a len : Nat} : (s.readLS t a len).1.Canonical := by
  unfold State.readLS
  dsimp only
  refine h.foldl_fst fun acc p hacc => ?_
  split
  · exact hacc.checkWords.fst
  · exact hacc.fst

theorem pokeLS (h : s.Canonical) {t : Path} {fuel a : Nat} {bs : Bytes} : (s.pokeLS t fuel a bs).Canonical := by
  induction fuel generalizing s a bs with
  | zero => exact h
  | succ fuel ih =>
    unfold State.pokeLS
    split
    · exact h
    · exact ih (h.modTile_of fun _ => Tile.writeLS_wf _ _)

theorem writeLS (h : s.Canonical) {t : Path} {a : Nat} {bs : Bytes} : (s.writeLS t a bs).1.Canonical := by
  unfold State.writeLS
  dsimp only
  generalize hr : List.foldl _ _ _ = r
  have hc : r.1.Canonical := by
    rw [← hr]
    exact .foldl_fst h fun acc e hacc => by split <;> [exact hacc.checkWords; exact hacc]
  split
  · exact hc.pokeLS
  · exact hc

theorem setCurrent (h : s.Canonical) {k : Nat} {new : BitVec 8} : (s.setCurrent k new).Canonical := by
  unfold State.setCurrent
  exact .ite h h.modCluster.trace'.raise

theorem wake (h : s.Canonical) {k : Nat} : (s.wake k).Canonical := by
  unfold State.wake
  exact .ite h.setCurrent h

theorem modSlab (h : s.Canonical) {n : Nat} {f : Slab → Slab} : (s.modSlab n f).Canonical := by
  unfold State.modSlab
  exact h.update

theorem fillTlb (h : s.Canonical) {who : Mover} {p : PageMap} : (s.fillTlb who p).Canonical := by
  unfold State.fillTlb
  split
  · exact h.modTile
  · exact h
  · exact h.update

theorem translate (h : s.Canonical) {who : Mover} {ctx : BitVec 12} {va : Nat} : (s.translate who ctx va).1.Canonical := by
  unfold State.translate
  split
  · exact h
  · split
    · dsimp only
      exact h.fillTlb
    · exact h

theorem xlate (h : s.Canonical) {who : Mover} {ctx : BitVec 12} {va : Nat} {write : Bool} : (s.xlate who ctx va write).1.Canonical := by
  unfold State.xlate
  split
  · next e =>
      dsimp only
      exact h.translate.of_eq e
  · next e =>
      split
      · split
        · dsimp only
          exact h.translate.of_eq e
        · dsimp only
          exact h.translate.of_eq e
      · split
        · dsimp only
          exact h.translate.of_eq e
        · dsimp only
          exact h.translate.of_eq e

theorem modBlock (h : s.Canonical) {pa : Nat} {f : Block → Block} : (s.modBlock pa f).Canonical := by
  unfold State.modBlock
  exact h.update

theorem newTag (h : s.Canonical) {engine : Nat} : (s.newTag engine).2.Canonical := by
  unfold State.newTag
  dsimp only
  exact h.update

theorem countRequest (h : s.Canonical) {part pa : Nat} : (s.countRequest part pa).Canonical := by
  unfold State.countRequest
  exact .ite h.countPart.update h.countPart

theorem lineRead (h : s.Canonical) {part pa : Nat} : (s.lineRead part pa).Canonical := by
  unfold State.lineRead
  exact .ite h.countRequest.update h.countRequest

theorem lineWrite (h : s.Canonical) {part pa : Nat} {bs : Bytes} {tag : Option (BitVec 24)} :
    (s.lineWrite part pa bs tag).Canonical := by
  unfold State.lineWrite
  have hc : (s.countRequest part pa).Canonical := h.countRequest
  refine .modBlock ?_
  exact ⟨Memory.wf_writeCells pa bs hc.tier, hc.host, hc.stores⟩

theorem readVA (h : s.Canonical) {who : Mover} {part : Nat} {ctx : BitVec 12} {va len : Nat} :
    (s.readVA who part ctx va len).1.Canonical := by
  unfold State.readVA
  refine h.foldl_fst fun acc p hacc => ?_
  split
  · exact hacc.fst
  · split
    · next e' => exact (hacc.xlate.of_eq e').pair
    · next e' => exact ((hacc.xlate.of_eq e').lineRead).pair

theorem writeVA (h : s.Canonical) {who : Mover} {part : Nat} {ctx : BitVec 12} {va : Nat} {bs : Bytes} :
    (s.writeVA who part ctx va bs).1.Canonical := by
  unfold State.writeVA
  refine h.foldl_fst fun acc p hacc => ?_
  split
  · exact hacc.fst
  · split
    · next e' => exact (hacc.xlate.of_eq e').pair
    · next e' => exact ((hacc.xlate.of_eq e').lineWrite).pair

theorem writeBlock (h : s.Canonical) {who : Mover} {engine part : Nat} {ctx : BitVec 12} {va : Nat} {bs : Bytes} :
    (s.writeBlock who engine part ctx va bs).1.Canonical := by
  unfold State.writeBlock
  dsimp only
  generalize hr : List.foldl _ _ _ = r
  have hc : r.1.Canonical := by
    rw [← hr]
    refine .foldl_fst h.newTag fun acc p hacc => ?_
    split
    · exact hacc
    · split
      · next e => exact (hacc.xlate.of_eq e).pair
      · next e => exact (hacc.xlate.of_eq e).lineWrite.pair
  split
  · exact hc
  · split
    · next e => exact hc.xlate.of_eq e
    · next e => exact (hc.xlate.of_eq e).modBlock.update

theorem countVerify (h : s.Canonical) {v : Verdict} : (s.countVerify v).Canonical := by
  unfold State.countVerify
  split
  · exact h
  · exact h.update
  · exact h.update

theorem fillLine (h : s.Canonical) {part : Nat} {via : PageMap} {pa : Nat} : (s.fillLine part via pa).Canonical := by
  unfold State.fillLine
  dsimp only
  split
  · exact h
  · split
    · exact h.update
    · split <;> exact h.update

theorem prefetch (h : s.Canonical) {who : Mover} {part : Nat} {ctx : BitVec 12} {va len : Nat} :
    (s.prefetch who part ctx va len).Canonical := by
  unfold State.prefetch
  refine h.each fun a p ha => ?_
  split
  · next e => exact ((ha.xlate.of_eq e).countRequest).fillLine
  · next e => exact (ha.xlate.of_eq e).update

theorem correctTier (h : s.Canonical) {pa n : Nat} : (s.correctTier pa n).Canonical := by
  unfold State.correctTier
  dsimp only
  have hm (full : Bool) (recent : List Nat) : ({ s with mem :=
      if pa < 0x10000000000 then
        { s.mem with pageErrs := mapSet [] s.mem.pageErrs (pa / 0x200000) (if full then [] else recent), t1Corr := satAdd64 s.mem.t1Corr n }
      else
        { s.mem with pageErrs := mapSet [] s.mem.pageErrs (pa / 0x200000) (if full then [] else recent),
                     t2Corr := satAdd64 s.mem.t2Corr n } } : State).Canonical := h.update (by split <;> rfl)
  exact .ite (hm ..).raise (hm ..)

theorem memoryUe (h : s.Canonical) {pa : Nat} : (s.memoryUe pa).Canonical := by
  unfold State.memoryUe
  exact h.raise

theorem lineErrors (h : s.Canonical) {pa : Nat} {errs : List (BitVec 4 × BitVec 8)} : (s.lineErrors pa errs).1.Canonical := by
  unfold State.lineErrors
  dsimp only
  split
  · dsimp only
    exact h.memoryUe
  · split
    · exact h
    · dsimp only
      exact h.correctTier

theorem fireFault (h : s.Canonical) {l : Path} {cause i : Nat} : (s.fireFault l cause i).Canonical := by
  unfold State.fireFault
  exact h.modTile.raiseTile

theorem quiesce (h : s.Canonical) {l : Path} : (s.quiesce l).Canonical := by
  unfold State.quiesce
  exact .ite h (.ite h h.modTile.raiseTile)

theorem enterFiring (h : s.Canonical) {l : Path} : (s.enterFiring l).Canonical := by
  unfold State.enterFiring
  dsimp only
  split
  · exact h.fireFault
  · split
    · next e => exact h.readLS.of_eq e
    · next e =>
        split
        · exact (h.readLS.of_eq e).fireFault
        · split
          · exact (h.readLS.of_eq e).fireFault
          · split
            · next e' => exact ((h.readLS.of_eq e).readLS).of_eq e'
            · next e' =>
                split
                · exact (((h.readLS.of_eq e).readLS).of_eq e').fireFault
                · exact ((((h.readLS.of_eq e).readLS).of_eq e').modTile).quiesce

theorem setItemByte (h : s.Canonical) {l : Path} {i off : Nat} {b : Byte} : (s.setItemByte l i off b).Canonical := by
  unfold State.setItemByte
  exact h.writeLS

theorem arrive (h : s.Canonical) {l : Path} {i : Nat} : (s.arrive l i).Canonical := by
  unfold State.arrive
  exact h.setItemByte

theorem itemDone (h : s.Canonical) {l : Path} {i : Nat} : (s.itemDone l i).Canonical := by
  unfold State.itemDone
  exact .ite h ((h.setItemByte.each (fun a x ha => ha.arrive)).quiesce)

theorem setFiring (h : s.Canonical) {l : Path} {on : Bool} : (s.setFiring l on).Canonical := by
  unfold State.setFiring
  dsimp only
  split
  · exact h
  · exact h
  · exact .ite h h.enterFiring
  · exact h.modTile
  · exact .ite h.modTile h
  · exact h

theorem applyLater (h : s.Canonical) {l : Path} {x : Later} : (s.applyLater l x).Canonical := by
  unfold State.applyLater
  split
  · exact h.modTile (by simp)
  · exact h.modTile (by simp)
  · exact (h.modTile (by simp)).quiesce
  · exact h.setFiring

theorem atNext (h : s.Canonical) {l : Path} {b : Later} : (s.atNext l b).Canonical := by
  unfold State.atNext
  exact .ite h.applyLater h.modTile

theorem settle (h : s.Canonical) {l : Path} : (s.settle l).Canonical := by
  unfold State.settle
  exact .ite h (h.modTile.each (fun a x ha => ha.applyLater))

theorem retire (h : s.Canonical) {l : Path} {f : Tile → Tile} (hf : ∀ x, (f x).ls = x.ls := by exact fun _ => rfl) :
    (s.retire l f).Canonical := by
  unfold State.retire
  dsimp only
  have hs := h.setTile (t := l) (x := (f { s.tile l with shadow := (s.tile l).shadow - 1 }).advance)
    (by rw [Tile.advance_ls, hf]; exact h.tile l)
  split
  · exact hs.settle
  · exact hs

theorem retireBranch (h : s.Canonical) {l : Path} {target : Option Word} {f : Tile → Tile}
    (hf : ∀ x, (f x).ls = x.ls := by exact fun _ => rfl) : (s.retireBranch l target f).Canonical := by
  unfold State.retireBranch
  refine h.modTile fun x => ?_
  cases target with
  | none => exact hf _
  | some a => exact (Tile.leaveLoops_ls ..).trans (hf _)

theorem raiseExc (h : s.Canonical) {l : Path} {cause : Nat} {epc : Option Word} {detail insn : Word} :
    (s.raiseExc l cause epc detail insn).Canonical := by
  unfold State.raiseExc
  exact h.modTile

theorem illegal (h : s.Canonical) {l : Path} {insn : Word} : (s.illegal l insn).Canonical := by
  unfold State.illegal
  exact h.raiseExc

theorem fetchedWord (h : s.Canonical) {t : Path} {insn : Word} {f : State → Path → State}
    (hf : ∀ l, (f s l).Canonical) : outCanonical (s.fetchedWord t insn f) := by
  unfold State.fetchedWord
  exact .guard (.ite h (.ite h.raiseExc (.ite h.raiseExc (hf _))))

theorem fetched (h : s.Canonical) {t : Path} {insn : Word} {placed : Bool} {f : State → Path → State}
    (hf : ∀ l, (f s l).Canonical) : outCanonical (s.fetched t insn placed f) := by
  unfold State.fetched
  exact h.fetchedWord fun l => .ite h.raiseExc (hf l)

theorem simple (h : s.Canonical) {t : Path} {insn : Word} {f : Tile → Tile} (hf : ∀ x, (f x).ls = x.ls := by exact fun _ => rfl) :
    outCanonical (s.simple t insn f) := by
  unfold State.simple
  exact h.fetched fun l => h.retire hf

theorem aluR (h : s.Canonical) {t : Path} {fn : Nat} {v : Bool} {rd ra rb : Reg} {op : Word → Word → Word} :
    outCanonical (s.aluR t fn v rd ra rb op) := by
  unfold State.aluR
  exact h.simple (by simp)

theorem aluI (h : s.Canonical) {t : Path} {fn : Nat} {v : Bool} {rd ra : Reg} {imm : Nat} {op : Word → Word} :
    outCanonical (s.aluI t fn v rd ra imm op) := by
  unfold State.aluI
  exact h.simple (by simp)

theorem lsAccess (h : s.Canonical) {t : Path} {insn : Word} {n : Nat} {base : Reg} {off : BitVec 15} {f : State → Path → Nat → State}
    (hf : ∀ l a, (f s l a).Canonical) : outCanonical (s.lsAccess t insn n base off f) := by
  unfold State.lsAccess
  exact h.fetched fun l => .ite h.raiseExc (.ite h.raiseExc (hf _ _))

theorem loadInsn (h : s.Canonical) {t : Path} {insn : Word} {n : Nat} {rt base : Reg} {off : BitVec 15} :
    outCanonical (s.loadInsn t insn n rt base off) := by
  unfold State.loadInsn
  refine h.lsAccess fun l a => ?_
  split
  · next e => exact h.readLS.of_eq e
  · next e => exact (h.readLS.of_eq e).retire (by simp)

theorem storeInsn (h : s.Canonical) {t : Path} {insn : Word} {n : Nat} {rt base : Reg} {off : BitVec 15} :
    outCanonical (s.storeInsn t insn n rt base off) := by
  unfold State.storeInsn
  refine h.lsAccess fun l a => ?_
  split
  · next e => exact h.writeLS.of_eq e
  · next e => exact (h.writeLS.of_eq e).retire

theorem jumpTo (h : s.Canonical) {l : Path} {insn target : Word} {f : Tile → Tile}
    (hf : ∀ x, (f x).ls = x.ls := by exact fun _ => rfl) : (s.jumpTo l insn target f).Canonical := by
  unfold State.jumpTo
  exact .ite h.raiseExc (.ite h.raiseExc (h.retireBranch hf))

theorem branch (h : s.Canonical) {t : Path} {cond : Nat} {v : Bool} {ra rb : Reg} {off : BitVec 14} {test : Word → Word → Bool} :
    outCanonical (s.branch t cond v ra rb off test) := by
  unfold State.branch
  exact h.fetched fun l => .ite h.jumpTo h.retireBranch

theorem crash (h : s.Canonical) {l : Path} {e : Exc} {code : Nat} : (s.crash l e code).Canonical := by
  unfold State.crash
  exact h.modTile.update.raiseTile.settle

theorem enterExc (h : s.Canonical) {l : Path} {e : Exc} : (s.enterExc l e).Canonical := by
  unfold State.enterExc
  dsimp only
  split
  · exact h.crash
  · split
    · exact h.crash
    · split
      · next e' => exact h.writeLS.of_eq e'
      · next e' => exact ((h.writeLS.of_eq e').modTile (by simp)).settle

theorem readDesc (h : s.Canonical) {l : Path} {a : Nat} : (s.readDesc l a).1.Canonical := by
  unfold State.readDesc
  dsimp only
  split
  · exact h
  · split
    · next e =>
        dsimp only
        exact h.readLS.of_eq e
    · next e =>
        split
        · dsimp only
          exact h.readLS.of_eq e
        · split
          · dsimp only
            exact h.readLS.of_eq e
          · split
            · dsimp only
              exact h.readLS.of_eq e
            · split
              · next e' =>
                  dsimp only
                  exact ((h.readLS.of_eq e).readLS).of_eq e'
              · next e' =>
                  dsimp only
                  exact ((h.readLS.of_eq e).readLS).of_eq e'

theorem refuseDesc (h : s.Canonical) {l : Path} {code cond : Nat} {head : Bytes} : (s.refuseDesc l code cond head).Canonical := by
  unfold State.refuseDesc
  exact h.refuse

theorem launchCmd (h : s.Canonical) {l : Path} {c : Command} : (s.launchCmd l c).Canonical := by
  unfold State.launchCmd
  exact h.modTile.tilePacket

theorem dispatch (h : s.Canonical) {t : Path} {unit : Nat} {isOp : Command → Bool} {work : State → Path → Command → State}
    (hw : ∀ a l c, a.Canonical → (work a l c).Canonical) : outCanonical (s.dispatch t unit isOp work) := by
  unfold State.dispatch
  refine .guard ?_
  dsimp only
  split
  · exact h
  · exact .ite (hw _ _ _ h.launchCmd) h

theorem finish (h : s.Canonical) {l : Path} {c : Command} : (s.finish l c).Canonical := by
  unfold State.finish
  exact h.modTile

theorem failCmd (h : s.Canonical) {l : Path} {c : Command} {code : Nat} {detail : Bytes} {injected : Bool} :
    (s.failCmd l c code detail injected).Canonical := by
  unfold State.failCmd
  exact h.modTile.raiseTile

theorem complete (h : s.Canonical) {l : Path} {c : Command} : (s.complete l c).Canonical := by
  unfold State.complete
  have hm : (s.modTile l fun x =>
      let y := x.dropFlight c.id
      if hdrSig c.w0 then y.addTicket (hdrSigt c.w0) 1 else y).Canonical := h.modTile fun x => by dsimp only; split <;> rfl
  dsimp only at hm ⊢
  split
  · exact hm.tilePacket.countPart.itemDone
  · exact hm.tilePacket.countPart

theorem checkLS (h : s.Canonical) {l : Path} {ranges : List (Nat × Nat)} : (s.checkLS l ranges).1.Canonical := by
  unfold State.checkLS
  refine h.foldl_fst fun acc r hacc => ?_
  split
  · split <;> next e' => exact (hacc.readLS.of_eq e').pair
  · exact hacc.fst

theorem sampled (h : s.Canonical) {l : Path} {c : Command} {cands : List Capture} : (s.sampled l c cands).Canonical := by
  unfold State.sampled
  exact h.update

theorem seedChecker (h : s.Canonical) {k : Nat} : (s.seedChecker k).Canonical := by
  unfold State.seedChecker
  exact .ite h.generate.modCluster h.modCluster

theorem arrays (h : s.Canonical) {l : Path} {f : ArrayLevel → ArrayLevel} : (s.arrays l f).Canonical := by
  unfold State.arrays
  exact h.each (fun a x ha => ha.modTile)

theorem writeD (h : s.Canonical) {l : Path} {d : ArrCmd} {rows : List (Bytes × Bytes)} : (s.writeD l d rows).Canonical := by
  unfold State.writeD
  exact h.each (fun a x ha => .ite ha.writeLS ha.writeLS.writeLS)

theorem countSkips (h : s.Canonical) {l : Path} {d : ArrCmd} {rd : Nat → Byte} : (s.countSkips l d rd).Canonical := by
  unfold State.countSkips
  exact .ite h.countPart.countPart.countPart h

theorem freeBytes (h : s.Canonical) {n : Nat} : (s.freeBytes n).1.Canonical := by
  induction n generalizing s with
  | zero => exact h
  | succ n ih => exact ih h.freeWord

theorem partialD (h : s.Canonical) {l : Path} {d : ArrCmd} {t : Nat × Nat} : (s.partialD l d t).Canonical := by
  unfold State.partialD
  exact h.each (fun a x ha => ha.freeBytes.writeLS)

theorem arrayPulse (h : s.Canonical) {l : Path} : (s.arrayPulse l).Canonical := by
  unfold State.arrayPulse
  exact h.arrays

theorem arrayWork (h : s.Canonical) {l : Path} {c : Command} {d : ArrCmd} : (s.arrayWork l c d).Canonical := by
  unfold State.arrayWork
  dsimp only
  split
  · next e => exact h.checkLS.of_eq e
  · next e =>
      split
      · exact (((h.checkLS.of_eq e).arrayPulse).partialD).failCmd
      · exact (((((h.checkLS.of_eq e).arrays).writeD).countSkips).sampled).finish

theorem underlay (h : s.Canonical) {l : Path} {n : Nat} : (s.underlay l n).Canonical := by
  unfold State.underlay
  exact h.arrays

theorem arrayCmd (h : s.Canonical) {l : Path} {c : Command} : (s.arrayCmd l c).Canonical := by
  unfold State.arrayCmd
  dsimp only
  split
  · exact h.failCmd
  · exact .ite h.underlay h.arrayWork

theorem arrayRow (h : s.Canonical) {t : Path} {isOp : Nat → Bool} : outCanonical (s.arrayRow t isOp) := by
  unfold State.arrayRow
  exact h.dispatch (fun a l c ha => ha.arrayCmd)

theorem vecLoad (h : s.Canonical) {l : Path} {c : VecCtx} {x : Tile} : (s.vecLoad l c x).1.Canonical := by
  have hr (a : State) (t : Path) (i n : Nat) (ha : a.Canonical) : (a.readLS t i n).1.Canonical := ha.readLS
  unfold State.vecLoad
  obtain ⟨readLS, hread⟩ : ∃ f, @State.readLS = f := ⟨_, rfl⟩
  rw [hread] at hr ⊢
  refine .foldl_fst h fun acc i hacc => ?_
  split
  · exact hacc
  · split <;> next e => exact (State.Canonical.of_eq (hr _ _ _ _ hacc) e).pair

theorem vecStore (h : s.Canonical) {l : Path} {c : VecCtx} {x : Tile} : (s.vecStore l c x).Canonical := by
  unfold State.vecStore
  exact h.each (fun a x' ha => ha.writeLS)

theorem vecMove (h : s.Canonical) {l : Path} {c : VecCtx} {t : Path} : (s.vecMove l c t).Canonical := by
  unfold State.vecMove
  split
  · split
    · next e => exact h.vecLoad.of_eq e
    · next e => exact (h.vecLoad.of_eq e).modTile
  · exact h.vecStore

theorem vecFault (h : s.Canonical) {l : Path} {j code : Nat} {w pc : Word} {addr : Nat} : (s.vecFault l j code w pc addr).Canonical := by
  unfold State.vecFault
  exact ((h.each (fun a x ha => ha.modTile)).modTile).raiseTile

theorem vecAdvance (h : s.Canonical) {l : Path} {vop : Nat} {mode : Word} : (s.vecAdvance l vop mode).Canonical := by
  unfold State.vecAdvance
  exact .ite (h.each (fun a x ha => ha.modTile)) h

theorem vecEffect (h : s.Canonical) {l : Path} {w sa sb pc step mode : Word} : (s.vecEffect l w sa sb pc step mode).Canonical := by
  unfold State.vecEffect
  dsimp only
  split
  · exact h.vecFault
  · split
    · split
      · exact h.vecFault
      · exact h.each (fun a x ha => ha.vecMove)
    · exact .ite h.modTile ((h.each (fun a x ha => ha.modTile (by simp))).vecAdvance)

theorem runVec (h : s.Canonical) {l : Path} {w sa sb pc step mode : Word} : (s.runVec l w sa sb pc step mode).Canonical := by
  unfold State.runVec
  exact .ite h.vecEffect h.vecEffect.countPart.countPart.tilePacket

theorem drainVec (h : s.Canonical) {l : Path} {fuel : Nat} : (s.drainVec l fuel).Canonical := by
  induction fuel generalizing s with
  | zero => exact h
  | succ fuel ih =>
    unfold State.drainVec
    split
    · exact h
    · split
      · exact h
      · exact .ite h (.ite (ih h.modTile) (.ite h (ih h.modTile.tilePacket.runVec)))

theorem vecRun (h : s.Canonical) {l : Path} : (s.vecRun l).Canonical := by
  unfold State.vecRun
  exact h.drainVec

theorem vecInsn (h : s.Canonical) {t : Path} {vop : Nat} {v : Bool} {vd va vb : Reg} {m : BitVec 3} :
    outCanonical (s.vecInsn t vop v vd va vb m) := by
  unfold State.vecInsn
  exact h.fetchedWord fun l => .ite h.illegal (.ite h.raiseExc (.ite h (h.retire (by simp)).wake.vecRun))

theorem redCmd (h : s.Canonical) {l : Path} {c : Command} : (s.redCmd l c).Canonical := by
  unfold State.redCmd
  dsimp only
  split
  · exact h.failCmd
  · split
    · next e => exact h.checkLS.of_eq e
    · next e => exact ((((h.checkLS.of_eq e).writeLS).countPart).sampled).finish

theorem routeWrite (h : s.Canonical) {l : Path} {d : RouteCmd} {a : Routing} : (s.routeWrite l d a).Canonical := by
  unfold State.routeWrite
  exact (((h.each (fun a' x ha' => ha'.writeLS)).writeLS).writeLS).each (fun a' x ha' => ha'.writeLS)

theorem routeWork (h : s.Canonical) {l : Path} {c : Command} : (s.routeWork l c).Canonical := by
  unfold State.routeWork
  dsimp only
  split
  · exact h.failCmd
  · split
    · next e => exact h.checkLS.of_eq e
    · next e =>
        split
        · exact (h.checkLS.of_eq e).failCmd
        · exact (State.Canonical.ite ((((h.checkLS.of_eq e).routeWrite).countPart).countPart) (((((h.checkLS.of_eq
          e).routeWrite).countPart).countPart).raiseTile)).finish

theorem blockRun (h : s.Canonical) {l : Path} {c : Command} {work : State → State} (hw : ∀ a, a.Canonical → (work a).Canonical) :
    (s.blockRun l c work).Canonical := by
  unfold State.blockRun
  exact (State.Canonical.ite h.modTile (hw _ h)).vecRun

theorem occWork (h : s.Canonical) {l : Path} {c : Command} : (s.occWork l c).Canonical := by
  unfold State.occWork
  dsimp only
  split
  · exact h.failCmd
  · split
    · next e => exact h.checkLS.of_eq e
    · next e => exact (((h.checkLS.of_eq e).writeLS).sampled).finish

theorem qy4Work (h : s.Canonical) {l : Path} {c : Command} : (s.qy4Work l c).Canonical := by
  unfold State.qy4Work
  dsimp only
  split
  · exact h.failCmd
  · split
    · next e => exact h.checkLS.of_eq e
    · next e => exact ((State.Canonical.ite (((h.checkLS.of_eq e).each (fun a x ha => ha.writeLS.writeLS)).modTile) ((h.checkLS.of_eq
      e).each (fun a x ha => ha.writeLS.writeLS))).sampled).finish

theorem accFault (h : s.Canonical) {a : AccCtx} {code va : Nat} : (s.accFault a code va).Canonical := by
  unfold State.accFault
  exact h.failCmd

theorem accEnd (h : s.Canonical) {a : AccCtx} {m : Met} : (s.accEnd a m).Canonical := by
  unfold State.accEnd
  split
  · exact h.finish
  · exact h.accFault

theorem readRows (h : s.Canonical) {a : AccCtx} : (s.readRows a).1.Canonical := by
  unfold State.readRows
  refine h.foldl_fst fun acc r hacc => ?_
  split
  · exact hacc.fst
  · exact hacc.readVA.pair

theorem fillRows (h : s.Canonical) {l : Path} {d : AccCmd} {bs : Bytes} : (s.fillRows l d bs).Canonical := by
  unfold State.fillRows
  exact h.each (fun a x ha => ha.writeLS)

theorem copyLoad (h : s.Canonical) {a : AccCtx} : (s.copyLoad a).Canonical := by
  unfold State.copyLoad
  dsimp only
  split
  · exact h.readRows.fillRows.accFault
  · exact (State.Canonical.ite h.readRows.fillRows.prefetch h.readRows.fillRows).finish

theorem readBlocks (h : s.Canonical) {who : Mover} {reader p : Nat} {ctx : BitVec 12} {va n : Nat} :
    (s.readBlocks who reader p ctx va n).1.Canonical := by
  induction n generalizing s va with
  | zero => exact h
  | succ n ih =>
    unfold State.readBlocks
    split
    · next e => exact h.xlate.of_eq e
    · next e =>
      have hx := h.xlate.of_eq e
      dsimp only
      split
      · split
        · exact hx.countVerify.readVA
        · exact ih hx.countVerify.readVA
      · exact hx.countVerify

theorem readChecked (h : s.Canonical) {a : AccCtx} : (s.readChecked a).1.Canonical := by
  unfold State.readChecked
  refine h.foldl_fst fun acc i hacc => ?_
  split
  · exact hacc.readBlocks.pair
  · exact hacc.fst

theorem copyLoadChk (h : s.Canonical) {a : AccCtx} : (s.copyLoadChk a).Canonical := by
  unfold State.copyLoadChk
  dsimp only
  split
  · exact h.readChecked.fillRows.failCmd
  · exact h.readChecked.fillRows.accFault
  · exact (State.Canonical.ite h.readChecked.fillRows.prefetch h.readChecked.fillRows).finish

theorem transpose (h : s.Canonical) {a : AccCtx} : (s.transpose a).Canonical := by
  unfold State.transpose
  exact (h.readRows.each (fun a' x ha' => ha'.writeLS)).accEnd

theorem gatherRow (h : s.Canonical) {a : AccCtx} {r : Nat} : (s.gatherRow a r).1.Canonical := by
  unfold State.gatherRow
  dsimp only
  split
  · dsimp only
    exact h.writeLS
  · dsimp only
    exact h.readVA.writeLS

theorem gather (h : s.Canonical) {a : AccCtx} : (s.gather a).Canonical := by
  unfold State.gather
  split
  · next e => exact h.checkLS.of_eq e
  · next e =>
      refine .accEnd ?_ 
      refine (h.checkLS.of_eq e).foldl_fst fun acc r hacc => ?_
      split
      · exact hacc.fst
      · exact hacc.gatherRow.fst

theorem prefetchRows (h : s.Canonical) {a : AccCtx} : (s.prefetchRows a).Canonical := by
  unfold State.prefetchRows
  exact (h.each (fun a' x ha' => ha'.prefetch)).finish

theorem place (h : s.Canonical) {target : Path} {plan : LoadPlan} : (s.place target plan).Canonical := by
  unfold State.place
  split
  · split
    · next e => exact h.writeLS.of_eq e
    · next e => exact (h.writeLS.of_eq e).writeLS
  · exact h

theorem progload (h : s.Canonical) {a : AccCtx} : (s.progload a).Canonical := by
  unfold State.progload
  dsimp only
  split
  · exact h.refuse.writeLS.finish
  · split
    · exact h.readVA.accFault
    · split
      · exact h.readVA.refuse.writeLS.finish
      · exact .ite h.readVA.place h.readVA.place.writeLS.finish

theorem copyStore (h : s.Canonical) {a : AccCtx} : (s.copyStore a).Canonical := by
  unfold State.copyStore
  refine .accEnd ?_ 
  refine h.foldl_fst fun acc r hacc => ?_
  split
  · exact hacc.fst
  · exact hacc.writeVA.fst

theorem copyStoreChk (h : s.Canonical) {a : AccCtx} : (s.copyStoreChk a).Canonical := by
  unfold State.copyStoreChk
  refine .accEnd ?_ 
  refine h.foldl_fst fun acc x hacc => ?_
  split
  · exact hacc.fst
  · exact hacc.writeBlock.fst

theorem ybfFault (h : s.Canonical) {a : AccCtx} {code blk : Nat} : (s.ybfFault a code blk).Canonical := by
  unfold State.ybfFault
  exact h.failCmd

theorem expandBlock (h : s.Canonical) {a : AccCtx} {code : List (Nat × Nat × Nat)} {seglen off i : Nat} :
    (s.expandBlock a code seglen off i).1.Canonical := by
  unfold State.expandBlock
  dsimp only
  split
  · dsimp only
    exact h.ybfFault
  · split
    · next e =>
        dsimp only
        exact (h.readVA.of_eq e).accFault
    · next e =>
        split
        · dsimp only
          exact (h.readVA.of_eq e).ybfFault
        · split
          · next e' =>
              dsimp only
              exact (((h.readVA.of_eq e).readVA).of_eq e').accFault
          · next e' =>
              split
              · dsimp only
                exact (((h.readVA.of_eq e).readVA).of_eq e').ybfFault
              · split
                · split
                  · dsimp only
                    exact ((((((h.readVA.of_eq e).readVA).of_eq e').modTile).update).countPart).ybfFault
                  · dsimp only
                    exact ((((((h.readVA.of_eq e).readVA).of_eq e').modTile).update).countPart).failCmd
                · dsimp only
                  exact ((((((h.readVA.of_eq e).readVA).of_eq e').modTile).update).writeLS).countPart

theorem expandBlocks (h : s.Canonical) {a : AccCtx} {code : List (Nat × Nat × Nat)} {seglen n off i : Nat} :
    (s.expandBlocks a code seglen n off i).Canonical := by
  induction n generalizing s off i with
  | zero => exact .ite h.countPart.finish h.ybfFault
  | succ n ih =>
    unfold State.expandBlocks
    split
    · next e => exact h.expandBlock.of_eq e
    · next e => exact ih (h.expandBlock.of_eq e)

theorem expand (h : s.Canonical) {a : AccCtx} : (s.expand a).Canonical := by
  unfold State.expand
  split
  · next e => exact (h.readVA.of_eq e).accFault
  · next e => exact .ite ((h.readVA.of_eq e).ybfFault) (.ite ((h.readVA.of_eq e).ybfFault) ((h.readVA.of_eq e).expandBlocks))

theorem storeBlocks (h : s.Canonical) {a : AccCtx} {off : Nat} {bs : List Bytes} : (s.storeBlocks a off bs).1.Canonical := by
  induction bs generalizing s off with
  | nil => exact h
  | cons b bs ih =>
    unfold State.storeBlocks
    split
    · exact h
    · split
      · next e => exact h.writeVA.of_eq e
      · next e => exact ih (h.writeVA.of_eq e)

theorem compress (h : s.Canonical) {a : AccCtx} : (s.compress a).Canonical := by
  unfold State.compress
  dsimp only
  split
  · next e => exact (h.writeVA.of_eq e).accFault
  · next e =>
      split
      · next e' => exact (((h.writeVA.of_eq e).storeBlocks).of_eq e').accFault
      · next e' =>
          split
          · next e'' => exact (((((h.writeVA.of_eq e).storeBlocks).of_eq e').writeVA).of_eq e'').accFault
          · next e'' => exact .ite (((((((((h.writeVA.of_eq e).storeBlocks).of_eq e').writeVA).of_eq
            e'').writeLS).countPart).countPart).finish) ((((((((h.writeVA.of_eq e).storeBlocks).of_eq e').writeVA).of_eq
              e'').writeLS).raiseTile).finish)

theorem accDispatch (h : s.Canonical) {unit : Nat} {work : State → AccCtx → State} {l : Path} {c : Command}
    (hw : ∀ s a, s.Canonical → (work s a).Canonical) : (s.accDispatch unit work l c).Canonical := by
  unfold State.accDispatch
  dsimp only
  split
  · exact h.failCmd
  · split
    · exact h.failCmd
    · exact hw _ _ h

theorem storing (h : s.Canonical) {work : State → AccCtx → State} {a : AccCtx}
    (hw : ∀ s a, s.Canonical → (work s a).Canonical) : (State.storing work s a).Canonical := by
  unfold State.storing
  split
  · next e => exact h.checkLS.of_eq e
  · next e => exact hw _ _ (h.checkLS.of_eq e)

theorem accRow (h : s.Canonical) {t : Path} {unit : Nat} {isOp : Nat → Bool} {work : State → AccCtx → State}
    (hw : ∀ s a, s.Canonical → (work s a).Canonical) : outCanonical (s.accRow t unit isOp work) := by
  unfold State.accRow
  exact h.dispatch fun a l c ha => ha.accDispatch hw

theorem unstop (h : s.Canonical) {p : Nat} : (s.unstop p).Canonical := by
  unfold State.unstop
  exact .ite h.modPart h

theorem applyDoorbell (h : s.Canonical) {cmd : Nat} {arg : BitVec 40} {t : Path} : (s.applyDoorbell cmd arg t).Canonical := by
  unfold State.applyDoorbell
  dsimp only
  split
  · exact .ite h.atNext h
  · exact .ite h.atNext h
  · exact .ite h.atNext h
  · exact h.modTile
  · refine .ite (h.modTile fun x => ?_) h
    exact foldl_keeps Tile.ls (f := fun y k => { y with tickets := mapSet 0 y.tickets k 0 }) (fun _ _ => rfl) x _
  · exact .ite h.atNext h
  · exact h

theorem setResult (h : s.Canonical) {win : WinAddr} {r : BitVec 4} : (s.setResult win r).Canonical := by
  unfold State.setResult
  exact h.update

theorem doorbell (h : s.Canonical) {win : WinAddr} {cmd : Nat} {ctx : BitVec 12} {rsv : BitVec 4} {arg : BitVec 40} :
    (s.doorbell win cmd ctx rsv arg).Canonical := by
  unfold State.doorbell
  split
  · exact h
  · split
    · exact h.setResult.refuse
    · split
      · exact (((h.setResult.each (fun a x ha => ha.wake)).each (fun a x ha => ha.tilePacket)).each (fun a x ha =>
        ha.applyDoorbell)).unstop
      · exact ((h.setResult.each (fun a x ha => ha.wake)).each (fun a x ha => ha.tilePacket)).each (fun a x ha => ha.applyDoorbell)

theorem setSelect (h : s.Canonical) {ses : Ses} {idx sub d v : Nat} : (s.setSelect ses idx sub d v).Canonical := by
  unfold State.setSelect
  exact h.update

theorem refuseWrite (h : s.Canonical) {w : WriteReq} {source code cond : Nat} : (s.refuseWrite w source code cond).Canonical := by
  unfold State.refuseWrite
  dsimp only
  refine .refuse ?_ 
  split
  · dsimp only
    exact h.freeWord
  · exact h

theorem roleDenied (h : s.Canonical) {w : WriteReq} : (s.roleDenied w).Canonical := by
  unfold State.roleDenied
  exact .ite h.refuseWrite.update h.refuseWrite

theorem putStatus (h : s.Canonical) {w : WriteReq} {put : State → Role → Put} (hp : ∀ r, (put s r).Canonical) :
    (s.putStatus w put).1.Canonical := by
  unfold State.putStatus
  dsimp only
  split
  · dsimp only
    exact h.refuseWrite
  · split
    · dsimp only
      exact h.roleDenied
    · have hr := hp (s.role w.ses)
      split
      · next e => rwa [e] at hr
      · dsimp only
        exact h.refuseWrite

theorem putRow (h : s.Canonical) {w : WriteReq} {put : State → Role → Put} (hp : ∀ r, (put s r).Canonical) :
    outCanonical (s.putRow w put) := by
  unfold State.putRow
  exact .next (.ite (h.putStatus hp) h)

theorem requestRefused (h : s.Canonical) {w : WriteReq} {source code cond : Nat} {slot : Option Nat} {f : Part → Part} :
    (s.requestRefused w source code cond slot f).Canonical := by
  unfold State.requestRefused
  split
  · exact h.refuseWrite.modPart
  · exact h.refuseWrite

theorem newKey (h : s.Canonical) : s.newKey.2.Canonical := by
  unfold State.newKey
  split
  · dsimp only
    exact h.generate
  · dsimp only
    exact h.freeWord.freeWord

theorem beginScrub (h : s.Canonical) {n : Nat} {owner : BitVec 8} : (s.beginScrub n owner).Canonical := by
  unfold State.beginScrub
  exact h.newKey.modSlab.update

theorem slabPut (h : s.Canonical) {n : Nat} {owner : BitVec 8} : (s.slabPut n owner).Canonical := by
  unfold State.slabPut
  split
  · exact h.beginScrub.ok
  · exact .refused

theorem putSlabOwner (h : s.Canonical) {ses : Ses} {r : Role} {v : BitVec 8} : (s.putSlabOwner ses r v).Canonical := by
  unfold State.putSlabOwner
  dsimp only
  split
  · exact .refused
  · exact .deny (.deny h.slabPut)

theorem putRekey (h : s.Canonical) {ses : Ses} {r : Role} {v : BitVec 8} : (s.putRekey ses r v).Canonical := by
  unfold State.putRekey
  dsimp only
  split
  · exact .refused
  · exact .deny h.slabPut

theorem wipeSlab (h : s.Canonical) {n : Nat} : (s.wipeSlab n).Canonical := ⟨mapWf_filter _ h.tier, h.host, h.stores⟩

theorem unmapPages (h : s.Canonical) {p : Nat} {gone : List PageMap} : (s.unmapPages p gone).Canonical := by
  unfold State.unmapPages
  exact h.update

theorem mapWait (h : s.Canonical) {p : Nat} : (s.mapWait p).Canonical := by
  unfold State.mapWait
  exact h.modPart

theorem mapEnd (h : s.Canonical) {p code : Nat} : (s.mapEnd p code).Canonical := by
  unfold State.mapEnd
  exact h.modPart

theorem bindCtx (h : s.Canonical) {c p slot : Nat} : (s.bindCtx c p slot).Canonical := by
  unfold State.bindCtx
  exact h.update

theorem unbindCtx (h : s.Canonical) {c p : Nat} : (s.unbindCtx c p).Canonical := by
  unfold State.unbindCtx
  exact h.unmapPages.update.mapWait

theorem putCtxPart (h : s.Canonical) {ses : Ses} {r : Role} {v : BitVec 8} : (s.putCtxPart ses r v).Canonical := by
  unfold State.putCtxPart
  dsimp only
  split
  · split
    · exact .refused
    · exact .deny (.deny h.unbindCtx.ok)
  · exact .deny (.deny (.deny (.deny h.bindCtx.ok)))

theorem purgeTlbs (h : s.Canonical) {f : PageMap → Bool} : (s.purgeTlbs f).Canonical := by
  unfold State.purgeTlbs
  exact h.updateTiles

theorem mapDo (h : s.Canonical) {p : Nat} {q : MapReq} : (s.mapDo p q).Canonical := by
  unfold State.mapDo
  split
  · exact h.update.mapEnd
  · exact h.unmapPages.mapWait
  · exact .ite h.update.update.mapWait h.update.purgeTlbs.mapEnd

theorem putMap (h : s.Canonical) {w : WriteReq} {r : Role} : (s.putMap w r).Canonical := by
  unfold State.putMap
  dsimp only
  split
  · exact h.requestRefused.ok
  · exact h.requestRefused.ok
  · split
    · exact h.requestRefused.ok
    · exact h.mapDo.ok

theorem mapRow (h : s.Canonical) {ses : Ses} {op : Nat} {rec' : BitVec 256} : outCanonical (s.mapRow ses op rec') := by
  unfold State.mapRow
  exact h.putRow (fun r => h.putMap)

theorem putRetire (h : s.Canonical) {r : Role} {page : Nat} : (s.putRetire r page).Canonical := by
  unfold State.putRetire
  exact .deny (.deny h.update.ok)

theorem descEnd (h : s.Canonical) {who : Mover} {p : Nat} {ctx : BitVec 12} {va off n : Nat} :
    (s.descEnd who p ctx va off n).1.Canonical := by
  induction n generalizing s off with
  | zero => exact h
  | succ n ih =>
    unfold State.descEnd
    split
    · next e => exact ih (h.readVA.of_eq e)
    · next e => exact h.readVA.of_eq e

theorem readImage (h : s.Canonical) {who : Mover} {p : Nat} {ctx : BitVec 12} {va : Nat} : (s.readImage who p ctx va).1.Canonical := by
  unfold State.readImage
  dsimp only
  split
  · next e =>
      dsimp only
      exact h.readVA.of_eq e
  · next e =>
      split
      · dsimp only
        exact h.readVA.of_eq e
      · split
        · next e' =>
            dsimp only
            exact ((h.readVA.of_eq e).descEnd).of_eq e'
        · next e' =>
            split
            · next e'' =>
                dsimp only
                exact ((((h.readVA.of_eq e).descEnd).of_eq e').readVA).of_eq e''
            · next e'' =>
                dsimp only
                exact ((((h.readVA.of_eq e).descEnd).of_eq e').readVA).of_eq e''

theorem loadRefused (h : s.Canonical) {slot : Option Nat} {w : WriteReq} {source code cond : Nat} :
    (s.loadRefused slot w source code cond).Canonical := by
  unfold State.loadRefused
  exact h.requestRefused

theorem loadRun (h : s.Canonical) {w : WriteReq} {p : Nat} {held : Ses × BitVec 128} : (s.loadRun w p held).Canonical := by
  unfold State.loadRun
  dsimp only
  split
  · exact h.loadRefused
  · split
    · exact h.modPart
    · split
      · exact h.readImage.loadRefused
      · split
        · exact h.readImage.loadRefused
        · exact h.readImage.place.modPart

theorem putLoad (h : s.Canonical) {w : WriteReq} {r : Role} {held : Ses × BitVec 128} : (s.putLoad w r held).Canonical := by
  unfold State.putLoad
  dsimp only
  split
  · exact h.requestRefused.ok
  · split
    · exact h.requestRefused.ok
    · split
      · split <;> exact h.requestRefused.ok
      · exact h.loadRun.ok

theorem retryLoad (h : s.Canonical) {p : Nat} : (s.retryLoad p).Canonical := by
  unfold State.retryLoad
  split
  · exact h.loadRun
  · exact h

theorem linkEvent (h : s.Canonical) {c code part : Nat} {more : Bytes} : (s.linkEvent c code part more).Canonical := by
  unfold State.linkEvent
  exact h.raise

theorem endCollective (h : s.Canonical) {key reason : Nat} : (s.endCollective key reason).Canonical := by
  unfold State.endCollective
  split
  · exact h
  · exact h.raiseWith

theorem portLost (h : s.Canonical) {c : Nat} {st : PortState} {reason : Nat} {after : State → State}
    (ha : ∀ a, a.Canonical → (after a).Canonical) : (s.portLost c st reason after).Canonical := by
  unfold State.portLost
  exact (ha _ h.modPort).each fun a k ha => ha.endCollective

theorem failPort (h : s.Canonical) {c reason : Nat} : (s.failPort c reason).Canonical := by
  unfold State.failPort
  exact .ite (h.portLost (fun a ha => ha.linkEvent)) (.ite (h.sendControl.portLost (fun a ha => ha.each (fun a' x ha' => ha'.linkEvent)))
    (.ite (h.portLost (fun a ha => ha.linkEvent)) (h.portLost (fun a ha => ha.linkEvent))))

theorem forward (h : s.Canonical) {c : Nat} {m : Msg} {vc : BitVec 3} {sh : Bool} {n : Nat} : (s.forward c m vc sh n).Canonical := by
  unfold State.forward
  dsimp only
  split
  · exact h.modPort
  · exact h.modPort.modPort

theorem strayEvent (h : s.Canonical) {key part ctx : Nat} {gid : BitVec 16} : (s.strayEvent key part ctx gid).Canonical := by
  unfold State.strayEvent
  exact .ite h.update.raise h

theorem strayMsg (h : s.Canonical) {gid : BitVec 16} : (s.strayMsg gid).Canonical := by
  unfold State.strayMsg
  split
  · exact h.strayEvent
  · exact h.countPart.strayEvent

theorem accept (h : s.Canonical) {c : Nat} {m : Msg} {vc : BitVec 3} {sh : Bool} {n : Nat} : (s.accept c m vc sh n).Canonical := by
  unfold State.accept
  exact .ite h.forward (.ite h.modPort.strayMsg h.modPort)

theorem tagFailed (h : s.Canonical) {c : Nat} : (s.tagFailed c).Canonical := by
  unfold State.tagFailed
  exact .ite h.modPort.failPort h.modPort

theorem rxData (h : s.Canonical) {c : Nat} {f : Bytes} : (s.rxData c f).Canonical := by
  unfold State.rxData
  dsimp only
  split
  · exact h.modPort
  · split
    · exact h
    · split
      · exact h
      · split
        · exact h.modPort
        · split
          · exact h.tagFailed
          · exact h.modPort.accept

theorem dropControl (h : s.Canonical) {c : Nat} : (s.dropControl c).Canonical := by
  unfold State.dropControl
  exact h.modPort

theorem countFec (h : s.Canonical) {c : Nat} {good : Bool} : (s.countFec c good).Canonical := by
  unfold State.countFec
  exact .ite h.freeWord.modPort h.freeWord.modPort.freeWord.modPort

theorem stall (h : s.Canonical) {c : Nat} {f : Bytes} {stamp : Nat} : (s.stall c f stamp).Canonical := by
  unfold State.stall
  exact h.modPort

theorem frameIn (h : s.Canonical) {c : Nat} {f : Bytes} : (s.frameIn c f).Canonical := by
  unfold State.frameIn
  exact .ite h (.ite h.stall (.ite h.countFec.dropControl h.countFec.rxData))

theorem miswire (h : s.Canonical) {c : Nat} {f : Bytes} : (s.miswire c f).Canonical := by
  unfold State.miswire
  exact .ite h.modPort h.modPort.linkEvent

theorem ctagFailed (h : s.Canonical) {c : Nat} {f : Bytes} : (s.ctagFailed c f).Canonical := by
  unfold State.ctagFailed
  exact .ite h.modPort.dropControl.miswire h.modPort.dropControl

theorem rxControl (h : s.Canonical) {c kind : Nat} {f : Bytes} {stamp : Nat} {use : State → State}
    (hu : ∀ a, a.Canonical → (use a).Canonical) : (s.rxControl c kind f stamp use).Canonical := by
  unfold State.rxControl
  exact .ite h (.ite h.stall (.ite h.countFec.dropControl (.ite h.countFec.ctagFailed (.ite h.countFec.dropControl
    (.ite h.countFec (hu _ h.countFec.modPort))))))

theorem tryUp (h : s.Canonical) {c : Nat} : (s.tryUp c).Canonical := by
  unfold State.tryUp
  exact .ite h (.ite (.ite h.modPort h.modPort.linkEvent) (.ite h.modPort.modPort.linkEvent h.modPort))

theorem peerClosed (h : s.Canonical) {c : Nat} {f : Bytes} : (s.peerClosed c f).Canonical := by
  unfold State.peerClosed
  exact h.portLost (fun a ha => ha.modPort.linkEvent)

theorem rxHello (h : s.Canonical) {c : Nat} {f : Bytes} : (s.rxHello c f).Canonical := by
  unfold State.rxHello
  exact .ite h.peerClosed (.ite h (.ite h.modPort.tryUp h.miswire))

theorem helloIn (h : s.Canonical) {c : Nat} {f : Bytes} : (s.helloIn c f).Canonical := by
  unfold State.helloIn
  exact h.rxControl (fun a ha => ha.rxHello)

theorem startReplay (h : s.Canonical) {c : Nat} {nakn : BitVec 4} : (s.startReplay c nakn).Canonical := by
  unfold State.startReplay
  exact .ite ((State.Canonical.ite h.modPort.modPort.linkEvent h.modPort).failPort) (.ite h.modPort.modPort.linkEvent h.modPort)

theorem rxCredit (h : s.Canonical) {c : Nat} {f : Bytes} : (s.rxCredit c f).Canonical := by
  unfold State.rxCredit
  exact .ite h (.ite h.modPort.startReplay h.modPort)

theorem creditIn (h : s.Canonical) {c : Nat} {f : Bytes} : (s.creditIn c f).Canonical := by
  unfold State.creditIn
  exact h.rxControl (fun a ha => ha.rxCredit)

theorem sendNew (h : s.Canonical) {c : Nat} {m : OutMsg} {turn : Turn} : (s.sendNew c m turn).Canonical := by
  unfold State.sendNew
  exact .ite h.modPort.linkEvent h.modPort

theorem sendAgain (h : s.Canonical) {c : Nat} {e : SentFrame} : (s.sendAgain c e).Canonical := by
  unfold State.sendAgain
  exact h.modPort

theorem sendFrame (h : s.Canonical) {c : Nat} : (s.sendFrame c).Canonical := by
  unfold State.sendFrame
  dsimp only
  split
  · exact h
  · split
    · exact .ite h.sendAgain h
    · split
      · exact h
      · split
        · exact h
        · split
          · exact h.sendNew
          · exact h.modPort

theorem closeOff (h : s.Canonical) {c : Nat} : (s.closeOff c).Canonical := by
  unfold State.closeOff
  exact h.modPort

theorem putEnable (h : s.Canonical) {ses : Ses} {r : Role} {v : Nat} : (s.putEnable ses r v).Canonical := by
  unfold State.putEnable
  refine .deny ?_
  split
  · exact h.modPort.ok
  · refine .deny ?_
    split
    · exact .deny h.modPort.ok
    · exact h.modPort.ok
    · exact h.modPort.closeOff.ok

theorem closePort (h : s.Canonical) {c : Nat} : (s.closePort c).Canonical := by
  unfold State.closePort
  exact (h.each (fun a x ha => ha.sendControl)).closeOff

theorem takeRx (h : s.Canonical) {c : Nat} {want : Msg → Bool} {x : Msg × State} (e : s.takeRx c want = some x) : x.2.Canonical := by
  unfold State.takeRx at e
  split at e
  · split at e
    · cases e
      dsimp only
      exact h.modPort
    · cases e
  · cases e

theorem tsRead (h : s.Canonical) {a : TsCtx} {va len : Nat} : (s.tsRead a va len).1.Canonical := by
  unfold State.tsRead
  dsimp only
  split
  · next e =>
      dsimp only
      exact h.readBlocks.of_eq e
  · next e =>
      dsimp only
      exact h.readBlocks.of_eq e
  · next e =>
      dsimp only
      exact h.readBlocks.of_eq e

theorem tsWrite (h : s.Canonical) {a : TsCtx} {va : Nat} {bs : Bytes} : (s.tsWrite a va bs).1.Canonical := by
  unfold State.tsWrite
  split
  · next e =>
      dsimp only
      exact h.writeBlock.of_eq e
  · next e =>
      dsimp only
      exact h.writeBlock.of_eq e

theorem tsWrites (h : s.Canonical) {a : TsCtx} {va : Nat} {bs : Bytes} : (s.tsWrites a va bs).1.Canonical := by
  unfold State.tsWrites
  refine h.foldl_fst (fun acc x hacc => (hacc.andThen (fun a' x' ha' => ha'.tsWrite.fst)).fst)

theorem tsPatch (h : s.Canonical) {a : TsCtx} {va : Nat} {bs : Bytes} {stop : Nat} : (s.tsPatch a va bs stop).1.Canonical := by
  unfold State.tsPatch
  exact h.tsRead.andThen (fun a' x ha' => ha'.tsWrite.fst)

theorem stageRead (h : s.Canonical) {a : TsCtx} {x : Span} {b : Nat} : (s.stageRead a x b).1.Canonical := by
  unfold State.stageRead
  exact .andThen h.tsRead fun s g hs => .andThen hs.tsRead fun s e hs => .andThen hs.tsRead fun s m hs =>
    .andThen hs.tsRead fun s ms hs => by
      dsimp only
      split
      · exact .andThen hs.tsRead fun s v hs => .andThen hs.tsRead fun s vs hs => hs.pair
      · exact hs.pair

theorem stageBucket (h : s.Canonical) {a : TsCtx} {seed : DWord} {x : Span} {h' : Hyper} {acc : StageAcc} {b : Nat} :
    (s.stageBucket a seed x h' acc b).1.Canonical := by
  unfold State.stageBucket
  exact h.stageRead.andThen (fun a' x' ha' => (ha'.tsWrites.andThen (fun a'' x'' ha'' => (ha''.tsWrite.andThen (fun a''' x''' ha''' =>
    ha'''.pair)).fst)).fst)

theorem overBuckets {α : Type} {f : State → α → Nat → Trial α} {t : Trial α} {n : Nat} (h : t.1.Canonical)
    (hf : ∀ a v b, a.Canonical → fstCanonical (f a v b)) : (Machine.overBuckets f t n).1.Canonical := by
  unfold Machine.overBuckets
  refine .foldl_fst h fun t b ht => .andThen ht fun a v ha => ?_
  split
  · next e => exact State.Canonical.pair (.of_eq (hf a v b ha) e)
  · exact hf a v b ha

theorem readSpan (h : s.Canonical) {a : TsCtx} : (s.readSpan a).1.Canonical := by
  unfold State.readSpan
  refine h.tsRead.andThen fun s' b hs' => ?_
  split <;> exact hs'.pair

theorem readHyper (h : s.Canonical) {a : TsCtx} {x : Span} : (s.readHyper a x).1.Canonical := by
  unfold State.readHyper
  exact h.tsRead.andThen (fun a' x' ha' => ha'.pair)

theorem stage (h : s.Canonical) {a : TsCtx} : (s.stage a).1.Canonical := by
  unfold State.stage
  dsimp only
  refine h.readSpan.andThen fun s' x hs' => ?_
  split
  · exact hs'.pair
  · split
    · exact hs'.pair
    · exact (hs'.readHyper.andThen (fun a' x' ha' => ((ha'.overBuckets (fun a'' v b ha'' => ha''.stageBucket.fst)).andThen (fun a'' x''
      ha'' => ha''.modPart.pair)).fst)).fst

theorem normsum (h : s.Canonical) {a : TsCtx} : (s.normsum a).1.Canonical := by
  unfold State.normsum
  exact h.tsWrite

theorem verdictEvents (h : s.Canonical) {a : TsCtx} : (s.verdictEvents a).Canonical := by
  unfold State.verdictEvents
  exact .ite (.ite h.raiseTile.raiseTile h.raiseTile) h

theorem verdictCmd (h : s.Canonical) {a : TsCtx} : (s.verdictCmd a).1.Canonical := by
  unfold State.verdictCmd
  refine h.tsRead.andThen fun s' b hs' => ?_
  split
  · exact hs'.pair
  · exact hs'.modPart.verdictEvents.pair

theorem commitBucket (h : s.Canonical) {a : TsCtx} {seed : DWord} {x : Span} {h' : Hyper} {b : Nat} :
    (s.commitBucket a seed x h' b).1.Canonical := by
  unfold State.commitBucket
  exact .andThen h.tsRead fun s w hs => .andThen hs.tsRead fun s st hs => .andThen hs.tsRead fun s sc hs =>
    .andThen hs.tsWrites fun s _ hs => .andThen hs.tsWrites fun s _ hs => .andThen hs.tsPatch fun s _ hs => by
      split
      · exact .andThen hs.tsWrites fun s _ hs => hs.tsPatch.fst
      · exact hs.pair

theorem commit (h : s.Canonical) {a : TsCtx} : (s.commit a).1.Canonical := by
  unfold State.commit
  dsimp only
  refine h.readSpan.andThen fun s' x hs' => ?_
  split
  · exact hs'.pair
  · split
    · exact hs'.pair
    · exact (hs'.readHyper.andThen (fun a' x' ha' => (ha'.overBuckets (fun a'' v b ha'' => ha''.commitBucket.fst)).fst)).fst

theorem engineChecks (h : s.Canonical) : s.engineChecks.Canonical := by
  unfold State.engineChecks
  exact h.freeWord.update

theorem tsEnd {l : Path} {c : Command} {t : Trial Unit} (h : t.1.Canonical) : (State.tsEnd l c t).Canonical := by
  obtain ⟨a, e | x⟩ := t
  · exact (State.Canonical.engineChecks h).failCmd
  · exact (State.Canonical.engineChecks h).finish

theorem tsDispatch (h : s.Canonical) {work : State → TsCtx → Trial Unit} {l : Path} {c : Command}
    (hw : ∀ s a, s.Canonical → fstCanonical (work s a)) : (s.tsDispatch work l c).Canonical := by
  unfold State.tsDispatch
  split
  · exact h.failCmd
  · split
    · exact h.failCmd
    · exact State.Canonical.tsEnd (hw _ _ h)

theorem tsRow (h : s.Canonical) {t : Path} {top : Nat} {work : State → TsCtx → Trial Unit}
    (hw : ∀ s a, s.Canonical → fstCanonical (work s a)) : outCanonical (s.tsRow t top work) := by
  unfold State.tsRow
  exact h.dispatch fun a l c ha => ha.tsDispatch hw

end State.Canonical
end Sys2Proof.Machine
end

section
/-! SUPPORT for O16. The shuttle and the outer exchange keep the memories canonical. -/

-- One theorem after the other: elaborated side by side, their threads run out of memory.
set_option Elab.async false

namespace Sys2Proof.Machine
namespace State.Canonical
variable {s : State}

theorem shRead (h : s.Canonical) {x : Slot} {key : Nat} {local' chk : Bool} {a len : Nat} :
    (s.shRead x key local' chk a len).1.Canonical := by
  unfold State.shRead
  dsimp only
  split
  · split
    · next e' =>
        dsimp only
        exact h.readLS.of_eq e'
    · next e' =>
        dsimp only
        exact h.readLS.of_eq e'
  · split
    · split
      · next e' =>
          dsimp only
          exact h.readBlocks.of_eq e'
      · next e' =>
          dsimp only
          exact h.readBlocks.of_eq e'
      · next e' =>
          dsimp only
          exact h.readBlocks.of_eq e'
    · split
      · next e =>
          dsimp only
          exact h.readVA.of_eq e
      · next e =>
          dsimp only
          exact h.readVA.of_eq e

theorem patchBlock (h : s.Canonical) {x : Slot} {key a : Nat} {bs : Bytes} : (s.patchBlock x key a bs).1.Canonical := by
  unfold State.patchBlock
  dsimp only
  split
  · next e =>
      dsimp only
      exact h.xlate.of_eq e
  · next e =>
      split
      · next e' =>
          dsimp only
          exact (h.xlate.of_eq e).writeBlock.of_eq e'
      · next e' =>
          dsimp only
          exact (h.xlate.of_eq e).writeBlock.of_eq e'

theorem shWrite (h : s.Canonical) {x : Slot} {key : Nat} {local' chk : Bool} {a : Nat} {bs : Bytes} :
    (s.shWrite x key local' chk a bs).1.Canonical := by
  unfold State.shWrite
  dsimp only
  split
  · exact h
  · split
    · split
      · next e' =>
          dsimp only
          exact h.writeLS.of_eq e'
      · next e' =>
          dsimp only
          exact h.writeLS.of_eq e'
    · split
      · split
        · refine h.foldl_fst fun t e'' ht => ?_
          refine ht.andThen fun s' x' hs' => ?_
          split <;> next e''' => exact (hs'.writeBlock.of_eq e''').pair
        · exact h.patchBlock
      · split
        · next e =>
            dsimp only
            exact h.writeVA.of_eq e
        · next e =>
            dsimp only
            exact h.writeVA.of_eq e

theorem readUnits (h : s.Canonical) {x : Slot} {key u' n : Nat} : (s.readUnits x key u' n).1.Canonical := by
  unfold State.readUnits
  exact h.shRead

theorem readBe (h : s.Canonical) {x : Slot} {key u' : Nat} : (s.readBe x key u').1.Canonical := by
  unfold State.readBe
  exact h.shRead

theorem writeUnits (h : s.Canonical) {x : Slot} {key u' : Nat} {bs : Bytes} : (s.writeUnits x key u' bs).1.Canonical := by
  unfold State.writeUnits
  split
  · refine h.foldl_fst (fun acc x' hacc => (hacc.andThen (fun a x'' ha => (ha.shWrite.andThen (fun a' x''' ha' =>
    ha'.shWrite.fst)).fst)).fst)
  · exact h.shWrite

theorem readWire (h : s.Canonical) {x : Slot} {key u' n : Nat} : (s.readWire x key u' n).1.Canonical := by
  unfold State.readWire
  split
  · refine h.foldl_fst (fun acc x' hacc => (hacc.andThen (fun a x'' ha => (ha.readUnits.andThen (fun a' x''' ha' => (ha'.readBe.andThen
    (fun a'' x'''' ha'' => ha''.pair)).fst)).fst)).fst)
  · exact h.readUnits

theorem sourceOf (h : s.Canonical) {x : Slot} {key : Nat} {t : Transfer} {u' n : Nat} : (s.sourceOf x key t u' n).1.Canonical := by
  unfold State.sourceOf
  split
  · refine h.foldl_fst (fun acc x' hacc => (hacc.andThen (fun a x'' ha => (ha.readUnits.andThen (fun a' x''' ha' => ha'.pair)).fst)).fst)
  · split
    · exact h.readUnits
    · exact h.readWire

theorem sinkOf (h : s.Canonical) {x : Slot} {key peer u' : Nat} {bs : Bytes} : (s.sinkOf x key peer u' bs).1.Canonical := by
  have hstep (acc : Trial Unit × Nat) (e : Nat × Nat) (hacc : acc.1.1.Canonical) :
      fstCanonical ((acc.1.andThen fun s1 _ => s1.writeUnits x key e.1 (slice bs (64 * acc.2) (64 * e.2)))) :=
    .andThen hacc fun a _ ha => ha.writeUnits.fst
  unfold State.sinkOf
  split
  · refine List.foldlRecOn (motive := fun acc : Trial Unit × Nat => acc.1.1.Canonical) _ _ h fun acc hacc e _ => ?_
    exact hstep acc e hacc
  · exact h.writeUnits

theorem residueFail (h : s.Canonical) {x : Slot} {opk : Nat} {injected : Bool} : (s.residueFail x opk injected).1.Canonical := by
  unfold State.residueFail
  dsimp only
  exact h.raise

theorem residue (h : s.Canonical) {x : Slot} {opk n : Nat} {ok : Bool} : (s.residue x opk n ok).1.Canonical := by
  unfold State.residue
  dsimp only
  split
  · exact h
  · split
    · exact (State.Canonical.ite h h.update).update.residueFail
    · split
      · exact (State.Canonical.ite h h.update).residueFail
      · dsimp only
        exact .ite h h.update

theorem combined (h : s.Canonical) {x : Slot} {key u' : Nat} : (s.combined x key u').1.Canonical := by
  unfold State.combined
  exact h.readWire.andThen (fun a x' ha => (ha.residue.andThen (fun a' x'' ha' => ha'.pair)).fst)

theorem modSlot (h : s.Canonical) {key : Nat} {f : Slot → Slot} : (s.modSlot key f).Canonical := by
  unfold State.modSlot
  split
  · exact h
  · exact h.update

theorem slotSend (h : s.Canonical) {key : Nat} {x : Slot} {mt : BitVec 4} {q : Nat} {slot : BitVec 4} {offset : Nat} {payload : Bytes}
    {done : Nat → State → State} (hdone : ∀ a0 a1, a1.Canonical → (done a0 a1).Canonical) : (s.slotSend key x mt q slot offset payload
    done).Canonical := by
  unfold State.slotSend
  split
  · exact h
  · split
    · next e' => exact hdone _ _ (h.post e')
    · exact h.endCollective

theorem sendCts (h : s.Canonical) {key : Nat} {x : Slot} {q kind first count : Nat} {done : State → State}
    (hdone : ∀ a0, a0.Canonical → (done a0).Canonical) : (s.sendCts key x q kind first count done).Canonical := by
  unfold State.sendCts
  exact h.slotSend (fun a0 a1 ha0 => hdone _ ha0)

theorem sendAgainst (h : s.Canonical) {key : Nat} {x : Slot} {mt : BitVec 4} {q : Nat} {slot : BitVec 4} {offset : Nat}
    {payload : Bytes} {mark : Slot → Slot} : (s.sendAgainst key x mt q slot offset payload mark).Canonical := by
  unfold State.sendAgainst
  exact h.slotSend (fun a0 a1 ha0 => ha0.modSlot)

theorem slotFault (h : s.Canonical) {key : Nat} {x : Slot} {code : Nat} {det : Bytes} {injected : Bool} :
    (s.slotFault key x code det injected).Canonical := by
  unfold State.slotFault
  exact .ite h h.raise

theorem tried {α : Type} {key : Nat} {x : Slot} {t : Trial α} {f : State → α → State} (h : t.1.Canonical)
    (hf : ∀ a v, a.Canonical → (f a v).Canonical) : (State.tried key x t f).Canonical := by
  obtain ⟨a, e | v⟩ := t
  · exact State.Canonical.slotFault h
  · exact hf _ _ h

theorem withSlot (h : s.Canonical) {key : Nat} {f : State → Slot → State} (hf : ∀ a0 a1, a0.Canonical → (f a0 a1).Canonical) :
    (s.withSlot key f).Canonical := by
  unfold State.withSlot
  split
  · exact hf _ _ h
  · exact h

theorem grantNext (h : s.Canonical) {key t : Nat} : (s.grantNext key t).Canonical := by
  unfold State.grantNext
  refine h.withSlot fun s' x hs' => ?_
  split
  · exact hs'
  · exact .ite hs' (hs'.sendCts (fun a0 ha0 => ha0.modSlot))

theorem grantAll (h : s.Canonical) {key : Nat} : (s.grantAll key).Canonical := by
  unfold State.grantAll
  exact h.withSlot (fun a0 a1 ha0 => ha0.each (fun a x ha => ha.grantNext))

theorem formFinal (h : s.Canonical) {key u' : Nat} : (s.formFinal key u').Canonical := by
  unfold State.formFinal
  exact h.withSlot (fun a0 a1 ha0 => ha0.combined.tried (fun a v ha => (ha.residue.andThen (fun a' x ha' => ha'.writeUnits.fst)).tried
    (fun a' v' ha' => ha'.modSlot)))

theorem formFinals (h : s.Canonical) {key : Nat} : (s.formFinals key).Canonical := by
  unfold State.formFinals
  exact h.withSlot (fun a0 a1 ha0 => .ite (ha0.each (fun a x ha => ha.formFinal)) ha0)

theorem runBytes (h : s.Canonical) {x : Slot} {key : Nat} {t : Transfer} {u' n : Nat} : (s.runBytes x key t u' n).1.Canonical := by
  unfold State.runBytes
  split
  · split
    · exact h
    · exact h.sourceOf
  · refine h.foldl_fst (fun acc x' hacc => (hacc.andThen (fun a x'' ha => (ha.combined.andThen (fun a' x''' ha' => ha'.pair)).fst)).fst)

theorem sendRun (h : s.Canonical) {key t : Nat} {peerSlot : BitVec 4} {u' n : Nat} : (s.sendRun key t peerSlot u' n).Canonical := by
  unfold State.sendRun
  refine h.withSlot fun s' x hs' => ?_
  split
  · exact hs'
  · exact hs'.runBytes.tried (fun a v ha => ha.countPart.sendAgainst)

theorem sendAll (h : s.Canonical) {key : Nat} : (s.sendAll key).Canonical := by
  unfold State.sendAll
  refine h.withSlot fun s' x hs' => ?_
  refine hs'.each fun a g ha => ?_
  split
  · exact ha
  · exact ha.each (fun a' x' ha' => ha'.sendRun)

theorem sendSmall (h : s.Canonical) {key : Nat} : (s.sendSmall key).Canonical := by
  unfold State.sendSmall
  exact h.withSlot (fun a0 a1 ha0 => ha0.each (fun a x ha => .ite (.ite ha.sendAgainst ha) (.ite ha.sendAgainst ha)))

theorem copyRows (h : s.Canonical) {x : Slot} {key : Nat} : (s.copyRows x key).1.Canonical := by
  unfold State.copyRows
  refine h.foldl_fst (fun acc x' hacc => (hacc.andThen (fun a x'' ha => (ha.readUnits.andThen (fun a' x''' ha' =>
    ha'.countPart.writeUnits.fst)).fst)).fst)

theorem layOut (h : s.Canonical) {key : Nat} : (s.layOut key).Canonical := by
  unfold State.layOut
  exact h.withSlot (fun a0 a1 ha0 => .ite ha0 (.ite ha0.slotFault (ha0.shWrite.tried (fun a v ha => ha.modSlot.withSlot (fun a0' a1' ha0'
    => ha0'.copyRows.tried (fun a' v' ha' => ha'))))))

theorem sendDone (h : s.Canonical) {key q : Nat} {slot : BitVec 4} : (s.sendDone key q slot).Canonical := by
  unfold State.sendDone
  exact h.withSlot (fun a0 a1 ha0 => ha0.slotSend (fun a0' a1' ha0' => ha0'.modSlot))

theorem sendDones (h : s.Canonical) {key : Nat} : (s.sendDones key).Canonical := by
  unfold State.sendDones
  refine h.withSlot fun s' x hs' => ?_
  refine hs'.each fun a q ha => ?_
  split
  · exact ha.sendDone
  · exact .ite ha ha.freeWord.sendDone

theorem completeSlot (h : s.Canonical) {key : Nat} : (s.completeSlot key).Canonical := by
  unfold State.completeSlot
  exact h.withSlot (fun a0 a1 ha0 => .ite ha0.update.modTile.countPart.trace' ha0)

theorem progress (h : s.Canonical) {key : Nat} : (s.progress key).Canonical := by
  unfold State.progress
  exact h.layOut.sendSmall.grantAll.formFinals.sendAll.sendDones.completeSlot

theorem takeCts (h : s.Canonical) {key : Nat} {c : CtsRec} : (s.takeCts key c).Canonical := by
  unfold State.takeCts
  refine h.withSlot fun s' x hs' => ?_
  split
  · exact hs'.slotFault
  · split
    · exact hs'.modSlot
    · split
      · exact hs'.slotFault
      · split
        · exact hs'.modSlot
        · exact hs'.strayMsg

theorem ctsIn (h : s.Canonical) {g : Group} {m : Msg} : (s.ctsIn g m).Canonical := by
  unfold State.ctsIn
  split
  · exact h.takeCts.progress
  · exact .ite h.strayMsg h.update.countPart

theorem begin (h : s.Canonical) {key : Nat} : (s.begin key).Canonical := by
  unfold State.begin
  refine h.withSlot fun s' x hs' => ?_
  split
  · exact .ite hs' (hs'.each (fun a x' ha => ha.withSlot (fun a0 a1 ha0 => ha0.sendCts (fun a0' ha0' => ha0'))))
  · exact hs'.shRead.tried (fun a v ha => ha.modSlot.each (fun a' x' ha' => ha'.withSlot (fun a0 a1 ha0 => ha0.sendCts (fun a0' ha0' =>
    ha0'))))
  · exact hs'.shRead.tried (fun a v ha => ha.shRead.tried (fun a' v' ha' => ha'.modSlot.withSlot (fun a0 a1 ha0 => ha0.copyRows.tried
    (fun a'' v'' ha'' => ha''))))
  · exact hs'.readUnits.tried (fun a v ha => ha.countPart.writeUnits.tried (fun a' v' ha' => ha'))
  · exact .ite (hs'.readWire.tried (fun a v ha => ha.countPart.writeUnits.tried (fun a' v' ha' => ha'.modSlot))) hs'
  · exact hs'.readWire.tried (fun a v ha => ha.countPart.writeUnits.tried (fun a' v' ha' => ha'.modSlot))
  · exact hs'

theorem openSlot (h : s.Canonical) {key : Nat} {x : Slot} : (s.openSlot key x).Canonical := by
  unfold State.openSlot
  exact ((State.Canonical.ite h.update.trace'.prefetch h.update.trace').begin.each (fun a x' ha => ha.takeCts)).progress

theorem shDispatch (h : s.Canonical) {l : Path} {c : Command} : (s.shDispatch l c).Canonical := by
  unfold State.shDispatch
  split
  · exact h.modTile.raiseTile
  · split
    · exact h.launchCmd.openSlot
    · exact h.modTile

theorem shRow (h : s.Canonical) {t : Path} {isOp : Command → Bool} : outCanonical (s.shRow t isOp) := by
  unfold State.shRow
  dsimp only
  refine .guard ?_
  split
  · exact h
  · exact .ite h.shDispatch h

theorem msgRow (h : s.Canonical) {p : PortCode} {mt : BitVec 4} {f : State → Group → Msg → State}
    (hf : ∀ a0 a1 a2, a0.Canonical → (f a0 a1 a2).Canonical) : outCanonical (s.msgRow p mt f) := by
  unfold State.msgRow
  refine .next ?_
  split
  · exact h
  · next e =>
      split
      · exact (h.takeRx e).strayMsg
      · exact .ite (hf _ _ _ (h.takeRx e)) (h.takeRx e).strayMsg

theorem slotRow (h : s.Canonical) {p : PortCode} {mt : BitVec 4} {f : State → Nat → Slot → Msg → State}
    (hf : ∀ a0 a1 a2 a3, a0.Canonical → (f a0 a1 a2 a3).Canonical) : outCanonical (s.slotRow p mt f) := by
  unfold State.slotRow
  dsimp only
  refine h.msgRow fun s' g m hs' => ?_
  split
  · exact .ite (hf _ _ _ _ hs').progress hs'.strayMsg
  · exact hs'.strayMsg

theorem dataIn (h : s.Canonical) {key : Nat} {x : Slot} {m : Msg} : (s.dataIn key x m).Canonical := by
  unfold State.dataIn
  split
  · exact h.strayMsg
  · exact .ite (h.countPart.sinkOf.tried (fun a v ha => ha.modSlot)) h.countPart.modSlot

theorem modBinding (h : s.Canonical) {gid : BitVec 16} {f : Binding → Binding} : (s.modBinding gid f).Canonical := by
  unfold State.modBinding
  exact h.update

theorem withBinding (h : s.Canonical) {gid : BitVec 16} {f : State → Binding → State} (hf : ∀ a0 a1, a0.Canonical → (f a0 a1).Canonical) :
    (s.withBinding gid f).Canonical := by
  unfold State.withBinding
  split
  · exact hf _ _ h
  · exact h

theorem putBytes (h : s.Canonical) {a : TsCtx} {fuel va : Nat} {bs : Bytes} : (s.putBytes a fuel va bs).1.Canonical := by
  induction fuel generalizing s va bs with
  | zero => exact h
  | succ fuel ih =>
    unfold State.putBytes
    split
    · exact h
    · dsimp only
      split
      · next e => exact h.xlate.of_eq e
      · next e => exact .andThen (h.xlate.of_eq e).tsWrite fun a _ ha => (ih ha).fst

theorem put (h : s.Canonical) {a : TsCtx} {va : Nat} {bs : Bytes} : (s.put a va bs).1.Canonical := by
  unfold State.put
  exact h.putBytes

theorem markSpan (h : s.Canonical) {a : TsCtx} {x : OutSpan} {id : Identity} {pk : Nat} : (s.markSpan a x id pk).1.Canonical := by
  unfold State.markSpan
  exact h.tsPatch

theorem packStep (h : s.Canonical) {a : TsCtx} {x : OutSpan} {slot : Nat} {acc : Bytes} {c : Nat} :
    (s.packStep a x slot acc c).1.Canonical := by
  unfold State.packStep
  refine h.tsRead.andThen fun s' w hs' => ?_
  refine hs'.tsRead.andThen fun s'' an hs'' => ?_
  refine hs''.tsRead.andThen fun s''' e hs''' => ?_
  split
  · exact hs'''.pair
  · exact (hs'''.tsWrites.andThen (fun a' x' ha' => (ha'.tsWrites.andThen (fun a'' x'' ha'' => ha''.pair)).fst)).fst

theorem readOut (h : s.Canonical) {a : TsCtx} {b : Binding} {va : Nat} : (s.readOut a b va).1.Canonical := by
  unfold State.readOut
  refine h.tsRead.andThen fun s' r hs' => ?_
  split <;> exact hs'.pair

theorem outPack (h : s.Canonical) {a : TsCtx} {b : Binding} {d : OutCmd} : (s.outPack a b d).1.Canonical := by
  unfold State.outPack
  refine h.readOut.andThen fun s' x hs' => ?_
  split
  · exact hs'.pair
  · refine .andThen ?_ (fun a' x' ha' => ha'.markSpan.fst)
    refine hs'.foldl_fst (fun acc x' hacc => (hacc.andThen (fun a' x'' ha' => ha'.packStep.fst)).fst)

theorem outSend (h : s.Canonical) {b : Binding} {mt : BitVec 4} {n : Word} {q offset : Nat} {payload : Bytes} :
    (s.outSend b mt n q offset payload).Canonical := by
  unfold State.outSend
  dsimp only
  split
  · exact h
  · split
    · next e' => exact h.post e'
    · exact h

theorem outStream (h : s.Canonical) {b : Binding} {mt : BitVec 4} {n : Word} {q : Nat} {header bs : Bytes} :
    (s.outStream b mt n q header bs).Canonical := by
  unfold State.outStream
  exact h.each (fun a x ha => ha.outSend)

theorem outEvent (h : s.Canonical) {b : Binding} {code : Nat} {n : Word} {more : Bytes} : (s.outEvent b code n more).Canonical := by
  unfold State.outEvent
  exact h.raise

theorem sendReceipt (h : s.Canonical) {gid : BitVec 16} : (s.sendReceipt gid).Canonical := by
  unfold State.sendReceipt
  refine h.withBinding fun s' b hs' => ?_
  split
  · exact .ite (hs'.modBinding.each (fun a x ha => ha.outSend)) hs'
  · exact hs'

theorem sendBitmap (h : s.Canonical) {b : Binding} {m : Bitmap} : (s.sendBitmap b m).Canonical := by
  unfold State.sendBitmap
  exact h.each (fun a x ha => ha.outSend)

theorem writeResult (h : s.Canonical) {b : Binding} {a : TsCtx} {r : Bytes} : (s.writeResult b a r).1.Canonical := by
  unfold State.writeResult
  exact h.modBinding.tsWrite

theorem outFault (h : s.Canonical) {b : Binding} {t : Path} {cmd : Nat} {stag n : Word} {e : Halt} :
    (s.outFault b t cmd stag n e).Canonical := by
  unfold State.outFault
  exact h.modTile.raise

theorem countStatus (h : s.Canonical) {b : Binding} {st : Nat} : (s.countStatus b st).Canonical := by
  unfold State.countStatus
  exact .ite (State.Canonical.ite h.countPart h.countPart).countPart (.ite h.countPart h.countPart)

theorem endExchange (h : s.Canonical) {gid : BitVec 16} : (s.endExchange gid).Canonical := by
  unfold State.endExchange
  refine h.withBinding fun s' b hs' => ?_
  split
  · exact hs'
  · split
    · exact hs'
    · exact .ite hs' hs'.countStatus.modBinding.modTile

theorem endExchangesSent (h : s.Canonical) : s.endExchangesSent.Canonical := by
  unfold State.endExchangesSent
  exact h.each (fun a x ha => ha.endExchange)

theorem fixStatus (h : s.Canonical) {gid : BitVec 16} {st reason : Nat} : (s.fixStatus gid st reason).Canonical := by
  unfold State.fixStatus
  dsimp only
  refine h.withBinding fun s' b hs' => ?_
  split
  · exact hs'
  · split
    · next e' => exact ((State.Canonical.ite hs'.modBinding.outEvent (.ite hs'.modBinding.outEvent hs'.modBinding)).writeResult.of_eq
      e').endExchange
    · next e' => exact ((State.Canonical.ite hs'.modBinding.outEvent (.ite hs'.modBinding.outEvent hs'.modBinding)).writeResult.of_eq
      e').modBinding.outFault

theorem tryStatus (h : s.Canonical) {gid : BitVec 16} : (s.tryStatus gid).Canonical := by
  unfold State.tryStatus
  refine h.withBinding fun s' b hs' => ?_
  split
  · exact hs'
  · split
    · exact .ite hs'.fixStatus hs'
    · exact hs'

theorem acceptBitmap (h : s.Canonical) {gid : BitVec 16} {m : Bitmap} : (s.acceptBitmap gid m).Canonical := by
  unfold State.acceptBitmap
  exact h.modBinding.tryStatus

theorem publish (h : s.Canonical) {gid : BitVec 16} {n : Word} {j : Nat} {d by' : DWord} : (s.publish gid n j d by').Canonical := by
  unfold State.publish
  exact h.withBinding (fun a0 a1 ha0 => .ite ha0.sendBitmap.acceptBitmap ha0.sendBitmap.acceptBitmap.countPart.outEvent)

theorem tryPublish (h : s.Canonical) {gid : BitVec 16} : (s.tryPublish gid).Canonical := by
  unfold State.tryPublish
  refine h.withBinding fun s' b hs' => ?_
  split
  · split
    · exact hs'
    · exact .ite hs' (.ite (.ite hs'.publish hs') (.ite hs'.publish hs'))
  · exact hs'

theorem outStep (h : s.Canonical) {gid : BitVec 16} : (s.outStep gid).Canonical := by
  unfold State.outStep
  exact h.sendReceipt.tryPublish.tryStatus

theorem contribBase (h : s.Canonical) {b : Binding} {n : Word} : (s.contribBase b n).2.Canonical := by
  unfold State.contribBase
  split
  · exact h
  · dsimp only
    exact h.freeWord.freeWord.freeWord

theorem outExchange (h : s.Canonical) {a : TsCtx} {b : Binding} {d : OutCmd} : (s.outExchange a b d).Canonical := by
  unfold State.outExchange
  dsimp only
  split
  · next e => exact (h.contribBase.tsRead.of_eq e).outFault
  · next e => exact ((h.contribBase.tsRead.of_eq e).modBinding.each (fun a' x ha' => ha'.outStream)).outStep

theorem readRecord (h : s.Canonical) {a : TsCtx} {b : Binding} {x : OutSpan} {n : Word} {r c : Nat} :
    (s.readRecord a b x n r c).1.Canonical := by
  unfold State.readRecord
  exact h.tsRead.andThen (fun a' x' ha' => ha'.pair)

theorem foldRecords (h : s.Canonical) {a : TsCtx} {b : Binding} {x : OutSpan} {n : Word} {c : Nat} {rs : List Nat}
    {op : Nat → Nat → Nat} {acc : List Nat} : (s.foldRecords a b x n c rs op acc).1.Canonical := by
  unfold State.foldRecords
  refine h.foldl_fst (fun acc' x' hacc' => (hacc'.andThen (fun a' x'' ha' => (ha'.readRecord.andThen (fun a'' x''' ha'' =>
    ha''.pair)).fst)).fst)

theorem applyChunk (h : s.Canonical) {a : TsCtx} {b : Binding} {x : OutSpan} {m : Bitmap} {eta mu : Nat} {restore : Bool} {c : Nat} :
    (s.applyChunk a b x m eta mu restore c).1.Canonical := by
  unfold State.applyChunk
  refine h.foldRecords.andThen fun s' acc hs' => ?_
  refine hs'.foldRecords.andThen fun s'' acc' hs'' => ?_
  refine .andThen ?_ fun s''' x' hs''' => ?_
  · split
    · exact hs''
    · exact hs''.tsRead.andThen (fun a' x' ha' => (ha'.tsRead.andThen (fun a'' x'' ha'' => (ha''.tsWrites.andThen (fun a''' x''' ha''' =>
      (ha'''.tsWrites.andThen (fun a'''' x'''' ha'''' => ha''''.tsWrites.fst)).fst)).fst)).fst)
  · split
    · exact (hs'''.readRecord.andThen (fun a' x'' ha' => (ha'.tsRead.andThen (fun a'' x''' ha'' => ha''.tsWrites.fst)).fst)).fst
    · exact hs'''.pair

theorem countFolds (h : s.Canonical) {b : Binding} {m : Bitmap} : (s.countFolds b m).Canonical := by
  unfold State.countFolds
  exact .ite h h.modBinding.countPart

theorem outApply (h : s.Canonical) {a : TsCtx} {b : Binding} {d : OutCmd} : (s.outApply a b d).1.Canonical := by
  unfold State.outApply
  refine h.readOut.andThen fun s' x hs' => ?_
  split
  · exact hs'.pair
  · split
    · exact hs'.pair
    · refine hs'.tsRead.andThen fun s'' h' hs'' => ?_
      refine .andThen ?_ (fun a' x' ha' => ha'.countFolds.markSpan.fst)
      refine hs''.foldl_fst (fun acc x' hacc => (hacc.andThen (fun a' x'' ha' => ha'.applyChunk.fst)).fst)

theorem sendSnapreq (h : s.Canonical) {b : Binding} {f : Fetch} {x : OutSpan} : (s.sendSnapreq b f x).Canonical := by
  unfold State.sendSnapreq
  exact h.outSend

theorem outSnapfetch (h : s.Canonical) {a : TsCtx} {b : Binding} {d : OutCmd} : (s.outSnapfetch a b d).Canonical := by
  unfold State.outSnapfetch
  exact h.readOut.andEnd (fun a' e ha' => ha'.outFault) (fun a' x ha' => ha'.modBinding.sendSnapreq)

theorem endFetch (h : s.Canonical) {b : Binding} {f : Fetch} {res : Nat} : (s.endFetch b f res).Canonical := by
  unfold State.endFetch
  refine .andEnd ?_ (fun a e ha => ha.modBinding.outFault) (fun a x ha => ha.modBinding.modTile)
  refine h.readOut.andThen fun s' x hs' => ?_
  refine .andThen ?_ (fun a x' ha => ha.writeResult.fst)
  split
  · exact hs'.tsWrites.andThen (fun a x' ha => ha.markSpan.fst)
  · exact hs'.markSpan

theorem outDispatch (h : s.Canonical) {work : State → TsCtx → Binding → OutCmd → State} {l : Path} {c : Command}
    (hwork : ∀ a0 a1 a2 a3, a0.Canonical → (work a0 a1 a2 a3).Canonical) : (s.outDispatch work l c).Canonical := by
  unfold State.outDispatch
  dsimp only
  split
  · exact h.failCmd
  · split
    · exact h.failCmd
    · exact h.failCmd
    · exact .ite h.failCmd (hwork _ _ _ _ h)

theorem outAtOnce (h : s.Canonical) {work : State → TsCtx → Binding → OutCmd → Trial Unit} {a : TsCtx} {b : Binding} {d : OutCmd}
    (hwork : ∀ a0 a1 a2 a3, a0.Canonical → fstCanonical (work a0 a1 a2 a3)) : (State.outAtOnce work s a b d).Canonical := by
  unfold State.outAtOnce
  split
  · next e => exact ((hwork _ _ _ _ h).of_eq e).engineChecks.finish
  · next e => exact ((hwork _ _ _ _ h).of_eq e).engineChecks.outFault

end State.Canonical
end Sys2Proof.Machine
end

section
/-! SUPPORT for O16. Outer rows, the hamper and resets keep the memories canonical. -/

-- One theorem after the other: elaborated side by side, their threads run out of memory.
set_option Elab.async false

namespace Sys2Proof.Machine
namespace State.Canonical
variable {s : State}

theorem outRow (h : s.Canonical) {t : Path} {isTop : Nat → Bool} {work : State → TsCtx → Binding → OutCmd → State}
    (hwork : ∀ a0 a1 a2 a3, a0.Canonical → (work a0 a1 a2 a3).Canonical) : outCanonical (s.outRow t isTop work) := by
  unfold State.outRow
  exact h.dispatch (fun a l c ha => ha.outDispatch (fun a0 a1 a2 a3 ha0 => hwork _ _ _ _ ha0))

theorem outStray (h : s.Canonical) {b : Binding} {n : Word} : (s.outStray b n).Canonical := by
  unfold State.outStray
  exact .ite h.countPart.modBinding.outEvent h.countPart

theorem outMsgRow (h : s.Canonical) {p : PortCode} {mt : BitVec 4} {f : State → Binding → Msg → State}
    (hf : ∀ a0 a1 a2, a0.Canonical → (f a0 a1 a2).Canonical) : outCanonical (s.outMsgRow p mt f) := by
  unfold State.outMsgRow
  refine h.msgRow fun s' g m hs' => ?_
  split
  · exact hs'.strayMsg
  · exact hf _ _ _ hs'

theorem bindingFault (h : s.Canonical) {b : Binding} {n : Word} {e : Halt} : (s.bindingFault b n e).Canonical := by
  unfold State.bindingFault
  exact h.raise

theorem putSnap (h : s.Canonical) {a : TsCtx} {x : OutSpan} {at' : Nat} {bs : Bytes} : (s.putSnap a x at' bs).1.Canonical := by
  unfold State.putSnap
  exact h.put.andThen (fun a' x' ha' => (ha'.put.andThen (fun a'' x'' ha'' => ha''.put.fst)).fst)

theorem setTickets (h : s.Canonical) {ts : List Path} {tk : SMap Word} : (s.setTickets ts tk).Canonical := by
  unfold State.setTickets
  exact h.each (fun a x ha => ha.modTile)

theorem applyLayout (h : s.Canonical) {k : Nat} {layout : BitVec 16} : (s.applyLayout k layout).Canonical := by
  unfold State.applyLayout
  exact (h.each (fun a x ha => ha.each (fun a' x' ha' => ha'.setTickets))).modCluster

theorem putLayout (h : s.Canonical) {ses : Ses} {r : Role} {layout : BitVec 16} : (s.putLayout ses r layout).Canonical := by
  unfold State.putLayout
  dsimp only
  split
  · exact .refused
  · exact h.applyLayout.ok

theorem groupDo (h : s.Canonical) {b : Bytes} {p : Nat} : (s.groupDo b p).Canonical := by
  unfold State.groupDo
  exact .ite h.update.modPart h.update.modPart

theorem putGroup (h : s.Canonical) {w : WriteReq} {r : Role} : (s.putGroup w r).Canonical := by
  unfold State.putGroup
  dsimp only
  split
  · exact h.requestRefused.ok
  · split
    · exact h.requestRefused.ok
    · exact h.groupDo.ok

theorem bindDo (h : s.Canonical) {b : Bytes} {p : Nat} : (s.bindDo b p).Canonical := by
  unfold State.bindDo
  exact (State.Canonical.ite h.update h.update).modPart

theorem putBind (h : s.Canonical) {w : WriteReq} {r : Role} : (s.putBind w r).Canonical := by
  unfold State.putBind
  dsimp only
  split
  · exact h.requestRefused.ok
  · split
    · exact h.requestRefused.ok
    · exact h.bindDo.ok

theorem putAdmit (h : s.Canonical) {w : WriteReq} {r : Role} : (s.putAdmit w r).Canonical := by
  unfold State.putAdmit
  dsimp only
  split
  · exact h.requestRefused.ok
  · split
    · split
      · exact h.requestRefused.ok
      · exact h.modPart.ok
    · split
      · exact h.requestRefused.ok
      · split
        · exact h.requestRefused.ok
        · exact h.modPart.ok

theorem setReady (h : s.Canonical) {b : Nat} {on : Bool} : (s.setReady b on).Canonical := by
  unfold State.setReady
  exact .ite h.update.raise h.update

theorem timeBudget (h : s.Canonical) : s.timeBudget.Canonical := by
  unfold State.timeBudget
  exact .ite h.update.raise h.update

theorem enterLocked (h : s.Canonical) : s.enterLocked.Canonical := by
  unfold State.enterLocked
  exact .ite h h.update.setReady.raise

theorem setRoot (h : s.Canonical) {prio : BitVec 8} {serial : BitVec 128} : (s.setRoot prio serial).Canonical := by
  unfold State.setRoot
  exact .ite h.update h.update.raise

theorem follow (h : s.Canonical) {c : Nat} : (s.follow c).Canonical := by
  unfold State.follow
  split
  · exact h
  · exact h.update.setRoot

theorem orphan (h : s.Canonical) : s.orphan.Canonical := by
  unfold State.orphan
  exact .ite h.update.setReady.raise h.update.setReady

theorem chooseParent (h : s.Canonical) : s.chooseParent.Canonical := by
  unfold State.chooseParent
  split
  · exact h.follow
  · exact .ite h h.orphan

theorem stepCounter (h : s.Canonical) {by' : ℤ} : (s.stepCounter by').Canonical := by
  unfold State.stepCounter
  exact h.update

theorem steer (h : s.Canonical) {theta : ℤ} : (s.steer theta).Canonical := by
  unfold State.steer
  exact .ite h.stepCounter h.freeWord.update

theorem hear (h : s.Canonical) {c : Nat} {w : Word} {root : BitVec 128} : (s.hear c w root).Canonical := by
  unfold State.hear
  exact .ite h.update h

theorem rxTs (h : s.Canonical) {c : Nat} {f : Bytes} {stamp : Nat} : (s.rxTs c f stamp).Canonical := by
  unfold State.rxTs
  refine .timeBudget ?_ 
  split
  · exact .ite h.modPort.tryUp.hear.chooseParent.steer h.modPort.tryUp.hear.chooseParent
  · exact h.modPort.tryUp.hear.chooseParent

theorem tsIn (h : s.Canonical) {c : Nat} {f : Bytes} {stamp : Nat} : (s.tsIn c f stamp).Canonical := by
  unfold State.tsIn
  exact h.rxControl (fun a ha => ha.rxTs)

theorem fireLaunch (h : s.Canonical) {p : Nat} : (s.fireLaunch p).Canonical := by
  unfold State.fireLaunch
  exact h.modPart.doorbell.raise

theorem launchDue (h : s.Canonical) {p : Nat} : (s.launchDue p).Canonical := by
  unfold State.launchDue
  exact .ite h.fireLaunch h

theorem putLaunch (h : s.Canonical) {w : WriteReq} {r : Role} : (s.putLaunch w r).Canonical := by
  unfold State.putLaunch
  dsimp only
  split
  · exact h.requestRefused.ok
  · split
    · split
      · exact h.requestRefused.ok
      · split
        · exact h.requestRefused.ok
        · exact h.modPart.ok
    · exact h.modPart.ok

theorem captureDone (h : s.Canonical) {k : Nat} {c : Capture} : (s.captureDone k c).Canonical := by
  unfold State.captureDone
  exact h.modCluster.update.each (fun a x ha => .ite ha.modPart ha)

theorem compare (h : s.Canonical) {k : Nat} {c : Capture} : (s.compare k c).Canonical := by
  unfold State.compare
  dsimp only
  split
  · exact .ite (State.Canonical.ite h.captureDone.update h.captureDone).arrayPulse (.ite h.captureDone.update h.captureDone)
  · exact (State.Canonical.ite (State.Canonical.ite h.captureDone.update h.captureDone).arrayPulse (.ite h.captureDone.update
    h.captureDone)).raise

theorem putFence (h : s.Canonical) {ses : Ses} {r : Role} {v : Nat} : (s.putFence ses r v).Canonical := by
  unfold State.putFence
  exact .deny h.modPart.ok

theorem armInjection (h : s.Canonical) : s.armInjection.Canonical := by
  unfold State.armInjection
  exact .ite h.modTile.update h.update

theorem putArm (h : s.Canonical) {r : Role} {v : Nat} : (s.putArm r v).Canonical := by
  unfold State.putArm
  refine .deny ?_
  split
  · exact h.update.ok
  · split
    · exact .refused
    · exact h.armInjection.ok

theorem tileError (h : s.Canonical) {t : Path} {code : Nat} {detail : Bytes} : (s.tileError t code detail).Canonical := by
  unfold State.tileError
  exact h.raiseTile

theorem deviceError (h : s.Canonical) {code : Nat} {detail : Bytes} : (s.deviceError code detail).Canonical := by
  unfold State.deviceError
  exact h.raise

theorem siteError (h : s.Canonical) {x : ParitySite} : (s.siteError x).Canonical := by
  unfold State.siteError
  split
  · exact h.tileError
  · exact h.tileError
  · exact h.tileError
  · exact h.tileError
  · exact h.modTile
  · exact h.memoryUe
  · exact h.deviceError
  · exact h.linkEvent
  · exact h.deviceError
  · exact h.deviceError
  · exact h.deviceError
  · exact h.deviceError
  · exact h.deviceError
  · exact h.deviceError
  · exact h.deviceError
  · exact h.deviceError
  · exact h.tileError
  · exact h.deviceError

theorem putFatalAck (h : s.Canonical) {r : Role} {v : Nat} : (s.putFatalAck r v).Canonical := by
  unfold State.putFatalAck
  exact .deny h.update.ok

theorem putSetting (h : s.Canonical) {r : Role} {p idx sub v : Nat} : (s.putSetting r p idx sub v).Canonical := by
  unfold State.putSetting
  exact .deny h.modPart.ok

theorem hostWrite (h : s.Canonical) {p off : Nat} {bs : Bytes} : (s.hostWrite p off bs).Canonical :=
  ⟨h.tier, Memory.wf_writeCells _ _ h.host, h.stores⟩

theorem viaPcie (h : s.Canonical) {ckid hoff : Nat} : (s.viaPcie ckid hoff).1.Canonical := by
  unfold State.viaPcie
  exact .ite_fst h.update h.update

theorem hamRead (h : s.Canonical) {p : Nat} {ctx : BitVec 12} {va n : Nat} : (s.hamRead p ctx va n).1.Canonical := by
  unfold State.hamRead
  split
  · next e =>
      dsimp only
      exact h.readBlocks.of_eq e
  · next e =>
      dsimp only
      exact h.readBlocks.of_eq e
  · next e =>
      dsimp only
      exact h.readBlocks.of_eq e

theorem hamTable (h : s.Canonical) {p : Nat} {ctx : BitVec 12} {va len : Nat} : (s.hamTable p ctx va len).1.Canonical := by
  unfold State.hamTable
  exact h.hamRead.andThen (fun a x ha => ha.pair)

theorem hamMoved (h : s.Canonical) {p n : Nat} : (s.hamMoved p n).Canonical := by
  unfold State.hamMoved
  exact h.modPart

theorem demand (h : s.Canonical) {ok : Bool} {code : Nat} {detail : Bytes} : (Machine.demand s ok code detail).1.Canonical := by
  unfold Machine.demand
  exact .ite_fst h h

theorem forEach (h : s.Canonical) {α : Type} {xs : List α} {f : State → α → Trial Unit}
    (hf : ∀ a0 a1, a0.Canonical → fstCanonical (f a0 a1)) : (Machine.forEach s xs f).1.Canonical := by
  unfold Machine.forEach
  refine h.foldl_fst (fun acc x hacc => (hacc.andThen (fun a x' ha => hf _ _ ha)).fst)

theorem shardTable (h : s.Canonical) {p : Nat} {q : HamReq} : (s.shardTable p q).1.Canonical := by
  unfold State.shardTable
  dsimp only
  refine h.hamTable.andThen fun s1 bs hs1 => ?_
  split <;> exact hs1.pair

theorem fillItems (h : s.Canonical) {ckid : Nat} {held : List (Bytes × Bytes)} {n : Nat} {bs : List Bytes} :
    (s.fillItems ckid held n bs).1.Canonical := by
  induction bs generalizing n with
  | nil => exact h
  | cons b bs ih =>
    unfold State.fillItems
    split
    · exact .andThen ih fun a x ha => ha.pair
    · exact h

theorem rangeTest (h : s.Canonical) {q : HamReq} {bad : Option (Nat × Nat)} : (s.rangeTest q bad).1.Canonical := by
  unfold State.rangeTest
  split <;> exact h

theorem beginWrite (h : s.Canonical) {p : Nat} {q : HamReq} {j : HamJob} : (s.beginWrite p q j).1.Canonical := by
  unfold State.beginWrite
  exact h.rangeTest.andThen (fun a x ha => (ha.hostWrite.shardTable.andThen (fun a' x' ha' => (ha'.hamTable.andThen (fun a'' x'' ha'' =>
    (ha''.fillItems.andThen (fun a''' x''' ha''' => (ha'''.demand.andThen (fun a'''' x'''' ha'''' => (ha''''.rangeTest.andThen (fun
      a''''' x''''' ha''''' => ha'''''.pair)).fst)).fst)).fst)).fst)).fst)

theorem writeChunk (h : s.Canonical) {p : Nat} {q : HamReq} {k : Option Key} {j : HamJob} {x : Image} :
    (s.writeChunk p q k j x).1.Canonical := by
  unfold State.writeChunk
  exact h.hamRead.andThen (fun a x' ha => ha.hostWrite.hamMoved.pair)

theorem endWrite (h : s.Canonical) {p : Nat} {q : HamReq} {k : Option Key} {j : HamJob} : (s.endWrite p q k j).Canonical := by
  unfold State.endWrite
  exact h.hostWrite.hostWrite.hostWrite.modPart.raise

theorem hamStore (h : s.Canonical) {p : Nat} {ctx : BitVec 12} {va : Nat} {bs : Bytes} : (s.hamStore p ctx va bs).1.Canonical := by
  unfold State.hamStore
  refine h.forEach fun s1 b hs1 => ?_
  split <;> next e => exact (hs1.writeBlock.of_eq e).pair

theorem beginRead (h : s.Canonical) {p : Nat} {q : HamReq} {k : Option Key} {j : HamJob} : (s.beginRead p q k j).1.Canonical := by
  unfold State.beginRead
  refine (State.Canonical.ite_fst h.shardTable h).andThen fun s1 xs hs1 => ?_
  refine hs1.hamTable.andThen fun s2 list hs2 => ?_
  split
  · exact hs2.pair
  · split <;> exact hs2.pair

theorem takeChunk (h : s.Canonical) {p : Nat} {q : HamReq} {k : Option Key} {j : HamJob} {x : Image} {m : Manifest} :
    (s.takeChunk p q k j x m).1.Canonical := by
  unfold State.takeChunk
  split
  · exact h
  · exact .ite_fst h ((State.Canonical.ite_fst h.hamStore h).andThen (fun a x' ha => ha.hamMoved.pair))

theorem applyItem (h : s.Canonical) {p : Nat} {r : Role} {b : Bytes} : (s.applyItem p r b).Canonical := by
  unfold State.applyItem
  split
  · split
    · next e' => exact h.putSetting.of_ok e'
    · exact h
  · exact .ite h.modBinding h

theorem applyItems (h : s.Canonical) {p ckid : Nat} {r : Role} {n : Nat} {bs : List Bytes} :
    (s.applyItems p ckid r n bs).1.Canonical := by
  induction bs generalizing s n with
  | nil => exact h
  | cons b bs ih => exact .ite_fst (ih h.applyItem) h.applyItem

theorem imageTaken (h : s.Canonical) {p : Nat} {q : HamReq} {j : HamJob} {x : Image} {bs : Bytes} :
    (s.imageTaken p q j x bs).1.Canonical := by
  unfold State.imageTaken
  exact .ite_fst h (.ite_fst h (.ite_fst h.applyItems (.ite_fst (h.hamRead.andThen (fun a x' ha => ha.demand.fst)) h)))

theorem moveChunk (h : s.Canonical) {p : Nat} {q : HamReq} {k : Option Key} {j : HamJob} {x : Image} :
    (s.moveChunk p q k j x).1.Canonical := by
  unfold State.moveChunk
  split
  · exact h
  · split
    · exact h.writeChunk
    · exact h.takeChunk

theorem imageDone (h : s.Canonical) {p : Nat} {q : HamReq} {j : HamJob} {x : Image} {bs : Bytes} :
    (s.imageDone p q j x bs).1.Canonical := by
  unfold State.imageDone
  split
  · exact h
  · exact h.imageTaken.andThen (fun a x' ha => ha.pair)

theorem hamStep (h : s.Canonical) {p : Nat} {q : HamReq} {k : Option Key} {j : HamJob} : (s.hamStep p q k j).1.Canonical := by
  unfold State.hamStep
  split
  · exact .ite_fst h.beginWrite h.beginRead
  · split
    · exact h
    · exact h.moveChunk.andThen (fun a x ha => (State.Canonical.ite_fst (ha.imageDone.andThen (fun a' x' ha' => ha'.pair)) ha).fst)

theorem hamServe (h : s.Canonical) {p : Nat} {q : HamReq} {k : Option Key} {j : HamJob} : (s.hamServe p q k j).1.Canonical := by
  unfold State.hamServe
  exact h.viaPcie.andThen (fun a x ha => ha.hamStep.fst)

theorem hamClose (h : s.Canonical) {p code : Nat} : (s.hamClose p code).Canonical := by
  unfold State.hamClose
  exact h.modPart

theorem hamFail (h : s.Canonical) {p : Nat} {q : HamReq} {e : Halt} : (s.hamFail p q e).Canonical := by
  unfold State.hamFail
  exact .ite h.hamClose h.hamClose.raise

theorem hamDone (h : s.Canonical) {p : Nat} {q : HamReq} {k : Option Key} {j : HamJob} : (s.hamDone p q k j).Canonical := by
  unfold State.hamDone
  split
  · exact h.hamClose.endWrite
  · exact h.hamClose.raise
  · exact h.hamClose

theorem hamTurn (h : s.Canonical) {p : Nat} {j : HamJob} : (s.hamTurn p j).Canonical := by
  unfold State.hamTurn
  exact h.hamServe.andEnd (fun a e ha => ha.hamFail) (fun a x ha => .ite ha.hamDone ha.modPart)

theorem hamperTurn (h : s.Canonical) : s.hamperTurn.Canonical := by
  unfold State.hamperTurn
  split
  · exact h
  · split
    · exact h.update
    · exact .ite h.update.hamTurn h.update

theorem noteCkid (h : s.Canonical) {q : HamReq} : (s.noteCkid q).Canonical := by
  unfold State.noteCkid
  split
  · exact h.update
  · exact h

theorem hamOpen (h : s.Canonical) {p : Nat} {r : Role} {b : Bytes} : (s.hamOpen p r b).Canonical := by
  unfold State.hamOpen
  exact (State.Canonical.ite h.noteCkid h).modPart

theorem putHamper (h : s.Canonical) {w : WriteReq} {r : Role} : (s.putHamper w r).Canonical := by
  unfold State.putHamper
  dsimp only
  split
  · exact h.requestRefused.ok
  · exact h.hamOpen.ok

theorem closeSession (h : s.Canonical) {n : Nat} : (s.closeSession n).Canonical := by
  unfold State.closeSession
  exact h.update

theorem closeWhere (h : s.Canonical) {f : Session → Bool} : (s.closeWhere f).Canonical := by
  unfold State.closeWhere
  exact h.each (fun a x ha => ha.closeSession)

theorem dropOwner (h : s.Canonical) {p : Nat} : (s.dropOwner p).Canonical := by
  unfold State.dropOwner
  exact h.closeWhere.update

theorem resetDomains (h : s.Canonical) : s.resetDomains.Canonical := ⟨h.tier, h.host, fun _ he => nomatch he⟩

theorem acted (h : s.Canonical) : s.acted.Canonical := by
  unfold State.acted
  exact h.update

theorem closeAll (h : s.Canonical) : s.closeAll.Canonical := by
  unfold State.closeAll
  exact h.each (fun a x ha => .ite ha.closePort ha)

theorem deviceReset (h : s.Canonical) : s.deviceReset.Canonical := by
  unfold State.deviceReset
  exact .ite h.acted (.ite (State.Canonical.ite h h.closeAll).closeWhere.resetDomains.acted (State.Canonical.ite h
    h.closeAll).closeWhere.resetDomains.acted.startTrace)

end State.Canonical
end Sys2Proof.Machine
end

section
/-! SUPPORT for O16. Cipher, life cycle, power, the object dictionary and idle turns keep the memories canonical. -/

-- One theorem after the other: elaborated side by side, their threads run out of memory.
set_option Elab.async false

namespace Sys2Proof.Machine
namespace State.Canonical
variable {s : State}

theorem convertersOff (h : s.Canonical) : s.convertersOff.Canonical := by
  have hr : (s.closeWhere Session.isOwner).resetDomains.Canonical := h.closeWhere.resetDomains
  exact ⟨rfl, hr.host, hr.stores⟩

theorem convertersOn (h : s.Canonical) : s.convertersOn.Canonical := by
  unfold State.convertersOn
  exact h.update

theorem noiseFailed (h : s.Canonical) : s.noiseFailed.Canonical := by
  unfold State.noiseFailed
  exact h.update.raise

theorem startupWindow (h : s.Canonical) {bad : Bool} {w : List Bool} : (s.startupWindow bad w).Canonical := by
  unfold State.startupWindow
  exact .ite h.update (.ite h.update.noiseFailed h.update)

theorem steadyWindow (h : s.Canonical) {bad : Bool} {w : List Bool} : (s.steadyWindow bad w).Canonical := by
  unfold State.steadyWindow
  exact .ite h.update (.ite h.update.noiseFailed h.update)

theorem seeded (h : s.Canonical) {kv : BitVec 256 × BitVec 128} : (s.seeded kv).Canonical := by
  unfold State.seeded
  exact h.update.setReady.setReady

theorem takeStalled (h : s.Canonical) {c : Nat} {x : Bytes × Nat} : (s.takeStalled c x).Canonical := by
  unfold State.takeStalled
  split
  · exact h.frameIn
  · split
    · exact h.helloIn
    · exact h.tsIn
    · exact h.creditIn

theorem unstall (h : s.Canonical) {c : Nat} : (s.unstall c).Canonical := by
  unfold State.unstall
  exact h.modPort.each (fun a x ha => ha.takeStalled)

theorem setKey (h : s.Canonical) {id : Nat} {k : Option Key} : (s.setKey id k).Canonical := by
  unfold State.setKey
  exact h.update

theorem keyDo (h : s.Canonical) {b : Bytes} : (s.keyDo b).Canonical := by
  unfold State.keyDo
  exact .ite (.ite h.setKey.modPort h.setKey) h.setKey

theorem putKey (h : s.Canonical) {r : Role} {b : Bytes} : (s.putKey r b).Canonical := by
  unfold State.putKey
  split
  · exact .refused
  · exact h.keyDo.ok

theorem keyLost (h : s.Canonical) {c : Nat} : (s.keyLost c).Canonical := by
  unfold State.keyLost
  exact .ite (h.portLost (fun a ha => ha)) h

theorem endEncrypted (h : s.Canonical) {p : Nat} : (s.endEncrypted p).Canonical := by
  unfold State.endEncrypted
  split
  · exact .ite h.hamFail h
  · exact h

theorem jobFail (h : s.Canonical) {p : Nat} {ctx : BitVec 12} {e : Halt} : (s.jobFail p ctx e).Canonical := by
  unfold State.jobFail
  exact h.modPart.raise

theorem endJob (h : s.Canonical) {p : Nat} : (s.endJob p).Canonical := by
  unfold State.endJob
  split
  · exact h.jobFail
  · exact h

theorem zeroiseAll (h : s.Canonical) {cause : Nat} : (s.zeroiseAll cause).Canonical := by
  unfold State.zeroiseAll
  exact ((h.update.setReady.setReady.each (fun a x ha => ha.keyLost)).each (fun a x ha => ha.endEncrypted.endJob)).raise

theorem putZeroise (h : s.Canonical) {r : Role} {v : Nat} : (s.putZeroise r v).Canonical := by
  unfold State.putZeroise
  exact .deny h.zeroiseAll.ok

theorem jobRead (h : s.Canonical) {p : Nat} {ctx : BitVec 12} {va len : Nat} : (s.jobRead p ctx va len).1.Canonical := by
  unfold State.jobRead
  split
  · next e =>
      dsimp only
      exact h.readVA.of_eq e
  · next e =>
      dsimp only
      exact h.readVA.of_eq e

theorem jobWrite (h : s.Canonical) {p : Nat} {ctx : BitVec 12} {va : Nat} {bs : Bytes} : (s.jobWrite p ctx va bs).1.Canonical := by
  unfold State.jobWrite
  split
  · next e =>
      dsimp only
      exact h.writeVA.of_eq e
  · next e =>
      dsimp only
      exact h.writeVA.of_eq e

theorem jobSteps (h : s.Canonical) {p : Nat} {j : Job} {key : Bytes} : (s.jobSteps p j key).1.Canonical := by
  unfold State.jobSteps
  refine h.demand.andThen fun s0 x hs0 => ?_
  refine hs0.jobRead.andThen fun s1 iv hs1 => ?_
  refine hs1.jobRead.andThen fun s2 aad hs2 => ?_
  refine hs2.jobRead.andThen fun s3 msg hs3 => ?_
  refine hs3.jobRead.andThen fun s4 tag hs4 => ?_
  split
  · exact hs4.pair
  · exact (hs4.jobWrite.andThen (fun a x' ha => ha.jobWrite.fst)).fst

theorem jobEnd {p : Nat} {j : Job} {t : Trial Unit} (h : t.1.Canonical) : (State.jobEnd p j t).Canonical := by
  obtain ⟨a, e | x⟩ := t
  · exact State.Canonical.jobFail h
  · simp only [State.jobEnd]
    exact State.Canonical.modPart (s := a) h

theorem jobRun (h : s.Canonical) {p : Nat} {j : Job} : (s.jobRun p j).Canonical := by
  unfold State.jobRun
  exact h.jobSteps.jobEnd

theorem cipherTurn (h : s.Canonical) : s.cipherTurn.Canonical := by
  unfold State.cipherTurn
  split
  · exact h
  · split
    · exact h.update
    · exact .ite h.update.jobRun h.update

theorem putJob (h : s.Canonical) {w : WriteReq} {r : Role} : (s.putJob w r).Canonical := by
  unfold State.putJob
  dsimp only
  split
  · exact h.requestRefused.ok
  · exact h.modPart.ok

theorem jobRow (h : s.Canonical) {ses : Ses} {mode : Nat} {rec' : BitVec 512} : outCanonical (s.jobRow ses mode rec') := by
  unfold State.jobRow
  exact h.putRow (fun r => h.putJob)

theorem eachTile (h : s.Canonical) {p : Nat} {f : Tile → Tile} (hf : ∀ x, Memory.wf x.ls = true → Memory.wf (f x).ls = true) :
    (s.eachTile p f).Canonical := by
  unfold State.eachTile
  exact h.each fun a t ha => ha.modTile_of hf

theorem formDo (h : s.Canonical) {p : Nat} : (s.formDo p).Canonical := by
  unfold State.formDo
  have hf : (s.eachTile p Tile.formed).Canonical := h.eachTile fun _ _ => rfl
  exact (hf.each fun a k ha => ha.modCluster).modPart.update

theorem dissolveDo (h : s.Canonical) {p : Nat} : (s.dissolveDo p).Canonical := by
  unfold State.dissolveDo
  have hz : (s.eachTile p Tile.zeroStore).Canonical := h.eachTile fun _ _ => rfl
  exact (State.Canonical.ite hz h).modPart.dropOwner.update

theorem putCommand (h : s.Canonical) {w : WriteReq} {r : Role} {v : Nat} : (s.putCommand w r v).Canonical := by
  unfold State.putCommand
  dsimp only
  split
  · exact .refused
  · split
    · split
      · exact h.requestRefused.ok
      · exact h.formDo.ok
    · split
      · split
        · exact h.requestRefused.ok
        · exact h.dissolveDo.ok
      · exact .refused

theorem readChallenge (h : s.Canonical) {r : Role} : (s.readChallenge r).2.Canonical := by
  unfold State.readChallenge
  split
  · exact h
  · dsimp only
    exact h.generate.update

theorem scrubAll (h : s.Canonical) : s.scrubAll.Canonical := by
  unfold State.scrubAll
  have hz {a : State} (ha : a.Canonical) : ({ a with tiles := mapEach {} a.tiles Tile.zeroStore } : State).Canonical :=
    ⟨ha.tier, ha.host, forall_mapEach (P := fun x : Tile => Memory.wf x.ls = true) rfl ha.stores fun _ _ => rfl⟩
  exact hz (h.each fun a n ha => ha.beginScrub)

theorem lcEnter (h : s.Canonical) {target : Nat} : (s.lcEnter target).Canonical := by
  unfold State.lcEnter
  exact h.update.closeWhere.raise

theorem eraseAll (h : s.Canonical) {cause : Nat} : (s.eraseAll cause).Canonical := by
  unfold State.eraseAll
  have hs : (((if s.fatal then s.deviceReset else s).closeAll.zeroiseAll cause).closeWhere fun x => x.role ≠ .maker).Canonical :=
    (State.Canonical.ite h.deviceReset h).closeAll.zeroiseAll.closeWhere
  exact ⟨rfl, hs.host, hs.stores⟩

theorem lcDo (h : s.Canonical) {target : Nat} : (s.lcDo target).Canonical := by
  unfold State.lcDo
  split
  · exact h.scrubAll.lcEnter
  · exact h.eraseAll.lcEnter.deviceReset
  · exact h.eraseAll.lcEnter.deviceReset
  · exact h.lcEnter.update
  · exact h.lcEnter

theorem putLife (h : s.Canonical) {w : WriteReq} {r : Role} : (s.putLife w r).Canonical := by
  unfold State.putLife
  dsimp only
  split
  · exact h.update.refuseWrite.update.ok
  · split
    · exact h.update.refuseWrite.update.ok
    · exact h.update.lcDo.ok

theorem lifeRow (h : s.Canonical) {ses : Ses} {target : Nat} {token : BitVec 128} : outCanonical (s.lifeRow ses target token) := by
  unfold State.lifeRow
  exact h.putRow (fun r => h.putLife)

theorem tagAnswer (h : s.Canonical) {bs : Bytes} : (s.tagAnswer bs).Canonical := by
  unfold State.tagAnswer
  exact h.update

theorem tagServe (h : s.Canonical) {flags : BitVec 8} {uid : BitVec 64} {f : State → State} (hf : ∀ a0, a0.Canonical → (f a0).Canonical) :
    outCanonical (s.tagServe flags uid f) := by
  unfold State.tagServe
  exact .next (.ite (hf _ h) h)

theorem tagMode (h : s.Canonical) {m : TagMode} : (s.tagMode m).Canonical := by
  unfold State.tagMode
  exact h.update

theorem tagRead (h : s.Canonical) {flags : BitVec 8} {first count : Nat} : (s.tagRead flags first count).Canonical := by
  unfold State.tagRead
  exact h.tagAnswer

theorem tagEvent (h : s.Canonical) {code : Nat} {last : Option Nat} {count : Nat} : (s.tagEvent code last count).1.Canonical := by
  unfold State.tagEvent
  exact .ite_fst h.raise h

theorem countRfWrite (h : s.Canonical) : s.countRfWrite.Canonical := by
  unfold State.countRfWrite
  exact .ite h h.tagEvent.update

theorem countRfRefused (h : s.Canonical) : s.countRfRefused.Canonical := by
  unfold State.countRfRefused
  exact .ite h h.tagEvent.update

theorem tagWrite (h : s.Canonical) {n : Nat} {data : Word} : (s.tagWrite n data).Canonical := by
  unfold State.tagWrite
  exact .ite h.tagAnswer (.ite h.countRfRefused.tagAnswer h.update.countRfWrite.tagAnswer)

theorem putLock (h : s.Canonical) {ses : Ses} {v : Nat} : (s.putLock ses v).Canonical := by
  unfold State.putLock
  split
  · split
    · exact h.update.ok
    · split
      · exact h.ok
      · exact .refused
    · exact .deny h.update.ok
  · split
    · exact .deny h.update.ok
    · exact .refused

theorem putTagData (h : s.Canonical) {ses : Ses} {r : Role} {data : Bytes} : (s.putTagData ses r data).Canonical := by
  unfold State.putTagData
  exact .deny h.update.ok

theorem linkDown (h : s.Canonical) : s.linkDown.Canonical := by
  unfold State.linkDown
  exact h.update.raise

theorem newChallenge (h : s.Canonical) {src : Source} : (s.newChallenge src).2.Canonical := by
  unfold State.newChallenge
  dsimp only
  exact h.update

theorem credentialDo (h : s.Canonical) {b : Bytes} : (s.credentialDo b).Canonical := by
  unfold State.credentialDo
  exact h.closeWhere.update

theorem putCredential (h : s.Canonical) {w : WriteReq} {r : Role} : (s.putCredential w r).Canonical := by
  unfold State.putCredential
  split
  · exact h.refuseWrite.update.ok
  · exact h.credentialDo.ok

theorem putReset (h : s.Canonical) {r : Role} {v : Nat} : (s.putReset r v).Canonical := by
  unfold State.putReset
  exact .deny h.deviceReset.ok

theorem setPower (h : s.Canonical) {v : BitVec 8} : (s.setPower v).Canonical := by
  unfold State.setPower
  exact h.update

theorem powerOn (h : s.Canonical) : s.powerOn.Canonical := by
  unfold State.powerOn
  exact .ite h.setPower h.setPower.acted.convertersOn

theorem powerOff (h : s.Canonical) : s.powerOff.Canonical := by
  unfold State.powerOff
  exact .ite h.setPower (State.Canonical.ite h.setPower.deviceReset h.setPower).acted.convertersOff

theorem putPower (h : s.Canonical) {r : Role} {v : Nat} : (s.putPower r v).Canonical := by
  unfold State.putPower
  exact .deny (State.Canonical.ite h.powerOn h.powerOff).ok

theorem putFreeze (h : s.Canonical) {r : Role} {v : Nat} : (s.putFreeze r v).Canonical := by
  unfold State.putFreeze
  exact .deny (State.Canonical.ite (.ite h h.freezeTrace.acted) (.ite h.startTrace h)).ok

theorem putCaptureAck (h : s.Canonical) {r : Role} {v : Nat} : (s.putCaptureAck r v).Canonical := by
  unfold State.putCaptureAck
  exact .deny h.update.ok

theorem bridgeClocks (h : s.Canonical) {pcieRef : Bool} : (s.bridgeClocks pcieRef).Canonical := by
  unfold State.bridgeClocks
  exact h.update

theorem setClusterReady (h : s.Canonical) {k : Nat} {on : Bool} : (s.setClusterReady k on).Canonical := by
  unfold State.setClusterReady
  exact .ite h.modCluster.raise h.modCluster

theorem testPassed (h : s.Canonical) {k : Nat} : (s.testPassed k).Canonical := by
  unfold State.testPassed
  have hz : (s.each (clusterAll k) fun a t => a.modTile t Tile.zeroStore).Canonical :=
    h.each fun a t ha => ha.modTile_of fun _ _ => rfl
  have hs := hz.modCluster (k := k) (f := fun c => { c with testing := false })
  exact .ite (hs.setClusterReady.seedChecker).setCurrent hs.setClusterReady.seedChecker

theorem testFailed (h : s.Canonical) {k tile : Nat} {stage : BitVec 8} : (s.testFailed k tile stage).Canonical := by
  unfold State.testFailed
  exact h.update.raise

theorem pcieFails (h : s.Canonical) : s.pcieFails.Canonical := by
  unfold State.pcieFails
  refine h.each fun a p ha => ?_
  split
  · exact ha.hamFail
  · exact ha

theorem resetMirror (h : s.Canonical) : s.resetMirror.Canonical := by
  unfold State.resetMirror
  exact h.update.pcieFails

theorem powerFault (h : s.Canonical) : s.powerFault.Canonical := by
  unfold State.powerFault
  exact h.update.raise.convertersOff.setPower

theorem clockPacket (h : s.Canonical) {mhz unit cause : Nat} : (s.clockPacket mhz unit cause).Canonical := by
  unfold State.clockPacket
  exact h.trace'

theorem dieClocks (h : s.Canonical) {d : Nat} : (s.dieClocks d).Canonical := by
  unfold State.dieClocks
  exact .ite h (.ite h.modDie h.modDie.clockPacket)

theorem linkClock (h : s.Canonical) : s.linkClock.Canonical := by
  unfold State.linkClock
  exact .ite h h.update.clockPacket

theorem followThrottles (h : s.Canonical) : s.followThrottles.Canonical := by
  unfold State.followThrottles
  exact (h.each (fun a x ha => ha.dieClocks)).linkClock

theorem modSensor (h : s.Canonical) {n : Nat} {f : Sensor → Sensor} : (s.modSensor n f).Canonical := by
  unfold State.modSensor
  exact h.update

theorem thermalWarn (h : s.Canonical) {n level : Nat} : (s.thermalWarn n level).Canonical := by
  unfold State.thermalWarn
  exact h.raise

theorem tripped (h : s.Canonical) {n : Nat} : (s.tripped n).Canonical := by
  unfold State.tripped
  exact (h.each (fun a x ha => .ite ha.failPort ha)).raise.update

theorem sense (h : s.Canonical) {n : Nat} {temp : Word} : (s.sense n temp).Canonical := by
  unfold State.sense
  exact .ite (State.Canonical.ite (State.Canonical.ite h.modSensor.thermalWarn h.modSensor).thermalWarn.followThrottles (.ite
    h.modSensor.thermalWarn h.modSensor)).tripped (.ite (State.Canonical.ite h.modSensor.thermalWarn
      h.modSensor).thermalWarn.followThrottles (.ite h.modSensor.thermalWarn h.modSensor))

theorem putTclkLimit (h : s.Canonical) {ses : Ses} {r : Role} {mhz : Nat} : (s.putTclkLimit ses r mhz).Canonical := by
  unfold State.putTclkLimit
  exact .deny h.modDie.dieClocks.ok

theorem measure (h : s.Canonical) : s.measure.Canonical := by
  unfold State.measure
  exact h.each (fun a x ha => ha.freeWord.update)

theorem powerDown (h : s.Canonical) {k : Nat} {v : BitVec 8} : (s.powerDown k v).Canonical := by
  unfold State.powerDown
  exact h.modCluster.setClusterReady.setCurrent

theorem powerUp (h : s.Canonical) {k : Nat} : (s.powerUp k).Canonical := by
  unfold State.powerUp
  exact .ite h.modCluster.modCluster.setCurrent h.modCluster

theorem putPowerState (h : s.Canonical) {ses : Ses} {r : Role} {v : BitVec 8} : (s.putPowerState ses r v).Canonical := by
  unfold State.putPowerState
  dsimp only
  split
  · exact .refused
  · split
    · exact .refused
    · split
      · exact h.powerUp.ok
      · exact .deny h.powerDown.ok

theorem settleCluster (h : s.Canonical) {k : Nat} : (s.settleCluster k).Canonical := by
  unfold State.settleCluster
  dsimp only
  refine State.Canonical.setCurrent ?_
  have hs := (h.tilePacket (path := pathOf k 0) (kind := 6) (data := word ((s.cluster k).packets.toNat * 65536 + k * 256))).modCluster
    (k := k) (f := fun x => { x with marked := true })
  split
  · exact (hs.each fun a t ha => ha.modTile_of fun _ _ => rfl).modCluster
  · exact hs

theorem putEngines (h : s.Canonical) {r : Role} {v : BitVec 8} : (s.putEngines r v).Canonical := by
  unfold State.putEngines
  exact .deny (h.update.each (fun a x ha => .ite (.ite ha.setReady ha) ha.setReady)).ok

theorem replayDo (h : s.Canonical) {p : Nat} {b : Bytes} : (s.replayDo p b).Canonical := by
  unfold State.replayDo
  exact .ite h.modPart (State.Canonical.ite h.modPart.hostWrite h.modPart).raise

theorem putReplay (h : s.Canonical) {w : WriteReq} {r : Role} : (s.putReplay w r).Canonical := by
  unfold State.putReplay
  dsimp only
  split
  · exact h.requestRefused.ok
  · exact h.replayDo.ok

theorem countUnderlay (h : s.Canonical) : s.countUnderlay.Canonical := by
  unfold State.countUnderlay
  exact h.update

theorem tick (h : s.Canonical) : s.tick.Canonical := by
  unfold State.tick
  exact (State.Canonical.ite h.modRegion h).update

theorem operatorSets {r : Role} {ok : Bool} {u : State} (h : u.Canonical) : (s.operatorSets r ok u).Canonical := .deny h.ok

theorem write1020 (h : s.Canonical) {r : Role} {sub v : Nat} : (s.write1020 r sub v).Canonical := by
  unfold State.write1020
  split
  · exact h.update.operatorSets
  · exact h.update.operatorSets
  · exact h.update.operatorSets
  · exact h.update.operatorSets
  · exact .refused

theorem write1130 (h : s.Canonical) {ses : Ses} {r : Role} {sub v : Nat} : (s.write1130 ses r sub v).Canonical := by
  unfold State.write1130
  dsimp only
  split
  · exact h.modSensor.operatorSets
  · split
    · exact h.modSensor.operatorSets
    · exact h.operatorSets
  · exact .refused

theorem write2000 (h : s.Canonical) {ses : Ses} {r : Role} {sub v : Nat} : (s.write2000 ses r sub v).Canonical := by
  unfold State.write2000
  split
  · exact h.modPart.operatorSets
  · exact h.modPart.operatorSets
  · exact h.modPart.operatorSets
  · exact h.modPart.operatorSets
  · exact h.modPart.operatorSets
  · exact h.modPart.operatorSets
  · exact .refused

theorem write2130 (h : s.Canonical) {r : Role} {v : Nat} : (s.write2130 r v).Canonical := by
  unfold State.write2130
  exact h.update.operatorSets

theorem write2160 (h : s.Canonical) {ses : Ses} {r : Role} {v : Nat} : (s.write2160 ses r v).Canonical := by
  unfold State.write2160
  exact .deny (State.Canonical.ite h.doorbell h).ok

theorem write2240 (h : s.Canonical) {r : Role} {sub v : Nat} : (s.write2240 r sub v).Canonical := by
  unfold State.write2240
  split
  · exact h.update.operatorSets
  · exact h.update.operatorSets
  · exact .refused

theorem write2500 (h : s.Canonical) {r : Role} {sub v : Nat} : (s.write2500 r sub v).Canonical := by
  unfold State.write2500
  split
  · exact h.update.operatorSets
  · exact h.update.operatorSets
  · exact h.update.operatorSets
  · exact .refused

theorem write2501 (h : s.Canonical) {ses : Ses} {r : Role} {v : Nat} : (s.write2501 ses r v).Canonical := by
  unfold State.write2501
  exact h.modPart.operatorSets

theorem write2800 (h : s.Canonical) {ses : Ses} {r : Role} {sub v : Nat} : (s.write2800 ses r sub v).Canonical := by
  unfold State.write2800
  split <;> exact h.modPart.operatorSets

theorem unclaim (h : s.Canonical) : s.unclaim.Canonical := by
  unfold State.unclaim
  exact h.update.setReady

theorem write2900 (h : s.Canonical) {r : Role} {sub v : Nat} : (s.write2900 r sub v).Canonical := by
  unfold State.write2900
  split
  · exact (State.Canonical.ite h.update.unclaim h.update).operatorSets
  · exact (State.Canonical.ite (.ite h.update.unclaim h.update.update) h.update).operatorSets
  · exact .refused

theorem write3020 (h : s.Canonical) {r : Role} {sub v : Nat} : (s.write3020 r sub v).Canonical := by
  unfold State.write3020
  split
  · exact .deny h.update.ok
  · exact .deny h.update.ok
  · exact .refused

theorem write3200 (h : s.Canonical) {ses : Ses} {r : Role} {sub v : Nat} : (s.write3200 ses r sub v).Canonical := by
  unfold State.write3200
  split
  · exact .deny h.modRegion.ok
  · exact .deny h.modRegion.ok
  · exact .refused

theorem write3300 (h : s.Canonical) {r : Role} {v : Nat} : (s.write3300 r v).Canonical := by
  unfold State.write3300
  exact .deny h.update.ok

theorem writeLow (h : s.Canonical) {w : WriteReq} {r : Role} {v : Nat} : (s.writeLow w r v).Canonical := by
  unfold State.writeLow
  split
  · exact h.putLife
  · exact h.write1020
  · exact h.putTclkLimit
  · exact h.update.operatorSets
  · exact h.putPowerState
  · exact h.putEngines
  · exact h.write1130
  · exact h.putReset
  · exact h.putPower
  · exact h.update.operatorSets
  · exact h.putFreeze
  · exact h.putCommand
  · exact h.write2000
  · exact h.putAdmit
  · exact h.putLayout
  · exact h.write2130
  · exact h.write2160
  · exact .refused

theorem writeMid (h : s.Canonical) {w : WriteReq} {r : Role} {v : Nat} : (s.writeMid w r v).Canonical := by
  unfold State.writeMid
  split
  · exact h.putCtxPart
  · exact h.putMap
  · exact h.putLoad
  · exact h.putSlabOwner
  · exact h.putRekey
  · exact h.write2240
  · exact h.update.operatorSets
  · exact h.putRetire
  · exact h.modPart.operatorSets
  · exact h.putEnable
  · exact h.modPort.operatorSets
  · exact h.write2500
  · exact h.write2501
  · exact h.putSetting
  · exact h.putGroup
  · exact .refused

theorem writeHigh (h : s.Canonical) {w : WriteReq} {r : Role} {v : Nat} : (s.writeHigh w r v).Canonical := by
  unfold State.writeHigh
  split
  · exact h.putSetting
  · exact h.putBind
  · exact h.putSetting
  · exact h.putHamper
  · exact h.write2800
  · exact h.write2900
  · exact h.modPort.operatorSets
  · exact h.putSetting
  · exact h.putLaunch
  · exact h.update.operatorSets
  · exact h.putFence
  · exact h.update.operatorSets
  · exact h.putFatalAck
  · exact h.putArm
  · exact h.write3020
  · exact h.putCaptureAck
  · exact h.putKey
  · exact h.putJob
  · exact h.putZeroise
  · exact h.putCredential
  · exact h.write3200
  · exact h.putReplay
  · exact h.putTagData
  · exact h.putLock
  · exact h.write3300
  · exact .refused

theorem putObject (h : s.Canonical) {w : WriteReq} {r : Role} : (s.putObject w r).Canonical := by
  unfold State.putObject
  dsimp only
  split
  · exact .refused
  · split
    · exact .deny h.setSelect.ok
    · split
      · exact h.writeLow
      · split
        · exact h.writeMid
        · exact h.writeHigh

theorem writeObject (h : s.Canonical) {ses : Ses} {idx sub : Nat} {b : Bytes} : (s.writeObject ses idx sub b).1.Canonical := by
  unfold State.writeObject
  dsimp only
  split
  · dsimp only
    exact h.refuseWrite
  · refine h.putStatus fun r => ?_
    exact h.putObject

theorem countFrame (h : s.Canonical) {src : Source} : (s.countFrame src).Canonical := by
  unfold State.countFrame
  split
  · exact h.update
  · exact h

theorem dropFrame (h : s.Canonical) : s.dropFrame.Canonical := by
  unfold State.dropFrame
  exact h.update

theorem reply (h : s.Canonical) {src : Source} {rsp : Bytes} : (s.reply src rsp).Canonical := by
  unfold State.reply
  split
  · exact h
  · split <;> exact h.update

theorem served (h : s.Canonical) {q : Frame} {key : BitVec 256} {rsp : Bytes} : (s.served q key rsp).Canonical := by
  unfold State.served
  split
  · exact h
  · exact .ite h.update h

theorem getObject (h : s.Canonical) {src : Source} {q : Frame} : (s.getObject src q).1.Canonical := by
  unfold State.getObject
  exact .ite_fst h (.ite_fst h (.ite_fst h.readChallenge (.ite_fst h.newChallenge h)))

theorem setObject (h : s.Canonical) {q : Frame} : (s.setObject q).1.Canonical := by
  unfold State.setObject
  dsimp only
  exact h.writeObject

theorem openSession (h : s.Canonical) {src : Source} {q : Frame} : (s.openSession src q).Canonical := by
  unfold State.openSession
  split
  · exact h.update.update.reply
  · exact h.update.reply

theorem serve (h : s.Canonical) {src : Source} {q : Frame} : (s.serve src q).1.Canonical := by
  unfold State.serve
  split
  · exact h.getObject
  · exact h.setObject
  · dsimp only
    exact h.closeSession

theorem handleFrame (h : s.Canonical) {src : Source} {f : Bytes} : (s.handleFrame src f).Canonical := by
  unfold State.handleFrame
  split
  · exact h.dropFrame
  · split
    · exact h.openSession
    · split
      · exact h.dropFrame
      · exact h.reply
      · exact h.serve.reply
      · exact h.serve.served.reply

theorem takeFrame (h : s.Canonical) {src : Source} {f : Bytes} {type : Nat} : (s.takeFrame src f type).Canonical := by
  unfold State.takeFrame
  exact .ite h (.ite (.ite h.countFrame.dropFrame h.countFrame.update) h.countFrame.update.handleFrame)

theorem nextFrame (h : s.Canonical) : s.nextFrame.Canonical := by
  unfold State.nextFrame
  split
  · exact h.update
  · exact h.update.handleFrame

theorem arrayIdle (h : s.Canonical) {l : Path} : (s.arrayIdle l).Canonical := by
  unfold State.arrayIdle
  exact .ite h h.arrays

theorem debugAnswer (h : s.Canonical) {bs : Bytes} : (s.debugAnswer bs).Canonical := by
  unfold State.debugAnswer
  exact h.update

theorem bypassed (h : s.Canonical) : s.bypassed.Canonical := by
  unfold State.bypassed
  exact h.debugAnswer

theorem debugTile (h : s.Canonical) {t : Path} {ok : Bool} {f : State → State} (hf : ∀ a0, a0.Canonical → (f a0).Canonical) :
    outCanonical (s.debugTile t ok f) := by
  unfold State.debugTile
  refine .guard ?_
  split
  · exact h.bypassed
  · exact h.debugAnswer
  · exact .ite h (hf _ h)

theorem scanned (h : s.Canonical) {may : Bool} : (s.scanned may).Canonical := by
  unfold State.scanned
  exact .ite h.freeWord.debugAnswer h.bypassed

theorem debugAccess (h : s.Canonical) {ok : Bool} {f : State → State} (hf : ∀ a0, a0.Canonical → (f a0).Canonical) : outCanonical
    (s.debugAccess ok f) := by
  unfold State.debugAccess
  exact .guard (.ite (hf _ h) h.bypassed)

theorem debugServe (h : s.Canonical) {op : DebugOp} : outCanonical (s.debugServe op) := by
  unfold State.debugServe
  split
  · exact h.debugAnswer.next
  · exact h.bypassed.next
  · exact h.scanned.next
  · exact h.scanned.next
  · exact h.scanned.next
  · exact h.debugTile fun a ha => ha.debugAnswer
  · exact h.debugTile fun a ha => ha.modTile (by simp)
  · exact h.debugTile fun a ha => ha.debugAnswer
  · exact h.debugTile fun a ha => ha.modTile_of fun x => Tile.writeLS_wf _ _
  · exact h.debugTile fun a ha => ha.debugAnswer
  · exact h.debugTile fun a ha => ha.modTile (by simp)
  · exact h.debugAccess fun a ha => ha.debugAnswer
  · exact h.debugAccess fun a ha => ⟨Memory.wf_writeCells _ _ ha.tier, ha.host, ha.stores⟩
  · exact h.debugAccess fun a ha => ha.debugAnswer
  · refine h.debugAccess fun a ha => ?_
    split
    · next e => exact ha.putObject.of_ok e
    · exact ha.debugAnswer
  · exact h.debugTile fun a ha => ha.debugAnswer

theorem requests (h : s.Canonical) : s.requests.Canonical := by
  unfold State.requests
  exact h.each (fun a x ha => .ite ha.modPart ha.modPart.retryLoad)

theorem countSlotWaits (h : s.Canonical) : s.countSlotWaits.Canonical := by
  unfold State.countSlotWaits
  refine h.each fun a t ha => ?_
  split
  · exact ha.modPart
  · exact ha

theorem turns (h : s.Canonical) : s.turns.Canonical := by
  unfold State.turns
  exact .ite h.countUnderlay.countSlotWaits.endExchangesSent.requests
    h.countUnderlay.countSlotWaits.endExchangesSent.requests.hamperTurn.cipherTurn.timeBudget

theorem idle (h : s.Canonical) : s.idle.Canonical := by
  unfold State.idle
  exact (State.Canonical.ite h.tick.turns h.tick).nextFrame

end State.Canonical
end Sys2Proof.Machine
end

section
/-! SUPPORT for O16. The rows whose work stands in the row itself. -/

-- One theorem after the other: elaborated side by side, their threads run out of memory.
set_option Elab.async false

namespace Sys2Proof.Machine
namespace State.Canonical
variable {s : State}

theorem execMemoryRequest (h : s.Canonical) {ctx : BitVec 12} {pa : BitVec 44} {req : LineRequest} {errs : List (BitVec 4 × BitVec 8)} :
    outCanonical (Machine.execMemoryRequest ctx pa req errs s) := by
  unfold Machine.execMemoryRequest
  dsimp only
  refine .next ?_
  split
  · split
    · exact h
    · split
      · next e => exact h.lineErrors.of_eq e
      · next e => exact (h.lineErrors.of_eq e).lineRead.update
  · split
    · exact h
    · split
      · next e => exact h.lineErrors.of_eq e
      · next e => exact (h.lineErrors.of_eq e).lineWrite

theorem execReadaheadExpire (h : s.Canonical) {tier2 : Bool} {ch : BitVec 9} : outCanonical (Machine.execReadaheadExpire tier2 ch s) := by
  unfold Machine.execReadaheadExpire
  dsimp only
  refine .guard ?_
  split
  · exact h.update
  · exact h

theorem execLoop (h : s.Canonical) {t : Path} {v : Bool} {level : BitVec 2} {i : Bool} {len count : BitVec 12} : outCanonical
    (Machine.execLoop t v level i len count s) := by
  unfold Machine.execLoop
  split
  · exact h.fetchedWord (fun l => h.illegal)
  · exact h.fetched (fun l => .ite h.illegal (.ite h.raiseExc (h.modTile (by simp))))

theorem execMfc (h : s.Canonical) {t : Path} {v : Bool} {rx : Reg} {cr : BitVec 6} : outCanonical (Machine.execMfc t v rx cr s) := by
  unfold Machine.execMfc
  refine h.fetched fun h' => ?_
  split
  · exact h.raiseExc
  · exact .ite h.illegal (h.retire (by simp))

theorem execIllegalInsn (h : s.Canonical) {t : Path} {w : Word} : outCanonical (Machine.execIllegalInsn t w s) := by
  unfold Machine.execIllegalInsn
  split
  · exact h.guard
  · exact h.fetchedWord (fun l => h.illegal)

theorem execExceptionEntry (h : s.Canonical) {t : Path} : outCanonical (Machine.execExceptionEntry t s) := by
  unfold Machine.execExceptionEntry
  dsimp only
  refine .guard ?_
  split
  · exact h
  · split
    · exact h
    · exact h.enterExc

theorem execEret (h : s.Canonical) {t : Path} {v : Bool} {imm : BitVec 16} : outCanonical (Machine.execEret t v imm s) := by
  unfold Machine.execEret
  refine h.fetched fun l => ?_
  dsimp only
  split
  · split
    · exact h.raiseExc.enterExc
    · exact h.raiseExc
  · split
    · exact h.raiseExc
    · split
      · next e => exact h.readLS.of_eq e
      · next e => exact .ite (h.readLS.of_eq e).raiseExc ((h.readLS.of_eq e).modTile (by simp))

theorem execIssue (h : s.Canonical) {t : Path} {v : Bool} {rdesc : Reg} : outCanonical (Machine.execIssue t v rdesc s) := by
  unfold Machine.execIssue
  refine h.fetched fun h' => ?_
  split
  · next e => exact h.readDesc.of_eq e
  · next e => exact (h.readDesc.of_eq e).refuseDesc.raiseExc
  · next e => exact .ite ((h.readDesc.of_eq e).retire (by simp)).wake h

theorem execFireItem (h : s.Canonical) {t : Path} : outCanonical (Machine.execFireItem t s) := by
  unfold Machine.execFireItem
  dsimp only
  refine .guard ?_
  split
  · exact h
  · split
    · exact h
    · split
      · next e' => exact h.readDesc.of_eq e'
      · next e' => exact (h.readDesc.of_eq e').refuseDesc.fireFault
      · next e' => exact .ite ((h.readDesc.of_eq e').setItemByte.modTile (by simp)).wake h

theorem execLaneLockLoss (h : s.Canonical) {p : PortCode} {lane : BitVec 4} : outCanonical (Machine.execLaneLockLoss p lane s) := by
  unfold Machine.execLaneLockLoss
  dsimp only
  refine .next ?_
  split
  · exact h
  · split
    · exact h.failPort
    · exact h.modPort
    · exact h

theorem execPortCloseDrained (h : s.Canonical) {p : PortCode} : outCanonical (Machine.execPortCloseDrained p s) := by
  unfold Machine.execPortCloseDrained
  dsimp only
  refine .next ?_
  split
  · exact h
  · exact .ite h.closePort h

theorem execCollectiveDeadline (h : s.Canonical) {ctx : BitVec 12} {slot : BitVec 4} : outCanonical
    (Machine.execCollectiveDeadline ctx slot s) := by
  unfold Machine.execCollectiveDeadline
  dsimp only
  refine .next ?_
  split
  · exact h
  · exact .ite h.endCollective h

theorem execMsgAbort (h : s.Canonical) {p : PortCode} : outCanonical (Machine.execMsgAbort p s) := by
  unfold Machine.execMsgAbort
  refine h.msgRow fun s' g m hs' => ?_
  split
  · exact hs'.endCollective
  · exact hs'.raiseWith

theorem execMsgContrib (h : s.Canonical) {p : PortCode} : outCanonical (Machine.execMsgContrib p s) := by
  unfold Machine.execMsgContrib
  dsimp only
  refine h.outMsgRow fun s' b m hs' => ?_
  split
  · exact hs'.outStray
  · split
    · next e => exact (hs'.put.of_eq e).bindingFault
    · next e => exact (hs'.put.of_eq e).modBinding.outStep

theorem execMsgBitmap (h : s.Canonical) {p : PortCode} : outCanonical (Machine.execMsgBitmap p s) := by
  unfold Machine.execMsgBitmap
  dsimp only
  refine h.outMsgRow fun s' b m hs' => ?_
  split
  · exact hs'
  · split
    · split
      · exact .ite hs'.fixStatus hs'
      · exact hs'
    · exact .ite hs' hs'.sendBitmap.acceptBitmap

theorem execMsgSnapreq (h : s.Canonical) {p : PortCode} : outCanonical (Machine.execMsgSnapreq p s) := by
  refine h.outMsgRow fun s b m hs => ?_
  have hr (a : State) (c : TsCtx) (va n : Nat) (ha : a.Canonical) : (a.tsRead c va n).1.Canonical := ha.tsRead
  -- Opaque from here on: to compare two matches on what it returns, the kernel would run it.
  obtain ⟨tsRead, hread⟩ : ∃ f, @State.tsRead = f := ⟨_, rfl⟩
  rw [hread] at hr ⊢
  dsimp only
  split
  · exact hs.outSend
  · split
    · next e => exact (State.Canonical.of_eq (hr _ _ _ _ hs) e).bindingFault
    · next e =>
      have hs1 := State.Canonical.of_eq (hr _ _ _ _ hs) e
      have hrr (a : TsCtx) (va va' n n' : Nat) := State.Canonical.andThen (hr _ a va n hs1)
        (f := fun s2 an => (tsRead s2 a va' n').andThen fun s3 mo => (s3, .ok (an ++ mo)))
        fun _ _ ha => .andThen (hr _ _ _ _ ha) fun _ _ ha => ha.pair
      split
      · exact hs1.outSend
      · split
        · exact hs1.outSend
        · split
          · next e' => exact (State.Canonical.of_eq (hrr _ _ _ _ _) e').bindingFault
          · next e' => exact (State.Canonical.of_eq (hrr _ _ _ _ _) e').outStream.countPart

theorem execMsgSnapdata (h : s.Canonical) {p : PortCode} : outCanonical (Machine.execMsgSnapdata p s) := by
  refine h.outMsgRow fun s b m hs => ?_
  have hr (a : State) (c : TsCtx) (b : Binding) (i : Nat) (ha : a.Canonical) : (a.readOut c b i).1.Canonical := ha.readOut
  have hp (a : State) (c : TsCtx) (x : OutSpan) (o : Nat) (bs : Bytes) (ha : a.Canonical) : (a.putSnap c x o bs).1.Canonical := ha.putSnap
  -- Opaque from here on: to compare two matches on what it returns, the kernel would run it.
  obtain ⟨readOut, hread⟩ : ∃ f, @State.readOut = f := ⟨_, rfl⟩
  obtain ⟨putSnap, hput⟩ : ∃ f, @State.putSnap = f := ⟨_, rfl⟩
  rw [hread] at hr ⊢
  rw [hput] at hp ⊢
  split
  · exact hs.outStray
  · dsimp only
    refine .ite hs.outStray (.ite hs.endFetch (.ite hs.modBinding (.ite hs.endFetch ?_)))
    split
    · next e => exact (State.Canonical.of_eq (hr _ _ _ _ hs) e).modBinding.outFault
    · next e =>
      have hs1 := State.Canonical.of_eq (hr _ _ _ _ hs) e
      refine .ite hs1.outStray ?_
      split
      · next e' => exact (State.Canonical.of_eq (hp _ _ _ _ _ hs1) e').modBinding.outFault
      · next e' =>
        have hs2 := State.Canonical.of_eq (hp _ _ _ _ _ hs1) e'
        exact .ite hs2.endFetch hs2.modBinding

theorem execSnapfetchRetry (h : s.Canonical) {gid : BitVec 16} : outCanonical (Machine.execSnapfetchRetry gid s) := by
  refine .next (h.withBinding fun s b hs => ?_)
  have hr (a : State) (c : TsCtx) (b : Binding) (i : Nat) (ha : a.Canonical) : (a.readOut c b i).1.Canonical := ha.readOut
  -- Opaque from here on: to compare two matches on what it returns, the kernel would run it.
  obtain ⟨readOut, hread⟩ : ∃ f, @State.readOut = f := ⟨_, rfl⟩
  rw [hread] at hr ⊢
  split
  · exact hs
  · dsimp only
    refine .ite hs ?_
    split
    · next e => exact (State.Canonical.of_eq (hr _ _ _ _ hs) e).modBinding.outFault
    · next e => exact (State.Canonical.of_eq (hr _ _ _ _ hs) e).modBinding.sendSnapreq

theorem execSnapfetchTimeout (h : s.Canonical) {gid : BitVec 16} : outCanonical (Machine.execSnapfetchTimeout gid s) := by
  unfold Machine.execSnapfetchTimeout
  refine .next ?_
  refine h.withBinding fun s' b hs' => ?_
  split
  · exact hs'
  · split
    · exact hs'
    · split <;> exact .ite hs'.endFetch hs'

theorem execOutDeadline (h : s.Canonical) {gid : BitVec 16} : outCanonical (Machine.execOutDeadline gid s) := by
  unfold Machine.execOutDeadline
  refine .next ?_
  refine h.withBinding fun s' b hs' => ?_
  split
  · split
    · exact .ite hs'.publish hs'
    · exact hs'
  · exact hs'

theorem execOutStatusLimit (h : s.Canonical) {gid : BitVec 16} : outCanonical (Machine.execOutStatusLimit gid s) := by
  unfold Machine.execOutStatusLimit
  refine .next ?_
  refine h.withBinding fun s' b hs' => ?_
  split
  · exact hs'
  · split
    · exact hs'
    · split
      · exact .ite hs'.fixStatus hs'
      · split
        · exact .ite hs'.fixStatus hs'
        · exact hs'

theorem execOutIncomplete (h : s.Canonical) {gid : BitVec 16} : outCanonical (Machine.execOutIncomplete gid s) := by
  unfold Machine.execOutIncomplete
  refine .next ?_
  refine h.withBinding fun s' b hs' => ?_
  split
  · exact hs'
  · split
    · exact .ite hs'.raise hs'
    · exact hs'

theorem execCounterLock (h : s.Canonical) : outCanonical (Machine.execCounterLock s) := by
  unfold Machine.execCounterLock
  refine .next ?_
  split
  · exact .ite h.enterLocked h
  · exact h

theorem execCheckerCompare (h : s.Canonical) {k : BitVec 6} : outCanonical (Machine.execCheckerCompare k s) := by
  unfold Machine.execCheckerCompare
  refine .guard ?_
  split
  · exact .ite h h.compare
  · exact h

theorem execTagLockTimeout (h : s.Canonical) : outCanonical (Machine.execTagLockTimeout s) := by
  unfold Machine.execTagLockTimeout
  refine .next ?_
  split
  · exact .ite h.update h
  · exact h

theorem execTagPublishDone (h : s.Canonical) : outCanonical (Machine.execTagPublishDone s) := by
  unfold Machine.execTagPublishDone
  refine .next ?_
  split
  · exact .ite h.update h
  · exact .ite h.update h
  · exact h

theorem execNotify (h : s.Canonical) : outCanonical (Machine.execNotify s) := by
  unfold Machine.execNotify
  refine .next ?_
  split
  · exact h
  · exact .ite h (.ite h.update h.update)

theorem execSessionTimeout (h : s.Canonical) {ses : Ses} : outCanonical (Machine.execSessionTimeout ses s) := by
  unfold Machine.execSessionTimeout
  refine .next ?_
  split
  · exact .ite h.closeSession h
  · exact h

theorem execAuxRailFall (h : s.Canonical) : outCanonical (Machine.execAuxRailFall s) :=
  .next (.ite h ⟨rfl, h.host, fun _ he => nomatch he⟩)

theorem execClusterSelfTest (h : s.Canonical) {k : BitVec 6} {result : SelfTest} : outCanonical
    (Machine.execClusterSelfTest k result s) := by
  unfold Machine.execClusterSelfTest
  dsimp only
  refine .guard ?_
  split
  · exact h
  · split
    · exact h.testPassed
    · exact h.testFailed

theorem execThrottleEnd (h : s.Canonical) {sensor : BitVec 5} : outCanonical (Machine.execThrottleEnd sensor s) := by
  unfold Machine.execThrottleEnd
  dsimp only
  refine .guard ?_
  split
  · exact h
  · exact .ite h.modSensor.followThrottles h

theorem execTripShutdown (h : s.Canonical) : outCanonical (Machine.execTripShutdown s) := by
  unfold Machine.execTripShutdown
  refine .next ?_
  split
  · exact h
  · exact .ite (State.Canonical.ite h.convertersOff h).setPower.update h

theorem execClockStep (h : s.Canonical) {die : BitVec 2} : outCanonical (Machine.execClockStep die s) := by
  unfold Machine.execClockStep
  dsimp only
  refine .next ?_
  split
  · exact h
  · split
    · exact h.measure.modDie
    · exact h.measure.modDie.modDie.clockPacket

theorem execCommandComplete (h : s.Canonical) {t : Path} {k : Nat} : outCanonical (Machine.execCommandComplete t k s) := by
  unfold Machine.execCommandComplete
  dsimp only
  refine .guard ?_
  split
  · exact .ite h.complete.arrayIdle.vecRun h
  · exact h

theorem execDebugAccess (h : s.Canonical) {op : DebugOp} : outCanonical (Machine.execDebugAccess op s) := by
  unfold Machine.execDebugAccess
  split
  · exact h.next
  · exact h.debugServe

end State.Canonical
end Sys2Proof.Machine
end

section
/-! O16: the dispatcher, row by row, and the step. -/

-- One theorem after the other: elaborated side by side, their threads run out of memory.
set_option Elab.async false

namespace Sys2Proof.Machine
namespace State.Canonical
variable {s : State}

theorem exec (h : s.Canonical) (i : Instr) : outCanonical (Machine.exec i s) := by
  unfold Machine.exec
  cases i with
  | doorbellNop | start | stop | resume | clearFault | resetTickets | setFiring => exact h.doorbell.next
  | add | sub | and | or | xor | sll | srl | sra | slt | sltu | mul | mulhu | min | max | minu | maxu => exact h.aluR
  | addi | andi | ori | slti | slli | srli | srai => exact h.aluI
  | lui => exact h.simple (by simp)
  | lw | lhu => exact h.loadInsn
  | sw | sh => exact h.storeInsn
  | brEq | brNe | brLt | brGe | brLtu | brGeu => exact h.branch
  | j | jal | jr => exact h.fetched (fun l => h.jumpTo)
  | jalr => exact h.fetched (fun l => .ite h.illegal h.jumpTo)
  | loop => exact h.execLoop
  | issue => exact h.execIssue
  | twait | twaiti | halt | fence => exact h.fetched (fun l => .ite h.retire h)
  | tadv => exact h.fetched (fun l => .ite h.illegal h.retire)
  | tread => exact h.fetched (fun l => .ite h.illegal (h.retire (by simp)))
  | mfc => exact h.execMfc
  | mtc => exact h.fetched (fun l => .ite h.raiseExc (.ite h.illegal (h.retire (by simp))))
  | nop => exact h.simple
  | trap => exact h.fetched (fun l => h.raiseExc)
  | eret => exact h.execEret
  | faultInsn => exact h.fetched (fun l => .ite h.illegal h.modTile.raiseTile)
  | exceptionEntry => exact h.execExceptionEntry
  | commandComplete => exact h.execCommandComplete
  | fireItem => exact h.execFireItem
  | vaddF | vsubF | vmulF | vfmaF | vminF | vmaxF | vcltF | vcleF | vceqF | vclassF | vaddH | vsubH | vmulH | vfmaH | vminH | vmaxH
  | vaddI | vsubI | vmulI | vminI | vmaxI | vcltI | vceqI | vand | vor | vxor | vsll | vsrl | vsra | vsel | vsplat | vlane | vmand
  | vmor | vmxor | vmnot | vsetsr | vsig | vcvtFi | vcvtIf | vcvtFh | vcvtHf | vcvtFn | vcvtNf | vld | vst | vldx | vstx | vrsumF
  | vrmaxF | vrminF | vramxF =>
    exact h.vecInsn
  | mma | l1 | minplus | maxplus | topk | fp32x3 | cplx3 | underlay => exact h.arrayRow
  | underlayStepDown | underlayStepUp => exact .guard (.ite h.modTile h)
  | panelLayoutWrite => exact h.putRow (fun r => h.putLayout)
  | route => exact h.dispatch (fun a l c ha => ha.routeWork)
  | redSum | redSsq | redMax | redMin | redAmax => exact h.dispatch (fun a l c ha => ha.redCmd)
  | occ => exact h.dispatch (fun a l c ha => ha.blockRun (fun a' ha' => ha'.occWork))
  | qy4 => exact h.dispatch (fun a l c ha => ha.blockRun (fun a' ha' => ha'.qy4Work))
  | copyLoad => exact h.accRow (fun s' a hs' => .ite hs'.copyLoadChk hs'.copyLoad)
  | expand => exact h.accRow (fun s' a hs' => hs'.expand)
  | transpose => exact h.accRow (fun s' a hs' => hs'.transpose)
  | gather => exact h.accRow (fun s' a hs' => hs'.gather)
  | prefetch => exact h.accRow (fun s' a hs' => hs'.prefetchRows)
  | progload => exact h.accRow (fun s' a hs' => hs'.progload)
  | copyStore => exact h.accRow (fun s' a hs' => hs'.storing (fun s'' a' hs'' => .ite hs''.copyStoreChk hs''.copyStore))
  | compress => exact h.accRow (fun s' a hs' => hs'.storing (fun s'' a' hs'' => hs''.compress))
  | memoryRequest => exact h.execMemoryRequest
  | readaheadExpire => exact h.execReadaheadExpire
  | patrolScrub => exact .next (.ite h h.lineErrors)
  | retirePage => exact h.putRow (fun r => h.putRetire)
  | slabOwnerWrite => exact h.putRow (fun r => h.putSlabOwner)
  | rekey => exact h.putRow (fun r => h.putRekey)
  | slabScrubDone => exact .guard (.ite h.wipeSlab.modSlab h)
  | imbalanceWindow => exact .next (.ite h.update (.ite h.update.update.raise h.update))
  | contextBind | contextUnbind => exact h.putRow (fun r => h.putCtxPart)
  | map | unmap | protect => exact h.mapRow
  | mappingComplete => exact .guard (.ite h.purgeTlbs.update.modPart.mapEnd h)
  | programLoadRequest => exact h.putRow (fun r => h.putLoad)
  | stage => exact h.tsRow (fun s' a hs' => hs'.stage.fst)
  | normsum => exact h.tsRow (fun s' a hs' => hs'.normsum.fst)
  | verdict => exact h.tsRow (fun s' a hs' => hs'.verdictCmd.fst)
  | commit => exact h.tsRow (fun s' a hs' => hs'.commit.fst)
  | barrier | broadcast | allreduce | reduceScatter | allgather | alltoall | alltoallv | alltoallvRev | shuttleSlotOpen => exact h.shRow
  | collectiveDeadline => exact h.execCollectiveDeadline
  | msgCts => exact h.msgRow (fun a0 a1 a2 ha0 => ha0.ctsIn)
  | msgData => exact h.slotRow (fun a0 a1 a2 a3 ha0 => ha0.dataIn)
  | msgCounts => exact h.slotRow (fun a0 a1 a2 a3 ha0 => .ite ha0.strayMsg ha0.modSlot)
  | msgDone => exact h.slotRow (fun a0 a1 a2 a3 ha0 => .ite ha0.modSlot ha0)
  | msgToken => exact h.slotRow (fun a0 a1 a2 a3 ha0 => .ite ha0.modSlot ha0.strayMsg)
  | msgAbort => exact h.execMsgAbort
  | outPack => exact h.outRow (fun a0 a1 a2 a3 ha0 => ha0.outAtOnce (fun a0' a1' a2' a3' ha0' => ha0'.outPack.fst))
  | outExchange => exact h.outRow (fun a0 a1 a2 a3 ha0 => .ite ha0.outFault ha0.outExchange)
  | outApply => exact h.outRow (fun a0 a1 a2 a3 ha0 => ha0.outAtOnce (fun a0' a1' a2' a3' ha0' => ha0'.outApply.fst))
  | outSnapfetch => exact h.outRow (fun a0 a1 a2 a3 ha0 => ha0.outSnapfetch)
  | snapfetchRetry => exact h.execSnapfetchRetry
  | snapfetchTimeout => exact h.execSnapfetchTimeout
  | msgContrib => exact h.execMsgContrib
  | msgReceipt => exact h.outMsgRow (fun a0 a1 a2 ha0 => .ite ha0.outStray ha0.modBinding.outStep)
  | msgBitmap => exact h.execMsgBitmap
  | msgSnapreq => exact h.execMsgSnapreq
  | msgSnapdata => exact h.execMsgSnapdata
  | outDeadline => exact h.execOutDeadline
  | outStatusLimit => exact h.execOutStatusLimit
  | outIncomplete => exact h.execOutIncomplete
  | register | release => exact h.putRow (fun r => h.putGroup)
  | bind | unbind => exact h.putRow (fun r => h.putBind)
  | planAdmit | withdraw => exact h.putRow (fun r => h.putAdmit)
  | dataFrame => exact h.frameIn.next
  | hello => exact h.helloIn.next
  | credit => exact h.creditIn.next
  | ts => exact h.tsIn.next
  | dataFrameSend => exact h.sendFrame.endExchangesSent.next
  | creditSend => exact .next (.ite h h.sendControl.modPort)
  | tsSend => exact .next (.ite h h.sendControl.modPort.timeBudget)
  | responseDeadline => exact .next (.ite h (.ite h.failPort (.ite h.failPort h)))
  | laneLockLoss => exact h.execLaneLockLoss
  | opticsMonitorFault => exact .next (.ite h h.failPort)
  | portEnable | portDisable => exact h.putRow (fun r => h.putEnable)
  | portCloseDrained => exact h.execPortCloseDrained
  | portTrain => exact .next (.ite h (.ite h.modPort h.modPort))
  | trainingTimeout => exact .next (.ite h.modPort h)
  | rootClaim => exact .next (.ite h.update.setRoot.enterLocked h)
  | counterLock => exact h.execCounterLock
  | parentLoss => exact .next (.ite h.chooseParent.timeBudget h)
  | arm | cancel => exact h.putRow (fun r => h.launchDue.putLaunch)
  | launchFire => exact h.launchDue.guard
  | checkerCompare => exact h.execCheckerCompare
  | checkerReseed => exact .guard (.ite h h.seedChecker)
  | checkerFence => exact h.putRow (fun r => h.putFence)
  | injectionArm | injectionCancel => exact h.putRow (fun r => h.putArm)
  | parityError => exact .guard (.ite h.siteError h)
  | faultRingHeartbeat => exact .guard (.ite h (.ite h.update.deviceError h.update))
  | notify => exact h.execNotify
  | fatalAcknowledge => exact h.putRow (fun r => h.putFatalAck)
  | write | restore | verify => exact h.putRow (fun r => h.putHamper)
  | noiseHealthWindow => exact .next (.ite h (.ite h.startupWindow h.steadyWindow))
  | drbgInstantiate => exact .next (.ite h h.seeded)
  | drbgReseed => exact .next (.ite h (.ite h.update.seeded h.update.setReady.setReady))
  | maskReseed => exact .guard (.ite h (.ite h.generate.update h.generate.update.unstall))
  | keyInstall | keyErase => exact h.putRow (fun r => h.putKey)
  | zeroise => exact h.putRow (fun r => h.putZeroise)
  | cbc | ctr | cfb | gcm | ccm | cmac | sha256 => exact h.jobRow
  | form | dissolve => exact h.putRow (fun r => h.putCommand)
  | lcChallengeRead => exact .next (.ite h.readChallenge h)
  | lcToProvisioned | lcToField | lcToFieldDebug | lcToReturn | lcToManufacture | lcToRetired => exact h.lifeRow
  | get | set | aoaOpen | aoaClose => exact h.takeFrame.next
  | sessionChallengeRead => exact .next (.ite h.newChallenge h)
  | sessionTimeout => exact h.execSessionTimeout
  | credentialInstall | credentialErase => exact h.putRow (fun r => h.putCredential)
  | mbxDoor | tagStatusUpdate => exact .next (.ite h h.update)
  | beaconTimeout | jabber => exact .next (.ite h.linkDown h)
  | wedgeProbe => exact .next (.ite h (.ite h.update h.update))
  | deviceReset => exact h.putRow (fun r => h.putReset)
  | powerOn | powerOff => exact h.putRow (fun r => h.putPower)
  | traceFreeze | traceUnfreeze => exact h.putRow (fun r => h.putFreeze)
  | captureAcknowledge => exact h.putRow (fun r => h.putCaptureAck)
  | inventory => exact .next (.ite h.tagAnswer h)
  | stayQuiet => exact .next (.ite h.tagMode h)
  | tagSelect => exact .next (.ite h (.ite h.tagMode.tagAnswer (.ite h.tagMode h)))
  | resetToReady => exact h.tagServe (fun a0 ha0 => ha0.tagMode.tagAnswer)
  | getSystemInformation | extendedGetSystemInformation | tagUnsupportedCommand => exact h.tagServe (fun a0 ha0 => ha0.tagAnswer)
  | readSingleBlock | readMultipleBlocks | extendedReadSingleBlock | extendedReadMultipleBlocks =>
    exact h.tagServe (fun a0 ha0 => ha0.tagRead)
  | writeSingleBlock | extendedWriteSingleBlock => exact h.tagServe (fun a0 ha0 => ha0.tagWrite)
  | tagLockTake | tagLockRelease => exact h.putRow (fun r => h.putLock)
  | tagDataWrite => exact h.putRow (fun r => h.putTagData)
  | tagLockTimeout => exact h.execTagLockTimeout
  | tagPublishDone => exact h.execTagPublishDone
  | auxRailRise => exact .next (.ite h (.ite h.update.convertersOn h.update))
  | auxRailFall => exact h.execAuxRailFall
  | bridgeRailsGood =>
    exact .next (.ite h ((State.Canonical.ite h.bridgeClocks.startTrace h.bridgeClocks).each (fun a x ha => ha.setReady)))
  | dieRailsGood => exact .next (.ite h ((h.modDie.each (fun a x ha => ha.modCluster)).setReady.each (fun a x ha => ha.setReady)))
  | clusterSelfTest => exact h.execClusterSelfTest
  | pcieLinkTraining => exact .next (.ite h h.update.setReady)
  | tierTrainingDone => exact .next (.ite h (h.update.setReady.setReady.each (fun a x ha => ha.beginScrub)))
  | pcieConventionalReset => exact .next (.ite h.update.deviceReset h.update)
  | pcieHotReset | functionLevelReset => exact .next (.ite h.resetMirror h)
  | inputOutOfRange => exact .next (.ite h.update.powerFault h.update)
  | converterFault => exact .next (.ite h.powerFault h)
  | thermalCrossing | thermalTrip => exact .guard (.ite h.sense h)
  | throttleEnd => exact h.execThrottleEnd
  | tripShutdown => exact h.execTripShutdown
  | clockStep => exact h.execClockStep
  | tclkLimitWrite => exact h.putRow (fun r => h.putTclkLimit)
  | idleClockedEnter => exact .guard (.ite h.setCurrent h)
  | powerRequestActive | powerRequestRetention | powerRequestSleep => exact h.putRow (fun r => h.putPowerState)
  | powerStateSettle => exact .guard (.ite h.settleCluster h)
  | enginePowerWrite => exact h.putRow (fun r => h.putEngines)
  | replayCapture | replayClear => exact h.putRow (fun r => h.putReplay)
  | objectWrite => exact .next (.ite h.writeObject h)
  | illegalInsn => exact h.execIllegalInsn
  | lsRangeFetch => exact h.fetchedWord (fun l => h)
  | laneLock => exact .next (.ite h h.modPort)
  | helloSend => exact .next (.ite h h.sendControl.modPort.tryUp)
  | plcaBeacon => exact .next (.ite h.update h)
  | rfField => exact h.update.next
  | mainInputInRange => exact .next (.ite h.update.convertersOn h.update)
  | pcieLinkDown => exact .next (.ite h.update.setReady h)
  | resync =>
    exact .guard (.ite h (.ite h.modCluster.tilePacket.modCluster.modCluster
      h.modCluster.tilePacket.modCluster.setClusterReady.setCurrent))
  | debugAccess => exact h.execDebugAccess

theorem step (h : s.Canonical) : outCanonical (Machine.step s) := by
  unfold Machine.step
  split
  · exact h.idle.next
  · exact h.update.exec _

end State.Canonical

/-- Settles O16: every operation of the model leaves the memories canonical, and a step is one command or an idle turn. -/
theorem memoriesStayCanonical : Obligations.MemoriesStayCanonical := by
  unfold Obligations.MemoriesStayCanonical
  exact fun s u h hu => (State.memWf_iff u).2 (((State.memWf_iff s).1 h).step u hu)

end Sys2Proof.Machine
end

section
/-! O28: contexts bound and unbound, and the mapping request: what an accepted one leaves. -/

-- One theorem after the other: elaborated side by side, their threads run out of memory.
set_option Elab.async false

namespace Sys2Proof.Machine
section
variable {s : State}

theorem Put.deny_of_false {bad : Bool} {cond : Nat} {p : Put} (h : bad = false) : Put.deny bad cond p = p := by
  rw [h]
  rfl

theorem State.partIs_modPart (s : State) (p : Nat) (f : Part → Part) : PartIs s (s.modPart p f) p (f (s.part p)) :=
  ⟨s.part_modPart_same p f, fun _ hq => s.part_modPart_other f hq⟩

/-! ### Contexts (R168) -/

theorem State.ctxBind_bindCtx (s : State) (c p slot d : Nat) :
    (s.bindCtx c p slot).ctxBind d = if d = c then some ⟨BitVec.ofNat 8 p, BitVec.ofNat 4 slot⟩ else s.ctxBind d :=
  mapGet_mapSet none (some _) s.mem.ctxs c d

theorem State.ctxBind_unbindCtx (s : State) (c p d : Nat) : (s.unbindCtx c p).ctxBind d = if d = c then none else s.ctxBind d :=
  mapGet_mapSet none none s.mem.ctxs c d

theorem State.putCtxPart_bind {ses : Ses} {r : Role} {v : BitVec 8} {c : Nat} (hv : v ≠ 0xFF) (hsel : s.select ses 0x2201 1 0 = c)
    (hfree : s.ctxBind c = none) (hslot : s.slotCtx v.toNat (s.select ses 0x2201 3 0 % 16) = none) (hown : s.asOwner r v.toNat = true)
    (hformed : s.formed v.toNat = true) (hlo : 102 * v.toNat ≤ c) (hhi : c ≤ 102 * v.toNat + 101) :
    s.putCtxPart ses r v = .ok (s.bindCtx c v.toNat (s.select ses 0x2201 3 0 % 16)) := by
  rw [State.putCtxPart, if_neg hv]
  simp [Put.deny, hsel, hfree, hslot, hown, hformed, hlo, hhi]

theorem State.putCtxPart_unbind {ses : Ses} {r : Role} {c : Nat} {b : CtxBind} (hsel : s.select ses 0x2201 1 0 = c)
    (hb : s.ctxBind c = some b) (hown : s.asOwner r b.part.toNat = true)
    (hidle : b.slot = 0 → ∀ t ∈ s.partTiles b.part.toNat, s.tileState t = 0) :
    s.putCtxPart ses r 0xFF = .ok (s.unbindCtx c b.part.toNat) := by
  have hbusy : (b.slot = 0 && (s.partTiles b.part.toNat).any fun t => s.tileState t ≠ 0) = false := by
    simpa [Bool.and_eq_false_imp] using hidle
  simp only [State.putCtxPart, hsel, hb, hown, hbusy, if_true, Bool.not_true, Put.deny_of_false]

/-- Unbinding takes the context's own mappings away. -/
theorem State.maps_unbindCtx (s : State) (c p : Nat) : (s.unbindCtx c p).mem.maps = s.mem.maps.filter (fun m => m.ctx.toNat ≠ c) := by
  refine List.filter_congr fun m hm => ?_
  by_cases hc : m.ctx.toNat = c
  · simp only [hc, ne_eq, not_true, decide_false, Bool.not_eq_false', List.any_eq_true]
    exact ⟨m, List.mem_filter.2 ⟨hm, by simpa using hc⟩, by simp⟩
  · simp only [hc, ne_eq, not_false_eq_true, decide_true, Bool.not_eq_true', List.any_eq_false]
    intro g hg he
    obtain ⟨-, hgc⟩ := List.mem_filter.1 hg
    simp only [Bool.and_eq_true, decide_eq_true_eq] at he hgc
    exact hc (he.1 ▸ hgc)

theorem State.partIs_unbindCtx (s : State) (c p : Nat) :
    PartIs s (s.unbindCtx c p) p { s.part p with mapResult := 1, mapBusy := true } := State.partIs_modPart ..

/-! ### The mapping request (R170 to R172) -/

theorem fieldAt_setByte_zero {bs : Bytes} (h : bs ≠ []) (x : Byte) : fieldAt (setByte bs 0 x) 0 1 = x.toNat := by
  obtain ⟨b, bs, rfl⟩ := List.exists_cons_of_ne_nil h
  simp [fieldAt, setByte, slice, fit, leNat, zeros]

theorem fieldAt_setByte_of_pos (bs : Bytes) (x : Byte) {off : Nat} (len : Nat) (h : 0 < off) :
    fieldAt (setByte bs 0 x) off len = fieldAt bs off len := by
  simp only [fieldAt, setByte, slice, List.drop_set, if_pos h]

theorem mapRecord_op {op : Nat} (h : op < 256) (rec' : BitVec 256) : (mapRecord op rec').op = op := by
  refine (fieldAt_setByte_zero (by simp [toLE]) _).trans ?_
  simpa using h

theorem mapRecord_ctx_lt (op : Nat) (rec' : BitVec 256) : (mapRecord op rec').ctx < 4096 := Nat.mod_lt _ (by decide)

/-- A request that R170 refuses nowhere is done. -/
theorem State.mapRow_done {ses : Ses} {op : Nat} {rec' : BitVec 256} {p : Nat} (h : MayMap s ses (mapRecord op rec') p) :
    s.mapRow ses op rec' = .next (s.mapDo p (mapRecord op rec')) := by
  obtain ⟨hw, hpart, hown, hrefuse, hbusy⟩ := h
  refine State.putRow_of_ok hw ?_
  have hp : (s.mapWrite ses op rec').part = some p := hpart
  have hq : mapReq (s.mapWrite ses op rec').bytes = mapRecord op rec' := rfl
  have hs : (s.mapWrite ses op rec').ses = ses := rfl
  simp [State.putMap, hp, hq, hs, hown, hrefuse, hbusy]

/-- A mapping is of a page that the request names. -/
def MapReq.hit (q : MapReq) (m : PageMap) : Bool := q.pages.any fun x => m.ctx = x.ctx && m.va = x.va

theorem MapReq.hit_iff {q : MapReq} (hq : q.ctx < 4096) (m : PageMap) : q.hit m = true ↔ ofRequest q m := by
  have hc : m.ctx = BitVec.ofNat 12 q.ctx ↔ m.ctx.toNat = q.ctx := by
    rw [← BitVec.toNat_inj, BitVec.toNat_ofNat, Nat.mod_eq_of_lt hq]
  simp only [MapReq.hit, MapReq.pages, List.any_map, List.any_eq_true, List.mem_range, Function.comp, Bool.and_eq_true,
    decide_eq_true_eq, hc]
  exact ⟨fun ⟨i, hi, hm, hv⟩ => ⟨hm, i, hi, hv⟩, fun ⟨hm, i, hi, hv⟩ => ⟨i, hi, hm, hv⟩⟩

theorem MapReq.toNat_ctx_of_mem_pages {q : MapReq} (hq : q.ctx < 4096) {x : PageMap} (h : x ∈ q.pages) : x.ctx.toNat = q.ctx := by
  obtain ⟨i, -, rfl⟩ := List.mem_map.1 h
  exact (BitVec.toNat_ofNat ..).trans (Nat.mod_eq_of_lt hq)

/-- A request that names pages to be unmapped or protected is refused where one is not mapped (R170). -/
theorem State.pageAt_of_mapRefusal {q : MapReq} {p : Nat} {owned : Bool} (h : s.mapRefusal q p owned = none) (hop : q.op ≠ 1) :
    ∀ x ∈ q.pages, ∃ g, s.pageAt q.ctx x.va q.big = some g := by
  unfold State.mapRefusal at h
  iterate 4 rw [ite_eq_iff] at h; simp only [reduceCtorEq, and_false, false_or] at h; replace h := h.2
  rw [ite_eq_right_iff] at h
  intro x hx
  by_contra hno
  refine absurd (h ?_) (by simp)
  simp only [hop, ne_eq, not_false_eq_true, decide_true, Bool.true_and, List.any_eq_true]
  exact ⟨x, hx, Option.isNone_iff_eq_none.2 (Option.eq_none_iff_forall_ne_some.2 fun g hg => hno ⟨g, hg⟩)⟩

theorem State.pageAt_eq_some {c va : Nat} {big : Bool} {g : PageMap} (h : s.pageAt c va big = some g) :
    g ∈ s.mem.maps ∧ g.ctx.toNat = c ∧ g.va = va ∧ g.big = big := by
  have hg := List.find?_some h
  simp only [Bool.and_eq_true, decide_eq_true_eq] at hg
  exact ⟨List.mem_of_find?_eq_some h, hg.1.1, hg.1.2, hg.2⟩

/-- The mappings that an UNMAP takes away. -/
def State.goneOf (s : State) (q : MapReq) : List PageMap := q.pages.filterMap fun m => s.pageAt q.ctx m.va q.big

theorem State.goneOf_any {q : MapReq} (hq : q.ctx < 4096) (hall : ∀ x ∈ q.pages, ∃ g, s.pageAt q.ctx x.va q.big = some g) (m : PageMap) :
    ((s.goneOf q).any fun g => m.ctx = g.ctx && m.va = g.va) = true ↔ ofRequest q m := by
  rw [← q.hit_iff hq m]
  simp only [State.goneOf, MapReq.hit, List.any_eq_true, List.mem_filterMap, Bool.and_eq_true, decide_eq_true_eq]
  constructor
  · rintro ⟨g, ⟨x, hx, hg⟩, hc, hv⟩
    obtain ⟨-, hgc, hgv, -⟩ := State.pageAt_eq_some hg
    exact ⟨x, hx, hc.trans (BitVec.eq_of_toNat_eq (hgc.trans (q.toNat_ctx_of_mem_pages hq hx).symm)), hv.trans hgv⟩
  · rintro ⟨x, hx, hc, hv⟩
    obtain ⟨g, hg⟩ := hall x hx
    obtain ⟨-, hgc, hgv, -⟩ := State.pageAt_eq_some hg
    exact ⟨g, ⟨x, hx, hg⟩, hc.trans (BitVec.eq_of_toNat_eq ((q.toNat_ctx_of_mem_pages hq hx).trans hgc.symm)), hv.trans hgv.symm⟩

theorem State.mapDo_map {q : MapReq} (p : Nat) (hop : q.op = 1) :
    s.mapDo p q = ({ s with mem := { s.mem with maps := s.mem.maps ++ q.pages } } : State).mapEnd p 0 := by
  unfold State.mapDo
  rw [hop]
  rfl

theorem State.mapDo_unmap {q : MapReq} (p : Nat) (hop : q.op = 2) : s.mapDo p q = (s.unmapPages p (s.goneOf q)).mapWait p := by
  unfold State.mapDo
  rw [hop]
  rfl

/-- UNMAP takes away the mappings its record names, and no other. -/
theorem State.mem_maps_unmap {q : MapReq} {p : Nat} (hop : q.op = 2) (hq : q.ctx < 4096)
    (hall : ∀ x ∈ q.pages, ∃ g, s.pageAt q.ctx x.va q.big = some g) (m : PageMap) :
    m ∈ (s.mapDo p q).mem.maps ↔ m ∈ s.mem.maps ∧ ¬ ofRequest q m := by
  have hmaps : (s.mapDo p q).mem.maps = s.mem.maps.filter fun m => !(s.goneOf q).any fun g => m.ctx = g.ctx && m.va = g.va := by
    rw [State.mapDo_unmap p hop]
    rfl
  rw [hmaps, List.mem_filter, ← State.goneOf_any hq hall m, Bool.not_eq_true', Bool.not_eq_true]

/-- A mapping as a PROTECT leaves it. -/
def MapReq.protect (q : MapReq) (m : PageMap) : PageMap := if q.hit m then { m with r := q.perm % 2 = 1, w := 2 ≤ q.perm } else m

/-- A PROTECT takes a permission from one of the pages it names. -/
def State.protectTakes (s : State) (q : MapReq) : Bool :=
  (s.mem.maps.filter q.hit).any fun m => (m.r && q.perm % 2 = 0) || (m.w && q.perm < 2)

/-- The state with the mappings of a PROTECT. -/
def State.protected (s : State) (q : MapReq) : State := { s with mem := { s.mem with maps := s.mem.maps.map q.protect } }

theorem State.mapDo_protect {q : MapReq} (p : Nat) (hop : q.op = 3) :
    s.mapDo p q = if s.protectTakes q then
        ({ s.protected q with mem := { (s.protected q).mem with
            stale := s.mem.stale ++ (s.mem.maps.filter q.hit).map fun g => (BitVec.ofNat 8 p, g) } } : State).mapWait p
      else ((s.protected q).purgeTlbs q.hit).mapEnd p 0 := by
  unfold State.mapDo
  rw [hop]
  rfl

theorem State.maps_protect {q : MapReq} (p : Nat) (hop : q.op = 3) : (s.mapDo p q).mem.maps = s.mem.maps.map q.protect := by
  rw [State.mapDo_protect p hop]
  split <;> rfl

theorem State.protectTakes_iff {q : MapReq} (hq : q.ctx < 4096) :
    s.protectTakes q = true ↔ ∃ m ∈ s.mem.maps, ofRequest q m ∧ ((m.r = true ∧ q.perm % 2 = 0) ∨ (m.w = true ∧ q.perm < 2)) := by
  simp [State.protectTakes, List.any_eq_true, q.hit_iff hq]

@[simp] theorem State.tile_purgeTlbs (s : State) (f : PageMap → Bool) (t : Path) :
    (s.purgeTlbs f).tile t = { s.tile t with tlb := (s.tile t).tlb.filter fun p => !f p } :=
  mapGet_mapEach ({} : Tile) s.tiles (fun x => { x with tlb := x.tlb.filter fun p => !f p }) rfl t.toNat

theorem Tile.eq_with_tlb {x y : Tile} {l : List PageMap} (h : y = { x with tlb := l }) : y = { x with tlb := y.tlb } := by
  rw [h]

/-! ### MAPPING_COMPLETE (R172) -/

/-- A mapping stands among the old entries of a partition. -/
def State.staleHit (s : State) (part : BitVec 8) (m : PageMap) : Bool :=
  ((s.mem.stale.filter fun e => e.1 = part).map (·.2)).any fun g => g.ctx = m.ctx && g.va = m.va

/-- The state in which no buffer holds an old entry of a partition, and its request is done. -/
def State.mapCompleted (s : State) (part : BitVec 8) : State :=
  let s1 := s.purgeTlbs (s.staleHit part)
  let s2 : State := { s1 with mem := { s1.mem with stale := s1.mem.stale.filter fun e => e.1 ≠ part } }
  (s2.modPart part.toNat fun x => { x with mapBusy := false }).mapEnd part.toNat 0

theorem execMappingComplete_eq {part : BitVec 8} (h : part.toNat < 40) :
    execMappingComplete part s = .next (if (s.part part.toNat).mapBusy then s.mapCompleted part else s) := by
  unfold execMappingComplete
  simp only [h, decide_true]
  rfl

theorem State.partIs_mapCompleted (s : State) (part : BitVec 8) : PartIs s (s.mapCompleted part) part.toNat
    { s.part part.toNat with mapResult := 0, mapBusy := false, mapCount := (s.part part.toNat).mapCount + 1 } := by
  refine ⟨?_, fun q hq => ?_⟩
  · exact (State.part_modPart_same ..).trans (by rw [State.part_modPart_same]; rfl)
  · exact (State.part_modPart_other _ _ hq).trans (State.part_modPart_other _ _ hq)

theorem State.tile_mapCompleted (s : State) (part : BitVec 8) (t : Path) :
    (s.mapCompleted part).tile t = { s.tile t with tlb := (s.tile t).tlb.filter fun m => !s.staleHit part m } := State.tile_purgeTlbs ..

theorem State.staleHit_of_mem {part : BitVec 8} {e : BitVec 8 × PageMap} (he : e ∈ s.mem.stale) (hp : e.1 = part) {m : PageMap}
    (hc : e.2.ctx = m.ctx) (hv : e.2.va = m.va) : s.staleHit part m = true :=
  List.any_eq_true.2 ⟨e.2, List.mem_map.2 ⟨e, List.mem_filter.2 ⟨he, decide_eq_true hp⟩, rfl⟩, by simp [hc, hv]⟩

end

/-- Settles O28: an accepted request is `bindCtx`, `unbindCtx` or `mapDo` of its record, and each of these says what it changes. -/
theorem mappingsChange : Obligations.MappingsChange := by
  unfold Obligations.MappingsChange
  refine ⟨fun s ses c hw hsel => ⟨fun part hpart hfree hslot hown hformed hlo hhi => ?_, fun b hb hown hidle => ?_⟩,
    fun s ses rec' p => ⟨?_, ?_, ?_⟩, fun s part hpart => ⟨fun hbusy => ?_, fun hbusy => ?_⟩⟩
  · have hbind (d : Nat) := s.ctxBind_bindCtx c part.toNat (s.select ses 0x2201 3 0 % 16) d
    refine ⟨_, State.putRow_of_ok hw (State.putCtxPart_bind hpart hsel hfree hslot hown hformed hlo hhi), ?_, fun d hd => ?_, rfl⟩
    · rw [hbind, if_pos rfl, BitVec.ofNat_toNat, BitVec.setWidth_eq]
      simp [← BitVec.toNat_inj]
    · rw [hbind, if_neg hd]
  · refine ⟨_, State.putRow_of_ok hw (State.putCtxPart_unbind hsel hb hown hidle), ?_, fun d hd => ?_, State.maps_unbindCtx .., ?_, rfl,
      State.partIs_unbindCtx .., rfl⟩
    · rw [State.ctxBind_unbindCtx, if_pos rfl]
    · rw [State.ctxBind_unbindCtx, if_neg hd]
    · simp [State.unbindCtx, State.unmapPages, State.mapWait, State.modPart]
  · intro q h
    have hop : q.op = 1 := mapRecord_op (by decide) rec'
    refine ⟨_, State.mapRow_done h, ?_⟩
    rw [State.mapDo_map p hop]
    exact ⟨rfl, State.partIs_modPart .., rfl⟩
  · intro q h
    have hop : q.op = 2 := mapRecord_op (by decide) rec'
    obtain ⟨-, -, -, hrefuse, -⟩ := id h
    have hall := State.pageAt_of_mapRefusal hrefuse (by rw [hop]; decide)
    refine ⟨_, State.mapRow_done h, State.mem_maps_unmap hop (mapRecord_ctx_lt ..) hall, ?_⟩
    rw [State.mapDo_unmap p hop]
    exact ⟨fun e he => List.mem_append_left _ he, State.partIs_modPart .., rfl⟩
  · intro q takes h
    have hop : q.op = 3 := mapRecord_op (by decide) rec'
    have hq : q.ctx < 4096 := mapRecord_ctx_lt ..
    have htakes : s.protectTakes q = true ↔ takes := State.protectTakes_iff hq
    refine ⟨_, State.mapRow_done h, fun i hi => ⟨q.protect s.mem.maps[i], ?_, fun hr => ?_, fun hr => ?_⟩, ?_⟩
    · rw [State.maps_protect p hop, List.getElem?_map, List.getElem?_eq_getElem hi]
      rfl
    · exact if_pos ((q.hit_iff hq _).2 hr)
    · exact if_neg fun hh => hr ((q.hit_iff hq _).1 hh)
    · rw [State.mapDo_protect p hop]
      by_cases ht : takes
      · rw [if_pos (htakes.2 ht)]
        exact ⟨fun _ => ⟨State.partIs_modPart .., rfl⟩, fun hn => absurd ht hn, fun t => rfl, rfl⟩
      · rw [if_neg (mt htakes.1 ht)]
        exact ⟨fun hp => absurd hp ht, fun _ => State.partIs_modPart .., fun t => Tile.eq_with_tlb ((s.protected q).tile_purgeTlbs q.hit t), rfl⟩
  · refine ⟨s.mapCompleted part, (execMappingComplete_eq hpart).trans (by rw [if_pos hbusy]), s.partIs_mapCompleted part, rfl,
      fun t m hm e he hp hcv => ?_, fun t => ?_, rfl⟩
    · rw [s.tile_mapCompleted part t] at hm
      obtain ⟨-, hno⟩ := List.mem_filter.1 hm
      rw [State.staleHit_of_mem he hp hcv.1 hcv.2] at hno
      exact absurd hno (by decide)
    · exact Tile.eq_with_tlb (s.tile_mapCompleted part t)
  · exact (execMappingComplete_eq hpart).trans (by simp [hbusy])

end Sys2Proof.Machine
end

section
/-! O59: context, mapping and hamper requests, by the fields their rules ask for. -/

-- One theorem after the other: elaborated side by side, their threads run out of memory.
set_option Elab.async false


namespace Sys2Proof.Machine
section
variable {s : State}

/-! ### The fields of a mapping record (R170) -/

/-- A mapping record asks for pages of 1 GiB. -/
def recordBig (b : Bytes) : Bool := fieldAt b 1 1 = 1

/-- The bytes of a page of a mapping record. -/
def recordSize (b : Bytes) : Nat := if recordBig b then 0x40000000 else 0x200000

/-- What R170 asks of the fields of every mapping record but OP, PA and PERM. -/
structure MapFields (b : Bytes) : Prop where
  page : fieldAt b 1 1 ≤ 1
  ctx : fieldAt b 2 2 < 4096
  count : 1 ≤ fieldAt b 4 4
  aligned : fieldAt b 8 8 % recordSize b = 0
  reach : fieldAt b 8 8 + fieldAt b 4 4 * recordSize b ≤ 2 ^ 52
  perm : fieldAt b 24 1 < 4
  reserved : fieldAt b 25 7 = 0

theorem fieldAt_of_zeroBytes {b : Bytes} {off len : Nat} (h : zeroBytes b off len) : fieldAt b off len = 0 :=
  Tests.leNat_zeros _ fun _ hx => List.eq_of_mem_replicate (h ▸ hx)

/-- The request of a record, field by field. -/
theorem mapRecord_fields {op : Nat} (hop : op < 256) (rec' : BitVec 256) :
    (mapRecord op rec').op = op ∧ (mapRecord op rec').big = recordBig (toLE rec'.toNat 32) ∧
      (mapRecord op rec').ctx = fieldAt (toLE rec'.toNat 32) 2 2 % 4096 ∧ (mapRecord op rec').count = fieldAt (toLE rec'.toNat 32) 4 4 ∧
      (mapRecord op rec').va = fieldAt (toLE rec'.toNat 32) 8 8 ∧ (mapRecord op rec').pa = fieldAt (toLE rec'.toNat 32) 16 8 ∧
      (mapRecord op rec').perm = fieldAt (toLE rec'.toNat 32) 24 1 := by
  have hf (off len : Nat) (h : 0 < off) := fieldAt_setByte_of_pos (toLE rec'.toNat 32) (BitVec.ofNat 8 op) len h
  refine ⟨mapRecord_op hop rec', ?_, ?_, hf 4 4 (by decide), hf 8 8 (by decide), hf 16 8 (by decide), hf 24 1 (by decide)⟩
  · simp only [mapRecord, mapReq, recordBig, hf 1 1 (by decide)]
  · simp only [mapRecord, mapReq, hf 2 2 (by decide)]

theorem mapRecord_size {op : Nat} (hop : op < 256) (rec' : BitVec 256) : (mapRecord op rec').size = recordSize (toLE rec'.toNat 32) := by
  obtain ⟨-, hbig, -⟩ := mapRecord_fields hop rec'
  simp only [MapReq.size, recordSize, hbig]

theorem mapRecord_reservedBad {op : Nat} {rec' : BitVec 256} (h : MapFields (toLE rec'.toNat 32)) (hlo : 1 ≤ op) (hhi : op ≤ 3)
    (hpa : fieldAt (toLE rec'.toNat 32) 16 8 % recordSize (toLE rec'.toNat 32) = 0) (hunused : op ≠ 1 → fieldAt (toLE rec'.toNat 32) 16 8 = 0)
    (hperm : op = 2 → fieldAt (toLE rec'.toNat 32) 24 1 = 0) : (mapRecord op rec').reservedBad = false := by
  have h0 : fieldAt (setByte (toLE rec'.toNat 32) 0 (BitVec.ofNat 8 op)) 0 1 = op := mapRecord_op (by omega) rec'
  have hf (off len : Nat) (h : 0 < off) := fieldAt_setByte_of_pos (toLE rec'.toNat 32) (BitVec.ofNat 8 op) len h
  obtain ⟨hpage, hctx, hcount, halign, hreach, hp4, hres⟩ := h
  have hva : fieldAt (toLE rec'.toNat 32) 8 8 < 2 ^ 52 := by
    have : 0 < recordSize (toLE rec'.toNat 32) := by unfold recordSize; split <;> decide
    have := Nat.mul_pos hcount this
    omega
  simp only [recordSize, recordBig, decide_eq_true_eq] at halign hpa
  simp only [mapRecord, mapReq, h0, hf _ _ (Nat.succ_pos _), Bool.or_eq_false_iff, Bool.and_eq_false_imp, decide_eq_false_iff_not,
    decide_eq_true_eq, ne_eq, not_not]
  exact ⟨⟨⟨⟨⟨⟨⟨⟨⟨⟨by omega, by omega⟩, Nat.not_lt.2 hpage⟩, Nat.not_le.2 hctx⟩, Nat.not_le.2 hva⟩, Nat.not_le.2 hp4⟩, hres⟩, halign⟩,
    hpa⟩, hunused⟩, hperm⟩

theorem State.mapRefusal_eq_none {q : MapReq} {p : Nat} (hres : q.reservedBad = false) (hcount : 1 ≤ q.count)
    (hreach : q.va + q.count * q.size ≤ 2 ^ 52) (hpa : q.op = 1 → q.pa + q.count * q.size ≤ 2 ^ 44)
    (hfree : q.op = 1 → ∀ m ∈ q.pages, s.pageOwned p m.pa q.size = true ∧ s.pageMeets q.ctx m.va q.size = false)
    (hmapped : q.op ≠ 1 → ∀ m ∈ q.pages, ∃ g, s.pageAt q.ctx m.va q.big = some g) : s.mapRefusal q p true = none := by
  unfold State.mapRefusal
  rw [if_neg (by decide), if_neg (by simp [hres]), if_neg (by omega), if_neg, if_neg]
  · simp only [Bool.and_eq_true, decide_eq_true_eq, List.any_eq_true, not_and, not_exists]
    intro hop m hm
    obtain ⟨g, hg⟩ := hmapped hop m hm
    simp [hg]
  · simp only [Bool.and_eq_true, decide_eq_true_eq, List.any_eq_true, not_and, not_exists]
    intro hop m hm
    simp [hfree hop m hm]

theorem State.pageOwned_of {p n pa size : Nat} (hslab : slabOf pa = some n) (hown : (s.slab n).owner.toNat = p) (hp : p < 40)
    (hkept : ∀ j, j < size / 0x200000 → pa / 0x200000 + j ∉ s.mem.retired) : s.pageOwned p pa size = true := by
  simp only [State.pageOwned, hslab, hown, hp, Bool.and_eq_true, decide_true, List.all_eq_true, List.mem_range, Bool.not_eq_true',
    List.contains_eq_mem, decide_eq_false_iff_not, true_and]
  exact hkept

theorem State.pageMeets_eq_false {c va size : Nat}
    (h : ∀ m ∈ s.mem.maps, m.ctx.toNat = c → m.va + m.size ≤ va ∨ va + size ≤ m.va) : s.pageMeets c va size = false := by
  simp only [State.pageMeets, List.any_eq_false, Bool.and_eq_true, decide_eq_true_eq, not_and, and_imp]
  intro m hm hc hlo
  have := h m hm hc
  omega

theorem State.pageAt_isSome {c va : Nat} {big : Bool} (h : ∃ m ∈ s.mem.maps, m.ctx.toNat = c ∧ m.va = va ∧ m.big = big) :
    ∃ g, s.pageAt c va big = some g := by
  obtain ⟨m, hm, hc, hv, hb⟩ := h
  refine Option.isSome_iff_exists.1 (List.find?_isSome.2 ⟨m, hm, ?_⟩)
  simp [hc, hv, hb]

theorem MapReq.protect_ctx (q : MapReq) (m : PageMap) : (q.protect m).ctx = m.ctx := by
  unfold MapReq.protect
  split <;> rfl

theorem MapReq.protect_va (q : MapReq) (m : PageMap) : (q.protect m).va = m.va := by
  unfold MapReq.protect
  split <;> rfl

/-- A mapping request that R170 asks nothing more of than what is its operation's own. -/
structure MapAsked (s : State) (ses : Ses) (rec' : BitVec 256) (p : Nat) : Prop where
  writable : Writable s ses 0x2210 1
  part : s.ctxPart (fieldAt (toLE rec'.toNat 32) 2 2) = some p
  formed : p < 40
  owner : s.asOwner (s.role ses) p = true
  free : (s.part p).mapBusy = false
  fields : MapFields (toLE rec'.toNat 32)

section
variable {ses : Ses} {rec' : BitVec 256} {p : Nat}

/-- Every page of a record is mapped with the record's page size. -/
def recordMapped (s : State) (b : Bytes) : Prop :=
  ∀ i, i < fieldAt b 4 4 → ∃ m ∈ s.mem.maps, m.ctx.toNat = fieldAt b 2 2 ∧ m.va = fieldAt b 8 8 + i * recordSize b ∧ m.big = recordBig b

/-- A mapping is of page i of a record. -/
theorem MapAsked.ofRequest (h : MapAsked s ses rec' p) {op : Nat} (hop : op < 256) {i : Nat} (hi : i < fieldAt (toLE rec'.toNat 32) 4 4)
    {m : PageMap} (hm : m.ctx.toNat = fieldAt (toLE rec'.toNat 32) 2 2)
    (hv : m.va = fieldAt (toLE rec'.toNat 32) 8 8 + i * recordSize (toLE rec'.toNat 32)) : ofRequest (mapRecord op rec') m := by
  obtain ⟨-, -, hctx, hcount, hva, -⟩ := mapRecord_fields hop rec'
  refine ⟨hm.trans (hctx.trans (Nat.mod_eq_of_lt h.fields.ctx)).symm, i, hcount.symm ▸ hi, ?_⟩
  exact hv.trans (congrArg₂ (fun a n => a + i * n) hva.symm (mapRecord_size hop rec').symm)

theorem MapAsked.mayMap (h : MapAsked s ses rec' p) {op : Nat} (hlo : 1 ≤ op) (hhi : op ≤ 3)
    (hpa : fieldAt (toLE rec'.toNat 32) 16 8 % recordSize (toLE rec'.toNat 32) = 0)
    (hunused : op ≠ 1 → fieldAt (toLE rec'.toNat 32) 16 8 = 0) (hnone : op = 2 → fieldAt (toLE rec'.toNat 32) 24 1 = 0)
    (hreach : op = 1 → fieldAt (toLE rec'.toNat 32) 16 8 + fieldAt (toLE rec'.toNat 32) 4 4 * recordSize (toLE rec'.toNat 32) ≤ 2 ^ 44)
    (hfree : op = 1 → ∀ m ∈ (mapRecord op rec').pages,
      s.pageOwned p m.pa (mapRecord op rec').size = true ∧ s.pageMeets (mapRecord op rec').ctx m.va (mapRecord op rec').size = false)
    (hmapped : op ≠ 1 → recordMapped s (toLE rec'.toNat 32)) : MayMap s ses (mapRecord op rec') p := by
  obtain ⟨hop, hbig, hctx, hcount, hva, hpa', -⟩ := mapRecord_fields (op := op) (by omega) rec'
  have hsize := mapRecord_size (op := op) (by omega) rec'
  have hctx' := hctx.trans (Nat.mod_eq_of_lt h.fields.ctx)
  refine ⟨h.writable, hctx'.symm ▸ h.part, h.owner, State.mapRefusal_eq_none (mapRecord_reservedBad h.fields hlo hhi hpa hunused hnone)
    (hcount.symm ▸ h.fields.count) ?_ (fun e => ?_) (fun e => hfree (hop.symm.trans e)) (fun e m hm => ?_), h.free⟩
  · rw [hva, hcount, hsize]
    exact h.fields.reach
  · rw [hpa', hcount, hsize]
    exact hreach (hop.symm.trans e)
  · obtain ⟨i, hi, rfl⟩ := List.mem_map.1 hm
    rw [List.mem_range, hcount] at hi
    simp only [hva, hsize, hctx', hbig]
    exact State.pageAt_isSome (hmapped (fun e' => e (hop.trans e')) i hi)

theorem MapAsked.map (h : MapAsked s ses rec' p) (hpa : fieldAt (toLE rec'.toNat 32) 16 8 % recordSize (toLE rec'.toNat 32) = 0)
    (hreach : fieldAt (toLE rec'.toNat 32) 16 8 + fieldAt (toLE rec'.toNat 32) 4 4 * recordSize (toLE rec'.toNat 32) ≤ 2 ^ 44)
    (hfree : ∀ i, i < fieldAt (toLE rec'.toNat 32) 4 4 →
      s.pageOwned p (fieldAt (toLE rec'.toNat 32) 16 8 + i * recordSize (toLE rec'.toNat 32)) (recordSize (toLE rec'.toNat 32)) = true ∧
      s.pageMeets (fieldAt (toLE rec'.toNat 32) 2 2) (fieldAt (toLE rec'.toNat 32) 8 8 + i * recordSize (toLE rec'.toNat 32))
        (recordSize (toLE rec'.toNat 32)) = false) :
    ∃ u, exec (.map ses rec') s = .next u ∧ (u.part p).mapResult = 0 ∧ u.mem.maps.take s.mem.maps.length = s.mem.maps ∧
      ∀ i, i < fieldAt (toLE rec'.toNat 32) 4 4 → ∃ m ∈ u.mem.maps, m.ctx.toNat = fieldAt (toLE rec'.toNat 32) 2 2 ∧
        m.va = fieldAt (toLE rec'.toNat 32) 8 8 + i * recordSize (toLE rec'.toNat 32) ∧
        m.pa = fieldAt (toLE rec'.toNat 32) 16 8 + i * recordSize (toLE rec'.toNat 32) ∧ m.big = recordBig (toLE rec'.toNat 32) := by
  obtain ⟨hop, hbig, hctx, hcount, hva, hpa', -⟩ := mapRecord_fields (op := 1) (by decide) rec'
  have hsize := mapRecord_size (op := 1) (by decide) rec'
  have hctx' := hctx.trans (Nat.mod_eq_of_lt h.fields.ctx)
  have hm := h.mayMap (op := 1) (by decide) (by decide) hpa (fun e => absurd rfl e) (fun e => absurd e (by decide)) (fun _ => hreach)
    (fun _ m hm => by
      obtain ⟨i, hi, rfl⟩ := List.mem_map.1 hm
      rw [List.mem_range, hcount] at hi
      simp only [hpa', hva, hsize, hctx']
      exact hfree i hi)
    (fun e => absurd rfl e)
  refine ⟨_, State.mapRow_done hm, ?_⟩
  rw [State.mapDo_map p hop]
  refine ⟨congrArg Part.mapResult (State.partIs_modPart ..).1, List.take_left, fun i hi => ?_⟩
  refine ⟨_, List.mem_append_right _ (List.mem_map.2 ⟨i, List.mem_range.2 (hcount.symm ▸ hi), rfl⟩), ?_, ?_, ?_, ?_⟩
  · exact (BitVec.toNat_ofNat ..).trans ((Nat.mod_eq_of_lt (mapRecord_ctx_lt ..)).trans hctx')
  · simp only [hva, hsize]
  · simp only [hpa', hsize]
  · simp only [hbig]

theorem MapAsked.unmap (h : MapAsked s ses rec' p) (hpa : fieldAt (toLE rec'.toNat 32) 16 8 = 0)
    (hnone : fieldAt (toLE rec'.toNat 32) 24 1 = 0) (hmapped : recordMapped s (toLE rec'.toNat 32)) :
    ∃ u, exec (.unmap ses rec') s = .next u ∧ (u.part p).mapResult = 1 ∧ ∀ i, i < fieldAt (toLE rec'.toNat 32) 4 4 → ∀ m ∈ u.mem.maps,
      ¬ (m.ctx.toNat = fieldAt (toLE rec'.toNat 32) 2 2 ∧ m.va = fieldAt (toLE rec'.toNat 32) 8 8 + i * recordSize (toLE rec'.toNat 32)) := by
  have hop : (mapRecord 2 rec').op = 2 := mapRecord_op (by decide) rec'
  have hm := h.mayMap (op := 2) (by decide) (by decide) (by rw [hpa]; exact Nat.zero_mod _) (fun _ => hpa) (fun _ => hnone)
    (fun e => absurd e (by decide)) (fun e => absurd e (by decide)) (fun _ => hmapped)
  obtain ⟨-, -, -, hrefuse, -⟩ := id hm
  have hall := State.pageAt_of_mapRefusal hrefuse (by rw [hop]; decide)
  refine ⟨_, State.mapRow_done hm, ?_, fun i hi m hmem hcv => ?_⟩
  · rw [State.mapDo_unmap p hop]
    exact congrArg Part.mapResult (State.partIs_modPart ..).1
  · exact ((State.mem_maps_unmap hop (mapRecord_ctx_lt ..) hall m).1 hmem).2 (h.ofRequest (by decide) hi hcv.1 hcv.2)

theorem MapAsked.protect (h : MapAsked s ses rec' p) (hpa : fieldAt (toLE rec'.toNat 32) 16 8 = 0)
    (hmapped : recordMapped s (toLE rec'.toNat 32)) :
    ∃ u, exec (.protect ses rec') s = .next u ∧ ∀ i, i < fieldAt (toLE rec'.toNat 32) 4 4 → ∀ m ∈ u.mem.maps,
      m.ctx.toNat = fieldAt (toLE rec'.toNat 32) 2 2 →
      m.va = fieldAt (toLE rec'.toNat 32) 8 8 + i * recordSize (toLE rec'.toNat 32) →
      m.r = decide (fieldAt (toLE rec'.toNat 32) 24 1 % 2 = 1) ∧ m.w = decide (2 ≤ fieldAt (toLE rec'.toNat 32) 24 1) := by
  obtain ⟨hop, -, -, -, -, -, hperm⟩ := mapRecord_fields (op := 3) (by decide) rec'
  have hm := h.mayMap (op := 3) (by decide) (by decide) (by rw [hpa]; exact Nat.zero_mod _) (fun _ => hpa) (fun e => absurd e (by decide))
    (fun e => absurd e (by decide)) (fun e => absurd e (by decide)) (fun _ => hmapped)
  refine ⟨_, State.mapRow_done hm, fun i hi m hmem hc hv => ?_⟩
  rw [State.maps_protect p hop] at hmem
  obtain ⟨m0, -, rfl⟩ := List.mem_map.1 hmem
  rw [MapReq.protect_ctx] at hc
  rw [MapReq.protect_va] at hv
  have hhit := ((mapRecord 3 rec').hit_iff (mapRecord_ctx_lt ..) m0).2 (h.ofRequest (by decide) hi hc hv)
  rw [MapReq.protect, if_pos hhit, ← hperm]
  simp only [and_self]

end

/-! ### Hamper requests (R377) -/

theorem State.hamOpen_part (s : State) (p : Nat) (r : Role) (b : Bytes) :
    ((s.hamOpen p r b).part p).hamResult = 1 ∧ ((s.hamOpen p r b).part p).progress = 0 ∧
      ∃ j, ((s.hamOpen p r b).part p).ham = some j ∧ j.req = b ∧ j.begun = false := by
  unfold State.hamOpen
  simp

/-- The condition of R377 on a WRITE's CKID, where it is encrypted. -/
theorem State.hamRefusal_eq_none {r : Role} {p : Nat} {b : Bytes} (hown : s.asOwner r p = true) (hform : hamFormBad b = false)
    (hctx : s.ctxPart (hamReq b).ctx.toNat = some p) (hplan : (hamReq b).op ≠ 3 → (hamReq b).planid = (s.part p).plan.toNat)
    (hwin : (s.part p).winLen ≠ 0) (hham : (s.part p).ham = none)
    (hnew : (hamReq b).op = 1 → (hamReq b).enc = true → ∀ k, s.ckptKey p (hamReq b).keyid = some k → k.ckid.toNat < (hamReq b).ckid)
    (hquiet : (hamReq b).op = 2 → s.quiescent p (hamReq b) (s.ckptKey p (hamReq b).keyid) = true)
    (henc : s.hamEncrypts p (hamReq b) = true → bit s.pwr.functions 6 = true ∧ s.ckptKey p (hamReq b).keyid ≠ none) :
    s.hamRefusal r p b = none := by
  unfold State.hamRefusal
  dsimp only
  rw [if_neg, if_neg hwin, if_neg, if_neg, if_neg (by simp [hham]), if_neg]
  · simp only [Bool.and_eq_true, Bool.or_eq_true, not_and, not_or, Bool.not_eq_true', Bool.not_eq_true, Option.isNone_eq_false_iff,
      Bool.not_eq_false, Option.isSome_iff_ne_none]
    exact fun he => henc he
  · simp only [Bool.and_eq_true, decide_eq_true_eq, not_and, Bool.not_eq_true', Bool.not_eq_false]
    exact hquiet
  · simp only [Bool.and_eq_true, decide_eq_true_eq, not_and, and_imp]
    intro hop he
    split
    · next k hk => simpa using hnew hop he k hk
    · simp
  · simp only [hown, hform, hctx, Bool.not_true, Bool.false_or, Bool.or_eq_true, Bool.and_eq_true, decide_eq_true_eq, ne_eq, not_true,
      false_or, not_and, not_not]
    exact hplan

end

/-- Settles O59: R168, R170 and R377 refuse no request whose fields meet what they ask, and a request they do not refuse is done. -/
theorem requestFormsComplete : Obligations.RequestFormsComplete := by
  unfold Obligations.RequestFormsComplete
  refine ⟨fun s ses => ?_, fun s ses rec' p => ?_, fun s part hpart hbusy => ?_, fun s ses rec' p op row hrow => ?_⟩
  · intro c slot hw
    refine ⟨fun part hpart hlo hhi hown hformed hfree hslot => ?_, fun b hb hpart hown hidle => ?_⟩
    · have hall : part ≠ 0xFF := by
        rintro rfl
        exact absurd hpart (by decide)
      refine ⟨_, State.putRow_of_ok hw (State.putCtxPart_bind hall rfl hfree hslot hown hformed hlo hhi), ?_⟩
      rw [State.ctxBind_bindCtx, if_pos rfl, BitVec.ofNat_toNat, BitVec.setWidth_eq]
    · refine ⟨_, State.putRow_of_ok hw (State.putCtxPart_unbind rfl hb hown hidle), ?_, fun m hm => ?_⟩
      · rw [State.ctxBind_unbindCtx, if_pos rfl]
      · rw [State.maps_unbindCtx] at hm
        simpa using (List.mem_filter.1 hm).2
  · intro b big size ctx count va pa perm mapped hw hpart hp hown hbusy hpage hctx hcount halign hreach hperm hzero
    have h : MapAsked s ses rec' p :=
      ⟨hw, hpart, hp, hown, hbusy, ⟨hpage, hctx, hcount, halign, hreach, hperm, fieldAt_of_zeroBytes hzero⟩⟩
    refine ⟨fun hpa hreach hall => h.map hpa hreach fun i hi => ?_, h.unmap, h.protect⟩
    obtain ⟨⟨n, hslab, howner⟩, hkept, hfree⟩ := hall i hi
    exact ⟨State.pageOwned_of hslab howner hp hkept, State.pageMeets_eq_false hfree⟩
  · refine ⟨s.mapCompleted part, (execMappingComplete_eq hpart).trans (by rw [if_pos hbusy]), ?_, ?_, fun e he => ?_⟩
    · rw [(s.partIs_mapCompleted part).1]
    · rw [(s.partIs_mapCompleted part).1]
    · exact of_decide_eq_true (List.mem_filter.1 he).2
  · intro b q ⟨hw, hsel⟩ hp hown hform hctx hplan hwin hham hnew hquiet henc
    have hop : q.op = op ∧ exec (row ses rec') s = s.putRow (hamWrite' ses b) fun s r => s.putHamper (hamWrite' ses b) r := by
      simp only [List.mem_cons, Prod.mk.injEq, List.not_mem_nil, or_false] at hrow
      rcases hrow with ⟨rfl, rfl⟩ | ⟨rfl, rfl⟩ | ⟨rfl, rfl⟩ <;> exact ⟨fieldAt_setByte_zero (by simp [toLE]) _, rfl⟩
    obtain ⟨hop, hexec⟩ := hop
    have hnone := State.hamRefusal_eq_none hown hform hctx (fun h => hplan (hop ▸ h)) hwin hham (fun h => hnew (hop.symm.trans h))
      (fun h => hquiet (hop.symm.trans h)) henc
    have hput : s.putHamper (hamWrite' ses b) (s.role ses) = .ok (s.hamOpen p (s.role ses) b) := by
      have hs : s.select (hamWrite' ses b).ses 0x2800 1 0 = p := hsel
      simp only [State.putHamper, hs]
      rw [show (hamWrite' ses b).bytes = b from rfl, hnone]
    exact ⟨_, hexec.trans (State.putRow_of_ok hw hput), s.hamOpen_part p (s.role ses) b⟩

end Sys2Proof.Machine
end

section
/-! O29: slab owners, keys and scrubs, line requests, read-ahead, patrol reads, balance windows and retired pages. -/

-- One theorem after the other: elaborated side by side, their threads run out of memory.
set_option Elab.async false

namespace Sys2Proof.Machine
section
variable {s : State}

/-! ### Slab owners and keys (R166, R398) -/

theorem State.slab_modSlab (s : State) (n j : Nat) (f : Slab → Slab) :
    (s.modSlab n f).slab j = if j = n then f (s.slab n) else s.slab j :=
  mapGet_mapSet _ _ s.mem.slabs n j

/-- A slab that nothing maps and no scrub holds is denied to the named role alone (R166). -/
theorem SlabFree.slabDenied {n : Nat} (h : SlabFree s n) : s.slabDenied n true = none := by
  obtain ⟨hmaps, hstale, h639, hstate, -⟩ := h
  have hmapped : s.slabMapped n = false := by
    simpa [State.slabMapped] using And.intro hmaps hstale
  simp only [State.slabDenied, hmapped, h639, hstate, Bool.not_true, Bool.false_eq_true, if_false]

theorem State.slab_beginScrub (s : State) (n j : Nat) (owner : BitVec 8) : (s.beginScrub n owner).slab j =
    if j = n then { s.newKey.2.slab n with owner := owner, state := 1, key := s.newKey.1 } else s.newKey.2.slab j :=
  mapGet_mapSet _ _ s.newKey.2.mem.slabs n j

/-- A scrub that begins while the DRBG generates draws the slab's key from it. -/
theorem State.rekeyed_beginScrub {n : Nat} {owner : BitVec 8} (h : s.sec.drbg = 1) : Rekeyed s (s.beginScrub n owner) n owner := by
  have hkey : s.newKey.1 = BitVec.ofNat 64 (leNat (s.generate 8).1) := by simp [State.newKey, State.drbgReady, h]
  have hdrawn : s.newKey.2 = (s.generate 8).2 := by simp [State.newKey, State.drbgReady, h]
  have hslab : ∀ j, s.newKey.2.slab j = s.slab j := fun j => by
    rw [hdrawn]
    rfl
  have hrest : s.newKey.2 = { s with sec := s.newKey.2.sec } := by
    rw [hdrawn]
    rfl
  refine ⟨?_, fun j hj => ?_, ?_, ?_⟩
  · rw [s.slab_beginScrub n n, if_pos rfl, hslab, hkey]
  · rw [s.slab_beginScrub n j, if_neg hj, hslab]
  · rw [State.beginScrub, hrest]
    rfl
  · rw [← hdrawn, State.beginScrub]
    obtain ⟨sec, hsec⟩ : ∃ sec, s.newKey.2 = { s with sec := sec } := ⟨_, hrest⟩
    rw [hsec]
    rfl

theorem SlabFree.slabPut {n : Nat} {owner : BitVec 8} (h : SlabFree s n) : s.slabPut n owner = .ok (s.beginScrub n owner) := by
  obtain ⟨-, -, -, -, hdrbg⟩ := h
  simp [State.slabPut, State.drbgReady, hdrbg]

theorem execSlabOwnerWrite_free {ses : Ses} {n : Nat} {owner : BitVec 8} (hsel : s.select ses 0x2230 1 0 = n) (hfree : SlabFree s n)
    (hrow : Writable s ses 0x2230 2) (hop : s.asOperator (s.role ses) = true) (howner : owner.toNat < 40 ∨ owner = 0xFF)
    (hplan : (s.slab n).owner.toNat < 40 → (s.slab n).owner ≠ owner → (s.part (s.slab n).owner.toNat).plan = 0xFFFF) :
    execSlabOwnerWrite ses owner s = .next (s.beginScrub n owner) := by
  refine State.putRow_of_ok hrow ?_
  have hrange : (decide (40 ≤ owner.toNat) && decide (owner ≠ 0xFF)) = false := by
    rcases howner with h | h
    · simp [h]
    · simp [h]
  have hleft : (decide ((s.slab n).owner.toNat < 40) && decide (owner.toNat ≠ (s.slab n).owner.toNat) &&
      decide ((s.part (s.slab n).owner.toNat).plan ≠ 0xFFFF)) = false := by
    by_cases hold : (s.slab n).owner.toNat < 40
    · by_cases hsame : (s.slab n).owner = owner
      · simp [hsame]
      · simp [hplan hold hsame]
    · simp [hold]
  simp only [State.putSlabOwner, hsel, hop, hfree.slabDenied, hfree.slabPut, Put.deny, hrange, hleft, Bool.false_eq_true, if_false]

theorem execRekey_free {ses : Ses} {n : Nat} (hsel : s.select ses 0x2230 1 0 = n) (hfree : SlabFree s n) (hrow : Writable s ses 0x2230 4)
    (hown : s.asOwner (s.role ses) (s.slab n).owner.toNat = true) : execRekey ses s = .next (s.beginScrub n (s.slab n).owner) := by
  refine State.putRow_of_ok hrow ?_
  simp [State.putRekey, hsel, hown, hfree.slabDenied, hfree.slabPut, Put.deny]

/-! ### The scrub (R165) -/

theorem State.tier_wipeSlab (s : State) (n a : Nat) :
    mapGet 0 (s.wipeSlab n).mem.tier a = if slabOf a = some n then 0 else mapGet 0 s.mem.tier a := by
  refine (mapGet_filter 0 (fun a => decide (slabOf a ≠ some n)) s.mem.tier a).trans ?_
  simp [ite_not]

theorem State.block_wipeSlab (s : State) (n pa : Nat) :
    (s.wipeSlab n).block pa = if slabOf (pa / 4096 * 4096) = some n then {} else s.block pa := by
  refine (mapGet_filter {} (fun k => decide (slabOf (k * 4096) ≠ some n)) s.mem.blocks (pa / 4096)).trans ?_
  simp [ite_not, State.block]

/-! ### Line requests (R167, R177, R181) -/

/-- A counted request changes the partition's counters and the balance windows. -/
theorem State.countRequest_frame (s : State) (part pa : Nat) :
    (∀ q, (s.countRequest part pa).part q = { s.part q with ctr := ((s.countRequest part pa).part q).ctr }) ∧
    ∃ parts chans counts, s.countRequest part pa =
      { s with parts := parts, mem := { s.mem with winChan := chans, winPart := counts } } := by
  obtain ⟨hpart, hrest⟩ := countPart_ctr s (if part < 40 then some part else none) 0x2270 3 1
  obtain ⟨parts, hparts⟩ : ∃ parts, s.countPart (if part < 40 then some part else none) 0x2270 3 1 = { s with parts := parts } := ⟨_, hrest⟩
  rw [State.countRequest]
  split
  · exact ⟨hpart, parts, _, _, by rw [hparts]⟩
  · exact ⟨hpart, parts, _, _, hparts⟩

/-- A line read changes what a counted request does, and the read-ahead entry that serves it. -/
theorem State.lineRead_frame (s : State) (part pa : Nat) :
    (∀ q, (s.lineRead part pa).part q = { s.part q with ctr := ((s.lineRead part pa).part q).ctr }) ∧
    ∃ parts chans counts hits ahead, s.lineRead part pa =
      { s with parts := parts,
               mem := { s.mem with winChan := chans, winPart := counts, raHits := hits, readAhead := ahead } } := by
  obtain ⟨hpart, parts, chans, counts, hcount⟩ := s.countRequest_frame part pa
  rw [State.lineRead]
  split
  · exact ⟨hpart, parts, chans, counts, _, _, by rw [hcount]⟩
  · exact ⟨hpart, parts, chans, counts, _, _, hcount⟩

/-- A line write changes what a counted request does, its bytes, its block's bookkeeping and the read-ahead of its line. -/
theorem State.lineWrite_frame (s : State) (part pa : Nat) (bs : Bytes) (tag : Option (BitVec 24)) :
    (∀ q, (s.lineWrite part pa bs tag).part q = { s.part q with ctr := ((s.lineWrite part pa bs tag).part q).ctr }) ∧
    ∃ parts blocks chans counts, s.lineWrite part pa bs tag =
      { s with parts := parts,
               mem := { s.mem with tier := writeCells s.mem.tier pa bs, blocks := blocks, winChan := chans, winPart := counts,
                                   readAhead := s.mem.readAhead.filter fun e => e.line ≠ pa / 512 } } := by
  obtain ⟨hpart, parts, chans, counts, hcount⟩ := s.countRequest_frame part pa
  exact ⟨hpart, parts, _, chans, counts, by rw [State.lineWrite, hcount, State.modBlock]⟩

theorem State.block_modBlock (s : State) (pa a : Nat) (f : Block → Block) :
    (s.modBlock pa f).block a = if a / 4096 = pa / 4096 then f (s.block pa) else s.block a :=
  mapGet_mapSet _ _ s.mem.blocks (pa / 4096) (a / 4096)

theorem State.block_countRequest (s : State) (part pa a : Nat) : (s.countRequest part pa).block a = s.block a := by
  obtain ⟨-, _, _, _, hcount⟩ := s.countRequest_frame part pa
  rw [hcount]
  rfl

/-- The bookkeeping of a block after a line written without a tag. -/
theorem State.block_lineWrite_none (s : State) (part pa a : Nat) (bs : Bytes) :
    (s.lineWrite part pa bs none).block a =
      if a / 4096 = pa / 4096 then { check := none, tag := 0, lineTags := mapSet 0 (s.block pa).lineTags (pa / 512 % 8) 0 } else s.block a := by
  rw [← s.block_countRequest part pa pa, ← s.block_countRequest part pa a]
  exact State.block_modBlock _ pa a _

theorem mapGet_writeCells (m : List Host.Cell) (a : Nat) (bs : Bytes) (i : Nat) :
    mapGet (0 : Byte) (writeCells m a bs) i = if a ≤ i ∧ i < a + bs.length then bs.getD (i - a) 0 else mapGet 0 m i := by
  split
  next h =>
    obtain ⟨hlo, hhi⟩ := h
    have hin : i - a < bs.length := by omega
    have hget := mapGet_writeCells_inside m a bs (i - a) hin
    rw [show a + (i - a) = i by omega] at hget
    rw [hget, List.getD_eq_getElem _ _ hin]
  next h => exact mapGet_writeCells_outside m a bs i (by omega)

theorem readCells_eq_map (m : List Host.Cell) (a len : Nat) : readCells m a len = (List.range len).map (fun i => mapGet 0 m (a + i)) := by
  induction len generalizing a with
  | zero => rfl
  | succ len ih =>
    rw [readCells, ih, List.range_succ_eq_map, List.map_cons, List.map_map]
    refine congrArg _ (List.map_congr_left fun i _ => ?_)
    simp only [Function.comp_apply, Nat.succ_eq_add_one, Nat.add_assoc, Nat.add_comm 1]

/-- The partition that a request through a context is counted for: none of the 40 where the context is free. -/
def State.requester (s : State) (ctx : BitVec 12) : Nat :=
  match s.ctxBind ctx.toNat with
  | some b => b.part.toNat
  | none => 0xFE

/-- A request that its slab answers and that meets no error reads its bytes (R165, R177). -/
theorem execMemoryRequest_read {ctx : BitVec 12} {pa : BitVec 44} {len : Nat} (h : LineAnswers s pa.toNat len) :
    execMemoryRequest ctx pa (.read len) [] s = .next { s.lineRead (s.requester ctx) pa.toNat with
      mem := { (s.lineRead (s.requester ctx) pa.toNat).mem with
        lastRead := (s.lineRead (s.requester ctx) pa.toNat).tierBytes pa.toNat len } } := by
  obtain ⟨hfatal, htrained, hfits, n, hslab, hstate⟩ := h
  have herr : s.lineErrors pa.toNat [] = (s, true) := rfl
  have hopen : s.scrubbing pa.toNat = false := by
    simp only [State.scrubbing, hslab, hstate, decide_false]
  simp only [execMemoryRequest, hslab, Option.isNone_some, htrained, Bool.not_true, hopen, Bool.or_self, Nat.not_lt.2 hfits, decide_false,
    hfatal, Bool.false_eq_true, if_false, herr]
  rfl

/-- A request that its slab answers and that meets no error writes its bytes (R165, R177). -/
theorem execMemoryRequest_write {ctx : BitVec 12} {pa : BitVec 44} {bs : Bytes} (h : LineAnswers s pa.toNat bs.length) :
    execMemoryRequest ctx pa (.write bs) [] s = .next (s.lineWrite (s.requester ctx) pa.toNat bs none) := by
  obtain ⟨hfatal, htrained, hfits, n, hslab, hstate⟩ := h
  have herr : s.lineErrors pa.toNat [] = (s, true) := rfl
  have hopen : s.scrubbing pa.toNat = false := by
    simp only [State.scrubbing, hslab, hstate, decide_false]
  simp only [execMemoryRequest, hslab, Option.isNone_some, htrained, Bool.not_true, hopen, Bool.or_self, Nat.not_lt.2 hfits, decide_false,
    hfatal, Bool.false_eq_true, if_false, herr]
  rfl

/-! ### Errors of a line (R183, R184) -/

/-- One bad symbol is the only one of its unit. -/
theorem badSymbols_one (e : BitVec 4 × BitVec 8) : badSymbols [e] = (List.range 16).map (fun u => if e.1.toNat = u then 1 else 0) := by
  refine List.map_congr_left fun u _ => ?_
  by_cases h : e.1.toNat = u
  · simp [h, List.eraseDups_cons]
  · simp [h]

theorem badSymbols_one_sum (e : BitVec 4 × BitVec 8) : (badSymbols [e]).any (2 ≤ ·) = false ∧ (badSymbols [e]).sum = 1 := by
  have small : ∀ u : BitVec 4, ((List.range 16).map (fun i => if u.toNat = i then 1 else 0)).any (2 ≤ ·) = false ∧
      ((List.range 16).map (fun i => if u.toNat = i then 1 else 0)).sum = 1 := by decide
  rw [badSymbols_one]
  exact small e.1

theorem State.lineErrors_one (s : State) (pa : Nat) (e : BitVec 4 × BitVec 8) : s.lineErrors pa [e] = (s.correctTier pa 1, true) := by
  obtain ⟨hany, hsum⟩ := badSymbols_one_sum e
  simp [State.lineErrors, hany, hsum]

/-- An event that only reports leaves the memories as they are. -/
theorem State.raise_mem (s : State) (e : Ev) (h8 : e.code / 4096 ≠ 8) (hC : e.code / 4096 ≠ 0xC) : (s.raise e).mem = s.mem := by
  rw [s.raise_reports e h8 hC]

theorem State.correctTier_counts (s : State) (pa n : Nat) :
    ((s.correctTier pa n).mem.t1Corr, (s.correctTier pa n).mem.t2Corr) =
      (if pa < 0x10000000000 then (satAdd64 s.mem.t1Corr n, s.mem.t2Corr) else (s.mem.t1Corr, satAdd64 s.mem.t2Corr n)) ∧
    (s.correctTier pa n).mem.tier = s.mem.tier := by
  rw [State.correctTier]
  by_cases htier : pa < 0x10000000000
  · simp only [htier, if_true]
    split
    · rw [State.raise_mem _ _ (by simp) (by simp)]
      exact ⟨rfl, rfl⟩
    · exact ⟨rfl, rfl⟩
  · simp only [htier, if_false]
    split
    · rw [State.raise_mem _ _ (by simp) (by simp)]
      exact ⟨rfl, rfl⟩
    · exact ⟨rfl, rfl⟩

/-! ### Retired pages (R184) -/

theorem execRetirePage_ok {ses : Ses} {page : BitVec 64} (hrow : Writable s ses 0x2250 5) (hop : s.asOperator (s.role ses) = true)
    (hpage : page.toNat % 0x200000 = 0) (hslab : slabOf page.toNat ≠ none) :
    execRetirePage ses page s = .next { s with mem := { s.mem with
      retired := if s.mem.retired.contains (page.toNat / 0x200000) then s.mem.retired else s.mem.retired ++ [page.toNat / 0x200000] } } := by
  refine State.putRow_of_ok hrow ?_
  simp [State.putRetire, Put.deny, hop, hpage, hslab]

theorem mem_append_if_new (xs : List Nat) (x n : Nat) : (n ∈ if xs.contains x then xs else xs ++ [x]) ↔ n ∈ xs ∨ n = x := by
  by_cases h : x ∈ xs
  · simp only [List.contains_eq_mem, h, decide_true, if_true]
    exact ⟨Or.inl, fun hn => hn.elim id (· ▸ h)⟩
  · simp [h]

/-! ### The balance window (R167) -/

/-- The busiest entry so far is the strict maximum, or it still has to come. -/
theorem foldl_busiest {ch n : Nat} (m : SMap Nat) (a : Nat × Nat) (hm : ∀ e ∈ m, e = (ch, n) ∨ e.2 < n)
    (ha : a = (ch, n) ∨ (a.2 < n ∧ (ch, n) ∈ m)) : m.foldl (fun a e => if a.2 < e.2 then e else a) a = (ch, n) := by
  induction m generalizing a with
  | nil => simpa using ha
  | cons e m ih =>
    obtain ⟨he, hrest⟩ := List.forall_mem_cons.1 hm
    refine ih _ hrest ?_
    rcases ha with rfl | ⟨hlt, hmem⟩
    · left
      rcases he with rfl | he
      · exact if_neg (by omega)
      · exact if_neg (by omega)
    · rcases he with rfl | he
      · exact Or.inl (if_pos hlt)
      · refine Or.inr ⟨by dsimp only; split <;> omega, (List.mem_cons.1 hmem).resolve_left fun h => ?_⟩
        rw [← h] at he
        omega

theorem busiest_of_strict_max {ch n : Nat} {m : SMap Nat} (hin : (ch, n) ∈ m) (hmax : ∀ e ∈ m, e = (ch, n) ∨ e.2 < n)
    (hsum : (m.map (·.2)).sum ≠ 0) : busiest m = (ch, n) := by
  have hpos : 0 < n := by
    by_contra h0
    refine hsum (List.sum_eq_zero fun x hx => ?_)
    obtain ⟨e, he, rfl⟩ := List.mem_map.1 hx
    rcases hmax e he with h | h
    · rw [h]
      omega
    · omega
  exact foldl_busiest m (0, 0) hmax (Or.inr ⟨hpos, hin⟩)

theorem execImbalanceWindow_small (h : (s.mem.winChan.map (·.2)).sum < 38400) :
    execImbalanceWindow s = .next { s with mem := { s.mem with winChan := [], winPart := [] } } := by
  simp only [execImbalanceWindow, h, if_true]

/-- A window with enough requests is counted: it shows its busiest channel, its ratio and how long the episode runs. -/
theorem execImbalanceWindow_counted (h : 38400 ≤ (s.mem.winChan.map (·.2)).sum) :
    ∃ u, execImbalanceWindow s = .next u ∧ u.mem.winChan = [] ∧ u.mem.winPart = [] ∧
      u.mem.imbBusiest = BitVec.ofNat 16 (busiest s.mem.winChan).1 ∧
      u.mem.imbRatio = BitVec.ofNat 16 (min ((busiest s.mem.winChan).2 * 384 * 256 / (s.mem.winChan.map (·.2)).sum) 0xFFFF) ∧
      u.mem.imbRun = if s.mem.imbThreshold.toNat < (busiest s.mem.winChan).2 * 384 * 256 / (s.mem.winChan.map (·.2)).sum
        then s.mem.imbRun + 1 else 0 := by
  have h' : ¬ (s.mem.winChan.map (·.2)).sum < 38400 := by omega
  simp only [execImbalanceWindow, h', if_false]
  generalize busiest s.mem.winChan = b
  generalize (s.mem.winChan.map (·.2)).sum = total
  generalize (if s.mem.imbThreshold.toNat < b.2 * 384 * 256 / total then s.mem.imbRun + 1 else 0) = run
  generalize (if run = 0 then none else s.mem.imbLast) = last
  refine ⟨_, rfl, ?_⟩
  split_ifs
  · rw [State.raise_mem _ _ (by simp) (by simp)]
    exact ⟨rfl, rfl, rfl, rfl, rfl⟩
  · exact ⟨rfl, rfl, rfl, rfl, rfl⟩

end

/-- Settles O29: an accepted slab write begins a scrub, the scrub filters the slab's cells away, a line request reads or merges
its bytes at the controller, and the rows beside it change what they name. -/
theorem slabsAndLinesAnswer : Obligations.SlabsAndLinesAnswer := by
  unfold Obligations.SlabsAndLinesAnswer
  refine ⟨⟨fun s ses n hsel hfree => ?_, fun s n hn => ⟨fun hstate htrained => ?_, fun hno => ?_⟩⟩, ?_, ?_, ?_, fun s pa => ?_, ?_, ?_,
    fun s => ?_⟩
  · obtain ⟨-, -, -, -, hdrbg⟩ := id hfree
    exact ⟨fun owner hrow hop howner hplan =>
        ⟨_, execSlabOwnerWrite_free hsel hfree hrow hop howner hplan, State.rekeyed_beginScrub hdrbg⟩,
      fun hrow hown => ⟨_, execRekey_free hsel hfree hrow hown, State.rekeyed_beginScrub hdrbg⟩⟩
  · refine ⟨(s.wipeSlab n.toNat).modSlab n.toNat fun x => { x with state := 0, scrubs := x.scrubs + 1 }, ?_, ?_, fun j hj => ?_,
      s.tier_wipeSlab n.toNat, s.block_wipeSlab n.toNat, rfl⟩
    · change guardUnit _ _ = _
      simp [guardUnit, hn, hstate, htrained]
    · exact ((s.wipeSlab n.toNat).slab_modSlab n.toNat n.toNat _).trans (if_pos rfl)
    · exact ((s.wipeSlab n.toNat).slab_modSlab n.toNat j _).trans (if_neg hj)
  · have hno' : ¬ ((s.slab n.toNat).state = 1 ∧ s.pwr.tiersTrained = true) := by
      rintro ⟨h1, h2⟩
      rcases hno with h | h
      · exact h h1
      · rw [h] at h2
        exact absurd h2 (by decide)
    change guardUnit _ _ = _
    rw [if_neg hno']
    simp [guardUnit, hn]
  · intro s ctx pa len h
    obtain ⟨hpart, _, _, _, _, _, hread⟩ := s.lineRead_frame (s.requester ctx) pa.toNat
    refine ⟨_, execMemoryRequest_read h, ?_, hpart, ?_⟩
    · rw [hread]
      exact readCells_eq_map ..
    · rw [hread]
  · intro s ctx pa bs h
    obtain ⟨hpart, _, _, _, _, hwrite⟩ := s.lineWrite_frame (s.requester ctx) pa.toNat bs none
    refine ⟨_, execMemoryRequest_write h, fun a => ?_, ?_, fun a ha => ?_, ?_, hpart, ?_⟩
    · rw [hwrite]
      exact mapGet_writeCells ..
    · rw [State.block_lineWrite_none, if_pos rfl]
    · rw [State.block_lineWrite_none, if_neg ha]
    · rw [hwrite]
    · rw [hwrite]
  · intro s tier2 ch e hch he
    change guardUnit _ _ = _
    simp only [he, guardUnit, hch, decide_true, if_true]
  · exact congrArg Host.Outcome.next (ite_self s)
  · rintro s pa e ⟨hfatal, htrained, -, n, hslab, -⟩
    refine ⟨s.correctTier pa.toNat 1, ?_, s.correctTier_counts pa.toNat 1⟩
    simp [exec, execPatrolScrub, hfatal, htrained, hslab, State.lineErrors_one]
  · intro s ses page hrow hop hpage hslab
    exact ⟨_, execRetirePage_ok hrow hop hpage hslab, fun n => mem_append_if_new .., rfl⟩
  · intro total
    by_cases hsmall : total < 38400
    · exact ⟨_, execImbalanceWindow_small hsmall, rfl, rfl, fun _ => rfl, fun h => absurd h (by omega)⟩
    · obtain ⟨u, hexec, hchan, hpart, hbusy, hratio, hrun⟩ := execImbalanceWindow_counted (s := s) (by omega)
      refine ⟨u, hexec, hchan, hpart, fun h => absurd h hsmall, fun _ ch n hin hmax => ?_⟩
      have hmost : busiest s.mem.winChan = (ch, n) := busiest_of_strict_max hin hmax (by omega)
      rw [hmost] at hbusy hratio hrun
      refine ⟨hbusy, hratio.trans (congrArg _ (min_def_lt _ _)), hrun⟩

end Sys2Proof.Machine
end

section
/-! O25 (R173 to R181): rows moved between tier memory and the panel's store. A transfer's work is described by what it may change
(`AccessWork`), by the bytes it puts into the store (`Loads`) or into tier memory (`Stores`), and is followed line by line. -/

-- One theorem after the other: elaborated side by side, their threads run out of memory.
set_option Elab.async false

namespace Sys2Proof.Machine

/-! ### What an access command's work may change -/

/-- From state s on, only what the work of an access command of the panel that l leads may change has changed (R174 to R181). -/
structure AccessWork (l : Path) (s u : State) : Prop where
  parts : ∀ p, u.part p = { s.part p with ctr := (u.part p).ctr }
  tiles : ∀ q, u.tile q = { s.tile q with ls := (u.tile q).ls, tlb := (u.tile q).tlb }
  others : ∀ q, q ∉ s.members l → u.tile q = s.tile q
  buffers : ∀ q, ∀ e ∈ (u.tile q).tlb, e ∈ (s.tile q).tlb ∨ e ∈ s.mem.maps
  mem : u.mem = { s.mem with
    tier := u.mem.tier, blocks := u.mem.blocks, tagCounts := u.mem.tagCounts, readAhead := u.mem.readAhead, raHits := u.mem.raHits,
    raDiscarded := u.mem.raDiscarded, winChan := u.mem.winChan, winPart := u.mem.winPart }
  rest : u = { s with tiles := u.tiles, parts := u.parts, mem := u.mem, integ := u.integ }

namespace AccessWork
variable {l : Path} {s u v : State}

theorem refl (l : Path) (s : State) : AccessWork l s s := ⟨fun _ => rfl, fun _ => rfl, fun _ _ => rfl, fun _ _ h => .inl h, rfl, rfl⟩

theorem panelWidth (h : AccessWork l s u) (t : Path) : u.panelWidth t = s.panelWidth t := by
  rw [h.rest]
  rfl

theorem members (h : AccessWork l s u) (t : Path) : u.members t = s.members t := by
  simp only [State.members, h.panelWidth]

theorem span (h : AccessWork l s u) (t : Path) : u.span t = s.span t := by
  simp only [State.span, h.panelWidth]

theorem maps (h : AccessWork l s u) : u.mem.maps = s.mem.maps := by rw [h.mem]

theorem trans (h₁ : AccessWork l s u) (h₂ : AccessWork l u v) : AccessWork l s v where
  parts p := by rw [h₂.parts, h₁.parts]
  tiles q := by rw [h₂.tiles, h₁.tiles]
  others q hq := by rw [h₂.others q (by rwa [h₁.members]), h₁.others q hq]
  buffers q e he := by
    rcases h₂.buffers q e he with h | h
    · exact h₁.buffers q e h
    · exact .inr (by rwa [← h₁.maps])
  mem := by rw [h₂.mem, h₁.mem]
  rest := by rw [h₂.rest, h₁.rest]

/-- Work that leaves the tiles, the partitions but for their counters, and of the memory system what is not listed. -/
theorem of_mem (hparts : ∀ p, u.part p = { s.part p with ctr := (u.part p).ctr }) (hmem : u.mem = { s.mem with
      tier := u.mem.tier, blocks := u.mem.blocks, tagCounts := u.mem.tagCounts, readAhead := u.mem.readAhead, raHits := u.mem.raHits,
      raDiscarded := u.mem.raDiscarded, winChan := u.mem.winChan, winPart := u.mem.winPart })
    (hrest : u = { s with parts := u.parts, mem := u.mem, integ := u.integ }) : AccessWork l s u := by
  have htiles : u.tiles = s.tiles := by rw [hrest]
  have htile : ∀ q, u.tile q = s.tile q := fun q => by simp only [State.tile, htiles]
  refine ⟨hparts, fun q => by rw [htile], fun q _ => htile q, fun q e he => .inl (by rwa [← htile]), hmem, ?_⟩
  rw [htiles]
  exact hrest

theorem physAt (h : AccessWork l s u) (ctx : BitVec 12) (va : Nat) : physAt u ctx va = Machine.physAt s ctx va := by
  simp only [Machine.physAt, h.maps]

theorem permits (h : AccessWork l s u) {ctx : BitVec 12} {write : Bool} {va len : Nat} (hp : permits s ctx write va len) :
    Machine.permits u ctx write va len := by
  simpa only [Machine.permits, h.maps] using hp

theorem rowMover (h : AccessWork l s u) (t : Path) (r : Nat) : u.rowMover t r = s.rowMover t r := by
  simp only [State.rowMover, h.panelWidth]

end AccessWork

/-- Tier memory and its blocks' bookkeeping are as they were. -/
structure SameTier (s u : State) : Prop where
  tier : u.mem.tier = s.mem.tier
  blocks : u.mem.blocks = s.mem.blocks
  tagCounts : u.mem.tagCounts = s.mem.tagCounts

theorem SameTier.refl (s : State) : SameTier s s := ⟨rfl, rfl, rfl⟩

theorem SameTier.trans {s u v : State} (h₁ : SameTier s u) (h₂ : SameTier u v) : SameTier s v :=
  ⟨h₂.tier.trans h₁.tier, h₂.blocks.trans h₁.blocks, h₂.tagCounts.trans h₁.tagCounts⟩

/-- Every local store is as it was. -/
def SameStores (s u : State) : Prop := ∀ q, (u.tile q).ls = (s.tile q).ls

theorem SameStores.refl (s : State) : SameStores s s := fun _ => rfl

theorem SameStores.trans {s u v : State} (h₁ : SameStores s u) (h₂ : SameStores u v) : SameStores s v :=
  fun q => (h₂ q).trans (h₁ q)

theorem SameStores.lsByte {s u : State} (h : SameStores s u) (l : Path) (a : Nat) : u.lsByte l a = s.lsByte l a := by
  simp only [State.lsByte, h _]

theorem sameStores_of_tiles {s u : State} (h : u.tiles = s.tiles) : SameStores s u := fun q => by
  simp only [State.tile, h]

/-- Work that looks at memory: no byte of a store or of tier memory, and no block's bookkeeping, changes. -/
structure Looks (l : Path) (s u : State) : Prop where
  work : AccessWork l s u
  tier : SameTier s u
  stores : SameStores s u

theorem Looks.refl (l : Path) (s : State) : Looks l s s := ⟨.refl l s, .refl s, .refl s⟩

theorem Looks.trans {l : Path} {s u v : State} (h₁ : Looks l s u) (h₂ : Looks l u v) : Looks l s v :=
  ⟨h₁.work.trans h₂.work, h₁.tier.trans h₂.tier, h₁.stores.trans h₂.stores⟩

theorem Looks.each {α : Type} {l : Path} {s : State} (xs : List α) {f : State → α → State}
    (hf : ∀ a, Looks l s a → ∀ x, Looks l a (f a x)) : Looks l s (s.each xs f) := by
  have key : ∀ a, Looks l s a → Looks l s (a.each xs f) := by
    induction xs with
    | nil => exact fun a ha => ha
    | cons x xs ih => exact fun a ha => ih (f a x) (ha.trans (hf a ha x))
  exact key s (.refl l s)

theorem Looks.virtBytes {l : Path} {s u : State} (h : Looks l s u) (ctx : BitVec 12) (va len : Nat) :
    virtBytes u ctx va len = Machine.virtBytes s ctx va len := by
  simp only [Machine.virtBytes, h.work.physAt, h.tier.tier]

/-! ### The panel's engines (R169, R180) -/

/-- The engines of the panel that l leads: every buffer agrees with the pages, every row's mover is a member, no store has an error. -/
structure Engines (s : State) (l : Path) (ctx : BitVec 12) : Prop where
  mapped : ∀ m ∈ s.members l, Translates s (.tile m) ctx
  movers : ∀ r, memberAt l (r % s.panelWidth l) ∈ s.members l
  lead : l ∈ s.members l
  inside : ∀ q, (∀ j, j < s.panelWidth l → q ≠ memberAt l j) ↔ q ∉ s.members l
  clean : ∀ i, (s.tile (memberAt l i)).lsErr = []

theorem Engines.after {s u : State} {l : Path} {ctx : BitVec 12} (h : Engines s l ctx) (hw : AccessWork l s u) : Engines u l ctx where
  mapped m hm := by
    obtain ⟨hbuffer, hpages⟩ := h.mapped m (by rwa [← hw.members])
    refine ⟨fun p hp => ?_, by rwa [hw.maps]⟩
    rw [hw.maps]
    exact (hw.buffers m p hp).elim (hbuffer p) id
  movers r := by
    rw [hw.members, hw.panelWidth]
    exact h.movers r
  lead := by
    rw [hw.members]
    exact h.lead
  inside q := by
    rw [hw.members, hw.panelWidth]
    exact h.inside q
  clean i := by
    rw [hw.tiles]
    exact h.clean i

/-! ### Translation (R169, R172) -/

theorem State.looks_modTlb {s : State} {l m : Path} (hm : m ∈ s.members l) {p : PageMap} (hp : p ∈ s.mem.maps) :
    Looks l s (s.fillTlb (.tile m) p) := by
  have hother : ∀ q, q ≠ m → (s.fillTlb (.tile m) p).tile q = s.tile q := fun q hq => State.tile_modTile_other _ _ hq
  have hsame : (s.fillTlb (.tile m) p).tile m = { s.tile m with tlb := (p :: (s.tile m).tlb).take 128 } := State.tile_modTile_same ..
  have htile : ∀ q, (s.fillTlb (.tile m) p).tile q = { s.tile q with tlb := ((s.fillTlb (.tile m) p).tile q).tlb } := by
    intro q
    by_cases hq : q = m
    · rw [hq, hsame]
    · rw [hother q hq]
  refine ⟨⟨fun _ => rfl, fun q => ?_, fun q hq => hother q fun e => hq (e ▸ hm), fun q e he => ?_, rfl, rfl⟩, ⟨rfl, rfl, rfl⟩,
    fun q => ?_⟩
  · rw [htile q]
  · by_cases hq : q = m
    · subst hq
      rw [hsame] at he
      rcases List.mem_cons.1 (List.mem_of_mem_take he) with rfl | h
      · exact .inr hp
      · exact .inl h
    · exact .inl (by rwa [← hother q hq])
  · rw [htile q]

theorem State.looks_xlate {s : State} {l m : Path} (hm : m ∈ s.members l) (ctx : BitVec 12) (va : Nat) (write : Bool) :
    Looks l s (s.xlate (.tile m) ctx va write).1 := by
  have htranslate : Looks l s (s.translate (.tile m) ctx va).1 := by
    rw [State.translate]
    split
    · exact .refl l s
    · split
      next p hp => exact s.looks_modTlb hm (List.mem_of_find?_eq_some hp)
      next => exact .refl l s
  have hstate : (s.xlate (.tile m) ctx va write).1 = (s.translate (.tile m) ctx va).1 := by
    rw [State.xlate]
    split
    next u hu => rw [hu]
    next u p hu =>
      rw [hu]
      exact (apply_ite Prod.fst _ _ _).trans (ite_self u)
  rwa [hstate]

theorem PageMap.holds_of_find {ps : List PageMap} {ctx : BitVec 12} {va : Nat} {p : PageMap}
    (h : (ps.find? fun p => p.holds ctx va) = some p) : p.holds ctx va = true := List.find?_some (p := fun p : PageMap => p.holds ctx va) h

/-- A page that a mover's buffer holds for a mapped address is the page that the mappings give. -/
theorem Translates.find_buffer {s : State} {who : Mover} {ctx : BitVec 12} (h : Translates s who ctx) {va : Nat} {p q : PageMap}
    (hp : (s.mem.maps.find? fun p => p.holds ctx va) = some p) (hq : ((s.tlbOf who).find? fun p => p.holds ctx va) = some q) : q = p := by
  obtain ⟨hbuffer, hpages⟩ := h
  have hholds : q.holds ctx va = true := PageMap.holds_of_find hq
  have hctx : q.ctx = ctx := by
    simp only [PageMap.holds, Bool.and_eq_true, decide_eq_true_eq] at hholds
    obtain ⟨⟨hctx, -⟩, -⟩ := hholds
    exact hctx
  obtain ⟨-, -, hunique⟩ := hpages q (hbuffer q (List.mem_of_find?_eq_some hq)) hctx
  exact hunique p (List.mem_of_find?_eq_some hp) va hholds (PageMap.holds_of_find hp)

/-- A mapped address that its page permits translates to its physical address (R169). -/
theorem Translates.xlate {s : State} {who : Mover} {ctx : BitVec 12} (h : Translates s who ctx) {va : Nat} {write : Bool} {p : PageMap}
    (hp : (s.mem.maps.find? fun p => p.holds ctx va) = some p) (hperm : (if write then p.w else p.r) = true) :
    (s.xlate who ctx va write).2 = .ok p (physAt s ctx va) := by
  have hpage : (s.translate who ctx va).2 = some p := by
    rw [State.translate]
    split
    next q hq => rw [h.find_buffer hp hq]
    next => rw [hp]
  have hphys : physAt s ctx va = p.pa + (va - p.va) := by rw [physAt, hp]
  rw [State.xlate]
  split
  next u hu =>
    rw [hu] at hpage
    exact absurd hpage (by simp)
  next u q hu =>
    rw [hu] at hpage
    obtain rfl : q = p := Option.some.inj hpage
    rw [if_pos hperm, hphys]

theorem PageMap.size_mod (p : PageMap) : p.size % 512 = 0 := by
  rw [PageMap.size]
  split
  · rfl
  · rfl

/-- The pages of a context lie at multiples of their size, and translate a line as one piece (R169, R170). -/
theorem Translates.physAt_line {s : State} {who : Mover} {ctx : BitVec 12} (h : Translates s who ctx) {va n i : Nat} {write : Bool}
    (hperm : permits s ctx write va n) (hline : va % 512 + n ≤ 512) (hi : i < n) :
    physAt s ctx (va + i) = physAt s ctx va + i ∧ physAt s ctx va % 512 = va % 512 := by
  obtain ⟨p, hp, -⟩ := hperm 0 (by omega)
  obtain ⟨q, hq, -⟩ := hperm i hi
  rw [Nat.add_zero] at hp
  have hpin := List.mem_of_find?_eq_some hp
  have hholds : p.holds ctx va = true := PageMap.holds_of_find hp
  simp only [PageMap.holds, Bool.and_eq_true, decide_eq_true_eq] at hholds
  obtain ⟨⟨hctx, hlo⟩, hhi⟩ := hholds
  obtain ⟨hva, hpa, hunique⟩ := h.2 p hpin hctx
  have hsize := p.size_mod
  have hva' : p.va % 512 = 0 := by
    rw [← Nat.mod_mod_of_dvd p.va (Nat.dvd_of_mod_eq_zero hsize), hva]
  have hpa' : p.pa % 512 = 0 := by
    rw [← Nat.mod_mod_of_dvd p.pa (Nat.dvd_of_mod_eq_zero hsize), hpa]
  have hend : va + i < p.va + p.size := by omega
  have hnext : p.holds ctx (va + i) = true := by
    simp only [PageMap.holds, Bool.and_eq_true, decide_eq_true_eq]
    exact ⟨⟨hctx, by omega⟩, hend⟩
  have hsame : p = q := hunique q (List.mem_of_find?_eq_some hq) (va + i) hnext (PageMap.holds_of_find hq)
  rw [← hsame] at hq
  have hphys : physAt s ctx va = p.pa + (va - p.va) := by rw [physAt, hp]
  have hphys' : physAt s ctx (va + i) = p.pa + (va + i - p.va) := by rw [physAt, hq]
  omega

/-- A member translates an address that its page permits, and only looks. -/
theorem Engines.xlate {s : State} {l m : Path} {ctx : BitVec 12} (h : Engines s l ctx) (hm : m ∈ s.members l) {va n : Nat} {write : Bool}
    (hperm : permits s ctx write va n) (hn : 0 < n) :
    ∃ u p, s.xlate (.tile m) ctx va write = (u, .ok p (physAt s ctx va)) ∧ Looks l s u := by
  obtain ⟨p, hp, hrw⟩ := hperm 0 hn
  exact ⟨_, p, Prod.ext rfl ((h.mapped m hm).xlate hp hrw), s.looks_xlate hm ctx va write⟩

/-! ### The lines of a range -/

/-- Pieces cut a range of len bytes from address a: each lies in one line, and the next begins where it ends. -/
inductive Lines : Nat → Nat → List (Nat × Nat) → Prop
  | nil (a : Nat) : Lines a 0 []
  | cons {a n len : Nat} {ps : List (Nat × Nat)} : 0 < n → a % 512 + n ≤ 512 → Lines (a + n) len ps → Lines a (n + len) ((a, n) :: ps)

theorem lines_linePieces (fuel a len : Nat) (h : len = 0 ∨ len + a % 512 ≤ fuel * 512) : Lines a len (linePieces fuel a len) := by
  induction fuel generalizing a len with
  | zero =>
    obtain rfl : len = 0 := by omega
    exact .nil a
  | succ fuel ih =>
    rw [linePieces]
    split
    next h0 =>
      rw [h0]
      exact .nil a
    next h0 =>
      obtain ⟨n, hn, hcut⟩ : ∃ n, min len (512 - a % 512) = n ∧ (n = len ∨ n = 512 - a % 512 ∧ n < len) :=
        ⟨_, rfl, by rw [Nat.min_def]; split <;> omega⟩
      have hline := Lines.cons (a := a) (n := n) (by omega) (by omega) (ih (a + n) (len - n) (by omega))
      rw [show n + (len - n) = len by omega] at hline
      simpa only [hn] using hline

theorem lines_linesOf (a len : Nat) : Lines a len (linesOf a len) := lines_linePieces _ a len (.inr (by omega))

/-! ### Bytes read through a context -/

theorem virtBytes_add (s : State) (ctx : BitVec 12) (va m n : Nat) :
    virtBytes s ctx va (m + n) = virtBytes s ctx va m ++ virtBytes s ctx (va + m) n := by
  simp only [virtBytes, List.range_add, List.map_append, List.map_map, Function.comp_def, Nat.add_assoc]

@[simp] theorem virtBytes_length (s : State) (ctx : BitVec 12) (va len : Nat) : (virtBytes s ctx va len).length = len := by
  simp [virtBytes]

theorem permits_take {s : State} {ctx : BitVec 12} {write : Bool} {va m n : Nat} (h : permits s ctx write va (m + n)) :
    permits s ctx write va m := fun i hi => h i (by omega)

theorem permits_drop {s : State} {ctx : BitVec 12} {write : Bool} {va m n : Nat} (h : permits s ctx write va (m + n)) :
    permits s ctx write (va + m) n := fun i hi => by
  rw [Nat.add_assoc]
  exact h (m + i) (by omega)

/-- One line's bytes, by their physical address. -/
theorem Engines.tierBytes_line {s : State} {l m : Path} {ctx : BitVec 12} (h : Engines s l ctx) (hm : m ∈ s.members l) {va n : Nat}
    {write : Bool} (hperm : permits s ctx write va n) (hline : va % 512 + n ≤ 512) :
    s.tierBytes (physAt s ctx va) n = virtBytes s ctx va n := by
  refine (readCells_eq_map ..).trans (List.map_congr_left fun i hi => ?_)
  obtain ⟨hphys, -⟩ := (h.mapped m hm).physAt_line hperm hline (List.mem_range.1 hi)
  rw [hphys]

theorem State.looks_lineRead (s : State) (l : Path) (part pa : Nat) : Looks l s (s.lineRead part pa) := by
  obtain ⟨hpart, _, _, _, _, _, hread⟩ := s.lineRead_frame part pa
  refine ⟨.of_mem hpart ?_ ?_, ⟨?_, ?_, ?_⟩, sameStores_of_tiles ?_⟩ <;> rw [hread]

/-- One line of a read: what `State.readVA` folds. -/
def State.readLine (who : Mover) (part : Nat) (ctx : BitVec 12) (acc : State × Bytes × Met) (p : Nat × Nat) : State × Bytes × Met :=
  match acc.2.2 with
  | .fault .. => acc
  | .ok =>
    match acc.1.xlate who ctx p.1 false with
    | (s', .fault code) => (s', acc.2.1, .fault code p.1)
    | (s', .ok _ pa) => (s'.lineRead part pa, acc.2.1 ++ s'.tierBytes pa p.2, .ok)

theorem State.readVA_eq_readLine (s : State) (who : Mover) (part : Nat) (ctx : BitVec 12) (va len : Nat) :
    s.readVA who part ctx va len = (linesOf va len).foldl (State.readLine who part ctx) (s, [], .ok) := rfl

theorem Engines.readLine {s : State} {l m : Path} {ctx : BitVec 12} (h : Engines s l ctx) (hm : m ∈ s.members l) (part : Nat) (bs : Bytes)
    {va n : Nat} (hperm : permits s ctx false va n) (hn : 0 < n) (hline : va % 512 + n ≤ 512) :
    ∃ u, State.readLine (.tile m) part ctx (s, bs, .ok) (va, n) = (u, bs ++ virtBytes s ctx va n, .ok) ∧ Looks l s u := by
  obtain ⟨u, p, hx, hlooks⟩ := h.xlate hm hperm hn
  refine ⟨u.lineRead part (physAt s ctx va), ?_, hlooks.trans (u.looks_lineRead l part _)⟩
  have hbytes : u.tierBytes (physAt s ctx va) n = virtBytes s ctx va n := by
    rw [← h.tierBytes_line hm hperm hline, State.tierBytes, State.tierBytes, hlooks.tier.tier]
  simp only [State.readLine, hx, hbytes]

theorem Engines.readLines {l m : Path} {ctx : BitVec 12} (part : Nat) {va len : Nat} {ps : List (Nat × Nat)} (hps : Lines va len ps) :
    ∀ {s : State} (bs : Bytes), Engines s l ctx → m ∈ s.members l → permits s ctx false va len →
      ∃ u, ps.foldl (State.readLine (.tile m) part ctx) (s, bs, .ok) = (u, bs ++ virtBytes s ctx va len, .ok) ∧ Looks l s u := by
  induction hps with
  | nil va => exact fun bs _ _ _ => ⟨_, by simp [virtBytes], .refl l _⟩
  | @cons va n len ps hn hline _ ih =>
    intro s bs h hm hperm
    obtain ⟨u, hu, hlooks⟩ := h.readLine hm part bs (permits_take hperm) hn hline
    obtain ⟨v, hv, hlooks'⟩ := ih (bs ++ virtBytes s ctx va n) (h.after hlooks.work) (by rwa [hlooks.work.members])
      (hlooks.work.permits (permits_drop hperm))
    refine ⟨v, ?_, hlooks.trans hlooks'⟩
    rw [List.foldl_cons, hu, hv, hlooks.virtBytes, List.append_assoc, ← virtBytes_add]

/-- A range that its pages let a member read is read in full (R174). -/
theorem Engines.readVA {s : State} {l m : Path} {ctx : BitVec 12} (h : Engines s l ctx) (hm : m ∈ s.members l) (part : Nat) {va len : Nat}
    (hperm : permits s ctx false va len) :
    ∃ u, s.readVA (.tile m) part ctx va len = (u, virtBytes s ctx va len, .ok) ∧ Looks l s u :=
  Engines.readLines part (lines_linesOf va len) [] h hm hperm

/-! ### Rows read (R174) -/

theorem Engines.readRows {s : State} {a : AccCtx} (h : Engines s a.l a.ctx) (hrows : rowsReadable s a.ctx a.d) :
    ∃ u, s.readRows a = (u, (List.range a.d.rows).flatMap (tierRow s a.ctx a.d), .ok) ∧ Looks a.l s u := by
  rw [State.readRows]
  rw [rowsReadable] at hrows
  generalize a.d.rows = rows at hrows
  induction rows with
  | zero => exact ⟨s, rfl, .refl _ s⟩
  | succ n ih =>
    obtain ⟨u, hu, hlooks⟩ := ih fun r hr => hrows r (by omega)
    have hu' := h.after hlooks.work
    obtain ⟨v, hv, hlooks'⟩ := hu'.readVA (hu'.movers n) a.p (hlooks.work.permits (hrows n (by omega)))
    refine ⟨v, ?_, hlooks.trans hlooks'⟩
    rw [List.range_succ, List.foldl_append, hu, List.flatMap_append, List.flatMap_singleton, List.foldl_cons, List.foldl_nil]
    simp only [State.rowMover, hv, hlooks.virtBytes, tierRow]

/-! ### Read-ahead (R181) -/

theorem State.looks_of_mem {l : Path} {s u : State} (hparts : ∀ p, u.part p = { s.part p with ctr := (u.part p).ctr })
    (hmem : u.mem = { s.mem with readAhead := u.mem.readAhead, raHits := u.mem.raHits, raDiscarded := u.mem.raDiscarded,
                                 winChan := u.mem.winChan, winPart := u.mem.winPart })
    (hrest : u = { s with parts := u.parts, mem := u.mem, integ := u.integ }) : Looks l s u := by
  refine ⟨.of_mem hparts ?_ hrest, ⟨?_, ?_, ?_⟩, sameStores_of_tiles ?_⟩
  · rw [hmem]
  · rw [hmem]
  · rw [hmem]
  · rw [hmem]
  · rw [hrest]

theorem State.looks_countRequest (s : State) (l : Path) (part pa : Nat) : Looks l s (s.countRequest part pa) := by
  obtain ⟨hpart, _, _, _, hcount⟩ := s.countRequest_frame part pa
  refine State.looks_of_mem hpart ?_ ?_ <;> rw [hcount]

theorem State.looks_fillLine (s : State) (l : Path) (part : Nat) (via : PageMap) (pa : Nat) : Looks l s (s.fillLine part via pa) := by
  rw [State.fillLine]
  split
  · exact .refl l s
  · dsimp only
    split
    · exact State.looks_of_mem (fun _ => rfl) rfl rfl
    · split
      · exact State.looks_of_mem (fun _ => rfl) rfl rfl
      · exact State.looks_of_mem (fun _ => rfl) rfl rfl

theorem State.looks_prefetch {s : State} {l m : Path} (hm : m ∈ s.members l) (part : Nat) (ctx : BitVec 12) (va len : Nat) :
    Looks l s (s.prefetch (.tile m) part ctx va len) := by
  refine Looks.each _ fun a ha p => ?_
  have hlooks := State.looks_xlate (s := a) (l := l) (by rwa [ha.work.members]) ctx p.1 false
  split
  next u page pa hu =>
    rw [hu] at hlooks
    exact hlooks.trans ((u.looks_countRequest l part pa).trans (State.looks_fillLine _ l part page pa))
  next u code hu =>
    rw [hu] at hlooks
    exact hlooks.trans (State.looks_of_mem (fun _ => rfl) rfl rfl)

theorem Engines.looks_prefetchRows {s : State} {a : AccCtx} (h : Engines s a.l a.ctx) :
    Looks a.l s (s.each (List.range a.d.rows) fun b r => b.prefetch (b.rowMover a.l r) a.p a.ctx (a.d.taddr + r * a.d.tstr) a.d.rb) :=
  Looks.each _ fun _ hb r => State.looks_prefetch ((h.after hb.work).movers r) ..

/-! ### Blocks read with their check values (R178) -/

theorem State.countVerify_frame (s : State) (v : Verdict) : ∃ i, s.countVerify v = { s with integ := i } := by
  cases v with
  | nocheck => exact ⟨s.integ, rfl⟩
  | good => exact ⟨_, rfl⟩
  | torn line => exact ⟨_, rfl⟩
  | bad => exact ⟨_, rfl⟩

theorem State.looks_countVerify (s : State) (l : Path) (v : Verdict) : Looks l s (s.countVerify v) := by
  obtain ⟨i, hi⟩ := s.countVerify_frame v
  rw [hi]
  exact State.looks_of_mem (fun _ => rfl) rfl rfl

theorem SameTier.verify {s u : State} (h : SameTier s u) (pa : Nat) : u.verify pa = s.verify pa := by
  unfold State.verify State.block State.tierBytes
  rw [h.tier, h.blocks]

/-- A good block is read in full. -/
theorem Engines.readBlock {s : State} {l m : Path} {ctx : BitVec 12} (h : Engines s l ctx) (hm : m ∈ s.members l) (reader part : Nat)
    {va : Nat} (hperm : permits s ctx false va 4096) (hgood : s.verify (physAt s ctx va) = .good) :
    ∃ u, s.readBlocks (.tile m) reader part ctx va 1 = (u, virtBytes s ctx va 4096, .ok, none) ∧ Looks l s u := by
  obtain ⟨u, p, hx, hlooks⟩ := h.xlate hm hperm (by omega)
  have hcounted := hlooks.trans (u.looks_countVerify l .good)
  obtain ⟨v, hv, hlooks'⟩ := (h.after hcounted.work).readVA (by rwa [hcounted.work.members]) part (hcounted.work.permits hperm)
  refine ⟨v, ?_, hcounted.trans hlooks'⟩
  have hverify : u.verify (physAt s ctx va) = .good := by rw [hlooks.tier.verify, hgood]
  simp only [State.readBlocks, hx, hverify, if_true, hv, hcounted.virtBytes, List.append_nil]

theorem Engines.readChecked {s : State} {a : AccCtx} (h : Engines s a.l a.ctx)
    (hperm : ∀ i, i < a.d.rows * a.d.rb / 4096 → permits s a.ctx false (a.d.taddr + 4096 * i) 4096)
    (hgood : ∀ i, i < a.d.rows * a.d.rb / 4096 → s.verify (physAt s a.ctx (a.d.taddr + 4096 * i)) = .good) :
    ∃ u, s.readChecked a =
      (u, (List.range (a.d.rows * a.d.rb / 4096)).flatMap (fun i => virtBytes s a.ctx (a.d.taddr + 4096 * i) 4096), .ok, none) ∧
      Looks a.l s u := by
  rw [State.readChecked]
  generalize a.d.rows * a.d.rb / 4096 = blocks at hperm hgood
  induction blocks with
  | zero => exact ⟨s, rfl, .refl _ s⟩
  | succ n ih =>
    obtain ⟨u, hu, hlooks⟩ := ih (fun i hi => hperm i (by omega)) (fun i hi => hgood i (by omega))
    have hu' := h.after hlooks.work
    have hgood' : u.verify (physAt u a.ctx (a.d.taddr + 4096 * n)) = .good := by
      rw [hlooks.tier.verify, hlooks.work.physAt, hgood n (by omega)]
    obtain ⟨v, hv, hlooks'⟩ := hu'.readBlock (hu'.movers (4096 * n / a.d.rb)) 0 a.p (hlooks.work.permits (hperm n (by omega))) hgood'
    refine ⟨v, ?_, hlooks.trans hlooks'⟩
    rw [List.range_succ, List.foldl_append, hu, List.flatMap_append, List.flatMap_singleton, List.foldl_cons, List.foldl_nil]
    simp only [State.blockMover, State.rowMover, hv, hlooks.virtBytes]

/-! ### Bytes put into the panel's store -/

/-- A byte of the panel's store after a list of writes, one after another. -/
def storeAfter (ws : List (Nat × Bytes)) (b : Nat) (x : Byte) : Byte :=
  ws.foldl (fun acc w => if w.1 ≤ b ∧ b < w.1 + w.2.length then w.2.getD (b - w.1) 0 else acc) x

theorem storeAfter_append (ws ws' : List (Nat × Bytes)) (b : Nat) (x : Byte) :
    storeAfter (ws ++ ws') b x = storeAfter ws' b (storeAfter ws b x) := List.foldl_append ..

theorem storeAfter_uncovered {ws : List (Nat × Bytes)} {b : Nat} (h : ∀ w ∈ ws, ¬ covers w b) (x : Byte) : storeAfter ws b x = x :=
  (foldl_cover (fun w : Nat × Bytes => w.1 ≤ b ∧ b < w.1 + w.2.length) (fun w => w.2.getD (b - w.1) 0) ws x).1 h

theorem storeAfter_covered {ws : List (Nat × Bytes)} {b : Nat} {w : Nat × Bytes} (hw : w ∈ ws) (hb : covers w b)
    (h : ∀ w' ∈ ws, covers w' b → w' = w) (x : Byte) : storeAfter ws b x = w.2.getD (b - w.1) 0 :=
  (foldl_cover (fun w : Nat × Bytes => w.1 ≤ b ∧ b < w.1 + w.2.length) (fun w => w.2.getD (b - w.1) 0) ws x).2 w hw hb h

/-- The work of a load: it leaves tier memory, and puts a list of writes into the panel's store. -/
structure Loads (l : Path) (ws : List (Nat × Bytes)) (s u : State) : Prop where
  work : AccessWork l s u
  tier : SameTier s u
  put : ∀ b, b < 0x800000 → u.lsByte l b = storeAfter ws b (s.lsByte l b)

theorem Looks.loads {l : Path} {s u : State} (h : Looks l s u) : Loads l [] s u :=
  ⟨h.work, h.tier, fun b _ => h.stores.lsByte l b⟩

theorem Loads.trans {l : Path} {ws ws' : List (Nat × Bytes)} {s u v : State} (h₁ : Loads l ws s u) (h₂ : Loads l ws' u v) :
    Loads l (ws ++ ws') s v :=
  ⟨h₁.work.trans h₂.work, h₁.tier.trans h₂.tier, fun b hb => by rw [h₂.put b hb, h₁.put b hb, storeAfter_append]⟩

theorem Loads.virtBytes {l : Path} {ws : List (Nat × Bytes)} {s u : State} (h : Loads l ws s u) (ctx : BitVec 12) (va len : Nat) :
    virtBytes u ctx va len = Machine.virtBytes s ctx va len := by
  simp only [Machine.virtBytes, h.work.physAt, h.tier.tier]

theorem AccessWork.of_onlyLs {l : Path} {s u : State} (h : onlyLs s u) (hothers : ∀ q, q ∉ s.members l → u.tile q = s.tile q) :
    AccessWork l s u := by
  obtain ⟨htile, hrest⟩ := h
  have htlb : ∀ q, (u.tile q).tlb = (s.tile q).tlb := fun q => by rw [htile]
  refine ⟨fun p => ?_, fun q => ?_, hothers, fun q e he => .inl (by rwa [← htlb]), ?_, ?_⟩
  · rw [hrest]
    rfl
  · rw [htlb, ← htile]
  · rw [hrest]
  · rw [hrest]

theorem Engines.writeLS {s : State} {l : Path} {ctx : BitVec 12} (h : Engines s l ctx) {a : Nat} {bs : Bytes} (ha : a + bs.length ≤ s.span l) :
    Loads l [(a, bs)] s (s.writeLS l a bs).1 := by
  have hspan := span_le s l
  rw [State.writeLS_clean s l h.clean]
  have honly := pokeLS_only l 5 a bs s h.clean
  refine ⟨.of_onlyLs honly fun q hq => pokeLS_others l (s.panelWidth l) 5 a bs s ha q ((h.inside q).2 hq), ?_, fun b hb => ?_⟩
  · rw [honly.2]
    exact ⟨rfl, rfl, rfl⟩
  · exact State.lsByte_pokeLS s l 5 a bs b (by omega) (by omega) hb

theorem Engines.doWrites {l : Path} {ctx : BitVec 12} (ws : List (Nat × Bytes)) :
    ∀ {s : State}, Engines s l ctx → (∀ w ∈ ws, w.1 + w.2.length ≤ s.span l) → Loads l ws s (doWrites s l ws) := by
  induction ws with
  | nil => exact fun _ _ => (Looks.refl l _).loads
  | cons w ws ih =>
    intro s h hin
    have hw := h.writeLS (hin w (List.mem_cons_self ..))
    exact hw.trans (ih (h.after hw.work) fun w' hw' => by
      rw [hw.work.span]
      exact hin w' (List.mem_cons_of_mem _ hw'))

/-! ### Lists of rows -/

theorem flatMap_range_map {α : Type} (m n : Nat) (hn : 0 < n) (f : Nat → Nat → α) :
    (List.range m).flatMap (fun i => (List.range n).map (f i)) = (List.range (m * n)).map fun k => f (k / n) (k % n) := by
  induction m with
  | zero => simp
  | succ m ih =>
    rw [List.range_succ, List.flatMap_append, ih, List.flatMap_singleton, Nat.succ_mul, List.range_add, List.map_append, List.map_map]
    refine congrArg _ (List.map_congr_left fun j hj => ?_)
    have hj' := List.mem_range.1 hj
    have hdiv : (m * n + j) / n = m := by
      rw [Nat.mul_comm, Nat.mul_add_div hn, Nat.div_eq_of_lt hj', Nat.add_zero]
    have hmod : (m * n + j) % n = j := by
      rw [Nat.mul_comm, Nat.mul_add_mod, Nat.mod_eq_of_lt hj']
    simp only [Function.comp_apply, hdiv, hmod]

theorem chunks_flatMap {α : Type} (n : Nat) (hn : 0 < n) (xs : List α) (f : α → Bytes) (hf : ∀ x ∈ xs, (f x).length = n) :
    chunks n (xs.flatMap f) = xs.map f := by
  rw [List.flatMap_def]
  refine chunks_flatten n hn _ fun b hb => ?_
  obtain ⟨x, hx, rfl⟩ := List.mem_map.1 hb
  exact hf x hx

/-- Rows of equal length put one after another are one range's bytes. -/
theorem virtBytes_flatMap (s : State) (ctx : BitVec 12) (va m n : Nat) :
    (List.range m).flatMap (fun i => virtBytes s ctx (va + n * i) n) = virtBytes s ctx va (m * n) := by
  induction m with
  | zero => simp [virtBytes]
  | succ m ih =>
    rw [List.range_succ, List.flatMap_append, ih, List.flatMap_singleton, Nat.succ_mul, virtBytes_add, Nat.mul_comm m n]

/-- Rows of d.rb bytes put into the store, row r where a COPY puts it. -/
def rowWrites (d : AccCmd) (row : Nat → Bytes) : List (Nat × Bytes) := (List.range d.rows).map fun r => (d.laddr + r * d.lstr, row r)

theorem State.fillRows_eq (s : State) (l : Path) {d : AccCmd} (hrb : 0 < d.rb) {row : Nat → Bytes} (hrow : ∀ r, (row r).length = d.rb) :
    s.fillRows l d ((List.range d.rows).flatMap row) = doWrites s l (rowWrites d row) := by
  rw [State.fillRows, chunks_flatMap d.rb hrb _ row fun r _ => hrow r, zipIdx_map_range, doWrites, rowWrites, State.each, State.each,
    List.foldl_map, List.foldl_map]

/-! ### What a checked body gives (R173 to R175) -/

/-- Every range of a list that `rowRanges` gives for rows bounds its rows. -/
theorem rowRanges_row {base rows stride len r : Nat} (hr : r < rows) :
    ∃ x ∈ rowRanges base rows stride len, x.1 ≤ base + r * stride ∧ base + r * stride + len ≤ x.1 + x.2 := by
  rw [rowRanges]
  split
  · have hmul : r * stride ≤ stride * (rows - 1) := by
      rw [Nat.mul_comm]
      exact Nat.mul_le_mul_left _ (by omega)
    exact ⟨_, List.mem_singleton_self _, by omega, by omega⟩
  · exact ⟨_, List.mem_map.2 ⟨r, List.mem_range.2 hr, rfl⟩, le_rfl, le_rfl⟩

/-- What an access body that meets every check gives its work. -/
structure BodyOk (d : AccCmd) (unit span : Nat) : Prop where
  rows : 0 < d.rows
  rb : 0 < d.rb
  rb16 : d.rb % 16 = 0
  inside : ∀ x ∈ d.lsRows unit ++ d.xRegion unit, x.1 + x.2 ≤ span
  apart : ∀ x ∈ d.lsRows unit, ∀ y ∈ d.xRegion unit, x.1 + x.2 ≤ y.1 ∨ y.1 + y.2 ≤ x.1
  op : d.opBad unit = false

theorem AccCmd.bodyOk {d : AccCmd} {unit span : Nat} (h : d.bad unit span = false) : BodyOk d unit span := by
  simp only [AccCmd.bad, Bool.or_eq_false_iff, decide_eq_false_iff_not, not_not] at h
  obtain ⟨⟨⟨⟨⟨⟨⟨⟨-, hrows⟩, hrb16⟩, hrb⟩, -⟩, -⟩, hop⟩, hinside⟩, hapart⟩ := h
  refine ⟨by omega, by omega, hrb16, fun x hx => ?_, fun x hx y hy => ?_, hop⟩
  · have hx' := List.any_eq_false.1 hinside x hx
    simpa using hx'
  · have hmeet := List.any_eq_false.1 (Bool.eq_false_iff.2 (List.any_eq_false.1 hapart x hx)) y hy
    simp only [Bool.and_eq_true, decide_eq_true_eq] at hmeet
    omega

/-- The rows of a COPY or a GATHER lie in the panel's store. -/
theorem BodyOk.row_inside {d : AccCmd} {unit span : Nat} (h : BodyOk d unit span)
    (hrows : d.lsRows unit = rowRanges d.laddr d.rows d.lstr d.rb) {r : Nat} (hr : r < d.rows) : d.laddr + r * d.lstr + d.rb ≤ span := by
  obtain ⟨x, hx, -, hend⟩ := rowRanges_row (base := d.laddr) (stride := d.lstr) (len := d.rb) hr
  exact hend.trans (h.inside x (List.mem_append_left _ (by rwa [hrows])))

theorem BodyOk.rowWrites_inside {d : AccCmd} {unit span : Nat} (h : BodyOk d unit span)
    (hrows : d.lsRows unit = rowRanges d.laddr d.rows d.lstr d.rb) {row : Nat → Bytes} (hrow : ∀ r, (row r).length = d.rb) :
    ∀ w ∈ rowWrites d row, w.1 + w.2.length ≤ span := by
  intro w hw
  obtain ⟨r, hr, rfl⟩ := List.mem_map.1 hw
  rw [hrow]
  exact h.row_inside hrows (List.mem_range.1 hr)

/-! ### COPY (R174, R178) -/

theorem Engines.fillRows {s u : State} {l : Path} {ctx : BitVec 12} {d : AccCmd} {unit : Nat} (h : Engines s l ctx) (hlooks : Looks l s u)
    (hbody : BodyOk d unit (s.span l)) (hrows : d.lsRows unit = rowRanges d.laddr d.rows d.lstr d.rb) :
    Loads l (rowWrites d (tierRow s ctx d)) s (u.fillRows l d ((List.range d.rows).flatMap (tierRow s ctx d))) := by
  have hlen : ∀ r, (tierRow s ctx d r).length = d.rb := fun r => virtBytes_length ..
  rw [u.fillRows_eq l hbody.rb hlen]
  refine hlooks.loads.trans ((h.after hlooks.work).doWrites _ ?_)
  rw [hlooks.work.span]
  exact hbody.rowWrites_inside hrows hlen

/-- A load that goes on, or not, with the read-ahead of the range behind it. -/
theorem Loads.prefetchIf {l : Path} {ws : List (Nat × Bytes)} {s u : State} {ctx : BitVec 12} (h : Engines s l ctx) (hl : Loads l ws s u)
    (b : Bool) (part va len : Nat) : Loads l ws s (if b then u.prefetch (.tile l) part ctx va len else u) := by
  cases b with
  | false => exact hl
  | true => simpa using hl.trans (State.looks_prefetch (h.after hl.work).lead part ctx va len).loads

theorem Engines.copyLoad {s : State} {a : AccCtx} (h : Engines s a.l a.ctx) (hbody : BodyOk a.d 3 (s.span a.l))
    (hrows : a.d.lsRows 3 = rowRanges a.d.laddr a.d.rows a.d.lstr a.d.rb) (hread : rowsReadable s a.ctx a.d) :
    ∃ u, s.copyLoad a = u.finish a.l a.c ∧ Loads a.l (rowWrites a.d (tierRow s a.ctx a.d)) s u := by
  obtain ⟨v, hv, hlooks⟩ := h.readRows hread
  refine ⟨_, ?_, Loads.prefetchIf h (h.fillRows hlooks hbody hrows) (decide (a.d.pfn ≠ 0) && decide (a.d.tstr = a.d.rb)) a.p
    (a.d.taddr + a.d.rows * a.d.rb) (a.d.pfn * 65536)⟩
  simp only [State.copyLoad, hv]

/-- The checks of CHK: whole blocks, and rows that follow one another. -/
theorem BodyOk.chk {d : AccCmd} {unit span : Nat} (h : BodyOk d unit span) (hunit : unit = 3 ∨ unit = 4) (hop : d.op = 0) (hchk : d.chk = true) :
    d.tstr = d.rb ∧ d.taddr % 4096 = 0 ∧ d.rows * d.rb % 4096 = 0 := by
  have hbad := h.op
  rcases hunit with rfl | rfl
  · simp [AccCmd.opBad, hop, hchk] at hbad
    omega
  · simp [AccCmd.opBad, hop, hchk] at hbad
    omega

/-- Rows that follow one another may be read block by block. -/
theorem permits_rows {s : State} {ctx : BitVec 12} {write : Bool} {va rows n : Nat} (hn : 0 < n)
    (h : ∀ r, r < rows → permits s ctx write (va + r * n) n) : permits s ctx write va (rows * n) := by
  intro i hi
  have hrow : i / n < rows := (Nat.div_lt_iff_lt_mul hn).2 hi
  have hat : va + i / n * n + i % n = va + i := by
    rw [Nat.add_assoc, Nat.div_add_mod']
  rw [← hat]
  exact h (i / n) hrow (i % n) (Nat.mod_lt _ hn)

theorem permits_block {s : State} {ctx : BitVec 12} {write : Bool} {va len i : Nat} (h : permits s ctx write va len) (hi : i < len / 4096) :
    permits s ctx write (va + 4096 * i) 4096 := fun j hj => by
  rw [Nat.add_assoc]
  exact h (4096 * i + j) (by omega)

theorem Engines.copyLoadChk {s : State} {a : AccCtx} (h : Engines s a.l a.ctx) (hbody : BodyOk a.d 3 (s.span a.l)) (hop : a.d.op = 0)
    (hchk : a.d.chk = true) (hrows : a.d.lsRows 3 = rowRanges a.d.laddr a.d.rows a.d.lstr a.d.rb) (hread : rowsReadable s a.ctx a.d)
    (hgood : ∀ i, i < a.d.rows * a.d.rb / 4096 → s.verify (physAt s a.ctx (a.d.taddr + 4096 * i)) = .good) :
    ∃ u, s.copyLoadChk a = u.finish a.l a.c ∧ Loads a.l (rowWrites a.d (tierRow s a.ctx a.d)) s u := by
  obtain ⟨hstride, -, hwhole⟩ := hbody.chk (.inl rfl) hop hchk
  have hall : permits s a.ctx false a.d.taddr (a.d.rows * a.d.rb) := permits_rows hbody.rb fun r hr => by
    have hrow := hread r hr
    rwa [hstride] at hrow
  obtain ⟨v, hv, hlooks⟩ := h.readChecked (fun i hi => permits_block hall hi) hgood
  have hbytes : (List.range (a.d.rows * a.d.rb / 4096)).flatMap (fun i => virtBytes s a.ctx (a.d.taddr + 4096 * i) 4096) =
      (List.range a.d.rows).flatMap (tierRow s a.ctx a.d) := by
    rw [virtBytes_flatMap, Nat.div_mul_cancel (Nat.dvd_of_mod_eq_zero hwhole), ← virtBytes_flatMap]
    refine List.flatMap_congr fun r _ => ?_
    rw [tierRow, hstride, Nat.mul_comm]
  rw [hbytes] at hv
  refine ⟨_, ?_, Loads.prefetchIf h (h.fillRows hlooks hbody hrows) (decide (a.d.pfn ≠ 0)) a.p
    (a.d.taddr + a.d.rows * a.d.rb) (a.d.pfn * 65536)⟩
  simp only [State.copyLoadChk, hv, decide_eq_true_eq]

/-! ### TRANSPOSE (R174) -/

theorem slice_eq (bs : Bytes) {off n : Nat} (h : off + n ≤ bs.length) : slice bs off n = (bs.drop off).take n := by
  have hlen : n ≤ (bs.drop off).length := by
    rw [List.length_drop]
    omega
  rw [slice, fit, Nat.sub_eq_zero_of_le hlen, zeros, List.replicate_zero, List.append_nil]

theorem slice_virtBytes (s : State) (ctx : BitVec 12) (va off n more : Nat) :
    slice (virtBytes s ctx va (off + n + more)) off n = virtBytes s ctx (va + off) n := by
  rw [slice_eq _ (by rw [virtBytes_length]; omega), Nat.add_assoc, virtBytes_add, List.drop_left' (virtBytes_length ..), virtBytes_add,
    List.take_left' (virtBytes_length ..)]

/-- Element j of row i put where a TRANSPOSE puts it: row j, column i. -/
def elementWrites (d : AccCmd) (row : Nat → Bytes) : List (Nat × Bytes) :=
  (List.range d.rows).flatMap fun i => (List.range (d.rb / 2 ^ d.esz)).map fun j =>
    (d.laddr + j * d.lstr + i * 2 ^ d.esz, slice (row i) (j * 2 ^ d.esz) (2 ^ d.esz))

/-- An element's size divides a row (R173, R174). -/
theorem AccCmd.size_dvd {d : AccCmd} (hesz : d.esz < 3) (h16 : d.rb % 16 = 0) : d.rb / d.size * d.size = d.rb := by
  refine Nat.div_mul_cancel (dvd_trans ?_ (Nat.dvd_of_mod_eq_zero h16))
  exact Nat.pow_dvd_pow 2 (show d.esz ≤ 4 by omega)

theorem tierRow_element (s : State) (ctx : BitVec 12) {d : AccCmd} (hrow : d.rb / d.size * d.size = d.rb) (i : Nat) {j : Nat}
    (hj : j < d.rb / d.size) :
    slice (tierRow s ctx d i) (j * d.size) d.size = virtBytes s ctx (d.taddr + i * d.tstr + j * d.size) d.size := by
  have hfit : j * d.size + d.size ≤ d.rb := by
    rw [← Nat.succ_mul, ← hrow]
    exact Nat.mul_le_mul_right _ hj
  obtain ⟨more, hmore⟩ := Nat.exists_eq_add_of_le hfit
  rw [tierRow, hmore, slice_virtBytes]

theorem tierRow_elements (s : State) (ctx : BitVec 12) {d : AccCmd} (hrow : d.rb / d.size * d.size = d.rb) (i : Nat) :
    (List.range (d.rb / d.size)).flatMap (fun j => slice (tierRow s ctx d i) (j * d.size) d.size) = tierRow s ctx d i := by
  calc (List.range (d.rb / d.size)).flatMap (fun j => slice (tierRow s ctx d i) (j * d.size) d.size)
      = (List.range (d.rb / d.size)).flatMap (fun j => virtBytes s ctx (d.taddr + i * d.tstr + d.size * j) d.size) :=
        List.flatMap_congr fun j hj => by rw [tierRow_element s ctx hrow i (List.mem_range.1 hj), Nat.mul_comm j]
    _ = tierRow s ctx d i := by rw [virtBytes_flatMap, hrow, tierRow]

theorem flatMap_range_flatMap {α : Type} (m n : Nat) (hn : 0 < n) (f : Nat → Nat → List α) :
    (List.range m).flatMap (fun i => (List.range n).flatMap (f i)) = (List.range (m * n)).flatMap fun k => f (k / n) (k % n) := by
  have hpairs := congrArg (List.flatMap fun p : Nat × Nat => f p.1 p.2) (flatMap_range_map m n hn Prod.mk)
  simpa only [List.flatMap_assoc, List.flatMap_map] using hpairs

/-- The rows read, cut into elements and put down one after another, as TRANSPOSE does it. -/
theorem State.putElements_eq (s u : State) (l : Path) (ctx : BitVec 12) {d : AccCmd} (hsize : 0 < d.rb / d.size)
    (hrow : d.rb / d.size * d.size = d.rb) :
    u.each ((chunks d.size ((List.range d.rows).flatMap (tierRow s ctx d))).zipIdx) (fun b x =>
      (b.writeLS l (d.laddr + x.2 % (d.rb / d.size) * d.lstr + x.2 / (d.rb / d.size) * d.size) x.1).1) =
    doWrites u l (elementWrites d (tierRow s ctx d)) := by
  have hflat : (List.range d.rows).flatMap (tierRow s ctx d) = (List.range (d.rows * (d.rb / d.size))).flatMap
      (fun k => slice (tierRow s ctx d (k / (d.rb / d.size))) (k % (d.rb / d.size) * d.size) d.size) := by
    rw [← flatMap_range_flatMap _ _ hsize fun i j => slice (tierRow s ctx d i) (j * d.size) d.size]
    exact List.flatMap_congr fun i _ => (tierRow_elements s ctx hrow i).symm
  have hlen : ∀ k, (slice (tierRow s ctx d (k / (d.rb / d.size))) (k % (d.rb / d.size) * d.size) d.size).length = d.size := fun k => by
    rw [tierRow_element s ctx hrow _ (Nat.mod_lt _ hsize), virtBytes_length]
  have hpos : 0 < d.size := Nat.two_pow_pos d.esz
  have hwrites : elementWrites d (tierRow s ctx d) = (List.range (d.rows * (d.rb / d.size))).map fun k =>
      (d.laddr + k % (d.rb / d.size) * d.lstr + k / (d.rb / d.size) * d.size,
        slice (tierRow s ctx d (k / (d.rb / d.size))) (k % (d.rb / d.size) * d.size) d.size) :=
    flatMap_range_map _ _ hsize fun i j => (d.laddr + j * d.lstr + i * d.size, slice (tierRow s ctx d i) (j * d.size) d.size)
  rw [hflat, chunks_flatMap _ hpos _ _ fun k _ => hlen k, zipIdx_map_range, hwrites, doWrites, State.each, State.each, List.foldl_map,
    List.foldl_map]

theorem BodyOk.elementWrites_inside {d : AccCmd} {span : Nat} (h : BodyOk d 3 span) (s : State) (ctx : BitVec 12)
    (hrows : d.lsRows 3 = rowRanges d.laddr (d.rb / d.size) d.lstr (d.rows * d.size)) (hrow : d.rb / d.size * d.size = d.rb) :
    ∀ w ∈ elementWrites d (tierRow s ctx d), w.1 + w.2.length ≤ span := by
  intro w hw
  obtain ⟨i, hi, hw⟩ := List.mem_flatMap.1 hw
  obtain ⟨j, hj, rfl⟩ := List.mem_map.1 hw
  obtain ⟨x, hx, -, hend⟩ := rowRanges_row (base := d.laddr) (stride := d.lstr) (len := d.rows * d.size) (List.mem_range.1 hj)
  have hin := h.inside x (List.mem_append_left _ (by rwa [hrows]))
  have hcol : i * d.size + d.size ≤ d.rows * d.size := by
    rw [← Nat.succ_mul]
    exact Nat.mul_le_mul_right _ (List.mem_range.1 hi)
  have hlen : (slice (tierRow s ctx d i) (j * d.size) d.size).length = d.size := by
    rw [tierRow_element s ctx hrow i (List.mem_range.1 hj), virtBytes_length]
  change d.laddr + j * d.lstr + i * d.size + (slice (tierRow s ctx d i) (j * d.size) d.size).length ≤ span
  omega

theorem Engines.transpose {s : State} {a : AccCtx} (h : Engines s a.l a.ctx) (hbody : BodyOk a.d 3 (s.span a.l)) (hesz : a.d.esz < 3)
    (hrows : a.d.lsRows 3 = rowRanges a.d.laddr (a.d.rb / a.d.size) a.d.lstr (a.d.rows * a.d.size)) (hread : rowsReadable s a.ctx a.d) :
    ∃ u, s.transpose a = u.finish a.l a.c ∧ Loads a.l (elementWrites a.d (tierRow s a.ctx a.d)) s u := by
  obtain ⟨v, hv, hlooks⟩ := h.readRows hread
  have hrow := AccCmd.size_dvd hesz hbody.rb16
  have hsize : 0 < a.d.rb / a.d.size := by
    rw [Nat.pos_iff_ne_zero]
    intro h0
    rw [h0, Nat.zero_mul] at hrow
    exact absurd hrow hbody.rb.ne
  refine ⟨Machine.doWrites v a.l (elementWrites a.d (tierRow s a.ctx a.d)), ?_, hlooks.loads.trans ((h.after hlooks.work).doWrites _ ?_)⟩
  · simp only [State.transpose, hv, s.putElements_eq v a.l a.ctx hsize hrow, State.accEnd]
  · rw [hlooks.work.span]
    exact hbody.elementWrites_inside s a.ctx hrows hrow

/-! ### GATHER (R174) -/

/-- The index word of row r of a GATHER. -/
def rowIndex (s : State) (l : Path) (d : AccCmd) (r : Nat) : Nat := leNat ((List.range 4).map fun i => s.lsByte l (d.xaddr + 4 * r + i))

/-- The bytes that row r of a GATHER brings. -/
def gathered (s : State) (l : Path) (ctx : BitVec 12) (d : AccCmd) (r : Nat) : Bytes :=
  if rowIndex s l d r = 0xFFFFFFFF then List.replicate d.rb 0 else tierRow s ctx d (rowIndex s l d r)

theorem gathered_length (s : State) (l : Path) (ctx : BitVec 12) (d : AccCmd) (r : Nat) : (gathered s l ctx d r).length = d.rb := by
  rw [gathered]
  split
  · exact List.length_replicate ..
  · exact virtBytes_length ..

/-- The index words are apart from the rows. -/
theorem Loads.rowIndex {s u : State} {l : Path} {d : AccCmd} {ws : List (Nat × Bytes)} (hl : Loads l ws s u) (hbody : BodyOk d 3 (s.span l))
    (hrows : d.lsRows 3 = rowRanges d.laddr d.rows d.lstr d.rb) (hx : d.xRegion 3 = [(d.xaddr, 4 * d.rows)])
    (hws : ∀ w ∈ ws, ∃ r, r < d.rows ∧ w.1 = d.laddr + r * d.lstr ∧ w.2.length = d.rb) {r : Nat} (hr : r < d.rows) :
    rowIndex u l d r = Machine.rowIndex s l d r := by
  have hspan := span_le s l
  have hin : d.xaddr + 4 * d.rows ≤ s.span l := hbody.inside _ (List.mem_append_right _ (by rw [hx]; exact List.mem_singleton_self _))
  refine congrArg leNat (List.map_congr_left fun i hi => ?_)
  have hi' := List.mem_range.1 hi
  rw [hl.put _ (by omega)]
  refine storeAfter_uncovered (fun w hw => ?_) _
  obtain ⟨k, hk, hat, hlen⟩ := hws w hw
  obtain ⟨x, hxin, hlo, hhi⟩ := rowRanges_row (base := d.laddr) (stride := d.lstr) (len := d.rb) hk
  have hapart := hbody.apart x (by rwa [hrows]) (d.xaddr, 4 * d.rows) (by rw [hx]; exact List.mem_singleton_self _)
  rw [covers, hat, hlen]
  simp only at hapart
  omega

theorem Engines.gatherRow {s : State} {a : AccCtx} (h : Engines s a.l a.ctx) {r : Nat} (hin : a.d.laddr + r * a.d.lstr + a.d.rb ≤ s.span a.l)
    (hperm : rowIndex s a.l a.d r ≠ 0xFFFFFFFF → permits s a.ctx false (a.d.taddr + rowIndex s a.l a.d r * a.d.tstr) a.d.rb) :
    ∃ u, s.gatherRow a r = (u, .ok) ∧ Loads a.l [(a.d.laddr + r * a.d.lstr, gathered s a.l a.ctx a.d r)] s u := by
  have hidx : leNat (s.peekLS a.l (a.d.xaddr + 4 * r) 4) = rowIndex s a.l a.d r := by rw [State.peekLS_map, rowIndex]
  have hlen := gathered_length s a.l a.ctx a.d r
  rw [State.gatherRow]
  simp only [hidx]
  by_cases hnone : rowIndex s a.l a.d r = 0xFFFFFFFF
  · rw [if_pos hnone]
    rw [gathered, if_pos hnone] at hlen ⊢
    exact ⟨_, rfl, h.writeLS (by rwa [hlen])⟩
  · obtain ⟨v, hv, hlooks⟩ := h.readVA (h.movers r) a.p (hperm hnone)
    rw [if_neg hnone, State.rowMover, hv]
    rw [gathered, if_neg hnone] at hlen ⊢
    exact ⟨_, rfl, hlooks.loads.trans ((h.after hlooks.work).writeLS (by rwa [hlooks.work.span, hlen]))⟩

/-- One row of a GATHER that nothing has stopped: what `State.gather` folds. -/
def State.gatherNext (a : AccCtx) (acc : State × Met) (r : Nat) : State × Met :=
  match acc.2 with
  | .fault .. => acc
  | .ok => acc.1.gatherRow a r

theorem State.gather_clean {s : State} {a : AccCtx} (h : ∀ i, (s.tile (memberAt a.l i)).lsErr = []) :
    s.gather a = ((List.range a.d.rows).foldl (State.gatherNext a) (s, .ok)).1.accEnd a
      ((List.range a.d.rows).foldl (State.gatherNext a) (s, .ok)).2 := by
  rw [State.gather, checkLS_clean s a.l h]
  rfl

theorem Engines.gather {s : State} {a : AccCtx} (h : Engines s a.l a.ctx) (hbody : BodyOk a.d 3 (s.span a.l))
    (hrows : a.d.lsRows 3 = rowRanges a.d.laddr a.d.rows a.d.lstr a.d.rb) (hx : a.d.xRegion 3 = [(a.d.xaddr, 4 * a.d.rows)])
    (hperm : ∀ r, r < a.d.rows → rowIndex s a.l a.d r ≠ 0xFFFFFFFF →
      permits s a.ctx false (a.d.taddr + rowIndex s a.l a.d r * a.d.tstr) a.d.rb) :
    ∃ u, s.gather a = u.finish a.l a.c ∧ Loads a.l (rowWrites a.d (gathered s a.l a.ctx a.d)) s u := by
  have key : ∀ n, n ≤ a.d.rows → ∃ u, (List.range n).foldl (State.gatherNext a) (s, .ok) = (u, .ok) ∧
      Loads a.l ((List.range n).map fun r => (a.d.laddr + r * a.d.lstr, gathered s a.l a.ctx a.d r)) s u := by
    intro n
    induction n with
    | zero => exact fun _ => ⟨s, rfl, (Looks.refl _ s).loads⟩
    | succ n ih =>
      intro hn
      obtain ⟨u, hu, hl⟩ := ih (by omega)
      have hidx : rowIndex u a.l a.d n = rowIndex s a.l a.d n := hl.rowIndex hbody hrows hx (fun w hw => by
        obtain ⟨r, hr, rfl⟩ := List.mem_map.1 hw
        have hr' := List.mem_range.1 hr
        exact ⟨r, by omega, rfl, gathered_length ..⟩) (by omega)
      obtain ⟨v, hv, hl'⟩ := (h.after hl.work).gatherRow (r := n) (by rw [hl.work.span]; exact hbody.row_inside hrows (by omega))
        (by rw [hidx]; exact fun hsome => hl.work.permits (hperm n (by omega) hsome))
      have hsame : gathered u a.l a.ctx a.d n = gathered s a.l a.ctx a.d n := by
        simp only [gathered, hidx, tierRow, hl.virtBytes]
      rw [hsame] at hl'
      refine ⟨v, ?_, ?_⟩
      · rw [List.range_succ, List.foldl_append, hu]
        exact hv
      · rw [List.range_succ, List.map_append]
        exact hl.trans hl'
  obtain ⟨u, hu, hl⟩ := key a.d.rows le_rfl
  refine ⟨u, ?_, hl⟩
  rw [State.gather_clean h.clean, hu]
  rfl

/-! ### Bytes put into tier memory (R176, R177) -/

/-- A byte of tier memory after bytes put at physical addresses, one after another. -/
def tierAfter (cells : List (Nat × Byte)) (a : Nat) (x : Byte) : Byte := cells.foldl (fun acc c => if c.1 = a then c.2 else acc) x

theorem tierAfter_append (cells cells' : List (Nat × Byte)) (a : Nat) (x : Byte) :
    tierAfter (cells ++ cells') a x = tierAfter cells' a (tierAfter cells a x) := List.foldl_append ..

/-- The physical addresses and bytes of a write to a virtual range. -/
def cellsAt (s : State) (ctx : BitVec 12) (va : Nat) (bs : Bytes) : List (Nat × Byte) :=
  (List.range bs.length).map fun i => (physAt s ctx (va + i), bs.getD i 0)

theorem cellsAt_append (s : State) (ctx : BitVec 12) (va : Nat) (bs bs' : Bytes) :
    cellsAt s ctx va (bs ++ bs') = cellsAt s ctx va bs ++ cellsAt s ctx (va + bs.length) bs' := by
  rw [cellsAt, List.length_append, List.range_add, List.map_append, List.map_map]
  refine congrArg₂ _ (List.map_congr_left fun i hi => ?_) (List.map_congr_left fun i _ => ?_)
  · rw [List.getD_append _ _ _ _ (List.mem_range.1 hi)]
  · rw [Function.comp_apply, List.getD_append_right _ _ _ _ (Nat.le_add_right ..), Nat.add_sub_cancel_left, Nat.add_assoc]

theorem AccessWork.cellsAt {l : Path} {s u : State} (h : AccessWork l s u) (ctx : BitVec 12) (va : Nat) (bs : Bytes) :
    cellsAt u ctx va bs = Machine.cellsAt s ctx va bs := by
  simp only [Machine.cellsAt, h.physAt]

theorem mapGet_writeCells_eq (m : List Host.Cell) (pa : Nat) (bs : Bytes) (a : Nat) :
    mapGet 0 (writeCells m pa bs) a = tierAfter ((List.range bs.length).map fun i => (pa + i, bs.getD i 0)) a (mapGet 0 m a) := by
  induction bs generalizing m pa with
  | nil => rfl
  | cons b bs ih =>
    rw [writeCells, ih, List.length_cons, List.range_succ_eq_map, List.map_cons, List.map_map, tierAfter, tierAfter, List.foldl_cons,
      mapGet_mapSet]
    refine congrArg₂ _ (if_congr eq_comm rfl rfl) (List.map_congr_left fun i _ => ?_)
    rw [Function.comp_apply, Nat.succ_eq_add_one, Nat.add_assoc, Nat.add_comm 1, List.getD_cons_succ]

/-- Every block that had no check value has none, nor has a block that a byte was put into. -/
def Unchecks (cells : List (Nat × Byte)) (s u : State) : Prop :=
  ∀ a, ((s.block a).check = none ∨ ∃ c ∈ cells, a / 4096 = c.1 / 4096) → (u.block a).check = none

theorem Unchecks.trans {cells cells' : List (Nat × Byte)} {s u v : State} (h₁ : Unchecks cells s u) (h₂ : Unchecks cells' u v) :
    Unchecks (cells ++ cells') s v := by
  intro a ha
  rcases ha with hnone | ⟨c, hc, hac⟩
  · exact h₂ a (.inl (h₁ a (.inl hnone)))
  · rcases List.mem_append.1 hc with hc | hc
    · exact h₂ a (.inl (h₁ a (.inr ⟨c, hc, hac⟩)))
    · exact h₂ a (.inr ⟨c, hc, hac⟩)

/-- The work of a store: it leaves the local stores, and puts bytes into tier memory; without check values their blocks have none. -/
structure Stores (l : Path) (checked : Bool) (cells : List (Nat × Byte)) (s u : State) : Prop where
  work : AccessWork l s u
  stores : SameStores s u
  put : ∀ a, mapGet 0 u.mem.tier a = tierAfter cells a (mapGet 0 s.mem.tier a)
  unchecks : checked = false → Unchecks cells s u

theorem Looks.toStores {l : Path} {s u : State} (h : Looks l s u) (checked : Bool) : Stores l checked [] s u := by
  refine ⟨h.work, h.stores, fun a => by rw [h.tier.tier]; rfl, fun _ a ha => ?_⟩
  have hblock : u.block a = s.block a := by rw [State.block, State.block, h.tier.blocks]
  rw [hblock]
  simpa using ha

theorem Stores.trans {l : Path} {checked : Bool} {cells cells' : List (Nat × Byte)} {s u v : State} (h₁ : Stores l checked cells s u)
    (h₂ : Stores l checked cells' u v) : Stores l checked (cells ++ cells') s v :=
  ⟨h₁.work.trans h₂.work, h₁.stores.trans h₂.stores, fun a => by rw [h₂.put, h₁.put, tierAfter_append],
    fun hc => (h₁.unchecks hc).trans (h₂.unchecks hc)⟩

/-- One line written at its physical address. -/
theorem State.stores_lineWrite (s : State) (l : Path) (part pa : Nat) (bs : Bytes) (tag : Option (BitVec 24))
    (hline : pa % 512 + bs.length ≤ 512) :
    Stores l tag.isSome ((List.range bs.length).map fun i => (pa + i, bs.getD i 0)) s (s.lineWrite part pa bs tag) := by
  obtain ⟨hpart, _, _, _, _, hwrite⟩ := s.lineWrite_frame part pa bs tag
  refine ⟨.of_mem hpart ?_ ?_, sameStores_of_tiles ?_, fun a => ?_, fun htag a ha => ?_⟩
  · rw [hwrite]
  · rw [hwrite]
  · rw [hwrite]
  · rw [hwrite]
    exact mapGet_writeCells_eq ..
  · obtain rfl : tag = none := by simpa using htag
    rw [s.block_lineWrite_none]
    split
    next => rfl
    next hother =>
      rcases ha with hnone | ⟨c, hc, hac⟩
      · exact hnone
      · obtain ⟨i, hi, rfl⟩ := List.mem_map.1 hc
        have hi' := List.mem_range.1 hi
        dsimp only at hac
        omega

/-- One line of a write from va on: what `State.writeVA` and `State.writeBlock` fold. -/
def State.writeLine (who : Mover) (part : Nat) (ctx : BitVec 12) (va : Nat) (bs : Bytes) (tag : Option (BitVec 24)) (acc : State × Met)
    (p : Nat × Nat) : State × Met :=
  match acc.2 with
  | .fault .. => acc
  | .ok =>
    match acc.1.xlate who ctx p.1 true with
    | (s', .fault code) => (s', .fault code p.1)
    | (s', .ok _ pa) => (s'.lineWrite part pa (slice bs (p.1 - va) p.2) tag, .ok)

theorem State.writeVA_eq_writeLine (s : State) (who : Mover) (part : Nat) (ctx : BitVec 12) (va : Nat) (bs : Bytes) :
    s.writeVA who part ctx va bs = (linesOf va bs.length).foldl (State.writeLine who part ctx va bs none) (s, .ok) := rfl

theorem Engines.writeLine {s : State} {l m : Path} {ctx : BitVec 12} (h : Engines s l ctx) (hm : m ∈ s.members l) (part va : Nat)
    (bs : Bytes) (tag : Option (BitVec 24)) {a n : Nat} (hperm : permits s ctx true a n) (hn : 0 < n) (hline : a % 512 + n ≤ 512)
    (hin : a - va + n ≤ bs.length) :
    ∃ u, State.writeLine (.tile m) part ctx va bs tag (s, .ok) (a, n) = (u, .ok) ∧
      Stores l tag.isSome (cellsAt s ctx a ((bs.drop (a - va)).take n)) s u := by
  obtain ⟨u, p, hx, hlooks⟩ := h.xlate hm hperm hn
  have hlen : ((bs.drop (a - va)).take n).length = n := by
    rw [List.length_take, List.length_drop]
    omega
  obtain ⟨-, hmod⟩ := (h.mapped m hm).physAt_line hperm hline hn
  have hcells : cellsAt s ctx a ((bs.drop (a - va)).take n) = (List.range ((bs.drop (a - va)).take n).length).map fun i =>
      (physAt s ctx a + i, ((bs.drop (a - va)).take n).getD i 0) := by
    refine List.map_congr_left fun i hi => ?_
    obtain ⟨hphys, -⟩ := (h.mapped m hm).physAt_line hperm hline (by simpa only [hlen] using List.mem_range.1 hi)
    rw [hphys]
  refine ⟨u.lineWrite part (physAt s ctx a) ((bs.drop (a - va)).take n) tag, ?_, ?_⟩
  · simp only [State.writeLine, hx, slice_eq bs hin]
  · rw [hcells]
    exact (hlooks.toStores _).trans (u.stores_lineWrite l part _ _ tag (by rw [hlen, hmod]; exact hline))

theorem Engines.writeLines {l m : Path} {ctx : BitVec 12} (part va : Nat) (bs : Bytes) (tag : Option (BitVec 24)) {a len : Nat}
    {ps : List (Nat × Nat)} (hps : Lines a len ps) :
    ∀ {s : State}, Engines s l ctx → m ∈ s.members l → permits s ctx true a len → va ≤ a → a - va + len = bs.length →
      ∃ u, ps.foldl (State.writeLine (.tile m) part ctx va bs tag) (s, .ok) = (u, .ok) ∧
        Stores l tag.isSome (cellsAt s ctx a (bs.drop (a - va))) s u := by
  induction hps with
  | nil a =>
    intro s _ _ _ _ hend
    refine ⟨s, rfl, ?_⟩
    rw [List.drop_of_length_le (by omega)]
    exact (Looks.refl l s).toStores _
  | @cons a n len ps hn hline _ ih =>
    intro s h hm hperm hva hend
    obtain ⟨u, hu, hst⟩ := h.writeLine hm part va bs tag (permits_take hperm) hn hline (by omega)
    obtain ⟨v, hv, hst'⟩ := ih (h.after hst.work) (by rwa [hst.work.members]) (hst.work.permits (permits_drop hperm)) (by omega) (by omega)
    have hlen : ((bs.drop (a - va)).take n).length = n := by
      rw [List.length_take, List.length_drop]
      omega
    have hcells : cellsAt s ctx a (bs.drop (a - va)) =
        cellsAt s ctx a ((bs.drop (a - va)).take n) ++ cellsAt u ctx (a + n) (bs.drop (a + n - va)) := by
      have hcut := cellsAt_append s ctx a ((bs.drop (a - va)).take n) ((bs.drop (a - va)).drop n)
      rw [List.take_append_drop, List.drop_drop, hlen, show a - va + n = a + n - va by omega] at hcut
      rw [hcut, hst.work.cellsAt]
    refine ⟨v, ?_, ?_⟩
    · rw [List.foldl_cons, hu, hv]
    · rw [hcells]
      exact hst.trans hst'

/-- A range that its pages let a member write is written in full (R176, R177). -/
theorem Engines.writeVA {s : State} {l m : Path} {ctx : BitVec 12} (h : Engines s l ctx) (hm : m ∈ s.members l) (part : Nat) {va : Nat}
    {bs : Bytes} (hperm : permits s ctx true va bs.length) :
    ∃ u, s.writeVA (.tile m) part ctx va bs = (u, .ok) ∧ Stores l false (cellsAt s ctx va bs) s u := by
  obtain ⟨u, hu, hst⟩ := Engines.writeLines part va bs none (lines_linesOf va bs.length) h hm hperm le_rfl (by omega)
  refine ⟨u, hu, ?_⟩
  rwa [Nat.sub_self, List.drop_zero] at hst

/-! ### COPY to tier memory without check values (R176) -/

/-- Rows of the panel's store written to tier memory, row r where a COPY writes it. -/
def rowCells (s : State) (ctx : BitVec 12) (l : Path) (d : AccCmd) : List (Nat × Byte) :=
  (List.range d.rows).flatMap fun r => cellsAt s ctx (d.taddr + r * d.tstr) (s.peekLS l (d.laddr + r * d.lstr) d.rb)

@[simp] theorem State.peekLS_length (s : State) (l : Path) (a n : Nat) : (s.peekLS l a n).length = n := by
  rw [State.peekLS_map, List.length_map, List.length_range]

/-- One row of a COPY that nothing has stopped: what `State.copyStore` folds. -/
def State.storeRow (a : AccCtx) (acc : State × Met) (r : Nat) : State × Met :=
  match acc.2 with
  | .fault .. => acc
  | .ok => acc.1.writeVA (acc.1.rowMover a.l r) a.p a.ctx (a.d.taddr + r * a.d.tstr) (acc.1.peekLS a.l (a.d.laddr + r * a.d.lstr) a.d.rb)

theorem State.copyStore_eq (s : State) (a : AccCtx) : s.copyStore a =
    ((List.range a.d.rows).foldl (State.storeRow a) (s, .ok)).1.accEnd a ((List.range a.d.rows).foldl (State.storeRow a) (s, .ok)).2 := rfl

theorem Engines.copyStore {s : State} {a : AccCtx} (h : Engines s a.l a.ctx)
    (hperm : ∀ r, r < a.d.rows → permits s a.ctx true (a.d.taddr + r * a.d.tstr) a.d.rb) :
    ∃ u, s.copyStore a = u.finish a.l a.c ∧ Stores a.l false (rowCells s a.ctx a.l a.d) s u := by
  have key : ∀ n, n ≤ a.d.rows → ∃ u, (List.range n).foldl (State.storeRow a) (s, .ok) = (u, .ok) ∧
      Stores a.l false ((List.range n).flatMap fun r =>
        cellsAt s a.ctx (a.d.taddr + r * a.d.tstr) (s.peekLS a.l (a.d.laddr + r * a.d.lstr) a.d.rb)) s u := by
    intro n
    induction n with
    | zero => exact fun _ => ⟨s, rfl, (Looks.refl _ s).toStores _⟩
    | succ n ih =>
      intro hn
      obtain ⟨u, hu, hst⟩ := ih (by omega)
      have hu' := h.after hst.work
      have hpeek := State.peekLS_congr hst.stores a.l (a.d.laddr + n * a.d.lstr) a.d.rb
      obtain ⟨v, hv, hst'⟩ := hu'.writeVA (hu'.movers n) a.p (va := a.d.taddr + n * a.d.tstr)
        (bs := u.peekLS a.l (a.d.laddr + n * a.d.lstr) a.d.rb) (by
          rw [State.peekLS_length]
          exact hst.work.permits (hperm n (by omega)))
      rw [hst.work.cellsAt, hpeek] at hst'
      refine ⟨v, ?_, ?_⟩
      · rw [List.range_succ, List.foldl_append, hu]
        exact hv
      · rw [List.range_succ, List.flatMap_append, List.flatMap_singleton]
        exact hst.trans hst'
  obtain ⟨u, hu, hst⟩ := key a.d.rows le_rfl
  refine ⟨u, ?_, hst⟩
  rw [State.copyStore_eq, hu]
  rfl

/-! ### COPY to tier memory with check values (R178) -/

theorem State.stores_newTag (s : State) (l : Path) (engine : Nat) : Stores l true [] s (s.newTag engine).2 :=
  ⟨.of_mem (fun _ => rfl) rfl rfl, sameStores_of_tiles rfl, fun _ => rfl, fun h => absurd h (by decide)⟩

/-- A block's bookkeeping changed, and what an injection leaves armed. -/
theorem State.stores_modBlock (s : State) (l : Path) (pa : Nat) (f : Block → Block) (i : Integ) :
    Stores l true [] s { s.modBlock pa f with integ := i } :=
  ⟨.of_mem (fun _ => rfl) rfl rfl, sameStores_of_tiles rfl, fun _ => rfl, fun h => absurd h (by decide)⟩

/-- The lines of a block written under a tag: what `State.writeBlock` does first. -/
def State.tagLines (s : State) (who : Mover) (engine part : Nat) (ctx : BitVec 12) (va : Nat) (bs : Bytes) : State × Met :=
  (linesOf va 4096).foldl (State.writeLine who part ctx va bs (some (s.newTag engine).1)) ((s.newTag engine).2, .ok)

theorem State.writeBlock_of_lines {s u v : State} {who : Mover} {engine part : Nat} {ctx : BitVec 12} {va pa : Nat} {bs : Bytes}
    {p : PageMap} (hlines : s.tagLines who engine part ctx va bs = (u, .ok)) (hx : u.xlate who ctx va true = (v, .ok p pa)) :
    ∃ f i, s.writeBlock who engine part ctx va bs = ({ v.modBlock pa f with integ := i }, .ok) := by
  rw [State.tagLines] at hlines
  rw [State.writeBlock]
  generalize s.newTag engine = tagged at hlines ⊢
  obtain ⟨tag, s0⟩ := tagged
  dsimp only at hlines ⊢
  generalize hfold : List.foldl _ (s0, Met.ok) (linesOf va 4096) = r
  obtain rfl : r = (u, .ok) := hfold.symm.trans hlines
  dsimp only
  rw [hx]
  exact ⟨_, _, rfl⟩

theorem Engines.writeBlock {s : State} {l m : Path} {ctx : BitVec 12} (h : Engines s l ctx) (hm : m ∈ s.members l) (engine part : Nat)
    {va : Nat} {bs : Bytes} (hlen : bs.length = 4096) (hperm : permits s ctx true va 4096) :
    ∃ u, s.writeBlock (.tile m) engine part ctx va bs = (u, .ok) ∧ Stores l true (cellsAt s ctx va bs) s u := by
  have htag := s.stores_newTag l engine
  obtain ⟨u, hu, hst⟩ := Engines.writeLines part va bs (some (s.newTag engine).1) (lines_linesOf va 4096) (h.after htag.work)
    (by rwa [htag.work.members]) (htag.work.permits hperm) le_rfl (by omega)
  rw [Nat.sub_self, List.drop_zero, htag.work.cellsAt] at hst
  have hlines := htag.trans hst
  obtain ⟨v, p, hx, hlooks⟩ := (h.after hlines.work).xlate (by rwa [hlines.work.members]) (hlines.work.permits hperm) (by omega)
  obtain ⟨f, i, hblock⟩ := State.writeBlock_of_lines hu hx
  refine ⟨_, hblock, ?_⟩
  simpa using (hlines.trans (hlooks.toStores true)).trans (v.stores_modBlock l _ f i)

/-- A string whose length is a multiple of n is a list of pieces of n bytes. -/
theorem exists_pieces (n k : Nat) (bs : Bytes) (h : bs.length = k * n) : ∃ r : List Bytes, r.flatten = bs ∧ ∀ x ∈ r, x.length = n := by
  induction k generalizing bs with
  | zero => exact ⟨[], (List.eq_nil_of_length_eq_zero (by simpa using h)).symm, by simp⟩
  | succ k ih =>
    rw [Nat.succ_mul] at h
    obtain ⟨r, hr, hlen⟩ := ih (bs.drop n) (by rw [List.length_drop]; omega)
    refine ⟨bs.take n :: r, by rw [List.flatten_cons, hr, List.take_append_drop], List.forall_mem_cons.2 ⟨?_, hlen⟩⟩
    rw [List.length_take]
    omega

/-- One block of a COPY that nothing has stopped: what `State.copyStoreChk` folds. -/
def State.storeBlock (a : AccCtx) (acc : State × Met) (x : Bytes × Nat) : State × Met :=
  match acc.2 with
  | .fault .. => acc
  | .ok => acc.1.writeBlock (acc.1.blockMover a x.2) (acc.1.blockMover a x.2).engine a.p a.ctx (a.d.taddr + 4096 * x.2) x.1

/-- The rows' bytes, one row after another. -/
def rowBytesOf (s : State) (l : Path) (d : AccCmd) : Bytes := (List.range d.rows).flatMap fun r => s.peekLS l (d.laddr + r * d.lstr) d.rb

theorem State.copyStoreChk_eq (s : State) (a : AccCtx) : s.copyStoreChk a =
    ((chunks 4096 (rowBytesOf s a.l a.d)).zipIdx.foldl (State.storeBlock a) (s, .ok)).1.accEnd a
      ((chunks 4096 (rowBytesOf s a.l a.d)).zipIdx.foldl (State.storeBlock a) (s, .ok)).2 := rfl

theorem Engines.writeBlocks {a : AccCtx} (blocks : List Bytes) (hlen : ∀ b ∈ blocks, b.length = 4096) :
    ∀ {s : State} (i : Nat), Engines s a.l a.ctx → permits s a.ctx true (a.d.taddr + 4096 * i) (4096 * blocks.length) →
      ∃ u, (blocks.zipIdx i).foldl (State.storeBlock a) (s, .ok) = (u, .ok) ∧
        Stores a.l true (cellsAt s a.ctx (a.d.taddr + 4096 * i) blocks.flatten) s u := by
  induction blocks with
  | nil => exact fun _ _ _ => ⟨_, rfl, (Looks.refl _ _).toStores _⟩
  | cons b blocks ih =>
    intro s i h hperm
    obtain ⟨hb, hrest⟩ := List.forall_mem_cons.1 hlen
    rw [List.length_cons, Nat.mul_succ, Nat.add_comm (4096 * _)] at hperm
    obtain ⟨u, hu, hst⟩ := h.writeBlock (h.movers (4096 * i / a.d.rb)) (s.blockMover a i).engine a.p hb (permits_take hperm)
    have hnext : a.d.taddr + 4096 * i + 4096 = a.d.taddr + 4096 * (i + 1) := by omega
    obtain ⟨v, hv, hst'⟩ := ih hrest (i + 1) (h.after hst.work) (hst.work.permits (by rw [← hnext]; exact permits_drop hperm))
    refine ⟨v, ?_, ?_⟩
    · rw [List.zipIdx_cons, List.foldl_cons, ← hv, ← hu]
      rfl
    · rw [List.flatten_cons, cellsAt_append, hb, hnext, ← hst.work.cellsAt a.ctx (a.d.taddr + 4096 * (i + 1))]
      exact hst.trans hst'

/-- Rows that follow one another are written as one range. -/
theorem rowCells_eq (s : State) (ctx : BitVec 12) (l : Path) {d : AccCmd} (hstride : d.tstr = d.rb) :
    rowCells s ctx l d = cellsAt s ctx d.taddr (rowBytesOf s l d) := by
  rw [rowCells, rowBytesOf, hstride]
  generalize d.rows = rows
  have hlen : ∀ n, ((List.range n).flatMap fun r => s.peekLS l (d.laddr + r * d.lstr) d.rb).length = n * d.rb := fun n => by
    simp [List.length_flatMap]
  induction rows with
  | zero => rfl
  | succ n ih =>
    rw [List.range_succ, List.flatMap_append, List.flatMap_append, List.flatMap_singleton, List.flatMap_singleton, ih, cellsAt_append, hlen]

theorem Engines.copyStoreChk {s : State} {a : AccCtx} (h : Engines s a.l a.ctx) (hbody : BodyOk a.d 4 (s.span a.l)) (hop : a.d.op = 0)
    (hchk : a.d.chk = true) (hperm : ∀ r, r < a.d.rows → permits s a.ctx true (a.d.taddr + r * a.d.tstr) a.d.rb) :
    ∃ u, s.copyStoreChk a = u.finish a.l a.c ∧ Stores a.l true (rowCells s a.ctx a.l a.d) s u := by
  obtain ⟨hstride, -, hwhole⟩ := hbody.chk (.inr rfl) hop hchk
  have hall : permits s a.ctx true a.d.taddr (a.d.rows * a.d.rb) := permits_rows hbody.rb fun r hr => by
    have hrow := hperm r hr
    rwa [hstride] at hrow
  have hlen : (rowBytesOf s a.l a.d).length = a.d.rows * a.d.rb := by
    simp [rowBytesOf, List.length_flatMap]
  obtain ⟨blocks, hflat, hblocks⟩ := exists_pieces 4096 (a.d.rows * a.d.rb / 4096) (rowBytesOf s a.l a.d)
    (by rw [hlen, Nat.div_mul_cancel (Nat.dvd_of_mod_eq_zero hwhole)])
  have hcount : 4096 * blocks.length = a.d.rows * a.d.rb := by
    rw [← hlen, ← hflat, List.length_flatten, List.map_congr_left hblocks]
    simp [Nat.mul_comm]
  obtain ⟨u, hu, hst⟩ := Engines.writeBlocks blocks hblocks 0 h (by rw [hcount]; exact hall)
  refine ⟨u, ?_, ?_⟩
  · rw [State.copyStoreChk_eq, ← hflat, chunks_flatten 4096 (by decide) blocks hblocks, hu]
    rfl
  · rw [rowCells_eq s a.ctx a.l hstride, ← hflat]
    exact hst

/-! ### What a transfer leaves -/

/-- Bytes put into tier memory, as the list of writes they belong to. -/
theorem wroteTier_of_cells {s u : State} {ctx : BitVec 12} {vw : List (Nat × Bytes)}
    (h : ∀ a, mapGet 0 u.mem.tier a = tierAfter (vw.flatMap fun w => cellsAt s ctx w.1 w.2) a (mapGet 0 s.mem.tier a)) :
    WroteTier vw s u ctx := by
  have hcell : ∀ {c}, c ∈ (vw.flatMap fun w => cellsAt s ctx w.1 w.2) →
      ∃ w ∈ vw, ∃ i, i < w.2.length ∧ c = (physAt s ctx (w.1 + i), w.2.getD i 0) := by
    intro c hc
    obtain ⟨w, hw, hc⟩ := List.mem_flatMap.1 hc
    obtain ⟨i, hi, rfl⟩ := List.mem_map.1 hc
    exact ⟨w, hw, i, List.mem_range.1 hi, rfl⟩
  refine ⟨fun a hnone => ?_, fun w hw i hi honly => ?_⟩
  · rw [h]
    refine (foldl_cover (fun c : Nat × Byte => c.1 = a) (fun c => c.2) _ _).1 fun c hc => ?_
    obtain ⟨w, hw, i, hi, rfl⟩ := hcell hc
    exact hnone w hw i hi
  · rw [h]
    refine (foldl_cover (fun c : Nat × Byte => c.1 = physAt s ctx (w.1 + i)) (fun c => c.2) _ _).2
      (physAt s ctx (w.1 + i), w.2.getD i 0) (List.mem_flatMap.2 ⟨w, hw, List.mem_map.2 ⟨i, List.mem_range.2 hi, rfl⟩⟩) rfl
      fun c hc hat => ?_
    obtain ⟨w', hw', j, hj, rfl⟩ := hcell hc
    obtain ⟨rfl, rfl⟩ := honly w' hw' j hj hat
    rfl

/-- A launched command moves between its tile's queues and flights. -/
theorem State.launchCmd_tile (s : State) (l : Path) (c : Command) (q : Path) : ∃ cmdQ loadQ storeQ flights, (s.launchCmd l c).tile q =
    { s.tile q with cmdQ := cmdQ, loadQ := loadQ, storeQ := storeQ, flights := flights } := by
  by_cases hq : q = l
  · rw [hq, s.launchCmd_tile_same]
    exact ⟨_, _, _, _, rfl⟩
  · rw [s.launchCmd_tile_other c hq]
    exact ⟨_, _, _, _, rfl⟩

theorem State.launchCmd_mem (s : State) (l : Path) (c : Command) : (s.launchCmd l c).mem = s.mem := by
  rw [(s.launchCmd_notes l c).2]
  rfl

theorem State.launchCmd_part (s : State) (l : Path) (c : Command) (p : Nat) : (s.launchCmd l c).part p = s.part p := by
  refine State.part_of_parts ?_ p
  rw [(s.launchCmd_notes l c).2]
  rfl

theorem State.launchCmd_partOf (s : State) (l : Path) (c : Command) (t : Path) : (s.launchCmd l c).partOf t = s.partOf t := by
  simp only [State.partOf, State.ownerOf, State.formed, s.launchCmd_part]

theorem State.launchCmd_ls (s : State) (l : Path) (c : Command) (q : Path) : ((s.launchCmd l c).tile q).ls = (s.tile q).ls := by
  obtain ⟨_, _, _, _, h⟩ := s.launchCmd_tile l c q
  rw [h]

theorem State.launchCmd_lsByte (s : State) (l : Path) (c : Command) (t : Path) (b : Nat) :
    (s.launchCmd l c).lsByte t b = s.lsByte t b := by
  simp only [State.lsByte, s.launchCmd_ls]

theorem State.launchCmd_physAt (s : State) (l : Path) (c : Command) (ctx : BitVec 12) (va : Nat) :
    physAt (s.launchCmd l c) ctx va = physAt s ctx va := by
  simp only [physAt, s.launchCmd_mem]

theorem State.launchCmd_permits (s : State) (l : Path) (c : Command) (ctx : BitVec 12) (write : Bool) (va len : Nat) :
    permits (s.launchCmd l c) ctx write va len ↔ permits s ctx write va len := by
  simp only [permits, s.launchCmd_mem]

theorem State.launchCmd_tierRow (s : State) (l : Path) (c : Command) (ctx : BitVec 12) (d : AccCmd) (r : Nat) :
    tierRow (s.launchCmd l c) ctx d r = tierRow s ctx d r := by
  simp only [tierRow, virtBytes, s.launchCmd_physAt, s.launchCmd_mem]

theorem State.launchCmd_rowIndex (s : State) (l : Path) (c : Command) (t : Path) (d : AccCmd) (r : Nat) :
    rowIndex (s.launchCmd l c) t d r = rowIndex s t d r := by
  simp only [rowIndex, s.launchCmd_lsByte]

/-- A command that was at work, and alone has its number, has been taken once it finishes (R70). -/
theorem Tile.finish_atWork {x : Tile} {c : Command} (h : ∀ f ∈ x.flights, f.cmd.id ≠ c.id) : (atWork x c).finish c.id = taken x c := by
  rw [Tile.finish, atWork, finish_flights _ c h, taken]

/-- The work of a launched command, finished, changes nothing but what a transfer may (R70). -/
theorem AccessWork.transferFrame {s u : State} {t : Path} {unit : Nat} {c : Command} (hwaits : Waits s t unit c)
    (hw : AccessWork (s.lead t) (s.launchCmd (s.lead t) c) u) {stores : Bool}
    (htier : stores = false → SameTier (s.launchCmd (s.lead t) c) u) :
    TransferFrame s (u.finish (s.lead t) c) t c (fun q => q ∈ s.members (s.lead t)) stores := by
  obtain ⟨hactive, -, -, -, -, -, hfresh⟩ := hwaits
  obtain ⟨hclusters, hrest⟩ := s.launchCmd_notes (s.lead t) c
  have hmem := s.launchCmd_mem (s.lead t) c
  have hlead := s.lead_mem_members hactive
  have hother : ∀ q, q ≠ s.lead t → (u.finish (s.lead t) c).tile q = u.tile q := fun q hq => State.tile_modTile_other _ _ hq
  have hsame : (u.finish (s.lead t) c).tile (s.lead t) = (u.tile (s.lead t)).finish c.id := State.tile_modTile_same ..
  refine ⟨fun p => ?_, fun k => ?_, ?_, fun q hq => ?_, fun q hq => ?_, fun hs => ?_, ?_, ?_⟩
  · rw [← s.launchCmd_part (s.lead t) c p]
    exact hw.parts p
  · have hcluster : (u.finish (s.lead t) c).cluster k = (s.launchCmd (s.lead t) c).cluster k := by
      rw [State.finish, hw.rest]
      rfl
    rw [hcluster, hclusters k]
    rfl
  · obtain ⟨ls, tlb, htile⟩ : ∃ ls tlb, u.tile (s.lead t) = { atWork (s.seqTile t) c with ls := ls, tlb := tlb } :=
      ⟨_, _, (hw.tiles _).trans (by rw [s.launchCmd_tile_same]; rfl)⟩
    rw [hsame, htile]
    exact congrArg (fun x : Tile => { x with ls := ls, tlb := tlb }) (Tile.finish_atWork hfresh)
  · have htile := hw.tiles q
    rw [s.launchCmd_tile_other c hq] at htile
    rw [hother q hq]
    exact htile
  · have hne : q ≠ s.lead t := by
      rintro rfl
      exact hq hlead
    have hout : q ∉ (s.launchCmd (s.lead t) c).members (s.lead t) := by
      rw [s.launchCmd_members]
      exact hq
    rw [hother q hne, hw.others q hout, s.launchCmd_tile_other c hne]
  · have hsameTier := htier hs
    rw [← hmem]
    exact ⟨hsameTier.blocks, hsameTier.tagCounts⟩
  · have hmem' := hw.mem
    rw [hmem] at hmem'
    obtain ⟨_, _, _, _, _, _, _, _, hdone⟩ : ∃ tier blocks counts ahead hits lost chans parts, u.mem = { s.mem with
        tier := tier, blocks := blocks, tagCounts := counts, readAhead := ahead, raHits := hits, raDiscarded := lost, winChan := chans,
        winPart := parts } := ⟨_, _, _, _, _, _, _, _, hmem'⟩
    have hfinish : (u.finish (s.lead t) c).mem = u.mem := rfl
    rw [hfinish, hdone]
  · obtain ⟨_, _, _, _, _, hlaunched⟩ : ∃ tiles clusters integ mgmt trace, s.launchCmd (s.lead t) c =
        { s with tiles := tiles, clusters := clusters, integ := integ, mgmt := mgmt, trace := trace } := ⟨_, _, _, _, _, hrest⟩
    obtain ⟨_, _, _, _, hdone⟩ : ∃ tiles parts mem integ, u =
        { s.launchCmd (s.lead t) c with tiles := tiles, parts := parts, mem := mem, integ := integ } := ⟨_, _, _, _, hw.rest⟩
    rw [hdone, hlaunched]
    rfl

/-- The engines of an access command's panel, once it is launched. -/
theorem Accesses.engines {s : State} {t : Path} {unit p : Nat} {c : Command} {ctx : BitVec 12} (h : Accesses s t unit c p ctx) :
    Engines (s.launchCmd (s.lead t) c) (s.lead t) ctx := by
  obtain ⟨⟨hactive, -⟩, -, hclean, -, -, -, -, hmapped⟩ := h
  have hmembers := s.members_lead hactive
  have hpos : 0 < s.panelWidth (s.lead t) := by
    rcases s.panelWidth_cases (s.lead t) with w | w | w <;> omega
  refine ⟨fun m hm => ?_, fun r => ?_, ?_, fun q => ?_, fun i => ?_⟩
  · rw [s.launchCmd_members] at hm
    obtain ⟨_, _, _, _, htile⟩ := s.launchCmd_tile (s.lead t) c m
    obtain ⟨hbuffer, hpages⟩ := hmapped m hm
    rw [Translates, State.tlbOf, htile, s.launchCmd_mem]
    exact ⟨hbuffer, hpages⟩
  · rw [s.launchCmd_members, s.launchCmd_panelWidth, hmembers]
    exact List.mem_map.2 ⟨_, List.mem_range.2 (Nat.mod_lt r hpos), rfl⟩
  · rw [s.launchCmd_members]
    exact s.lead_mem_members hactive
  · rw [s.launchCmd_members, s.launchCmd_panelWidth]
    exact (members_iff hactive q).symm
  · obtain ⟨_, _, _, _, htile⟩ := s.launchCmd_tile (s.lead t) c (memberAt (s.lead t) i)
    rw [htile]
    exact hclean i

/-- The context that an access command works with. -/
def accCtx (s : State) (t : Path) (c : Command) (p : Nat) (ctx : BitVec 12) : AccCtx := ⟨s.lead t, c, accCmd c, p, ctx⟩

/-- An access command that may begin is dispatched to its work (R175, R176). -/
theorem Accesses.accRow {s : State} {t : Path} {unit p : Nat} {c : Command} {ctx : BitVec 12} (h : Accesses s t unit c p ctx)
    {isOp : Nat → Bool} {work : State → AccCtx → State} (hop : isOp (accCmd c).op = true) :
    s.accRow t unit isOp work = .next (work (s.launchCmd (s.lead t) c) (accCtx s t c p ctx)) := by
  obtain ⟨hwaits, hfree, -, hbody, hpart, hslot, hready, -⟩ := h
  have hfree' : (s.tile (s.lead t)).accFree unit = true := decide_eq_true hfree
  have hrow : (isOp c.accOp && (s.tile (s.lead t)).accFree unit && s.accReady t unit c) = true := by
    rw [hfree', hready, show isOp c.accOp = true from hop]
    rfl
  have hslot' : (s.launchCmd (s.lead t) c).slotCtx p (accCmd c).cslot = some ctx := by
    rw [State.slotCtx, s.launchCmd_mem]
    exact hslot
  refine (State.dispatch_of_waits hwaits hrow).trans (congrArg _ ?_)
  simp only [State.accDispatch, s.launchCmd_span, hbody, s.launchCmd_partOf, hpart, Option.bind_some, hslot', Option.map_some,
    Bool.false_eq_true, if_false]
  rfl

theorem Accesses.bodyOk {s : State} {t : Path} {unit p : Nat} {c : Command} {ctx : BitVec 12} (h : Accesses s t unit c p ctx) :
    BodyOk (accCmd c) unit ((s.launchCmd (s.lead t) c).span (s.lead t)) := by
  obtain ⟨-, -, -, hbody, -⟩ := h
  rw [s.launchCmd_span]
  exact AccCmd.bodyOk hbody

/-- A load's work, finished, is the transfer of its writes. -/
theorem Loads.transferred {s u : State} {t : Path} {unit p : Nat} {c : Command} {ctx : BitVec 12} {ws : List (Nat × Bytes)}
    (h : Accesses s t unit c p ctx) (hl : Loads (s.lead t) ws (s.launchCmd (s.lead t) c) u) :
    Transferred s (u.finish (s.lead t) c) t c ctx ws [] := by
  obtain ⟨hwaits, -⟩ := h
  have hfinish : ∀ q, ((u.finish (s.lead t) c).tile q).ls = (u.tile q).ls := fun q => by
    by_cases hq : q = s.lead t
    · rw [hq, State.finish, State.tile_modTile_same]
      rfl
    · rw [State.finish, State.tile_modTile_other _ _ hq]
  refine ⟨fun b hb => ?_, wroteTier_of_cells fun a => ?_, hl.work.transferFrame hwaits fun _ => hl.tier⟩
  · have hspan := span_le s (s.lead t)
    have hbyte : (u.finish (s.lead t) c).lsByte (s.lead t) b = storeAfter ws b (s.lsByte (s.lead t) b) := by
      rw [← s.launchCmd_lsByte (s.lead t) c, ← hl.put b (by omega)]
      simp only [State.lsByte, hfinish]
    rw [hbyte]
    exact ⟨fun hnone => storeAfter_uncovered hnone _, fun w hw hcov honly => storeAfter_covered hw hcov honly _⟩
  · change mapGet 0 u.mem.tier a = _
    rw [hl.tier.tier, s.launchCmd_mem]
    rfl

theorem Accesses.load {s : State} {t : Path} {p : Nat} {c : Command} {ctx : BitVec 12} (h : Accesses s t 3 c p ctx) {isOp : Nat → Bool}
    {work : State → AccCtx → State} {out : Out} (hexec : out = s.accRow t 3 isOp work) (hop : isOp (accCmd c).op = true)
    {ws : List (Nat × Bytes)} (hwork : ∃ u, work (s.launchCmd (s.lead t) c) (accCtx s t c p ctx) = u.finish (s.lead t) c ∧
      Loads (s.lead t) ws (s.launchCmd (s.lead t) c) u) :
    ∃ u, out = .next u ∧ Transferred s u t c ctx ws [] := by
  obtain ⟨u, hu, hl⟩ := hwork
  exact ⟨_, hexec.trans ((h.accRow hop).trans (congrArg _ hu)), hl.transferred h⟩

/-- The writes of a COPY to tier memory. -/
def tierWrites (s : State) (t : Path) (d : AccCmd) : List (Nat × Bytes) :=
  (List.range d.rows).map fun r => (d.taddr + r * d.tstr, storeBytes s t (d.laddr + r * d.lstr) d.rb)

theorem cells_tierWrites (s : State) (t : Path) (c : Command) (ctx : BitVec 12) (d : AccCmd) :
    (tierWrites s t d).flatMap (fun w => cellsAt s ctx w.1 w.2) = rowCells (s.launchCmd (s.lead t) c) ctx (s.lead t) d := by
  rw [tierWrites, List.flatMap_map, rowCells]
  refine List.flatMap_congr fun r _ => ?_
  simp only [storeBytes, State.peekLS_map, s.launchCmd_lsByte, cellsAt, s.launchCmd_physAt]

/-- A store's work, finished, is the transfer of its rows; without check values their blocks have none. -/
theorem Stores.transferred {s u : State} {t : Path} {p : Nat} {c : Command} {ctx : BitVec 12} {checked : Bool} (h : Accesses s t 4 c p ctx)
    (hst : Stores (s.lead t) checked (rowCells (s.launchCmd (s.lead t) c) ctx (s.lead t) (accCmd c)) (s.launchCmd (s.lead t) c) u) :
    Transferred s (u.finish (s.lead t) c) t c ctx [] (tierWrites s t (accCmd c)) ∧
    (checked = false → ∀ r i, r < (accCmd c).rows → i < (accCmd c).rb →
      ((u.finish (s.lead t) c).block (physAt s ctx ((accCmd c).taddr + r * (accCmd c).tstr + i))).check = none) := by
  have hbody := h.bodyOk
  obtain ⟨hwaits, -⟩ := h
  have hcells := cells_tierWrites s t c ctx (accCmd c)
  refine ⟨⟨fun b hb => ⟨fun _ => ?_, fun w hw => absurd hw (by simp)⟩, wroteTier_of_cells fun a => ?_,
    hst.work.transferFrame hwaits fun hnone => ?_⟩, fun hchecked r i hr hi => ?_⟩
  · have hls : ∀ q, ((u.finish (s.lead t) c).tile q).ls = (s.tile q).ls := fun q => by
      rw [← s.launchCmd_ls (s.lead t) c q, ← hst.stores q]
      by_cases hq : q = s.lead t
      · rw [hq, State.finish, State.tile_modTile_same]
        rfl
      · rw [State.finish, State.tile_modTile_other _ _ hq]
    simp only [State.lsByte, hls]
  · rw [hcells, ← s.launchCmd_mem (s.lead t) c]
    exact hst.put a
  · have hrows : (tierWrites s t (accCmd c)).length = (accCmd c).rows := by simp [tierWrites]
    have hempty : tierWrites s t (accCmd c) = [] := by simpa using hnone
    rw [hempty] at hrows
    exact absurd hrows hbody.rows.ne
  · refine hst.unchecks hchecked _ (.inr ?_)
    rw [← hcells]
    refine ⟨(physAt s ctx ((accCmd c).taddr + r * (accCmd c).tstr + i), _),
      List.mem_flatMap.2 ⟨_, List.mem_map.2 ⟨r, List.mem_range.2 hr, rfl⟩, List.mem_map.2 ⟨i, List.mem_range.2 ?_, rfl⟩⟩, rfl⟩
    simpa [storeBytes] using hi

theorem State.storing_clean {work : State → AccCtx → State} {s : State} {a : AccCtx} (h : ∀ i, (s.tile (memberAt a.l i)).lsErr = []) :
    State.storing work s a = work s a := by
  rw [State.storing, checkLS_clean s a.l h]

theorem accCmd_esz_lt (c : Command) : (accCmd c).esz < 4 := Nat.mod_lt _ (by decide)

section
variable {s : State} {t : Path} {c : Command} {p : Nat} {ctx : BitVec 12}

/-! ### Each transfer (R174, R176, R178, R181) -/

theorem exec_copyLoad (s : State) (t : Path) : exec (.copyLoad t) s =
    s.accRow t 3 (fun op => op = 0 || 5 < op) fun s a => if a.d.chk then s.copyLoadChk a else s.copyLoad a := rfl

theorem exec_transpose (s : State) (t : Path) : exec (.transpose t) s = s.accRow t 3 (fun op => op = 2) State.transpose := rfl

theorem exec_gather (s : State) (t : Path) : exec (.gather t) s = s.accRow t 3 (fun op => op = 3) State.gather := rfl

theorem exec_prefetch (s : State) (t : Path) : exec (.prefetch t) s = s.accRow t 3 (fun op => op = 4) State.prefetchRows := rfl

theorem exec_copyStore (s : State) (t : Path) : exec (.copyStore t) s =
    s.accRow t 4 (fun op => op ≠ 1) (State.storing fun s a => if a.d.chk then s.copyStoreChk a else s.copyStore a) := rfl

theorem Accesses.copyLoad (h : Accesses s t 3 c p ctx) (hop : (accCmd c).op = 0) (hread : rowsReadable s ctx (accCmd c))
    (hgood : (accCmd c).chk = true → ∀ i, i < (accCmd c).rows * (accCmd c).rb / 4096 →
      s.verify (physAt s ctx ((accCmd c).taddr + 4096 * i)) = .good) :
    ∃ u, exec (.copyLoad t) s = .next u ∧ Transferred s u t c ctx (rowWrites (accCmd c) (tierRow s ctx (accCmd c))) [] := by
  have hrows : (accCmd c).lsRows 3 = rowRanges (accCmd c).laddr (accCmd c).rows (accCmd c).lstr (accCmd c).rb := by
    simp [AccCmd.lsRows, hop]
  have hread' : rowsReadable (s.launchCmd (s.lead t) c) ctx (accCmd c) := fun r hr => (s.launchCmd_permits ..).2 (hread r hr)
  have hsame : tierRow (s.launchCmd (s.lead t) c) ctx (accCmd c) = tierRow s ctx (accCmd c) := funext fun r => s.launchCmd_tierRow ..
  refine h.load (exec_copyLoad s t) (by rw [hop]; rfl) ?_
  rw [← hsame]
  by_cases hchk : (accCmd c).chk = true
  · have hgood' : ∀ i, i < (accCmd c).rows * (accCmd c).rb / 4096 → (s.launchCmd (s.lead t) c).verify
        (physAt (s.launchCmd (s.lead t) c) ctx ((accCmd c).taddr + 4096 * i)) = .good := fun i hi => by
      have hmem := s.launchCmd_mem (s.lead t) c
      have htier : SameTier s (s.launchCmd (s.lead t) c) := ⟨by rw [hmem], by rw [hmem], by rw [hmem]⟩
      rw [htier.verify, s.launchCmd_physAt]
      exact hgood hchk i hi
    obtain ⟨u, hu, hl⟩ := h.engines.copyLoadChk (a := accCtx s t c p ctx) h.bodyOk hop hchk hrows hread' hgood'
    exact ⟨u, (if_pos hchk).trans hu, hl⟩
  · obtain ⟨u, hu, hl⟩ := h.engines.copyLoad (a := accCtx s t c p ctx) h.bodyOk hrows hread'
    exact ⟨u, (if_neg hchk).trans hu, hl⟩

theorem Accesses.gather (h : Accesses s t 3 c p ctx) (hop : (accCmd c).op = 3)
    (hperm : ∀ r, r < (accCmd c).rows → gatherIndex s t (accCmd c) r ≠ 0xFFFFFFFF →
      permits s ctx false ((accCmd c).taddr + gatherIndex s t (accCmd c) r * (accCmd c).tstr) (accCmd c).rb) :
    ∃ u, exec (.gather t) s = .next u ∧
      Transferred s u t c ctx (rowWrites (accCmd c) (gathered s (s.lead t) ctx (accCmd c))) [] := by
  have hrows : (accCmd c).lsRows 3 = rowRanges (accCmd c).laddr (accCmd c).rows (accCmd c).lstr (accCmd c).rb := by
    simp [AccCmd.lsRows, hop]
  have hx : (accCmd c).xRegion 3 = [((accCmd c).xaddr, 4 * (accCmd c).rows)] := by simp [AccCmd.xRegion, hop]
  have hsame : gathered (s.launchCmd (s.lead t) c) (s.lead t) ctx (accCmd c) = gathered s (s.lead t) ctx (accCmd c) := funext fun r => by
    simp only [gathered, s.launchCmd_rowIndex, s.launchCmd_tierRow]
  refine h.load (exec_gather s t) (by rw [hop]; rfl) ?_
  rw [← hsame]
  refine h.engines.gather (a := accCtx s t c p ctx) h.bodyOk hrows hx fun r hr hsome => ?_
  have hidx : rowIndex (s.launchCmd (s.lead t) c) (s.lead t) (accCmd c) r = gatherIndex s t (accCmd c) r := s.launchCmd_rowIndex ..
  change rowIndex (s.launchCmd (s.lead t) c) (s.lead t) (accCmd c) r ≠ 0xFFFFFFFF at hsome
  change permits (s.launchCmd (s.lead t) c) ctx false
    ((accCmd c).taddr + rowIndex (s.launchCmd (s.lead t) c) (s.lead t) (accCmd c) r * (accCmd c).tstr) (accCmd c).rb
  rw [hidx] at hsome ⊢
  exact (s.launchCmd_permits ..).2 (hperm r hr hsome)

theorem Accesses.transpose (h : Accesses s t 3 c p ctx) (hop : (accCmd c).op = 2) (hread : rowsReadable s ctx (accCmd c)) :
    ∃ u, exec (.transpose t) s = .next u ∧ Transferred s u t c ctx (elementWrites (accCmd c) (tierRow s ctx (accCmd c))) [] := by
  have hrows : (accCmd c).lsRows 3 =
      rowRanges (accCmd c).laddr ((accCmd c).rb / (accCmd c).size) (accCmd c).lstr ((accCmd c).rows * (accCmd c).size) := by
    simp [AccCmd.lsRows, hop]
  have hesz : (accCmd c).esz < 3 := by
    have hlt := accCmd_esz_lt c
    have hne : (accCmd c).esz ≠ 3 := by
      have hbad := h.bodyOk.op
      simp only [AccCmd.opBad, if_true, hop, Bool.or_eq_false_iff, decide_eq_false_iff_not] at hbad
      obtain ⟨⟨⟨-, hesz⟩, -⟩, -⟩ := hbad
      exact hesz
    omega
  have hread' : rowsReadable (s.launchCmd (s.lead t) c) ctx (accCmd c) := fun r hr => (s.launchCmd_permits ..).2 (hread r hr)
  have hsame : tierRow (s.launchCmd (s.lead t) c) ctx (accCmd c) = tierRow s ctx (accCmd c) := funext fun r => s.launchCmd_tierRow ..
  refine h.load (exec_transpose s t) (by rw [hop]; rfl) ?_
  rw [← hsame]
  exact h.engines.transpose (a := accCtx s t c p ctx) h.bodyOk hesz hrows hread'

theorem Accesses.prefetch (h : Accesses s t 3 c p ctx) (hop : (accCmd c).op = 4) :
    ∃ u, exec (.prefetch t) s = .next u ∧ Transferred s u t c ctx [] [] :=
  h.load (exec_prefetch s t) (by rw [hop]; rfl) ⟨_, rfl, (h.engines.looks_prefetchRows (a := accCtx s t c p ctx)).loads⟩

theorem Accesses.copyStore (h : Accesses s t 4 c p ctx) (hop : (accCmd c).op = 0)
    (hperm : ∀ r, r < (accCmd c).rows → permits s ctx true ((accCmd c).taddr + r * (accCmd c).tstr) (accCmd c).rb) :
    ∃ u, exec (.copyStore t) s = .next u ∧ Transferred s u t c ctx [] (tierWrites s t (accCmd c)) ∧
      ((accCmd c).chk = false → ∀ r i, r < (accCmd c).rows → i < (accCmd c).rb →
        (u.block (physAt s ctx ((accCmd c).taddr + r * (accCmd c).tstr + i))).check = none) := by
  have hperm' : ∀ r, r < (accCmd c).rows →
      permits (s.launchCmd (s.lead t) c) ctx true ((accCmd c).taddr + r * (accCmd c).tstr) (accCmd c).rb :=
    fun r hr => (s.launchCmd_permits ..).2 (hperm r hr)
  have hexec : exec (.copyStore t) s = .next ((fun s a => if a.d.chk then s.copyStoreChk a else s.copyStore a)
      (s.launchCmd (s.lead t) c) (accCtx s t c p ctx)) :=
    (exec_copyStore s t).trans ((h.accRow (by rw [hop]; rfl)).trans (congrArg _ (State.storing_clean h.engines.clean)))
  by_cases hchk : (accCmd c).chk = true
  · obtain ⟨u, hu, hst⟩ := h.engines.copyStoreChk (a := accCtx s t c p ctx) h.bodyOk hop hchk hperm'
    obtain ⟨hdone, -⟩ := hst.transferred h
    exact ⟨_, hexec.trans (congrArg _ ((if_pos hchk).trans hu)), hdone, fun hno => absurd (hchk.symm.trans hno) (by decide)⟩
  · obtain ⟨u, hu, hst⟩ := h.engines.copyStore (a := accCtx s t c p ctx) hperm'
    obtain ⟨hdone, hnone⟩ := hst.transferred h
    exact ⟨_, hexec.trans (congrArg _ ((if_neg hchk).trans hu)), hdone, fun _ => hnone rfl⟩

end

/-- Settles O25: a transfer's lines are translated as their pages map them, its rows are read or written line by line, and the launch
and the end of the command leave the rest. -/
theorem transfersMoveRows : Obligations.TransfersMoveRows := by
  unfold Obligations.TransfersMoveRows
  exact ⟨fun s t c p ctx h => ⟨fun hop hread hgood => h.copyLoad hop hread hgood, fun hop hperm => h.gather hop hperm,
      fun hop hread => h.transpose hop hread, fun hop => h.prefetch hop⟩,
    fun s t c p ctx h hop hperm => h.copyStore hop hperm⟩

end Sys2Proof.Machine
end
